-- ==== Sys2Proof/Word.lean ====
section
/-! DEFINITION. The word types of the E9 and their plainest arithmetic (R9: bit 0 is the least significant bit;
multi-byte fields are little-endian). -/

namespace Sys2Proof

/-- One byte. -/
abbrev Byte := BitVec 8
/-- A 64-bit word: a scalar register, an instruction word, a store or tier word. -/
abbrev W64 := BitVec 64
/-- A 32-bit word: an FP32 value or a u32. -/
abbrev W32 := BitVec 32
/-- A 16-bit word: a BF16 value or a u16. -/
abbrev W16 := BitVec 16
/-- A tile ID within a module: die [10], y [9:5], x [4:0] (R5). -/
abbrev TileId := BitVec 11
/-- A scalar register number, s0 to s31 (R36). -/
abbrev Reg := BitVec 5
/-- A handle index, 0 to 63 (R59). -/
abbrev Hdl := BitVec 6
/-- A P-store slot, 0 to 7 (R41). -/
abbrev Slot := BitVec 3
/-- A global tile address: module [14:11], tile ID [10:0] (R6). -/
abbrev Gta := BitVec 15
/-- A 48-bit device physical address (R7). -/
abbrev DevAddr := BitVec 48

/-- Bits [hi:lo] of a number, as a number. -/
def bitsOf (w hi lo : Nat) : Nat := (w >>> lo) % 2 ^ (hi + 1 - lo)

/-- The `n` bytes of a number, least significant first (R9). -/
def toBytes : Nat → Nat → List Byte
  | 0, _ => []
  | n + 1, v => BitVec.ofNat 8 v :: toBytes n (v / 256)

/-- The number that little-endian bytes spell (R9). -/
def ofBytes : List Byte → Nat
  | [] => 0
  | b :: bs => b.toNat + 256 * ofBytes bs

end Sys2Proof
end

