-- ==== Sys2Proof/Config.lean ====
section
/-! DEFINITION. What one device fixes and the spec does not give, and the free values: opaque constants with no body,
so that no proof can see what they are. -/

namespace Sys2Proof.Config

/-- The 256-bit unique device secret, fused at manufacture, that no register or message can read (R400). -/
opaque deviceSecret : BitVec 256
/-- Module serial number, DEV_SERIAL (R434). -/
opaque serial : W64
/-- The stepping that DEV_ID reports: true for B0 (0xB0), false for A1 (0xA1) (R35, R434). -/
opaque stepB0 : Bool
/-- FREE VALUE: the tally steps a tile makes in tick `n` of 10 ns (R11, R12: a step has no fixed length in seconds). -/
opaque tallySteps : Nat → Nat → Nat
/-- FREE VALUE: of the tally steps that a tile makes in tick `n`, those in which a store request is denied a bank for one step
(R53: which requests meet at a bank follows from the self-timed engines). -/
opaque bankDenied : Nat → Nat → Nat
/-- FREE VALUE: the EPOCH that Opver port `p` chooses at power-up number `n` of its module (R347). -/
opaque portEpoch : Nat → Nat → W32
/-- FREE VALUE: a fresh 64-bit value, by the model's counter of free values: SPDM nonces, signatures over the
transcript, key-exchange data (R403, R404 give the algorithms, not the transcript). -/
opaque freeWord : Nat → W64
/-- The eight check bits of the H72 code of a 64-bit word (R3): the spec names the Hsiao code and not its matrix. -/
opaque h72 : W64 → Byte
/-- The X.509 certificate chain of slot 0, DER bytes (R400). -/
opaque certChain : List Byte
/-- FREE VALUE: a placement the spec leaves open, by the model's counter (the number a rotation starts from, R159). -/
opaque freeNat : Nat → Nat
/-- FREE VALUE: entry `i` of the order list of Opver port `p` in CHAIN superstep `n` (R360: the image format gives the
list no place); `none` past its end. -/
opaque portOrder : Nat → Nat → Nat → Option Byte
/-- FREE VALUE: the eight check symbols of an RS(136,128) codeword: the spec names the code and not its polynomials (R341). -/
opaque rsCheck : List Byte → List Byte
/-- FREE VALUE: RSET of chain module `m` in the step that CHAIN superstep `n` closes: it stands in a TCB of that module, and no frame
takes it to a member other than module 0 (R277, R346). -/
opaque peerSet : Nat → Nat → Nat

end Sys2Proof.Config
end

