-- ==== Sys2Proof/Syntax.lean ====
section
/-! DEFINITION. The commands of the block: one constructor of `Instr` for each row of spec/opcode_table.json, with the
row's operands, and the small types those operands use. -/

namespace Sys2Proof

/-- What the H72 check of the instruction word found as the word was read for issue (R94). -/
inductive Ecc where
  /-- No error. -/
  | ok
  /-- A single-bit error, corrected; the syndrome. -/
  | ce (syn : Byte)
  /-- An uncorrectable error; the syndrome. -/
  | ue (syn : Byte)
deriving DecidableEq, Repr

/-- The three stores of a tile (R50). -/
inductive StoreSel where
  | w | a | p
deriving DecidableEq, Repr

/-- An H72 finding on one word of a store row that a command reads (R25, R58). -/
structure StoreErr where
  store : StoreSel
  row : Nat
  word : Nat
  ecc : Ecc
deriving DecidableEq, Repr

/-- An H72 finding on one 64-bit word of a tier, by its device address (R216, R217). -/
structure MemErr where
  addr : Nat
  ecc : Ecc
deriving DecidableEq, Repr

/-- An H72 finding of a router on one word of a flit (R162). -/
inductive FlitErr where
  /-- A single-bit error, corrected: payload word 0 to 7, or 8 for the header. -/
  | corrected (word : Nat)
  /-- An uncorrectable error in payload word `w`. -/
  | payload (w : Nat)
  /-- An uncorrectable error in the header; the syndrome. -/
  | header (syn : Byte)
deriving DecidableEq, Repr
/-- The word of a flit that a finding is on: 8 is the header. -/
def FlitErr.word : FlitErr → Nat
  | .corrected w => w
  | .payload w => w
  | .header _ => 8

/-- A side of a router: its four neighbours' links, its tile, and its edge ports (R150, R151, R165). -/
inductive Side where
  | north | east | south | west | loc | edgeN | edgeS | edgeW | bridge
deriving DecidableEq, Repr

/-- An HDM decoder: host addresses `base` to `base + size - 1` reach tier H at the same offset from `tbase` (R309). -/
structure Hdm where
  base : Nat
  tbase : Nat
  size : Nat
deriving DecidableEq, Repr

/-- An entry of the MSI-X table: address, data and mask bit (R306). -/
structure Msix where
  addr : W64
  data : W32
  masked : Bool
deriving DecidableEq, Repr

/-- What the fabric manager and the host give the device when the link is set up: its PBR identifier, its HDM decoders and the MSI-X table
of its 65 vectors, in order (R306, R308, R309). -/
structure LinkCfg where
  pbr : BitVec 12
  hdm : List Hdm
  msix : List Msix
deriving DecidableEq, Repr
/-- No decoder, and no vector masked. -/
def LinkCfg.none : LinkCfg := ⟨0, [], []⟩

/-- Barrier scopes (R15). -/
inductive Scope where
  | die | module | chain
deriving DecidableEq, Repr

/-- A memory slice: die, edge (false north, true south) and column (R202). -/
structure SliceId where
  die : Bool
  south : Bool
  col : BitVec 5
deriving DecidableEq, Repr

/-- The set-up blocks of BAR0 (R423, R424), with DEV, GAL, OPV and ERR beside them. -/
inductive Blk where
  | dev | hst | kep | pwr | trh | trg | trc | gal | bel | opv | lan | sch | err
deriving DecidableEq, Repr

/-- Fields of a matrix instruction word (R99). TYPE is the mnemonic's. -/
structure MmaF where
  ha : Hdl
  hw : Hdl
  kd : BitVec 6
  dslot : Slot
  finish : Bool
  init : Bool
  islot : Slot
  fmta : BitVec 2
  fmtw : BitVec 2
  bsk : Bool
  rte : Bool
  sx : Reg
  sm : Reg
deriving DecidableEq, Repr

/-- Fields of a VCH word (R117). -/
structure VchF where
  caddr : BitVec 13
  nst : BitVec 3
  rel : Bool
  sn : Reg
  sb0 : Reg
  sb1 : Reg
  sb2 : Reg
  sb3 : Reg
  sc : Reg
  rdt : Bool
  wb : Bool
deriving DecidableEq, Repr

/-- Fields of an RDX word but OP (R132). -/
structure RdxF where
  tos : Bool
  rd : Reg
  toh : Bool
  h : Hdl
  so : Reg
deriving DecidableEq, Repr

/-- Fields of a STR word but DIR (R220). -/
structure StrF where
  h : Hdl
  sa : Reg
  sd : Reg
  pol : BitVec 2
  p6 : Bool
deriving DecidableEq, Repr

/-- Fields of an RNG word of BITS, UNI or MASK (R146). -/
structure RngF where
  sel : BitVec 2
  h : Hdl
  so : Reg
  st : Reg
  sc : Reg
  sn : Reg
  rv : Reg
  fmt : Bool
deriving DecidableEq, Repr

/-- Fields of a SIG PUT or PUTH word (R176). -/
structure PutF where
  rt : Reg
  obj : BitVec 8
  inc : W16
  sh : Hdl
  dh : Hdl
  so : Reg
deriving DecidableEq, Repr

/-- Fields of a WAIT word (R177). -/
structure WaitF where
  obj : BitVec 8
  rv : Reg
  imm : W16
  rd : Reg
deriving DecidableEq, Repr

/-- Fields of a MSG SEND or ASEND word (R188). -/
structure SendF where
  rt : Reg
  q : BitVec 2
  hx : BitVec 4
  len : BitVec 2
  h : Hdl
  so : Reg
deriving DecidableEq, Repr

/-- Fields of a MSG CADD word (R188). -/
structure CaddF where
  rt : Reg
  slot : BitVec 2
  opk : BitVec 2
  h : Hdl
  so : Reg
deriving DecidableEq, Repr

/-- How the start of a Lantern output ended (R372). -/
inductive StartResult where
  | ok | noSink | sinkCaps | trainFail
deriving DecidableEq, Repr

/-- The answer on the AUX channel (R446). -/
inductive AuxAnswer where
  | ack | nack | defer
deriving DecidableEq, Repr

/-- One command of the block. -/
inductive Instr where
  /-- ADD (R96): Tile core writes the 64-bit sum of two scalar registers to RD. -/
  | add (t : TileId) (ecc : Ecc) (rd ra rb : Reg)
  /-- SUB (R96): Tile core writes the 64-bit difference of two scalar registers to RD. -/
  | sub (t : TileId) (ecc : Ecc) (rd ra rb : Reg)
  /-- AND (R96): Tile core writes the bitwise AND of two registers to RD. -/
  | andR (t : TileId) (ecc : Ecc) (rd ra rb : Reg)
  /-- OR (R96): Tile core writes the bitwise OR of two registers to RD. -/
  | orR (t : TileId) (ecc : Ecc) (rd ra rb : Reg)
  /-- XOR (R96): Tile core writes the bitwise XOR of two registers to RD. -/
  | xorR (t : TileId) (ecc : Ecc) (rd ra rb : Reg)
  /-- SLL (R96): Tile core shifts a register left by rb[5:0]. -/
  | sll (t : TileId) (ecc : Ecc) (rd ra rb : Reg)
  /-- SRL (R96): Tile core shifts a register right logically by rb[5:0]. -/
  | srl (t : TileId) (ecc : Ecc) (rd ra rb : Reg)
  /-- SRA (R96): Tile core shifts a register right arithmetically by rb[5:0]. -/
  | sra (t : TileId) (ecc : Ecc) (rd ra rb : Reg)
  /-- SLT (R96): Tile core writes 1 to RD if ra is below rb signed, else 0. -/
  | slt (t : TileId) (ecc : Ecc) (rd ra rb : Reg)
  /-- SLTU (R96): Tile core writes 1 to RD if ra is below rb unsigned, else 0. -/
  | sltu (t : TileId) (ecc : Ecc) (rd ra rb : Reg)
  /-- MUL (R96): Tile core writes the low 64 bits of the product, result after 3 steps. -/
  | mul (t : TileId) (ecc : Ecc) (rd ra rb : Reg)
  /-- MULHU (R96): Tile core writes the high 64 bits of the unsigned product. -/
  | mulhu (t : TileId) (ecc : Ecc) (rd ra rb : Reg)
  /-- MIN (R96): Tile core writes the signed minimum of two registers. -/
  | minR (t : TileId) (ecc : Ecc) (rd ra rb : Reg)
  /-- MAX (R96): Tile core writes the signed maximum of two registers. -/
  | maxR (t : TileId) (ecc : Ecc) (rd ra rb : Reg)
  /-- POPC (R96): Tile core writes the number of one bits in ra. -/
  | popc (t : TileId) (ecc : Ecc) (rd ra : Reg)
  /-- CTZ (R96): Tile core writes the number of trailing zero bits in ra, 64 for zero. -/
  | ctz (t : TileId) (ecc : Ecc) (rd ra : Reg)
  /-- ADDI (R96): Tile core adds a sign-extended immediate to ra. -/
  | addi (t : TileId) (ecc : Ecc) (rd ra : Reg) (imm : BitVec 42)
  /-- ANDI (R96): Tile core ANDs ra with a sign-extended immediate. -/
  | andi (t : TileId) (ecc : Ecc) (rd ra : Reg) (imm : BitVec 42)
  /-- ORI (R96): Tile core ORs ra with a sign-extended immediate. -/
  | ori (t : TileId) (ecc : Ecc) (rd ra : Reg) (imm : BitVec 42)
  /-- XORI (R96): Tile core XORs ra with a sign-extended immediate. -/
  | xori (t : TileId) (ecc : Ecc) (rd ra : Reg) (imm : BitVec 42)
  /-- SLLI (R96): Tile core shifts ra left by imm[5:0]. -/
  | slli (t : TileId) (ecc : Ecc) (rd ra : Reg) (sh : BitVec 6)
  /-- SRLI (R96): Tile core shifts ra right logically by imm[5:0]. -/
  | srli (t : TileId) (ecc : Ecc) (rd ra : Reg) (sh : BitVec 6)
  /-- SRAI (R96): Tile core shifts ra right arithmetically by imm[5:0]. -/
  | srai (t : TileId) (ecc : Ecc) (rd ra : Reg) (sh : BitVec 6)
  /-- SLTI (R96): Tile core compares ra with a sign-extended immediate, signed. -/
  | slti (t : TileId) (ecc : Ecc) (rd ra : Reg) (imm : BitVec 42)
  /-- SLTIU (R96): Tile core compares ra with a sign-extended immediate, unsigned. -/
  | sltiu (t : TileId) (ecc : Ecc) (rd ra : Reg) (imm : BitVec 42)
  /-- LI (R96): Tile core loads a sign-extended 42-bit immediate into RD. -/
  | li (t : TileId) (ecc : Ecc) (rd : Reg) (imm : BitVec 42)
  /-- LIH (R96): Tile core places imm[21:0] above bits [41:0] of ra. -/
  | lih (t : TileId) (ecc : Ecc) (rd ra : Reg) (imm : BitVec 22)
  /-- EXT (R96): Tile core extracts a bit field of ra into RD. -/
  | ext (t : TileId) (ecc : Ecc) (rd ra : Reg) (lo len : BitVec 6)
  /-- BEQ (R97): Tile core branches by OFF when ra equals rb. -/
  | beq (t : TileId) (ecc : Ecc) (ra rb : Reg) (off : W16)
  /-- BNE (R97): Tile core branches by OFF when ra differs from rb. -/
  | bne (t : TileId) (ecc : Ecc) (ra rb : Reg) (off : W16)
  /-- BLT (R97): Tile core branches when ra is below rb, signed. -/
  | blt (t : TileId) (ecc : Ecc) (ra rb : Reg) (off : W16)
  /-- BGE (R97): Tile core branches when ra is at least rb, signed. -/
  | bge (t : TileId) (ecc : Ecc) (ra rb : Reg) (off : W16)
  /-- BLTU (R97): Tile core branches when ra is below rb, unsigned. -/
  | bltu (t : TileId) (ecc : Ecc) (ra rb : Reg) (off : W16)
  /-- BGEU (R97): Tile core branches when ra is at least rb, unsigned. -/
  | bgeu (t : TileId) (ecc : Ecc) (ra rb : Reg) (off : W16)
  /-- J (R97): Tile core jumps by OFF unconditionally. -/
  | j (t : TileId) (ecc : Ecc) (off : W16)
  /-- DBNZ (R96): Tile core decrements ra and branches when the result is nonzero. -/
  | dbnz (t : TileId) (ecc : Ecc) (ra : Reg) (off : W16)
  /-- NOP (R96): Tile core issues an instruction with no effect. -/
  | nop (t : TileId) (ecc : Ecc)
  /-- END (R98): Tile core closes the superstep's compute code and issues nothing until release. -/
  | endC (t : TileId) (ecc : Ecc)
  /-- HSET (R61): Tile core writes a checked handle-table entry, held while its landing or expected-item count is nonzero. -/
  | hset (t : TileId) (ecc : Ecc) (ra : Reg) (h : Hdl)
  /-- HGET (R96): Tile core reads a handle-table entry into RD. -/
  | hget (t : TileId) (ecc : Ecc) (rd : Reg) (h : Hdl)
  /-- RDTALLY (R96): Tile core reads the tile's step tally into RD. -/
  | rdtally (t : TileId) (ecc : Ecc) (rd : Reg)
  /-- RDID (R96): Tile core reads the tile's global tile address into RD. -/
  | rdid (t : TileId) (ecc : Ecc) (rd : Reg)
  /-- RDSS (R96): Tile core reads the count of barrier releases received into RD. -/
  | rdss (t : TileId) (ecc : Ecc) (rd : Reg)
  /-- MMA_F4 (R104): MXE accumulates an FP4 block product over K into an accumulator and drains it to a slot. -/
  | mmaF4 (t : TileId) (ecc : Ecc) (f : MmaF)
  /-- MMA_F8 (R104): MXE accumulates an FP6 or FP8 block product and drains it to a slot. -/
  | mmaF8 (t : TileId) (ecc : Ecc) (f : MmaF)
  /-- MMA_B16 (R104): MXE accumulates a BF16 block product and drains it to a slot. -/
  | mmaB16 (t : TileId) (ecc : Ecc) (f : MmaF)
  /-- MMS_F4 (R104): MXE accumulates a 2:4-sparse FP4 block product and drains it to a slot. -/
  | mmsF4 (t : TileId) (ecc : Ecc) (f : MmaF)
  /-- TOKEN_GRANT (R66): The die distributor grants a heavy-unit token to a waiting MXE request. -/
  | tokenGrant (die : Bool)
  /-- TOKEN_IDLE_RELEASE (R67): A tile releases its token after 32 idle MXE steps. -/
  | tokenIdleRelease (t : TileId)
  /-- MXE_OPERATION_START (R113): An MXE operation begins array work once the array, queue entry and accumulator are ready. -/
  | mxeOperationStart (t : TileId) (errs : List StoreErr)
  /-- INITIAL_LOAD_COMPLETE (R113): An accumulator finishes loading its initial block from the P-store. -/
  | initialLoadComplete (t : TileId) (errs : List StoreErr)
  /-- DRAIN_COMPLETE (R108): An accumulator finishes draining its block to its slot, pushing an FTQ entry under FINISH. -/
  | drainComplete (t : TileId)
  /-- VCH (R117): VXE applies a chain of up to eight stages to NR rows of VLEN elements. -/
  | vch (t : TileId) (ecc : Ecc) (f : VchF)
  /-- FTQ_RELEASE (R131): The FTQ head entry is freed once the releasing VCH has performed its last access to the slot. -/
  | ftqRelease (t : TileId)
  /-- VLEN (R116): VXE sets its VLEN register from a register plus an immediate. -/
  | vlen (t : TileId) (ecc : Ecc) (ra : Reg) (imm : W16)
  /-- RDX_SUM (R134): RDU sums each row of its paired VCH output in tree order. -/
  | rdxSum (t : TileId) (ecc : Ecc) (f : RdxF)
  /-- RDX_SSQ (R134): RDU sums the squares of each row of its paired VCH output. -/
  | rdxSsq (t : TileId) (ecc : Ecc) (f : RdxF)
  /-- RDX_MAX (R134): RDU takes the maximum of each row of its paired VCH output. -/
  | rdxMax (t : TileId) (ecc : Ecc) (f : RdxF)
  /-- RDX_AMAX (R134): RDU takes the index of the maximum of each row. -/
  | rdxAmax (t : TileId) (ecc : Ecc) (f : RdxF)
  /-- RDU_RESULT_WRITE (R135): RDU writes a row result to the handle or scalar register 6 steps after its last lane value. -/
  | rduResultWrite (t : TileId) (errs : List StoreErr)
  /-- STR_GET (R220): Stream unit moves tier lines into a store buffer under a descriptor. -/
  | strGet (t : TileId) (ecc : Ecc) (f : StrF)
  /-- STR_PUT (R220): Stream unit moves store rows to tier lines under a descriptor. -/
  | strPut (t : TileId) (ecc : Ecc) (f : StrF)
  /-- LOOKAHEAD_PASS (R46): The look-ahead pointer passes a STR.GET and forms its line requests. -/
  | lookaheadPass (t : TileId)
  /-- LINE_LANDING (R48): A returned line is written into the store and lowers the handle's landing count. -/
  | lineLanding (t : TileId)
  /-- PUT_ROW_TAKE (R49): Stream unit takes a source row into the line buffer and sends a completed line. -/
  | putRowTake (t : TileId) (errs : List StoreErr)
  /-- PUT_LINE_ACCEPTED (R225): A write acceptance for a STR.PUT line arrives at the tile. -/
  | putLineAccepted (t : TileId)
  /-- STORE_POISON_WRITEBACK (R58): A store writes an uncorrectable word back as stored poison when its bank is idle. -/
  | storePoisonWriteback (t : TileId)
  /-- RNG_BITS (R147): Generators write raw random words into a buffer. -/
  | rngBits (t : TileId) (ecc : Ecc) (f : RngF)
  /-- RNG_UNI (R147): Generators write uniform values in [0, 1) into a buffer. -/
  | rngUni (t : TileId) (ecc : Ecc) (f : RngF)
  /-- RNG_MASK (R147): Generators write keep values or zeros into a buffer by threshold. -/
  | rngMask (t : TileId) (ecc : Ecc) (f : RngF)
  /-- SEEDSET (R142): A seed register is set from a scalar register for later instructions. -/
  | seedset (t : TileId) (ecc : Ecc) (sel : BitVec 2) (rv : Reg)
  /-- SEEDGET (R147): A seed register is read into a scalar register. -/
  | seedget (t : TileId) (ecc : Ecc) (sel : BitVec 2) (rv : Reg)
  /-- EXCHANGE_BEGIN (R16): A tile starts sending its send list once compute has issued and the rows to send are written. -/
  | exchangeBegin (t : TileId) (errs : List StoreErr)
  /-- FLIT_ROUTER_ARRIVAL (R154): A flit arrives at a router, is checked and corrected, and is passed to its output in its VC slot. -/
  | flitRouterArrival (r : TileId) (inp : Side) (vc : BitVec 2) (errs : List FlitErr)
  /-- SUM_GROUP_FORM (R167): A router adds the flits of a sum group in entry order once every operand is present. -/
  | sumGroupForm (r : TileId) (out : Side) (errs : List (List FlitErr))
  /-- EXCHANGE_FLIT_WRITE (R164): A receiving tile writes an inbound exchange flit and counts a completed item. -/
  | exchangeFlitWrite (t : TileId)
  /-- BARRIER_ARRIVAL (R17): A tile arrives at the barrier once compute, outbound acceptance and inbound writes are complete. -/
  | barrierArrival (t : TileId)
  /-- BARRIER_RELEASE (R18): Belfry releases every tile in the scope after the sync latency and any service hold. -/
  | barrierRelease (scope : Scope) (die : Bool)
  /-- SIG_SIGNAL (R178): Sync port sends a signal increment to an object of a receiver. -/
  | sigSignal (t : TileId) (ecc : Ecc) (rt : Reg) (obj : BitVec 8) (inc : W16)
  /-- SIG_PUT (R178): Sync port sends store rows and then a separate signal flit. -/
  | sigPut (t : TileId) (ecc : Ecc) (f : PutF) (errs : List StoreErr)
  /-- SIG_PUTH (R178): Sync port sends store rows with the signal of 1 on the last data flit. -/
  | sigPuth (t : TileId) (ecc : Ecc) (f : PutF) (errs : List StoreErr)
  /-- WAIT_CONSUME (R178): Tile holds until avail reaches n and then consumes n. -/
  | waitConsume (t : TileId) (ecc : Ecc) (f : WaitF)
  /-- WAIT_PEEK (R178): Tile holds until avail reaches n without consuming. -/
  | waitPeek (t : TileId) (ecc : Ecc) (f : WaitF)
  /-- WAIT_GE (R178): Tile holds until P reaches n in serial-number order. -/
  | waitGe (t : TileId) (ecc : Ecc) (f : WaitF)
  /-- SIGNAL_ARRIVAL (R172): A signal flit adds its increment to P of the named object. -/
  | signalArrival (t : TileId)
  /-- PUT_DATA_ARRIVAL (R180): A receiver writes an arriving put data flit, applying a PUTH signal on the last. -/
  | putDataArrival (t : TileId)
  /-- SEND (R189): Sync port reserves space at a receiver queue and sends a message. -/
  | send (t : TileId) (ecc : Ecc) (f : SendF) (errs : List StoreErr)
  /-- ASEND (R189): Sync port reserves space and sends an active message naming a handler. -/
  | asend (t : TileId) (ecc : Ecc) (f : SendF) (errs : List StoreErr)
  /-- CADD (R194): Sync port sends a one-flit contribution to a combining slot of queue 3. -/
  | cadd (t : TileId) (ecc : Ecc) (f : CaddF) (errs : List StoreErr)
  /-- RECV (R191): Tile takes the head flit of a queue into eight registers and its tag. -/
  | recv (t : TileId) (ecc : Ecc) (rt : Reg) (q : BitVec 2) (so : Reg)
  /-- POLL (R192): Tile offers a point at which a waiting active-message handler is entered. -/
  | poll (t : TileId) (ecc : Ecc)
  /-- HRET (R193): A handler discards its untaken flits and returns to the saved point. -/
  | hret (t : TileId) (ecc : Ecc)
  /-- RESERVATION_ARRIVAL (R189): A receiver answers a message reservation with GRANT, RING or BUSY. -/
  | reservationArrival (t : TileId)
  /-- RESERVATION_ANSWER (R189): A GRANT or RING answer reaches the sender, which sends the flits or writes the ring record. -/
  | reservationAnswer (t : TileId)
  /-- BUSY_RETRY (R189): A sender asks again 64 steps after a BUSY answer arrives. -/
  | busyRetry (t : TileId)
  /-- QUEUE_SPILL_START (R195): A queue that has refused every request for 1,024 steps begins to spill. -/
  | queueSpillStart (t : TileId) (q : BitVec 2)
  /-- MESSAGE_FLIT_ARRIVAL (R190): A message flit is written into its queue, raising the queue object when the message is complete. -/
  | messageFlitArrival (t : TileId)
  /-- RING_REFILL (R196): A ring record is read back into the queue as entries free, ending the spill when all are back. -/
  | ringRefill (t : TileId) (q : BitVec 2) (errs : List MemErr)
  /-- CONTRIBUTION_ARRIVAL (R194): A combining slot takes a contribution and forms the result when N have arrived. -/
  | contributionArrival (t : TileId)
  /-- COMBINED_RESULT_PLACE (R194): A waiting combined result is placed in queue 3 once an entry is free. -/
  | combinedResultPlace (t : TileId) (slot : BitVec 2)
  /-- HANDLER_ENTRY (R192): The tile core enters an active-message handler at a held WAIT or POLL. -/
  | handlerEntry (t : TileId)
  /-- MEMORY_REQUEST_ARRIVAL (R204): A home slice serves a read or write request in order, from the cache or the tier. -/
  | memoryRequestArrival (sl : SliceId) (errs : List MemErr)
  /-- TIER_READ_RESPONSE (R228): A stack read returns, is checked and corrected, and its rows are sent to the requester. -/
  | tierReadResponse (sl : SliceId) (errs : List MemErr) (lmark : Bool)
  /-- BLOCK_FETCH_COMPLETE (R214): A tier G or C block's units return, the codec decompresses it and waiting requests are served. -/
  | blockFetchComplete (sl : SliceId) (errs : List MemErr) (tagUe : Bool)
  /-- BLOCK_WRITE_DOWN_COMPLETE (R214): The units and then the tag of a compressed block are written, making it visible. -/
  | blockWriteDownComplete (sl : SliceId) (errs : List MemErr) (tagUe : Bool)
  /-- CORRECTED_WORD_WRITEBACK (R217): A home slice writes a corrected word back when the bank is next idle. -/
  | correctedWordWriteback (sl : SliceId)
  /-- POISON_WRITEBACK (R216): A home slice writes an uncorrectable location back as stored poison when the bank is idle. -/
  | poisonWriteback (sl : SliceId)
  /-- HBM_REFRESH (R206): A tier H bank is held for per-bank refresh. -/
  | hbmRefresh (stack : BitVec 3)
  /-- REFRESH_MANAGEMENT (R206): A tier H bank is held for a refresh-management operation. -/
  | refreshManagement (stack : BitVec 3)
  /-- GROTTO_REFRESH (R208): A Grotto bank is held for refresh. -/
  | grottoRefresh (stack : BitVec 4)
  /-- PATROL_SCRUB_READ (R439): Patrol scrub reads a tier H location and writes back corrected words. -/
  | patrolScrubRead (a : DevAddr) (ecc : Ecc)
  /-- UIO_COMPLETION (R312): A UIO completion for a tier C line returns to its home slice. -/
  | uioCompletion (sl : SliceId) (n : Nat) (status : Byte)
  /-- UIO_TIMEOUT (R312): A UIO request without a completion in 10 ms poisons its lines. -/
  | uioTimeout (sl : SliceId) (n : Nat)
  /-- MOVER_READ_ISSUE (R229): The tier mover issues a source read of a stream when credit covers it. -/
  | moverReadIssue (die : Bool) (src : List W64) (errs : List MemErr)
  /-- MOVER_CREDIT_RETURN (R229): Credit returns to a mover stream as destination writes are accepted or ring space is freed. -/
  | moverCreditReturn (die : Bool)
  /-- UPDATE_PACKET_ARRIVAL (R242): A Grotto engine adds the values of an inlet-line write into the open slot. -/
  | updatePacketArrival (stack : BitVec 4) (errs : List MemErr)
  /-- HEALTH_INLET_WRITE (R254): A Grotto engine accumulates a health inlet write for the current step. -/
  | healthInletWrite (stack : BitVec 4)
  /-- STACK_FLAG_REPORT (R267): A Grotto stack reports its non-finite flag 400 steps after the step's last packet. -/
  | stackFlagReport (stack : BitVec 4)
  /-- VERDICT_ARRIVAL (R245): The step's non-finite verdict reaches the Grotto engines. -/
  | verdictArrival
  /-- BLOCK_APPLY (R248): An engine applies the update rule to one block and writes its copy. -/
  | blockApply (group : BitVec 12) (blk : W32) (errs : List MemErr)
  /-- BLOCK_DISCARD (R246): An engine clears one block's slot without changing weights and writes its copy. -/
  | blockDiscard (group : BitVec 12) (blk : W32) (errs : List MemErr)
  /-- HOST_MEM_READ (R309): A host CXL.mem read of tier H is served at the line's home. -/
  | hostMemRead (hpa : W64) (own : Bool) (errs : List MemErr)
  /-- HOST_MEM_WRITE (R311): A host CXL.mem write of tier H is performed at the line's home. -/
  | hostMemWrite (hpa : W64) (data : List W64)
  /-- BACK_INVALIDATE_RESPONSE (R310): The host answers a back-invalidate snoop and the waiting device access proceeds. -/
  | backInvalidateResponse (a : DevAddr) (dirty : Bool) (data : List W64)
  /-- DOORBELL_INVALIDATION (R319): A host write to a doorbell line invalidates the device's copy and the device reads it again. -/
  | doorbellInvalidation (ctx : BitVec 6)
  /-- DOORBELL_READ_RETURN (R321): The re-read doorbell returns and the device checks and acts on SQT and CQH. -/
  | doorbellReadReturn (ctx : BitVec 6) (line : List W64)
  /-- DESCRIPTOR_FETCH (R322): The device issues a burst of up to 16 descriptor reads for a context in rotation. -/
  | descriptorFetch
  /-- DESCRIPTOR_BURST_RETURN (R322): A descriptor burst returns and SH advances. -/
  | descriptorBurstReturn (ctx : BitVec 6) (descs : List (List W64))
  /-- COMMAND_DISPATCH (R324): A command is dispatched in ring order to its unit once fences and unit queue allow. -/
  | commandDispatch (ctx : BitVec 6)
  /-- COMPLETION_RECORD_WRITE (R333): A completion record is written once its effects are visible and the ring has room. -/
  | completionRecordWrite (ctx : BitVec 6)
  /-- MODERATION_TIMER_EXPIRY (R336): The moderation time since the first unsignalled record passes and the vector is signalled. -/
  | moderationTimerExpiry (ctx : BitVec 6)
  /-- CTX_XLATE (R314): A translation or CXL.cache failure stops a context and raises the error vector. -/
  | ctxXlate (ctx : BitVec 6) (addr : W64)
  /-- HOST_LINK (R315): An IDE integrity failure raises the fault that resets the compute domain. -/
  | hostLink (stream : BitVec 2)
  /-- CONTEXT_DISABLE_COMPLETE (R317): A disabled context's last in-flight command completes and the disable ends. -/
  | contextDisableComplete (ctx : BitVec 6)
  /-- LOAD_IMAGE (R391): The loader copies, verifies, checks, binds, patches and seals an image for its client. -/
  | loadImage (ctx : BitVec 6) (src : List W64) (errs : List MemErr)
  /-- RUN_STEPS (R257): The training step sequencer starts a run of steps under a training control block. -/
  | runSteps (ctx : BitVec 6) (errs : List MemErr)
  /-- SERVE_OPEN (R283): The serving loop opens a session from a serving control block. -/
  | serveOpen (ctx : BitVec 6) (errs : List MemErr)
  /-- SERVE_CLOSE (R283): The serving loop ends every sequence and closes the session after any running batch step. -/
  | serveClose (ctx : BitVec 6)
  /-- SERVE_JOIN (R285): A join is queued for admission on a sequence slot. -/
  | serveJoin (ctx : BitVec 6)
  /-- SERVE_CONT (R285): A token is held for an active sequence, making it ready. -/
  | serveCont (ctx : BitVec 6)
  /-- SERVE_LEAVE (R288): A sequence leaves and its pages and reservation are released. -/
  | serveLeave (ctx : BitVec 6)
  /-- COPY (R234): The tier mover copies bytes between two ranges. -/
  | copy (ctx : BitVec 6)
  /-- PLACE (R231): The device places a new object, forming an eviction set if needed. -/
  | place (ctx : BitVec 6)
  /-- OBJECT_SPILL_COMPLETE (R231): An evicted object finishes moving to its spill tier or is dropped, and an EVICTED record is posted. -/
  | objectSpillComplete (obj : W16)
  /-- EVICT (R234): The device moves a named object to a tier or frees it. -/
  | evict (ctx : BitVec 6)
  /-- CHECKPOINT (R329): A checkpoint is made due at the next step end of the client's running training run. -/
  | checkpoint (ctx : BitVec 6)
  /-- FENCE (R325): Dispatch of the ring holds until every earlier command has completed. -/
  | fence (ctx : BitVec 6)
  /-- FENCE_COMPLETE (R325): The last earlier command completes and the fence completes. -/
  | fenceComplete (ctx : BitVec 6)
  /-- QUERY_DEVICE (R462): The device writes every device counter from one instant to a host buffer. -/
  | queryDevice (ctx : BitVec 6)
  /-- QUERY_TILE (R462): The device writes a tile's counters and state from one instant. -/
  | queryTile (ctx : BitVec 6)
  /-- QUERY_CLIENT (R462): The device writes a client's counters and context status. -/
  | queryClient (ctx : BitVec 6)
  /-- QUERY_OBJECT (R462): The device writes one object-table entry. -/
  | queryObject (ctx : BitVec 6)
  /-- QUERY_TIER_POOL (R462): The device writes a tier's pool state and client usage. -/
  | queryTierPool (ctx : BitVec 6)
  /-- QUERY_ERROR_LOG (R462): The device writes the error-log entries from HEAD to TAIL. -/
  | queryErrorLog (ctx : BitVec 6)
  /-- CTX_SAVE (R303): The running client's context is written at its next pre-emption point to a named object. -/
  | ctxSave (ctx : BitVec 6) (errs : List (TileId × StoreErr))
  /-- CTX_RESTORE (R399): A saved context is checked and restored, or refused with nothing changed. -/
  | ctxRestore (ctx : BitVec 6) (errs : List MemErr)
  /-- FRAME_SUBMIT (R374): A frame buffer is submitted for scan-out on a Lantern output. -/
  | frameSubmit (ctx : BitVec 6)
  /-- RUN_FIRST_STEP_START (R261): The sequencer writes the step line and lets tiles continue at SBENT once the feed is ready. -/
  | runFirstStepStart
  /-- STEP_END (R262): The sequencer ends a step after verdict, applies, health records, TCB and feed, and releases the next step. -/
  | stepEnd
  /-- FEED_ENTRY_FILLED (R263): A feed stream finishes copying a micro-batch into a ring entry. -/
  | feedEntryFilled (fill : Bool) (errs : List MemErr)
  /-- CHECKPOINT_BLOCK_READ (R271): An engine reads one block for a checkpoint or fingerprint and sends it to the neighbour. -/
  | checkpointBlockRead (group : BitVec 12) (blk : W32) (errs : List MemErr)
  /-- CHECKPOINT_COMPLETE (R274): Once every block write is accepted, the bank header is written complete with its CRC. -/
  | checkpointComplete
  /-- FINGERPRINT_COMPLETE (R276): The module's fingerprint of a step is formed from every stack. -/
  | fingerprintComplete
  /-- RECOPY (R277): A marked module receives the lowest module's state and rewrites its copies. -/
  | recopy (blocks : List (Nat × List W64))
  /-- GATHER_WINDOW_EXPIRY (R290): The gather window passes since the first ready sequence. -/
  | gatherWindowExpiry
  /-- ADMISSION_POINT (R290): The serving loop admits joins, assigns pages, selects entries, writes the batch table and starts a batch step. -/
  | admissionPoint
  /-- BATCH_STEP_END (R292): At the serve body's closing barrier the loop writes outputs, advances sequences, frees pages and posts completions. -/
  | batchStepEnd
  /-- SLICE_EXPIRY (R296): The running client's slice runs out while another client is runnable and pre-emption is requested. -/
  | sliceExpiry
  /-- PREEMPTION_POINT (R298): At a pre-emption point the device holds release, drains Belfry and Opver, and starts the save. -/
  | preemptionPoint
  /-- CONTEXT_SAVE_COMPLETE (R298): Every tile's context is written to the save area. -/
  | contextSaveComplete (errs : List (TileId × StoreErr))
  /-- CONTEXT_RESTORE_COMPLETE (R298): The next client's context is restored or its image loaded, and it runs. -/
  | contextRestoreComplete (errs : List MemErr)
  /-- PREEMPT_LATE (R299): A requested pre-emption not reached within the bound is reported once. -/
  | preemptLate
  /-- BARRIER_SLOW (R33): A barrier wait reaching the watchdog bound is reported once. -/
  | barrierSlow (scope : Scope) (die : Bool)
  /-- CDRESET_CLEAR (R458): The compute-domain reset finishes and CDRESET clears. -/
  | cdresetClear
  /-- LINK_TRAINING_COMPLETE (R347): An Opver link finishes training and sends IDENT. -/
  | linkTrainingComplete (port : Bool)
  /-- TRAINING_TIMEOUT (R347): A port not up 500 ms after strap sampling reports itself untrained. -/
  | trainingTimeout (port : Bool)
  /-- FRAME_RECEIVE (R348): A port accepts the in-order DATA or CTRL frame, or discards it and sends a NAK. -/
  | frameReceive (port : Bool) (block : List Byte) (fix : List (Nat × Byte))
  /-- NAK_RECEIVE (R348): A sender replays from the named sequence number. -/
  | nakReceive (port : Bool)
  /-- LINK_RETRAIN (R350): After eight refusals of one frame the link retrains, going down after three failed retrains. -/
  | linkRetrain (port : Bool) (ok : Bool)
  /-- LINK_TRAINING_RETRY (R350): A down link attempts training every 10 ms. -/
  | linkTrainingRetry (port : Bool)
  /-- IDENT_RECEIVE (R353): A port learns its partner's address and direction from IDENT. -/
  | identReceive (port : Bool)
  /-- HELLO_RECEIVE (R353): A module forwards a HELLO toward module 0, which records it. -/
  | helloReceive (port : Bool)
  /-- CHAIN_FORMATION (R354): Module 0 forms the chain and sends CHAIN_UP downstream. -/
  | chainFormation
  /-- CHAIN_UP_RECEIVE (R357): A member fixes its chain state, forwards CHAIN_UP and switches its token pins to the pulse. -/
  | chainUpReceive (port : Bool)
  /-- CHAIN_FORM_DEADLINE (R356): A module without an address or membership 2 s after power-good runs alone. -/
  | chainFormDeadline
  /-- TOKEN_SEND (R352): A module with an address sends its token for address + 1 on CHAIN_TKN_OUT. -/
  | tokenSend
  /-- TOKEN_RECEIVE (R352): A module takes its address from two identical well-formed tokens. -/
  | tokenReceive (cells : List Bool)
  /-- ARRIVE_RECEIVE (R362): Module 0 gathers ARRIVE frames and forms and sends RELEASE when all have arrived. -/
  | arriveReceive (port : Bool)
  /-- RELEASE_RECEIVE (R362): A module acts on the first RELEASE for a superstep and forwards it. -/
  | releaseReceive (port : Bool)
  /-- CHAIN_DOWN_RECEIVE (R365): A member receiving CHAIN_DOWN raises CHAIN_LOST. -/
  | chainDownReceive (port : Bool)
  /-- CHAIN_PULSE_RECEIVE (R363): A member repeats a chain pulse, counts it and latches its time. -/
  | chainPulseReceive
  /-- LATCH_POINT (R379): An output chooses the current buffer for the next frame and completes skipped submissions. -/
  | latchPoint (out : Bool)
  /-- FIRST_ACTIVE_PIXEL (R380): The first active pixel is sent and the current submission completes. -/
  | firstActivePixel (out : Bool)
  /-- LINE_START (R381): An output begins a line and issues the reads two lines ahead. -/
  | lineStart (out : Bool)
  /-- LINE_UNDERRUN (R383): A pixel not in the line buffer when due is sent in the fill colour and counted. -/
  | lineUnderrun (out : Bool)
  /-- OUTPUT_START_COMPLETE (R372): An output finishes reading DPCD and training, and enters RUN after a full blank. -/
  | outputStartComplete (out : Bool) (res : StartResult)
  /-- HPD_LOST (R384): Hot-plug detect falls and the output stops mid-frame. -/
  | hpdLost (out : Bool)
  /-- LINK_LOST (R372): The sink reports loss of lock by an IRQ pulse and the output stops. -/
  | linkLost (out : Bool)
  /-- AUX_NATIVE_WRITE (R446): An output runs a native AUX write for the host. -/
  | auxNativeWrite (out : Bool) (len : BitVec 4) (addr : BitVec 20)
  /-- AUX_NATIVE_READ (R446): An output runs a native AUX read for the host. -/
  | auxNativeRead (out : Bool) (len : BitVec 4) (addr : BitVec 20)
  /-- AUX_I2C_WRITE (R446): An output runs an I2C-over-AUX write. -/
  | auxI2cWrite (out : Bool) (len : BitVec 4) (addr : BitVec 20)
  /-- AUX_I2C_READ (R446): An output runs an I2C-over-AUX read. -/
  | auxI2cRead (out : Bool) (len : BitVec 4) (addr : BitVec 20)
  /-- AUX_I2C_WRITE_STOP_WITHHELD (R446): An output runs an I2C write with the stop withheld. -/
  | auxI2cWriteStopWithheld (out : Bool) (len : BitVec 4) (addr : BitVec 20)
  /-- AUX_I2C_READ_STOP_WITHHELD (R446): An output runs an I2C read with the stop withheld. -/
  | auxI2cReadStopWithheld (out : Bool) (len : BitVec 4) (addr : BitVec 20)
  /-- AUX_REPLY (R446): An AUX reply arrives and LAN_AUX status is set. -/
  | auxReply (out : Bool) (ans : AuxAnswer) (data0 data1 : W64)
  /-- AUX_TIMEOUT (R446): An AUX transaction without reply for 400 us ends with timeout. -/
  | auxTimeout (out : Bool)
  /-- VIN48_RISE (R418): VIN48 enters its range and the module begins its start-up sequence. -/
  | vin48Rise (decivolt : Nat)
  /-- STRAP_WINDOW_END (R407): The straps are latched and the pins take their run-time roles. -/
  | strapWindowEnd (straps : BitVec 4)
  /-- THROTTLE_EVALUATION (R416): Every 1 ms the device lowers or raises the throttle ceiling. -/
  | throttleEvaluation (tj0 tj1 : Int) (watts : Nat) (coolFor : Nat) (rate0 rate1 : Nat)
  /-- BLOCK_COMMIT (R428): A commit write checks generation and CRC and applies the block's shadow. -/
  | blockCommit (b : Blk) (crc : W32) (gen : BitVec 31)
  /-- BLOCK_COMMIT_HOLD (R428): A commit write with HOLD keeps the checked snapshot for a global commit. -/
  | blockCommitHold (b : Blk) (crc : W32) (gen : BitVec 31)
  /-- GLOBAL_COMMIT (R431): DEV_GCOMMIT applies the held commits of the named blocks together or none. -/
  | globalCommit (mask : W16)
  /-- COMMIT_WORK_DONE (R430): A block's commit work finishes and its state becomes DONE. -/
  | commitWorkDone (b : Blk)
  /-- TIL_SNAP (R449): A TIL_SNAP write latches all twenty tile counters in one instant. -/
  | tilSnap (t : TileId)
  /-- TIL_DBG_DATA0_READ (R450): A DATA0 read takes both debug data words from one instant. -/
  | tilDbgData0Read (t : TileId)
  /-- SIG_OP_SET (R200): A debugger sets P of a signal object, logged as DBG_SIGNAL. -/
  | sigOpSet (t : TileId) (obj : BitVec 8) (value : W32)
  /-- SIG_OP_ADD (R200): A debugger adds to P of a signal object, logged as DBG_SIGNAL. -/
  | sigOpAdd (t : TileId) (obj : BitVec 8) (value : W32)
  /-- COUNTER_READ (R425): A read of a 64-bit counter latches its epoch bit at offset + 8. -/
  | counterRead (off : BitVec 26)
  /-- TRG_HEALTH_HEAD_WRITE (R441): The host advances the health ring's read offset. -/
  | trgHealthHeadWrite (value : W32)
  /-- ERR_LOG_HEAD_WRITE (R456): The host advances the error log's read offset. -/
  | errLogHeadWrite (value : W32)
  /-- ERR_ALERT_CLEAR (R457): A W1C write clears alert bits, raising ALERT_N when none remain. -/
  | errAlertClear (mask : BitVec 9)
  /-- REGISTER_WRITE (R422): A write to a register without its own row updates a shadow or live field, or is discarded. -/
  | registerWrite (off : BitVec 26) (half : Option Bool) (value : W64)
  /-- GET_CAPABILITIES (R403): The Keep answers an SPDM capabilities request. -/
  | getCapabilities (ver : Byte)
  /-- NEGOTIATE_ALGORITHMS (R403): The Keep negotiates SPDM algorithms. -/
  | negotiateAlgorithms (ver : Byte) (ed25519 sha512 secp384r1 aesGcm : Bool)
  /-- GET_DIGESTS (R403): The Keep returns the certificate chain digest of slot 0. -/
  | getDigests (ver : Byte)
  /-- GET_CERTIFICATE (R403): The Keep returns its certificate chain. -/
  | getCertificate (ver : Byte) (slot : BitVec 4) (offset length : W16)
  /-- CHALLENGE (R403): The Keep answers a challenge with an identity-key signature. -/
  | challenge (ver : Byte) (slot : BitVec 4)
  /-- GET_MEASUREMENTS (R404): The Keep returns signed measurement blocks from one instant. -/
  | getMeasurements (ver : Byte) (index : Byte) (sign : Bool)
  /-- KEY_EXCHANGE (R403): The Keep begins an SPDM session key exchange. -/
  | keyExchange (ver : Byte) (slot : BitVec 4) (reqSession : W16)
  /-- FINISH (R403): The Keep completes session establishment. -/
  | finish (ver : Byte) (session : W32) (verify : Bool)
  /-- HEARTBEAT (R403): The Keep answers a session heartbeat. -/
  | heartbeat (ver : Byte) (session : W32)
  /-- KEY_UPDATE (R403): The Keep updates session keys. -/
  | keyUpdate (ver : Byte) (session : W32)
  /-- END_SESSION (R403): The Keep closes an SPDM session. -/
  | endSession (ver : Byte) (session : W32)
  /-- VENDOR_DEFINED_REQUEST (R403): The Keep runs CXL IDE key management inside a session. -/
  | vendorDefinedRequest (ver : Byte) (session : Option W32) (stream : BitVec 2) (ideKm : Bool)
  /-- SPDM_UNSUPPORTED_REQUEST (R403): The Keep answers any other SPDM request with ERROR UnsupportedRequest. -/
  | spdmUnsupportedRequest (ver : Byte) (code : Byte)
  /-- ARRAY_WORK_COMPLETE (R113): The MXE array finishes an operation's array work, so its drain can begin and the next operation may start. -/
  | arrayWorkComplete (t : TileId) (steps : Nat)
  /-- VCH_LAST_GROUP_COMPLETE (R131): A VCH's last group completes and its last write lands, which finishes the instruction in the VXE. -/
  | vchLastGroupComplete (t : TileId) (steps : Nat) (errs : List StoreErr)
  /-- RNG_LAST_WRITE_LANDS (R148): An RNG instruction's last write lands, occupancy plus 8 steps after it began, and the instruction finishes. -/
  | rngLastWriteLands (t : TileId) (errs : List StoreErr)
  /-- CXL_LINK_UP (R419): The CXL link finishes training, with or without 256 B flit mode, so that Memory_Active can be set or HOSTLINK reported. -/
  | cxlLinkUp (flit256 : Bool) (cfg : LinkCfg)
  /-- OPVER_LANE_FAILURE (R340): An Opver lane fails, or its partner or cable goes silent, and takes its link down. -/
  | opverLaneFailure (port : Bool)
  /-- HPD_IRQ_PULSE (R446): The sink sends a hot-plug IRQ pulse, which sets LAN_AUXn_STAT.IRQ whether or not it reports loss of lock. -/
  | hpdIrqPulse (out : Bool)
  /-- HPD_LEVEL_CHANGE (R445): The hot-plug detect level changes while the output is not running, and LAN_OUTn_STATUS.HPD follows it. -/
  | hpdLevelChange (out : Bool) (level : Bool)
  /-- POWER_GOOD (R418): Every rail is in regulation, PWR_OK rises and the strap window opens. -/
  | powerGood
  /-- MEMORY_PHY_TRAINED (R418): All stacks are trained and the clearing of tier H and the Grotto tags begins. -/
  | memoryPhyTrained
  /-- MEMORY_CLEAR_COMPLETE (R219): Tier H is cleared and every Grotto tag is ZERO. -/
  | memoryClearComplete
  /-- IDENTITY_KEY_READY (R400): The Keep finishes deriving the identity key. -/
  | identityKeyReady
  /-- DEVICE_READY (R420): Memory_Active, the identity key and the chain state hold and READY is set. -/
  | deviceReady
  /-- VIN48_LOSS (R409): VIN48 below 38 V for 100 us turns every rail off at once. -/
  | vin48Loss
  /-- THERMAL_TRIP (R417): A sensor at 105 C drives THERM_N low and turns every rail off. -/
  | thermalTrip
  /-- PERST_ASSERT (R411): PERST_N falls, resetting host-facing parts, losing every job and restarting tier clearing. -/
  | perstAssert
  /-- PERST_DEASSERT (R419): PERST_N rises and the host-facing start-up steps run. -/
  | perstDeassert
  /-- GET_VERSION (R403): The Keep answers an SPDM version request. -/
  | getVersion
deriving DecidableEq, Repr

end Sys2Proof
end

