-- ==== Sys2Proof/Decode.lean ====
section
/-! DEFINITION. The tile instruction word (R91 to R95, R99, R116, R117, R132, R146, R176, R177, R188, R220), the chain
stage word (R119), the superstep header (R389), and `decodeTableWord`. Decoding rejects every illegal word (R93). -/

namespace Sys2Proof

/-- Field [hi:lo] of a word, as a number. -/
def fld (w : W64) (hi lo : Nat) : Nat := bitsOf w.toNat hi lo
/-- Five-bit register field with its low bit at `lo`. -/
def regAt (w : W64) (lo : Nat) : Reg := w.extractLsb' lo 5
/-- Six-bit handle field with its low bit at `lo`. -/
def hdlAt (w : W64) (lo : Nat) : Hdl := w.extractLsb' lo 6
/-- The dependence mark (R91). -/
def depBit (w : W64) : Bool := w.getLsbD 58
/-- CLASS (R91, R92). -/
def classOf (w : W64) : Nat := fld w 63 59

/-- Answer `i` when the reserved fields are zero. -/
def whenZero (reserved : Nat) (i : Instr) : Option Instr := if reserved = 0 then some i else none

/-- Class SCA (R95, R96). -/
def decodeSca (t : TileId) (e : Ecc) (w : W64) : Option Instr :=
  let rd := regAt w 47
  let ra := regAt w 42
  let rb := regAt w 37
  let z := fld w 36 0
  match fld w 57 52 with
  | 0x00 => whenZero z (.add t e rd ra rb)
  | 0x01 => whenZero z (.sub t e rd ra rb)
  | 0x02 => whenZero z (.andR t e rd ra rb)
  | 0x03 => whenZero z (.orR t e rd ra rb)
  | 0x04 => whenZero z (.xorR t e rd ra rb)
  | 0x05 => whenZero z (.sll t e rd ra rb)
  | 0x06 => whenZero z (.srl t e rd ra rb)
  | 0x07 => whenZero z (.sra t e rd ra rb)
  | 0x08 => whenZero z (.slt t e rd ra rb)
  | 0x09 => whenZero z (.sltu t e rd ra rb)
  | 0x0A => whenZero z (.mul t e rd ra rb)
  | 0x0B => whenZero z (.mulhu t e rd ra rb)
  | 0x0C => whenZero z (.minR t e rd ra rb)
  | 0x0D => whenZero z (.maxR t e rd ra rb)
  | 0x0E => whenZero (z + rb.toNat) (.popc t e rd ra)
  | 0x0F => whenZero (z + rb.toNat) (.ctz t e rd ra)
  | _ => none

/-- Class SCI (R95, R96). -/
def decodeSci (t : TileId) (e : Ecc) (w : W64) : Option Instr :=
  let rd := regAt w 47
  let ra := regAt w 42
  let imm : BitVec 42 := w.extractLsb' 0 42
  let sh : BitVec 6 := w.extractLsb' 0 6
  match fld w 57 52 with
  | 0x00 => some (.addi t e rd ra imm)
  | 0x02 => some (.andi t e rd ra imm)
  | 0x03 => some (.ori t e rd ra imm)
  | 0x04 => some (.xori t e rd ra imm)
  | 0x05 => whenZero (fld w 41 6) (.slli t e rd ra sh)
  | 0x06 => whenZero (fld w 41 6) (.srli t e rd ra sh)
  | 0x07 => whenZero (fld w 41 6) (.srai t e rd ra sh)
  | 0x08 => some (.slti t e rd ra imm)
  | 0x09 => some (.sltiu t e rd ra imm)
  | 0x10 => whenZero ra.toNat (.li t e rd imm)
  | 0x11 => whenZero (fld w 41 22) (.lih t e rd ra (w.extractLsb' 0 22))
  | 0x12 => whenZero (fld w 41 12) (.ext t e rd ra sh (w.extractLsb' 6 6))
  | _ => none

/-- Class BRA (R95, R96). -/
def decodeBra (t : TileId) (e : Ecc) (w : W64) : Option Instr :=
  let ra := regAt w 47
  let rb := regAt w 42
  let off : W16 := w.extractLsb' 26 16
  let z := fld w 25 0
  match fld w 57 52 with
  | 0x00 => whenZero z (.beq t e ra rb off)
  | 0x01 => whenZero z (.bne t e ra rb off)
  | 0x02 => whenZero z (.blt t e ra rb off)
  | 0x03 => whenZero z (.bge t e ra rb off)
  | 0x04 => whenZero z (.bltu t e ra rb off)
  | 0x05 => whenZero z (.bgeu t e ra rb off)
  | 0x06 => whenZero (z + ra.toNat + rb.toNat) (.j t e off)
  | 0x07 => whenZero (z + rb.toNat) (.dbnz t e ra off)
  | _ => none

/-- Class CTL (R95, R96). -/
def decodeCtl (t : TileId) (e : Ecc) (w : W64) : Option Instr :=
  let r := regAt w 47
  let h := hdlAt w 41
  let z := fld w 40 0
  match fld w 57 52 with
  | 0x00 => whenZero (z + r.toNat + h.toNat) (.nop t e)
  | 0x01 => whenZero (z + r.toNat + h.toNat) (.endC t e)
  | 0x02 => whenZero z (.hset t e r h)
  | 0x03 => whenZero z (.hget t e r h)
  | 0x04 => whenZero (z + h.toNat) (.rdtally t e r)
  | 0x05 => whenZero (z + h.toNat) (.rdid t e r)
  | 0x06 => whenZero (z + h.toNat) (.rdss t e r)
  | _ => none

/-- Fields of a matrix word (R99). -/
def mmaFields (w : W64) : MmaF :=
  { ha := hdlAt w 50, hw := hdlAt w 44, kd := w.extractLsb' 38 6, dslot := w.extractLsb' 35 3
    finish := w.getLsbD 34, init := w.getLsbD 33, islot := w.extractLsb' 30 3
    fmta := w.extractLsb' 28 2, fmtw := w.extractLsb' 26 2, bsk := w.getLsbD 25, rte := w.getLsbD 24
    sx := regAt w 19, sm := regAt w 14 }

/-- Fields that a matrix word leaves unused are zero (R99). -/
def mmaOk (w : W64) (f8 : Bool) : Bool :=
  let f := mmaFields w
  decide (fld w 13 0 = 0) && (f.init || decide (f.islot = 0)) && (f.bsk || decide (f.sm = 0))
    && (f8 || (decide (f.fmta = 0) && decide (f.fmtw = 0)))

/-- Classes MMA and MMS (R99). -/
def decodeMma (t : TileId) (e : Ecc) (w : W64) (sparse : Bool) : Option Instr :=
  let f := mmaFields w
  match sparse, fld w 57 56 with
  | false, 0 => if mmaOk w false then some (.mmaF4 t e f) else none
  | false, 1 => if mmaOk w true then some (.mmaF8 t e f) else none
  | false, 2 => if mmaOk w false then some (.mmaB16 t e f) else none
  | true, 0 => if mmaOk w false then some (.mmsF4 t e f) else none
  | _, _ => none

/-- Class VCH (R117); RDT = 1 with WB = 1 is illegal (R128). -/
def decodeVch (t : TileId) (e : Ecc) (w : W64) : Option Instr :=
  let f : VchF :=
    { caddr := w.extractLsb' 45 13, nst := w.extractLsb' 42 3, rel := w.getLsbD 41, sn := regAt w 36
      sb0 := regAt w 31, sb1 := regAt w 26, sb2 := regAt w 21, sb3 := regAt w 16, sc := regAt w 11
      rdt := w.getLsbD 10, wb := w.getLsbD 9 }
  if fld w 8 0 = 0 && !(f.rdt && f.wb) then some (.vch t e f) else none

/-- Class RDX (R132). -/
def decodeRdx (t : TileId) (e : Ecc) (w : W64) : Option Instr :=
  let f : RdxF := { tos := w.getLsbD 54, rd := regAt w 49, toh := w.getLsbD 48, h := hdlAt w 42, so := regAt w 37 }
  if fld w 36 0 = 0 && (f.tos || f.toh) then
    match fld w 57 55 with
    | 0 => some (.rdxSum t e f)
    | 1 => some (.rdxSsq t e f)
    | 2 => some (.rdxMax t e f)
    | 3 => some (.rdxAmax t e f)
    | _ => none
  else none

/-- Class STR (R220); policy 0b11 is reserved (R203). -/
def decodeStr (t : TileId) (e : Ecc) (w : W64) : Option Instr :=
  let f : StrF := { h := hdlAt w 51, sa := regAt w 46, sd := regAt w 41, pol := w.extractLsb' 39 2, p6 := w.getLsbD 38 }
  if fld w 37 0 = 0 && f.pol != 3 then some (if w.getLsbD 57 then .strPut t e f else .strGet t e f) else none

/-- Class SIG (R175, R176). -/
def decodeSig (t : TileId) (e : Ecc) (w : W64) : Option Instr :=
  let rt := regAt w 51
  let obj : BitVec 8 := w.extractLsb' 43 8
  let inc : W16 := w.extractLsb' 27 16
  let f : PutF := { rt := rt, obj := obj, inc := inc, sh := hdlAt w 21, dh := hdlAt w 15, so := regAt w 10 }
  if fld w 9 0 = 0 && obj.toNat ≤ 251 then
    match fld w 57 56 with
    | 0 => whenZero (fld w 26 10) (.sigSignal t e rt obj inc)
    | 1 => some (.sigPut t e f [])
    | 2 => if inc = 1 then some (.sigPuth t e f []) else none
    | _ => none
  else none

/-- Class WAIT (R177). -/
def decodeWait (t : TileId) (e : Ecc) (w : W64) : Option Instr :=
  let f : WaitF := { obj := w.extractLsb' 48 8, rv := regAt w 43, imm := w.extractLsb' 27 16, rd := regAt w 22 }
  if fld w 21 0 = 0 then
    match fld w 57 56 with
    | 0 => some (.waitConsume t e f)
    | 1 => some (.waitPeek t e f)
    | 2 => some (.waitGe t e f)
    | _ => none
  else none

/-- Class MSG (R188). -/
def decodeMsg (t : TileId) (e : Ecc) (w : W64) : Option Instr :=
  let rt := regAt w 50
  let q : BitVec 2 := w.extractLsb' 48 2
  let hx := fld w 47 44
  let len := fld w 43 42
  let h := hdlAt w 36
  let so := regAt w 31
  let f : SendF := { rt := rt, q := q, hx := w.extractLsb' 44 4, len := w.extractLsb' 42 2, h := h, so := so }
  if fld w 30 0 = 0 then
    match fld w 57 55 with
    | 0 => whenZero hx (.send t e f [])
    | 1 => some (.asend t e f [])
    | 2 =>
      if q = 3 && len = 0 && hx % 4 != 3 then
        some (.cadd t e { rt := rt, slot := w.extractLsb' 46 2, opk := w.extractLsb' 44 2, h := h, so := so } [])
      else none
    | 3 => if rt.toNat ≤ 24 && hx = 0 && len = 0 && h = 0 then some (.recv t e rt q so) else none
    | 4 => whenZero (fld w 54 31) (.poll t e)
    | 5 => whenZero (fld w 54 31) (.hret t e)
    | _ => none
  else none

/-- Class RNG (R146). -/
def decodeRng (t : TileId) (e : Ecc) (w : W64) : Option Instr :=
  let sel : BitVec 2 := w.extractLsb' 53 2
  let rv := regAt w 22
  let f : RngF :=
    { sel := sel, h := hdlAt w 47, so := regAt w 42, st := regAt w 37, sc := regAt w 32, sn := regAt w 27, rv := rv
      fmt := w.getLsbD 21 }
  if fld w 20 0 = 0 then
    match fld w 57 55 with
    | 0 => some (.rngBits t e f)
    | 1 => some (.rngUni t e f)
    | 2 => some (.rngMask t e f)
    | 3 => whenZero (fld w 52 27 + fld w 21 21) (.seedset t e sel rv)
    | 4 => whenZero (fld w 52 27 + fld w 21 21) (.seedget t e sel rv)
    | _ => none
  else none

/-- The instruction that a word of tile `t` spells, with the H72 finding of its read; `none` for an illegal word (R93). -/
def decodeWord (t : TileId) (e : Ecc) (w : W64) : Option Instr :=
  match classOf w with
  | 0 => decodeSca t e w
  | 1 => decodeSci t e w
  | 2 => decodeBra t e w
  | 3 => decodeCtl t e w
  | 4 => decodeMma t e w false
  | 5 => decodeMma t e w true
  | 6 => decodeVch t e w
  | 7 => if fld w 36 0 = 0 then some (.vlen t e (regAt w 53) (w.extractLsb' 37 16)) else none
  | 8 => decodeRdx t e w
  | 9 => decodeStr t e w
  | 10 => decodeSig t e w
  | 11 => decodeWait t e w
  | 12 => decodeMsg t e w
  | 13 => decodeRng t e w
  | _ => none

/-! ## The instruction word of an instruction -/

/-- A word from (value, low bit) pairs. -/
def packWord (l : List (Nat × Nat)) : W64 := BitVec.ofNat 64 (l.map fun p => p.1 * 2 ^ p.2).sum

/-- CLASS and DEP (R91). -/
def headOf (c : Nat) (dep : Bool) : List (Nat × Nat) := [(c, 59), (dep.toNat, 58)]
/-- An instruction with its tile, its H72 finding and its word. -/
def withFields (t : TileId) (e : Ecc) (c : Nat) (dep : Bool) (l : List (Nat × Nat)) : Option (TileId × Ecc × W64) :=
  some (t, e, packWord (headOf c dep ++ l))

/-- Fields of a three-register word of class SCA (R95). -/
def scaFields (op : Nat) (rd ra rb : Reg) : List (Nat × Nat) := [(op, 52), (rd.toNat, 47), (ra.toNat, 42), (rb.toNat, 37)]
/-- Fields of a word of class SCI (R95). -/
def sciFields (op : Nat) (rd ra : Reg) (imm : Nat) : List (Nat × Nat) := [(op, 52), (rd.toNat, 47), (ra.toNat, 42), (imm, 0)]
/-- Fields of a word of class BRA (R95). -/
def braFields (op : Nat) (ra rb : Reg) (off : W16) : List (Nat × Nat) := [(op, 52), (ra.toNat, 47), (rb.toNat, 42), (off.toNat, 26)]
/-- Fields of a word of class CTL (R95). -/
def ctlFields (op : Nat) (r : Reg) (h : Hdl) : List (Nat × Nat) := [(op, 52), (r.toNat, 47), (h.toNat, 41)]
/-- Fields of a matrix word (R99). -/
def mmaPack (op : Nat) (f : MmaF) : List (Nat × Nat) :=
  [(op, 56), (f.ha.toNat, 50), (f.hw.toNat, 44), (f.kd.toNat, 38), (f.dslot.toNat, 35), (f.finish.toNat, 34), (f.init.toNat, 33)
  , (f.islot.toNat, 30), (f.fmta.toNat, 28), (f.fmtw.toNat, 26), (f.bsk.toNat, 25), (f.rte.toNat, 24), (f.sx.toNat, 19), (f.sm.toNat, 14)]
/-- The fields that a matrix word leaves unused are zero (R99). -/
def MmaF.unusedZero (f : MmaF) (f8 : Bool) : Bool :=
  (f.init || decide (f.islot = 0)) && (f.bsk || decide (f.sm = 0)) && (f8 || (decide (f.fmta = 0) && decide (f.fmtw = 0)))
/-- Fields of a VCH word (R117). -/
def vchPack (f : VchF) : List (Nat × Nat) :=
  [(f.caddr.toNat, 45), (f.nst.toNat, 42), (f.rel.toNat, 41), (f.sn.toNat, 36), (f.sb0.toNat, 31), (f.sb1.toNat, 26), (f.sb2.toNat, 21)
  , (f.sb3.toNat, 16), (f.sc.toNat, 11), (f.rdt.toNat, 10), (f.wb.toNat, 9)]
/-- Fields of an RDX word (R132). -/
def rdxPack (op : Nat) (f : RdxF) : List (Nat × Nat) :=
  [(op, 55), (f.tos.toNat, 54), (f.rd.toNat, 49), (f.toh.toNat, 48), (f.h.toNat, 42), (f.so.toNat, 37)]
/-- Fields of a STR word (R220). -/
def strPack (dir : Nat) (f : StrF) : List (Nat × Nat) :=
  [(dir, 57), (f.h.toNat, 51), (f.sa.toNat, 46), (f.sd.toNat, 41), (f.pol.toNat, 39), (f.p6.toNat, 38)]
/-- Fields of a SIG word (R176). -/
def sigPack (op : Nat) (f : PutF) : List (Nat × Nat) :=
  [(op, 56), (f.rt.toNat, 51), (f.obj.toNat, 43), (f.inc.toNat, 27), (f.sh.toNat, 21), (f.dh.toNat, 15), (f.so.toNat, 10)]
/-- Fields of a WAIT word (R177). -/
def waitPack (op : Nat) (f : WaitF) : List (Nat × Nat) :=
  [(op, 56), (f.obj.toNat, 48), (f.rv.toNat, 43), (f.imm.toNat, 27), (f.rd.toNat, 22)]
/-- Fields of a MSG word (R188). -/
def msgPack (op : Nat) (rt : Reg) (q : BitVec 2) (hx len : Nat) (h : Hdl) (so : Reg) : List (Nat × Nat) :=
  [(op, 55), (rt.toNat, 50), (q.toNat, 48), (hx, 44), (len, 42), (h.toNat, 36), (so.toNat, 31)]
/-- Fields of an RNG word (R146). -/
def rngPack (op : Nat) (f : RngF) : List (Nat × Nat) :=
  [(op, 55), (f.sel.toNat, 53), (f.h.toNat, 47), (f.so.toNat, 42), (f.st.toNat, 37), (f.sc.toNat, 32), (f.sn.toNat, 27), (f.rv.toNat, 22)
  , (f.fmt.toNat, 21)]

/-- The tile, the H72 finding and the word of an instruction with its dependence mark; `none` for a command that is no tile
instruction and for fields that no legal word has (R93). -/
def encodeWord (dep : Bool) : Instr → Option (TileId × Ecc × W64)
  | .add t e rd ra rb => withFields t e 0 dep (scaFields 0 rd ra rb)
  | .sub t e rd ra rb => withFields t e 0 dep (scaFields 1 rd ra rb)
  | .andR t e rd ra rb => withFields t e 0 dep (scaFields 2 rd ra rb)
  | .orR t e rd ra rb => withFields t e 0 dep (scaFields 3 rd ra rb)
  | .xorR t e rd ra rb => withFields t e 0 dep (scaFields 4 rd ra rb)
  | .sll t e rd ra rb => withFields t e 0 dep (scaFields 5 rd ra rb)
  | .srl t e rd ra rb => withFields t e 0 dep (scaFields 6 rd ra rb)
  | .sra t e rd ra rb => withFields t e 0 dep (scaFields 7 rd ra rb)
  | .slt t e rd ra rb => withFields t e 0 dep (scaFields 8 rd ra rb)
  | .sltu t e rd ra rb => withFields t e 0 dep (scaFields 9 rd ra rb)
  | .mul t e rd ra rb => withFields t e 0 dep (scaFields 10 rd ra rb)
  | .mulhu t e rd ra rb => withFields t e 0 dep (scaFields 11 rd ra rb)
  | .minR t e rd ra rb => withFields t e 0 dep (scaFields 12 rd ra rb)
  | .maxR t e rd ra rb => withFields t e 0 dep (scaFields 13 rd ra rb)
  | .popc t e rd ra => withFields t e 0 dep (scaFields 14 rd ra 0)
  | .ctz t e rd ra => withFields t e 0 dep (scaFields 15 rd ra 0)
  | .addi t e rd ra imm => withFields t e 1 dep (sciFields 0 rd ra imm.toNat)
  | .andi t e rd ra imm => withFields t e 1 dep (sciFields 2 rd ra imm.toNat)
  | .ori t e rd ra imm => withFields t e 1 dep (sciFields 3 rd ra imm.toNat)
  | .xori t e rd ra imm => withFields t e 1 dep (sciFields 4 rd ra imm.toNat)
  | .slli t e rd ra sh => withFields t e 1 dep (sciFields 5 rd ra sh.toNat)
  | .srli t e rd ra sh => withFields t e 1 dep (sciFields 6 rd ra sh.toNat)
  | .srai t e rd ra sh => withFields t e 1 dep (sciFields 7 rd ra sh.toNat)
  | .slti t e rd ra imm => withFields t e 1 dep (sciFields 8 rd ra imm.toNat)
  | .sltiu t e rd ra imm => withFields t e 1 dep (sciFields 9 rd ra imm.toNat)
  | .li t e rd imm => withFields t e 1 dep (sciFields 16 rd 0 imm.toNat)
  | .lih t e rd ra imm => withFields t e 1 dep (sciFields 17 rd ra imm.toNat)
  | .ext t e rd ra lo len => withFields t e 1 dep (sciFields 18 rd ra lo.toNat ++ [(len.toNat, 6)])
  | .beq t e ra rb off => withFields t e 2 dep (braFields 0 ra rb off)
  | .bne t e ra rb off => withFields t e 2 dep (braFields 1 ra rb off)
  | .blt t e ra rb off => withFields t e 2 dep (braFields 2 ra rb off)
  | .bge t e ra rb off => withFields t e 2 dep (braFields 3 ra rb off)
  | .bltu t e ra rb off => withFields t e 2 dep (braFields 4 ra rb off)
  | .bgeu t e ra rb off => withFields t e 2 dep (braFields 5 ra rb off)
  | .j t e off => withFields t e 2 dep (braFields 6 0 0 off)
  | .dbnz t e ra off => withFields t e 2 dep (braFields 7 ra 0 off)
  | .nop t e => withFields t e 3 dep (ctlFields 0 0 0)
  | .endC t e => withFields t e 3 dep (ctlFields 1 0 0)
  | .hset t e r h => withFields t e 3 dep (ctlFields 2 r h)
  | .hget t e r h => withFields t e 3 dep (ctlFields 3 r h)
  | .rdtally t e r => withFields t e 3 dep (ctlFields 4 r 0)
  | .rdid t e r => withFields t e 3 dep (ctlFields 5 r 0)
  | .rdss t e r => withFields t e 3 dep (ctlFields 6 r 0)
  | .mmaF4 t e f => if f.unusedZero false then withFields t e 4 dep (mmaPack 0 f) else none
  | .mmaF8 t e f => if f.unusedZero true then withFields t e 4 dep (mmaPack 1 f) else none
  | .mmaB16 t e f => if f.unusedZero false then withFields t e 4 dep (mmaPack 2 f) else none
  | .mmsF4 t e f => if f.unusedZero false then withFields t e 5 dep (mmaPack 0 f) else none
  | .vch t e f => if f.rdt && f.wb then none else withFields t e 6 dep (vchPack f)
  | .vlen t e ra imm => withFields t e 7 dep [(ra.toNat, 53), (imm.toNat, 37)]
  | .rdxSum t e f => if f.tos || f.toh then withFields t e 8 dep (rdxPack 0 f) else none
  | .rdxSsq t e f => if f.tos || f.toh then withFields t e 8 dep (rdxPack 1 f) else none
  | .rdxMax t e f => if f.tos || f.toh then withFields t e 8 dep (rdxPack 2 f) else none
  | .rdxAmax t e f => if f.tos || f.toh then withFields t e 8 dep (rdxPack 3 f) else none
  | .strGet t e f => if f.pol = 3 then none else withFields t e 9 dep (strPack 0 f)
  | .strPut t e f => if f.pol = 3 then none else withFields t e 9 dep (strPack 1 f)
  | .sigSignal t e rt obj inc => if 251 < obj.toNat then none else withFields t e 10 dep (sigPack 0 ⟨rt, obj, inc, 0, 0, 0⟩)
  | .sigPut t e f _ => if 251 < f.obj.toNat then none else withFields t e 10 dep (sigPack 1 f)
  | .sigPuth t e f _ => if 251 < f.obj.toNat || decide (f.inc ≠ 1) then none else withFields t e 10 dep (sigPack 2 f)
  | .waitConsume t e f => withFields t e 11 dep (waitPack 0 f)
  | .waitPeek t e f => withFields t e 11 dep (waitPack 1 f)
  | .waitGe t e f => withFields t e 11 dep (waitPack 2 f)
  | .send t e f _ => if f.hx = 0 then withFields t e 12 dep (msgPack 0 f.rt f.q 0 f.len.toNat f.h f.so) else none
  | .asend t e f _ => withFields t e 12 dep (msgPack 1 f.rt f.q f.hx.toNat f.len.toNat f.h f.so)
  | .cadd t e f _ => if f.opk = 3 then none else withFields t e 12 dep (msgPack 2 f.rt 3 (4 * f.slot.toNat + f.opk.toNat) 0 f.h f.so)
  | .recv t e rt q so => if 24 < rt.toNat then none else withFields t e 12 dep (msgPack 3 rt q 0 0 0 so)
  | .poll t e => withFields t e 12 dep (msgPack 4 0 0 0 0 0 0)
  | .hret t e => withFields t e 12 dep (msgPack 5 0 0 0 0 0 0)
  | .rngBits t e f => withFields t e 13 dep (rngPack 0 f)
  | .rngUni t e f => withFields t e 13 dep (rngPack 1 f)
  | .rngMask t e f => withFields t e 13 dep (rngPack 2 f)
  | .seedset t e sel rv => withFields t e 13 dep (rngPack 3 ⟨sel, 0, 0, 0, 0, 0, rv, false⟩)
  | .seedget t e sel rv => withFields t e 13 dep (rngPack 4 ⟨sel, 0, 0, 0, 0, 0, rv, false⟩)
  | _ => none

/-! ## Chain stage words -/

/-- Operations of a chain stage (R123, R128, R129). -/
inductive StageOp where
  | ld | st
  | add | sub | mul | fma | max | min | abs | neg | cmp | sel | rndb
  | rcp | rsq | exp2 | log2 | exp | expd | tanh | sigm | nrm
deriving DecidableEq, Repr

/-- A stage word (R119). -/
structure Stage where
  op : StageOp
  xa : Nat
  xb : Nat
  xc : Nat
  h : Hdl
  so : Reg
  fmt : Nat
  rm : Nat
  pol : Nat
  fq : Bool
  md : Bool
  imm8 : Nat
  tidl : W16
deriving DecidableEq, Repr

/-- Operation codes of stages. -/
def stageOpOf : Nat → Option StageOp
  | 0x01 => some .ld | 0x02 => some .st
  | 0x08 => some .add | 0x09 => some .sub | 0x0A => some .mul | 0x0B => some .fma | 0x0C => some .max
  | 0x0D => some .min | 0x0E => some .abs | 0x0F => some .neg | 0x10 => some .cmp | 0x11 => some .sel
  | 0x12 => some .rndb
  | 0x18 => some .rcp | 0x19 => some .rsq | 0x1A => some .exp2 | 0x1B => some .log2 | 0x1C => some .exp
  | 0x1D => some .expd | 0x1E => some .tanh | 0x1F => some .sigm | 0x20 => some .nrm
  | _ => none

/-- How many of XA, XB, XC an operation reads. -/
def StageOp.arity : StageOp → Nat
  | .ld => 0
  | .fma | .sel => 3
  | .add | .sub | .mul | .max | .min | .cmp | .expd | .nrm => 2
  | _ => 1

/-- May the operation stand in a BF16 chain (R128)? -/
def StageOp.bf16Ok : StageOp → Bool
  | .ld | .st | .add | .sub | .mul | .fma | .max | .min | .abs | .neg | .cmp | .sel => true
  | _ => false

/-- The legality rules of stage number `idx` (R93, R118, R119, R122, R128): unused fields zero, no reserved code, no
source at or after the stage itself. A field is used where the OP has a form that uses it, whatever FMT and the other fields of the
stage say: POL, IMM8 and TIDL of every ST are free (DESIGN CHOICE, log entry 29). -/
def Stage.ok (s : Stage) (idx : Nat) (wb : Bool) : Bool :=
  let n := s.op.arity
  let src (x : Nat) : Bool := decide (x < idx) || decide (8 ≤ x)
  (if 1 ≤ n then src s.xa else decide (s.xa = 0)) && (if 2 ≤ n then src s.xb else decide (s.xb = 0))
    && (if 3 ≤ n then src s.xc else decide (s.xc = 0))
    && (!wb || s.op.bf16Ok) && decide (s.rm ≠ 3) && decide (s.fmt ≠ 7)
    && (match s.op with
        | .ld => decide (s.rm = 0) && decide (s.pol = 0) && decide (s.imm8 = 0) && decide (s.tidl = 0)
            && (!s.fq || decide (s.fmt = 0))
        | .st => decide (s.pol ≠ 3) && !s.fq
        | op => decide (s.h = 0) && decide (s.so = 0) && decide (s.fmt = 0) && decide (s.pol = 0) && !s.fq && !s.md
            && (decide (s.rm ≠ 2) || decide (op = .rndb)) && (decide (s.tidl = 0) || decide (op = .rndb))
            && (if op = .cmp then decide (s.imm8 < 6) else decide (s.imm8 = 0)))

/-- Decode stage number `idx` of a chain; `none` for an illegal stage word. -/
def decodeStage (idx : Nat) (wb : Bool) (w : W64) : Option Stage :=
  match stageOpOf (fld w 63 58) with
  | none => none
  | some op =>
    let s : Stage :=
      { op := op, xa := fld w 57 54, xb := fld w 53 50, xc := fld w 49 46, h := hdlAt w 40, so := regAt w 35
        fmt := fld w 34 32, rm := fld w 31 30, pol := fld w 29 28, fq := w.getLsbD 27, md := w.getLsbD 26
        imm8 := fld w 25 18, tidl := w.extractLsb' 0 16 }
    if fld w 17 16 = 0 && s.ok idx wb then some s else none

/-- Decode the stages of a chain from its words, numbered from `idx`. -/
def decodeChain (wb : Bool) : Nat → List W64 → Option (List Stage)
  | _, [] => some []
  | idx, w :: ws =>
    match decodeStage idx wb w, decodeChain wb (idx + 1) ws with
    | some s, some ss => some (s :: ss)
    | _, _ => none

/-! ## Superstep headers -/

/-- A superstep header (R389). -/
structure SsHdr where
  scope : Scope
  nfs : Bool
  close : Bool
  park : Bool
  res0 : Nat
  res1 : Nat
  ssnum : Nat
  slist : Nat
  ecnt : Nat
  olist : Nat
  nsend : Nat
  necnt : Nat
  owords : Nat
deriving DecidableEq, Repr

/-- The barrier scope of a code; 0b11 is reserved. -/
def scopeOf : Nat → Option Scope
  | 0 => some .die
  | 1 => some .module
  | 2 => some .chain
  | _ => none

/-- Decode a superstep header; `none` when a reserved field is nonzero or a reservation passes 1,024. -/
def decodeHdr (w0 w1 w2 w3 : W64) : Option SsHdr :=
  match scopeOf (fld w0 63 62) with
  | none => none
  | some sc =>
    let h : SsHdr :=
      { scope := sc, nfs := w0.getLsbD 61, close := w0.getLsbD 60, park := w0.getLsbD 59, res0 := fld w0 58 48
        res1 := fld w0 47 37, ssnum := fld w0 36 21, slist := fld w1 63 51, ecnt := fld w1 50 38, olist := fld w1 37 25
        nsend := fld w2 63 51, necnt := fld w2 50 38, owords := fld w2 37 25 }
    if fld w0 20 0 = 0 && fld w1 24 0 = 0 && fld w2 24 0 = 0 && w3 = 0 && h.res0 ≤ 1024 && h.res1 ≤ 1024
    then some h else none

/-! ## The table's words -/

/-- The command that a word spells by the bits of spec/opcode_table.json. No row of that table gives bits, so no word
spells a command. -/
def decodeTableWord (_nbits _w : Nat) : Option Instr := none

end Sys2Proof
end

