-- ==== Sys2Proof/Machine/Assoc.lean ====
section
/-! DEFINITION. Sparse tables by a natural-number key in one canonical form: keys strictly rising, and no entry equal to
what an unlisted key reads as. Memory is such a table of bytes (`Host.Cell`). -/

namespace Sys2Proof.Machine

/-- A sparse table from natural numbers. -/
abbrev Assoc (α : Type) := List (Nat × α)

/-- Read key `k`; an unlisted key reads as `d`. -/
def aGet {α : Type} (d : α) : Assoc α → Nat → α
  | [], _ => d
  | (k', v) :: l, k => if k' = k then v else aGet d l k

/-- Remove key `k`. -/
def aErase {α : Type} (l : Assoc α) (k : Nat) : Assoc α := l.filter fun kv => decide (kv.1 ≠ k)

/-- List `v` under key `k`. -/
def aInsert {α : Type} : Assoc α → Nat → α → Assoc α
  | [], k, v => [(k, v)]
  | (k', v') :: l, k, v =>
    if k' < k then (k', v') :: aInsert l k v else if k' = k then (k, v) :: l else (k, v) :: (k', v') :: l

/-- Write `v` at key `k`: writing the value an unlisted key reads as removes the entry. -/
def aSet {α : Type} [DecidableEq α] (d : α) (l : Assoc α) (k : Nat) (v : α) : Assoc α :=
  if v = d then aErase l k else aInsert l k v

/-- The keys of a table lie above `b` and rise strictly, and no entry holds `d`. -/
def aWfFrom {α : Type} [DecidableEq α] (d : α) : Nat → Assoc α → Bool
  | _, [] => true
  | b, (k, v) :: l => decide (b ≤ k) && decide (v ≠ d) && aWfFrom d (k + 1) l

/-- The canonical form. -/
def aWf {α : Type} [DecidableEq α] (d : α) (l : Assoc α) : Bool := aWfFrom d 0 l

/-- Write a run of values at consecutive keys. -/
def aSetMany {α : Type} [DecidableEq α] (d : α) : Assoc α → Nat → List α → Assoc α
  | l, _, [] => l
  | l, k, v :: vs => aSetMany d (aSet d l k v) (k + 1) vs

/-- Read `n` values at consecutive keys. -/
def aGetMany {α : Type} (d : α) (l : Assoc α) : Nat → Nat → List α
  | _, 0 => []
  | k, n + 1 => aGet d l k :: aGetMany d l (k + 1) n

end Sys2Proof.Machine
end

