-- ==== Sys2Proof/Machine/Fp.lean ====
section
/-! DEFINITION. Wide arithmetic (R74 to R77): exact values, one rounding, FP32 and BF16. A finite value is held as
`(-1)^neg * (n / d) * 2^e`, exactly, until it is rounded once. -/

namespace Sys2Proof.Machine

/-- Rounding modes of R76. -/
inductive Rm where
  | rne | rtz | sr
deriving DecidableEq, Repr

/-- An exact finite value, `(-1)^neg * (n / d) * 2^e`, with `d` positive. -/
structure Q where
  neg : Bool
  n : Nat
  d : Nat
  e : Int
deriving DecidableEq, Repr

/-- An FP32 or BF16 datum after its subnormals are read as zero (R74). -/
inductive Fv where
  | nan
  | inf (neg : Bool)
  /-- `(-1)^neg * m * 2^e`; a zero has `m = 0`. -/
  | fin (neg : Bool) (m : Nat) (e : Int)
deriving DecidableEq, Repr

/-- `n * 2^k` for a shift that may be negative, as a numerator and a denominator factor. -/
def shl2 (n : Nat) (k : Int) : Nat := if 0 ≤ k then n * 2 ^ k.toNat else n
/-- The denominator factor that goes with `shl2`. -/
def shr2 (d : Nat) (k : Int) : Nat := if 0 ≤ k then d else d * 2 ^ (-k).toNat

/-- `floor(log2(n / d))` for positive `n` and `d`. -/
def flog2 (n d : Nat) : Int :=
  let k : Int := (n.log2 : Int) - (d.log2 : Int)
  if shl2 n (-k) < shr2 d (-k) then k - 1 else k

/-- A rounded magnitude: the integer `r` at spacing `2^g`. -/
structure Rd where
  r : Nat
  g : Int
deriving DecidableEq, Repr

/-- `rnd` of R88 on a magnitude: round to `mbits` fraction bits, with subnormal spacing below `2^emin` and no upper
exponent bound. `u` is the 16-bit random word, used under SR only (R77). -/
def rndMag (q : Q) (mbits : Nat) (emin : Int) (mode : Rm) (u : Nat) : Rd :=
  if q.n = 0 then ⟨0, emin - mbits⟩
  else
    let ex := max (flog2 q.n q.d + q.e) emin
    let g := ex - mbits
    let num := shl2 q.n (q.e - g)
    let den := shr2 q.d (q.e - g)
    let lo := num / den
    let rem := num % den
    let up := match mode with
      | .rne => decide (den < 2 * rem) || (decide (2 * rem = den) && decide (lo % 2 = 1))
      | .rtz => false
      | .sr => decide (0 < rem) && decide (u < rem * 65536 / den)
    ⟨if up then lo + 1 else lo, g⟩

/-- Whether the value is exact at the spacing its rounding uses, so that no random word is drawn (R77). -/
def exactAt (q : Q) (mbits : Nat) (emin : Int) : Bool :=
  if q.n = 0 then true
  else
    let g := max (flog2 q.n q.d + q.e) emin - mbits
    decide (shl2 q.n (q.e - g) % shr2 q.d (q.e - g) = 0)

/-- Is the magnitude `r * 2^g` at least `2^k`? -/
def Rd.ge2 (x : Rd) (k : Int) : Bool := decide (0 < x.r) && decide (k ≤ (x.r.log2 : Int) + x.g)

/-- Canonical quiet NaN in FP32 (R74). -/
def nan32 : W32 := 0x7FC00000#32
/-- Canonical quiet NaN in BF16 (R74). -/
def nan16 : W16 := 0x7FC0#16

/-- A signed zero in FP32. -/
def zero32 (neg : Bool) : W32 := if neg then 0x80000000#32 else 0#32
/-- A signed infinity in FP32. -/
def inf32 (neg : Bool) : W32 := if neg then 0xFF800000#32 else 0x7F800000#32
/-- The largest finite FP32. -/
def maxf32 (neg : Bool) : W32 := if neg then 0xFF7FFFFF#32 else 0x7F7FFFFF#32

/-- Bits of the FP32 whose magnitude is `r * 2^g`, a normal number below `2^128`. -/
def packNormal (neg : Bool) (x : Rd) : W32 :=
  let l : Int := x.r.log2
  let frac := if l ≤ 23 then x.r * 2 ^ (23 - l).toNat else x.r / 2 ^ (l - 23).toNat
  BitVec.ofNat 32 ((if neg then 2 ^ 31 else 0) + (l + x.g + 127).toNat * 2 ^ 23 + frac % 2 ^ 23)

/-- FP32 of an exact value, rounded once (R74): a rounded magnitude below `2^-126` is a zero of the same sign; one of
`2^128` or more is an infinity, or the largest finite number toward zero (IEEE 754). -/
def packQ (q : Q) (mode : Rm := .rne) : W32 :=
  let x := rndMag q 23 (-126) mode 0
  if x.ge2 128 then (if mode = .rtz then maxf32 q.neg else inf32 q.neg)
  else if x.ge2 (-126) then packNormal q.neg x
  else zero32 q.neg

/-- The value of an FP32 word, a subnormal read as zero of the same sign (R74). -/
def f32 (b : W32) : Fv :=
  let neg := b.getMsbD 0
  let ex := bitsOf b.toNat 30 23
  let fr := bitsOf b.toNat 22 0
  if ex = 255 then (if fr = 0 then .inf neg else .nan)
  else if ex = 0 then .fin neg 0 0
  else .fin neg (2 ^ 23 + fr) ((ex : Int) - 150)

/-- `flush` of R88: a subnormal becomes zero of the same sign; every other word is kept. -/
def flush (b : W32) : W32 := if bitsOf b.toNat 30 23 = 0 then zero32 (b.getMsbD 0) else b

/-- Is the word a NaN? -/
def isNan (b : W32) : Bool := decide (f32 b = .nan)
/-- Is the word an infinity? -/
def isInf (b : W32) : Bool := match f32 b with | .inf _ => true | _ => false
/-- Is the word finite? -/
def isFin (b : W32) : Bool := match f32 b with | .fin _ _ _ => true | _ => false

/-- `exp_of` of R88: unbiased exponent of a normal nonzero word. -/
def expOf (b : W32) : Int := (bitsOf b.toNat 30 23 : Int) - 127

/-- The exact value of a finite datum. -/
def Fv.q : Fv → Q
  | .fin neg m e => ⟨neg, m, 1, e⟩
  | _ => ⟨false, 0, 1, 0⟩

/-- The signed integer of a dyadic value at exponent `g`, for `g` at most its exponent. -/
def Q.intAt (q : Q) (g : Int) : Int :=
  let m : Int := ((q.n * 2 ^ (q.e - g).toNat : Nat) : Int)
  if q.neg then -m else m

/-- Exact sum of dyadic values (`d = 1`); `zneg` is the sign of an exact zero sum. -/
def Q.add (a b : Q) (zneg : Bool) : Q :=
  let g := min a.e b.e
  let s := a.intAt g + b.intAt g
  if s = 0 then ⟨zneg, 0, 1, g⟩ else ⟨decide (s < 0), s.natAbs, 1, g⟩

/-- Exact product. -/
def Q.mul (a b : Q) : Q := ⟨xor a.neg b.neg, a.n * b.n, a.d * b.d, a.e + b.e⟩

/-- Exact quotient by a nonzero value. -/
def Q.div (a b : Q) : Q := ⟨xor a.neg b.neg, a.n * b.d, a.d * b.n, a.e - b.e⟩

/-- Sign of a datum. -/
def Fv.neg : Fv → Bool
  | .nan => false
  | .inf s => s
  | .fin s _ _ => s

/-- The sum of two data as a datum with an exact value (IEEE 754: an exact zero sum is -0 only of two -0). -/
inductive Ex where
  | nan
  | inf (neg : Bool)
  | val (q : Q)
deriving DecidableEq, Repr

/-- A datum as an exact result. -/
def Fv.ex : Fv → Ex
  | .nan => .nan
  | .inf s => .inf s
  | .fin s m e => .val ⟨s, m, 1, e⟩

/-- Exact addition of exact results; the denominators are 1. -/
def Ex.add : Ex → Ex → Ex
  | .nan, _ => .nan
  | _, .nan => .nan
  | .inf a, .inf b => if a = b then .inf a else .nan
  | .inf a, .val _ => .inf a
  | .val _, .inf b => .inf b
  | .val a, .val b => .val (a.add b (a.neg && b.neg && decide (a.n = 0) && decide (b.n = 0)))

/-- Exact multiplication. `∞ × 0` is invalid. -/
def Ex.mul : Ex → Ex → Ex
  | .nan, _ => .nan
  | _, .nan => .nan
  | .inf a, .inf b => .inf (xor a b)
  | .inf a, .val b => if b.n = 0 then .nan else .inf (xor a b.neg)
  | .val a, .inf b => if a.n = 0 then .nan else .inf (xor a.neg b)
  | .val a, .val b => .val (a.mul b)

/-- Exact division. `0 / 0` and `∞ / ∞` are invalid; a nonzero value by zero is an infinity. -/
def Ex.div : Ex → Ex → Ex
  | .nan, _ => .nan
  | _, .nan => .nan
  | .inf _, .inf _ => .nan
  | .inf a, .val b => .inf (xor a b.neg)
  | .val a, .inf b => .val ⟨xor a.neg b, 0, 1, 0⟩
  | .val a, .val b =>
    if b.n = 0 then (if a.n = 0 then .nan else .inf (xor a.neg b.neg)) else .val (a.div b)

/-- FP32 of an exact result, rounded once. -/
def Ex.f32 (x : Ex) (mode : Rm := .rne) : W32 :=
  match x with
  | .nan => nan32
  | .inf s => inf32 s
  | .val q => packQ q mode

/-- An FP32 word as an exact result. -/
def ex (b : W32) : Ex := (f32 b).ex

/-- FP32 addition (R74). -/
def fadd (a b : W32) (mode : Rm := .rne) : W32 := ((ex a).add (ex b)).f32 mode
/-- Sign flip (R128 NEG). A NaN stays canonical. -/
def fneg (a : W32) : W32 := if isNan a then nan32 else flush (a ^^^ 0x80000000#32)
/-- Sign clear (R128 ABS). A NaN stays canonical. -/
def fabs (a : W32) : W32 := if isNan a then nan32 else flush (a &&& 0x7FFFFFFF#32)
/-- FP32 subtraction. -/
def fsub (a b : W32) (mode : Rm := .rne) : W32 := ((ex a).add (ex (b ^^^ 0x80000000#32))).f32 mode
/-- FP32 multiplication. -/
def fmul (a b : W32) (mode : Rm := .rne) : W32 := ((ex a).mul (ex b)).f32 mode
/-- Fused multiply-add, rounded once. -/
def ffma (a b c : W32) (mode : Rm := .rne) : W32 := (((ex a).mul (ex b)).add (ex c)).f32 mode
/-- FP32 division. -/
def fdiv (a b : W32) (mode : Rm := .rne) : W32 := ((ex a).div (ex b)).f32 mode

/-- The order key of a word that is no NaN: negative numbers below, and -0 just below +0. -/
def fkey (b : W32) : Int :=
  let m : Int := bitsOf b.toNat 30 0
  if b.getMsbD 0 then -m - 1 else m

/-- Maximum of R128: NaN when either is NaN, +0 above -0. -/
def fmaxR (a b : W32) : W32 :=
  let a := flush a; let b := flush b
  if isNan a || isNan b then nan32 else if fkey a < fkey b then b else a
/-- Minimum of R128: NaN when either is NaN, -0 below +0. -/
def fminR (a b : W32) : W32 :=
  let a := flush a; let b := flush b
  if isNan a || isNan b then nan32 else if fkey b < fkey a then b else a

/-- Numeric comparison of two words, `none` when either is NaN; -0 equals +0. -/
def fcmp (a b : W32) : Option Ordering :=
  let a := flush a; let b := flush b
  if isNan a || isNan b then none
  else
    let k (x : W32) : Int := if bitsOf x.toNat 30 0 = 0 then 0 else fkey x
    some (compare (k a) (k b))

/-- BF16 to FP32 (R75): 16 zero bits are appended, and a subnormal is flushed; a NaN keeps its bits. -/
def ofBf16 (b : W16) : W32 := flush (BitVec.ofNat 32 (b.toNat * 65536))

/-- FP32 to BF16 (`to_bf16` of R88, R75). -/
def toBf16 (x : W32) (mode : Rm) (u : Nat) : W16 :=
  match f32 x with
  | .nan => nan16
  | .inf s => if s then 0xFF80#16 else 0x7F80#16
  | .fin s m e =>
    let r := rndMag ⟨s, m, 1, e⟩ 7 (-126) mode u
    let w := if r.ge2 128 then inf32 s else if r.ge2 (-126) then packNormal s r else zero32 s
    BitVec.ofNat 16 (w.toNat / 65536)

/-- An exact result rounded once to BF16 precision, held as FP32 (R128, BF16 chains and RNDB). -/
def Ex.bf16 (x : Ex) (mode : Rm := .rne) (u : Nat := 0) : W32 :=
  match x with
  | .nan => nan32
  | .inf s => inf32 s
  | .val q =>
    let r := rndMag q 7 (-126) mode u
    if r.ge2 128 then inf32 q.neg else if r.ge2 (-126) then packNormal q.neg r else zero32 q.neg

/-- Is a value exact in BF16, so that SR draws no word for it (R77)? Specials are exact. -/
def bf16Exact (x : W32) : Bool :=
  match f32 x with
  | .fin s m e => exactAt ⟨s, m, 1, e⟩ 7 (-126)
  | _ => true

/-- One bit of the integer square root, from bit `i` downward. -/
def isqrtGo (n : Nat) : Nat → Nat → Nat
  | 0, r => r
  | i + 1, r =>
    let t := r + 2 ^ i
    isqrtGo n i (if t * t ≤ n then t else r)

/-- Integer square root. -/
def isqrt (n : Nat) : Nat := isqrtGo n (n.log2 / 2 + 1) 0

/-- The square root of a positive exact value, kept to far more bits than any format has, with a sticky last bit, so
that one rounding of it is the correctly rounded root. -/
def Q.sqrt (q : Q) : Q :=
  let e' := q.e.fdiv 2
  let n := if q.e % 2 = 0 then q.n else 2 * q.n
  let k := 200 + q.d.log2
  let s := isqrt (n * 4 ^ k / q.d)
  ⟨false, 2 * s + (if s * s * q.d = n * 4 ^ k then 0 else 1), 1, e' - k - 1⟩

/-- Correctly rounded square root of an FP32 word. -/
def fsqrt (a : W32) : W32 :=
  match f32 a with
  | .nan => nan32
  | .inf s => if s then nan32 else inf32 false
  | .fin s m e => if m = 0 then zero32 s else if s then nan32 else packQ (Q.sqrt ⟨false, m, 1, e⟩)

/-- FP32 of a small natural number (exact below 2^24, else rounded to nearest even). -/
def ofNat32 (n : Nat) : W32 := packQ ⟨false, n, 1, 0⟩

/-! ## Function stages (R129): the correctly rounded value, by an interval much narrower than any rounding interval -/

/-- Fraction bits of the fixed-point work of the function stages. -/
def fxBits : Nat := 400

/-- Sum of `Z^k / k!` in fixed point: `term` is the current term, `k` its index. -/
def expSeries (z : Nat) : Nat → Nat → Nat → Nat → Nat
  | 0, _, _, acc => acc
  | fuel + 1, k, term, acc =>
    let t := term * z / (k + 1) / 2 ^ fxBits
    expSeries z fuel (k + 1) t (acc + t)

/-- Square in fixed point, `n` times. -/
def sqrTimes : Nat → Nat → Nat
  | 0, x => x
  | n + 1, x => sqrTimes n (x * x / 2 ^ fxBits)

/-- `e^y` in fixed point, for `y` in fixed point below `2^8`. -/
def expFx (y : Nat) : Nat := sqrTimes 16 (expSeries (y / 2 ^ 16) 48 0 (2 ^ fxBits) (2 ^ fxBits))

/-- Sum of `z^(2k+1) / (2k+1)` in fixed point: `p` is `z^(2k+1)`. -/
def atanhSeries (zz : Nat) : Nat → Nat → Nat → Nat → Nat
  | 0, _, _, acc => acc
  | fuel + 1, k, p, acc => atanhSeries zz fuel (k + 1) (p * zz / 2 ^ fxBits) (acc + p / (2 * k + 1))

/-- `ln((1 + z) / (1 - z))` in fixed point, for `z` in fixed point at most 1/3. -/
def lnFx (z : Nat) : Nat := 2 * atanhSeries (z * z / 2 ^ fxBits) 130 0 z 0

/-- `ln 2` in fixed point. -/
def ln2Fx : Nat := lnFx (2 ^ fxBits / 3)

/-- Round the value known to lie within `2^-250` of `n / d` (relative to `n`): the two ends round alike for every FP32
input, and the lower end is taken. -/
def packNear (neg : Bool) (n d : Nat) (e : Int) : W32 := packQ ⟨neg, n - n / 2 ^ 250, d, e⟩

/-- A finite positive magnitude `m * 2^e` in fixed point (exact: `e` is at least -149). -/
def toFx (m : Nat) (e : Int) : Nat :=
  if 0 ≤ e + fxBits then m * 2 ^ (e + fxBits).toNat else m / 2 ^ (-(e + fxBits)).toNat

/-- `e^x` of a finite `x`, rounded to nearest even. -/
def expVal (neg : Bool) (m : Nat) (e : Int) : W32 :=
  if m = 0 then 0x3F800000#32
  else if 8 ≤ flog2 m 1 + e then (if neg then zero32 false else inf32 false)
  else if flog2 m 1 + e < -40 then 0x3F800000#32
  else
    let t := expFx (toFx m e)
    if neg then packNear false (2 ^ fxBits) t 0 else packNear false t 1 (-(fxBits : Int))

/-- EXP (R129). -/
def fexp (a : W32) : W32 :=
  match f32 a with
  | .nan => nan32
  | .inf s => if s then zero32 false else inf32 false
  | .fin s m e => expVal s m e

/-- EXP2 (R129): the integer part moves the exponent, the rest is `e^(f ln 2)`. -/
def fexp2 (a : W32) : W32 :=
  match f32 a with
  | .nan => nan32
  | .inf s => if s then zero32 false else inf32 false
  | .fin s m e =>
    if m = 0 then 0x3F800000#32
    else if 9 ≤ flog2 m 1 + e then (if s then zero32 false else inf32 false)
    else
      let y := toFx m e
      let k := y / 2 ^ fxBits
      let f := y % 2 ^ fxBits
      if f = 0 then packQ ⟨false, 1, 1, if s then -(k : Int) else k⟩
      else
        let t := expFx (f * ln2Fx / 2 ^ fxBits)
        if s then packNear false (2 ^ fxBits) t (-(k : Int)) else packNear false t 1 ((k : Int) - fxBits)

/-- LOG2 (R129). -/
def flog2W (a : W32) : W32 :=
  match f32 a with
  | .nan => nan32
  | .inf s => if s then nan32 else inf32 false
  | .fin s m e =>
    if m = 0 then inf32 true
    else if s then nan32
    else
      let k : Int := (m.log2 : Int) + e
      let one := 2 ^ m.log2
      if m = one then packQ ⟨decide (k < 0), k.natAbs, 1, 0⟩
      else
        let l := lnFx ((m - one) * 2 ^ fxBits / (m + one)) * 2 ^ fxBits / ln2Fx
        if 0 ≤ k then packNear false (k.toNat * 2 ^ fxBits + l) 1 (-(fxBits : Int))
        else packNear true ((-k).toNat * 2 ^ fxBits - l) 1 (-(fxBits : Int))

/-- TANH (R129). -/
def ftanh (a : W32) : W32 :=
  match f32 a with
  | .nan => nan32
  | .inf s => if s then 0xBF800000#32 else 0x3F800000#32
  | .fin s m e =>
    if m = 0 then zero32 s
    else if 5 ≤ flog2 m 1 + e then (if s then 0xBF800000#32 else 0x3F800000#32)
    else if flog2 m 1 + e < -14 then packQ ⟨s, 3 * m * 2 ^ 60 - m * m * m * 2 ^ (60 + 2 * e + 400).toNat / 2 ^ 400, 3, e - 60⟩
    else
      let t := expFx (toFx m (e + 1))
      packNear s (t - 2 ^ fxBits) (t + 2 ^ fxBits) 0

/-- SIGM (R129). -/
def fsigm (a : W32) : W32 :=
  match f32 a with
  | .nan => nan32
  | .inf s => if s then zero32 false else 0x3F800000#32
  | .fin s m e =>
    if m = 0 then 0x3F000000#32
    else if 8 ≤ flog2 m 1 + e then (if s then zero32 false else 0x3F800000#32)
    else
      let t := expFx (toFx m e)
      if s then packNear false (2 ^ fxBits) (t + 2 ^ fxBits) 0 else packNear false t (t + 2 ^ fxBits) 0

/-- RCP (R129). -/
def frcp (a : W32) : W32 := fdiv 0x3F800000#32 a

/-- RSQ (R129). -/
def frsq (a : W32) : W32 :=
  match f32 a with
  | .nan => nan32
  | .inf s => if s then nan32 else zero32 false
  | .fin s m e => if m = 0 then inf32 s else if s then nan32 else packQ (Q.sqrt ⟨false, 1, m, -e⟩)

/-- EXPD (R129): `e^(a - b)` with the difference first rounded to FP32. -/
def fexpd (a b : W32) : W32 :=
  match f32 a, f32 b with
  | .inf s, .inf s' => if s = s' then (if s then zero32 false else 0x3F800000#32) else fexp (fsub a b)
  | _, _ => fexp (fsub a b)

/-- NRM (R129): `a / b`, with +0 and a raised flag when both are zero. -/
def fnrm (a b : W32) : W32 × Bool :=
  match f32 a, f32 b with
  | .fin _ 0 _, .fin _ 0 _ => (zero32 false, true)
  | _, _ => (fdiv a b, false)

/-- `fp32_rne(1 / (1 - b^n))` for a finite word `b` in [0, 1) (R248). -/
def biasCorr (b : W32) (n : Nat) : W32 :=
  match f32 b with
  | .fin _ 0 _ => 0x3F800000#32
  | .fin false m e =>
      -- b = m / 2^k with k > 0, so 1 / (1 - b^n) = 2^(kn) / (2^(kn) - m^n)
      let kn := (-e).toNat * n
      if m ^ n < 2 ^ kn then packQ ⟨false, 2 ^ kn, 2 ^ kn - m ^ n, 0⟩ else inf32 false
  | _ => nan32

end Sys2Proof.Machine
end

