-- ==== Sys2Proof/Machine/Narrow.lean ====
section
/-! DEFINITION. Narrow formats, block scales, scale records and residues (R71 to R73, R78 to R88). -/

namespace Sys2Proof.Machine

/-- The five narrow element formats of R71. -/
inductive Nf where
  | e2m1 | e4m3 | e5m2 | e3m2 | e2m3
deriving DecidableEq, Repr

/-- Fraction bits. -/
def Nf.mbits : Nf → Nat
  | .e2m1 => 1 | .e4m3 => 3 | .e5m2 => 2 | .e3m2 => 2 | .e2m3 => 3
/-- Exponent bits. -/
def Nf.ebits : Nf → Nat
  | .e2m1 => 2 | .e4m3 => 4 | .e5m2 => 5 | .e3m2 => 3 | .e2m3 => 2
/-- Exponent bias. -/
def Nf.bias : Nf → Int
  | .e2m1 => 1 | .e4m3 => 7 | .e5m2 => 15 | .e3m2 => 3 | .e2m3 => 1
/-- Lowest normal exponent. -/
def Nf.emin : Nf → Int
  | .e2m1 => 0 | .e4m3 => -6 | .e5m2 => -14 | .e3m2 => -2 | .e2m3 => 0
/-- Highest normal exponent. -/
def Nf.emax : Nf → Int
  | .e2m1 => 2 | .e4m3 => 8 | .e5m2 => 15 | .e3m2 => 4 | .e2m3 => 2
/-- Code of the largest finite magnitude. -/
def Nf.maxCode : Nf → Nat
  | .e2m1 => 0x7 | .e4m3 => 0x7E | .e5m2 => 0x7B | .e3m2 => 0x1F | .e2m3 => 0x1F
/-- Bits of one element in a tile store (R73: FP6 takes a byte). -/
def Nf.storeBits : Nf → Nat
  | .e2m1 => 4 | _ => 8
/-- Position of the sign bit in a code. -/
def Nf.signBit (f : Nf) : Nat := f.ebits + f.mbits

/-- The magnitude that a code's exponent and fraction stand for, as `r * 2^g`. -/
def Nf.mag (f : Nf) (c : Nat) : Rd :=
  let fr := c % 2 ^ f.mbits
  let ex := c / 2 ^ f.mbits % 2 ^ f.ebits
  if ex = 0 then ⟨fr, f.emin - f.mbits⟩ else ⟨2 ^ f.mbits + fr, (ex : Int) - f.bias - f.mbits⟩

/-- Sign of a code. -/
def Nf.sign (f : Nf) (c : Nat) : Bool := c.testBit f.signBit

/-- `value` of R88: the exact value of a code that is no special. -/
def Nf.value (f : Nf) (c : Nat) : Q :=
  let m := f.mag c
  ⟨f.sign c, m.r, 1, m.g⟩

/-- `is_special` and `special` of R88: the E4M3 NaN, and the E5M2 infinities and NaNs (R80). -/
def Nf.special (f : Nf) (c : Nat) : Option W32 :=
  match f with
  | .e4m3 => if c % 128 = 127 then some nan32 else none
  | .e5m2 =>
    if c / 4 % 32 = 31 then (if c % 4 = 0 then some (inf32 (f.sign c)) else some nan32) else none
  | _ => none

/-- Is `r * 2^g` above `s * 2^h`? -/
def Rd.gt (a b : Rd) : Bool := decide (shl2 b.r (b.g - a.g) < shl2 a.r (a.g - b.g))

/-- Code of a magnitude that the format represents. -/
def Nf.encodeMag (f : Nf) (neg : Bool) (x : Rd) : Nat :=
  let s := if neg then 2 ^ f.signBit else 0
  if x.r = 0 then s
  else
    let l : Int := x.r.log2
    if l + x.g < f.emin then s + x.r
    else
      let fr := if l ≤ f.mbits then x.r * 2 ^ ((f.mbits : Int) - l).toNat else x.r / 2 ^ (l - f.mbits).toNat
      s + (l + x.g + f.bias).toNat * 2 ^ f.mbits + fr % 2 ^ f.mbits

/-- A scale code's exponent. -/
def scaleExp (x : Nat) : Int := (x : Int) - 127

/-- `quant_elem` of R88 (R78): the code and whether the element overflowed, of a finite word `v`. -/
def quantElem (v : W32) (x : Nat) (f : Nf) (mode : Rm) (u : Nat) : Nat × Bool :=
  match f32 v with
  | .fin s m e =>
    let r := rndMag ⟨s, m, 1, e - scaleExp x⟩ f.mbits f.emin mode u
    if r.gt (f.mag f.maxCode) then ((if s then 2 ^ f.signBit else 0) + f.maxCode, true)
    else (f.encodeMag s r, false)
  | _ => (0, false)

/-- Is the element exact under the scale, so that SR draws no word for it (R77)? -/
def quantExact (v : W32) (x : Nat) (f : Nf) : Bool :=
  match f32 v with
  | .fin s m e => exactAt ⟨s, m, 1, e - scaleExp x⟩ f.mbits f.emin
  | _ => true

/-- `decode` of R88 (R80). -/
def decodeNarrow (f : Nf) (c : Nat) (x : Nat) : W32 :=
  if x = 255 then nan32
  else
    match f.special c with
    | some w => w
    | none => let q := f.value c; packQ ⟨q.neg, q.n, 1, q.e + scaleExp x⟩

/-- Clamp a scale exponent into a code (R88). -/
def scaleCode (x : Int) : Nat := (max 0 (min 254 (x + 127))).toNat

/-- `fit_scale` of R88; `a` is a flushed finite magnitude. -/
def fitScale (a : W32) (f : Nf) : Nat :=
  match f32 a with
  | .fin _ 0 _ => 0x7F
  | .fin _ m e =>
    let x := expOf a - f.emax
    let mx := f.mag f.maxCode
    scaleCode (if Rd.gt ⟨m, e⟩ ⟨mx.r, mx.g + x⟩ then x + 1 else x)
  | _ => 0x7F

/-- `est_log` of R88. -/
def estLog (a : W32) : Int :=
  if bitsOf a.toNat 30 23 = 0 then -32768
  else
    let l := 256 * expOf a + (bitsOf a.toNat 22 15 : Int)
    min (if bitsOf a.toNat 14 0 = 0 then l else l + 1) 32767

/-- `scale_from_log` of R88; the shift floors. -/
def scaleFromLog (l : Int) (f : Nf) : Nat := scaleCode (l.fdiv 256 + 2 - f.emax)

/-- A scale record (R82); reserved bits read as zero. -/
structure ScaleRec where
  scale : Nat
  fresh : Bool
  ovf : Bool
  nanb : Bool
  lest : Int
deriving DecidableEq, Repr

/-- The record in a 32-bit word. -/
def ScaleRec.ofWord (w : W32) : ScaleRec :=
  ⟨bitsOf w.toNat 31 24, w.toNat.testBit 23, w.toNat.testBit 22, w.toNat.testBit 21, (w.setWidth 16).toInt⟩

/-- The word of a record, reserved bits zero (R82). -/
def ScaleRec.toWord (r : ScaleRec) : W32 :=
  BitVec.ofNat 32 (r.scale * 2 ^ 24 + (if r.fresh then 2 ^ 23 else 0) + (if r.ovf then 2 ^ 22 else 0)
    + (if r.nanb then 2 ^ 21 else 0) + (BitVec.ofInt 16 r.lest).toNat)

/-- The largest magnitude of flushed finite words. -/
def maxAbs (vs : List W32) : W32 :=
  vs.foldl (fun a v => let v := flush v &&& 0x7FFFFFFF#32; if a.toNat < v.toNat then v else a) 0

/-- Does a block hold a NaN or an infinity (R79)? -/
def blockNonFinite (vs : List W32) : Bool := vs.any fun v => !isFin v

/-- The outcome of quantising one block: the codes, the scale byte and whether an element overflowed. -/
structure QBlock where
  codes : List Nat
  scale : Nat
  ovf : Bool
  nan : Bool
deriving DecidableEq, Repr

/-- Quantise a finite block under scale code `x` with one random word an element. -/
def quantBlock (vs : List W32) (us : List Nat) (x : Nat) (f : Nf) (mode : Rm) : QBlock :=
  let cs := (vs.zip us).map fun vu => quantElem vu.1 x f mode vu.2
  ⟨cs.map (·.1), x, cs.any (·.2), false⟩

/-- A NaN block (R79): scale code 0xFF and +0 codes. -/
def nanBlock (vs : List W32) : QBlock := ⟨vs.map fun _ => 0, 255, false, true⟩

/-- `run_use` of R88 (R83, R84). -/
def runUse (rec : ScaleRec) (vs : List W32) (us : List Nat) (f : Nf) (mode : Rm) (dec : Nat) : QBlock × ScaleRec :=
  if blockNonFinite vs then (nanBlock vs, { rec with nanb := true })
  else
    let a := maxAbs vs
    let x := if rec.fresh then fitScale a f else rec.scale
    let b := quantBlock vs us x f mode
    let la := estLog a
    let l := if rec.fresh || decide (rec.lest = -32768) then la else max la (max (rec.lest - dec) (-32767))
    let ns := if l = -32768 then x else scaleFromLog l f
    let ns := if b.ovf then max ns (min (x + 1) 254) else ns
    (b, ⟨ns, decide (l = -32768), b.ovf, false, l⟩)

/-- `exp_of_bf16` of R86, at least -126, less 15. -/
def resExp (w : W16) : Int := max ((bitsOf w.toNat 14 7 : Int) - 127) (-126) - 15

/-- Is an FP32 word a negative zero (after flush)? -/
def isNegZero (b : W32) : Bool := decide (f32 b = .fin true 0 0)

/-- Nearest integer to `num / den`, ties to even, for positive `den`. -/
def roundHalfEven (num : Int) (den : Nat) : Int :=
  let q := num.fdiv den
  let r := num - q * den
  if 2 * r > den then q + 1 else if 2 * r = den && q % 2 = 1 then q + 1 else q

/-- `residue_add` of R88 (R86, R87). -/
def residueAdd (w : W16) (r : Byte) (d : W32) : W16 × Byte :=
  let wf := ofBf16 w
  match f32 wf, f32 d with
  | .fin sw mw ew, .fin sd md ed =>
    let k := resExp w
    let rq : Q := ⟨decide (r.toInt < 0), r.toInt.natAbs, 1, k⟩
    let zneg := isNegZero wf && isNegZero d
    let sum := ((⟨sw, mw, 1, ew⟩ : Q).add rq false).add ⟨sd, md, 1, ed⟩ zneg
    let s := packQ (if sum.n = 0 then ⟨zneg, 0, 1, 0⟩ else sum)
    let w' := toBf16 s .rne 0
    if isInf (ofBf16 w') then (w', 0)
    else
      let k' := resExp w'
      let df := (f32 s).q.add ⟨!(f32 (ofBf16 w')).neg, (f32 (ofBf16 w')).q.n, 1, (f32 (ofBf16 w')).q.e⟩ false
      let num : Int := if df.neg then -((shl2 df.n (df.e - k') : Nat) : Int) else (shl2 df.n (df.e - k') : Nat)
      (w', BitVec.ofInt 8 (max (-128) (min 127 (roundHalfEven num (shr2 1 (df.e - k'))))))
  | _, _ => (toBf16 (fadd wf d) .rne 0, 0)

/-- The represented value of a weight with its residue, `w + r * 2^k` (R253), exact. -/
def resValue (w : W16) (r : Byte) : Q :=
  (f32 (ofBf16 w)).q.add ⟨decide (r.toInt < 0), r.toInt.natAbs, 1, resExp w⟩ false

end Sys2Proof.Machine
end

