-- ==== Sys2Proof/Machine/StateTile.lean ====
section
/-! DEFINITION. The state of one tile (R36 to R70, R141, R171 to R200, R448 to R451, R461). All of it is plain data. -/

namespace Sys2Proof.Machine

/-- A protected 64-bit word: its data and its poison mark (R50, R216). -/
structure PWord where
  d : W64
  p : Bool
deriving DecidableEq, Repr

/-- The word zero with valid check bits. -/
def pw0 : PWord := ⟨0, false⟩

/-- A Gallery flit: header and a payload of one store row, eight words (R153). The last three fields are the model's
own, with no place in the header: the edge row that a flit for another module leaves by (R358), the port that offered
the flit (its link key), and the number of the stream transfer it belongs to, plus one. -/
structure Flit where
  hdr : W64
  pay : List PWord
  row : BitVec 3
  src : Nat := 0
  ins : Nat := 0
deriving DecidableEq, Repr

/-- What a tile's core is doing. -/
inductive Phase where
  /-- No image has been given to the tile, or a fault has stopped it. -/
  | off
  /-- Compute phase: instructions issue. -/
  | issue
  /-- END has issued; the tile has not yet arrived (R98). -/
  | ended
  /-- The tile has arrived at its barrier (R17). -/
  | arrived
  /-- The barrier with PARK or CLOSE has released and the tile waits for a service (R390). -/
  | parked
deriving DecidableEq, Repr

/-- The three forms of WAIT (R177). -/
inductive WaitKind where
  | consume | peek | ge
deriving DecidableEq, Repr

/-- A WAIT that holds the tile core, with the values taken at issue (R178). -/
structure HeldWait where
  kind : WaitKind
  obj : BitVec 8
  n : W32
  rd : Reg
deriving DecidableEq, Repr

/-- An active-message handler in progress: its return point and the queue it serves (R192). -/
structure HandlerRun where
  ret : Nat
  q : BitVec 2
  /-- Flits of the entered message that the handler has not taken. -/
  left : Nat
deriving DecidableEq, Repr

/-- Tile core (R36, R37, R96 to R98). -/
structure TCore where
  phase : Phase
  pc : Nat
  /-- Word address of the header of the superstep in progress. -/
  hdr : Nat
  regs : Assoc W64
  /-- Scalar registers with a write pending from an engine (R40). -/
  pend : Assoc Bool
  /-- Barrier releases received since the image started (RDSS). -/
  ss : Nat
  held : Option HeldWait
  /-- A POLL is at issue and a handler waits to be entered. -/
  poll : Bool
  hnd : Option HandlerRun
  /-- EXCHANGE_BEGIN has happened in this superstep (R16). -/
  xbegun : Bool
  /-- Non-finite bit (R266). -/
  nf : Bool
  /-- The tile has raised a fault (TIL_STATE.FAULT, R448). -/
  faulted : Bool
  /-- The correction of the word at issue has held the issue stage (R29, R94). -/
  fixed : Bool
deriving DecidableEq, Repr

/-- Store rows that an issued instruction has still to read or to write (R55). A row key is `4096 * store + row`. -/
structure Access where
  seq : Nat
  rd : List Nat
  wr : List Nat
deriving DecidableEq, Repr

/-- The four matrix element forms. -/
inductive MmaKind where
  | f4 | f8 | b16 | s4
deriving DecidableEq, Repr

/-- How far an MXE operation has come (R113). -/
inductive MxeStage where
  | queued | loaded | running | draining
deriving DecidableEq, Repr

/-- An MXE operation with the values taken at issue (R38, R104). -/
structure MxeOp where
  seq : Nat
  kind : MmaKind
  f : MmaF
  acc : Bool
  aoff : Nat
  woff : Nat
  mv : Nat
  msk : W64
  hA : W64
  hA1 : W64
  hW : W64
  hW1 : W64
  hW2 : W64
  /-- Array occupancy O (R112). -/
  occ : Nat
  stage : MxeStage
deriving DecidableEq, Repr

/-- One accumulator cell: FP32 value and poison mark (R104, R107). -/
structure ACell where
  v : W32
  z : Bool
deriving DecidableEq, Repr

/-- Matrix engine: queue, the accumulator that the next operation uses, the two blocks (cell (m, n) at `32 * m + n`; a
cell not listed is clean +0), the heavy-unit token and its request (R38, R66, R67, R112). -/
structure Mxe where
  ops : List MxeOp
  nextAcc : Bool
  acc0 : List ACell
  acc1 : List ACell
  token : Bool
  requested : Bool
  /-- Tally value since which the MXE has been idle. -/
  idleFrom : Nat
  /-- MXE_BUSY when the operation whose array work comes next, or runs, began to be counted (R138). -/
  busy0 : Nat
deriving DecidableEq, Repr

/-- The four reductions (R132). -/
inductive RdxOp where
  | sum | ssq | max | amax
deriving DecidableEq, Repr

/-- An RDX with the values taken at issue. -/
structure RdxEnt where
  seq : Nat
  op : RdxOp
  f : RdxF
  he : W64
  off : W64
deriving DecidableEq, Repr

/-- A row result of the RDU that is still to be written (R134, R135). -/
structure RduRes where
  ent : RdxEnt
  row : Nat
  last : Bool
  v : W32
  poison : Bool
  /-- NF-sense was 1 in the superstep of the paired chain (R266). -/
  nfs : Bool
deriving DecidableEq, Repr

/-- Reduction unit: RDX instructions issued and not paired, and row results still to be written. -/
structure Rdu where
  unpaired : List RdxEnt
  results : List RduRes
deriving DecidableEq, Repr

/-- The values one stage took at issue: s[SO] and the entries of handles H, H + 1 and H + 2. -/
structure StageVals where
  so : W64
  h0 : W64
  h1 : W64
  h2 : W64
deriving DecidableEq, Repr

/-- A VCH with the values taken at issue (R38, R117, R142). -/
structure VchOp where
  seq : Nat
  pc : Nat
  f : VchF
  stages : List (Stage × StageVals)
  b : List W32
  nr : Nat
  vlen : Nat
  /-- Groups of the chain (R114). -/
  groups : Nat
  sc : W64
  seed : W64
  rdx : Option RdxEnt
  nfs : Bool
deriving DecidableEq, Repr

/-- Vector engine: VLEN, the queue, a release of the FTQ head that is due (R116, R131), and VXE_BUSY when the oldest VCH
began to be counted (R138). -/
structure Vxe where
  vlen : Nat
  ops : List VchOp
  relDue : Bool
  busy0 : Nat
deriving DecidableEq, Repr

/-- The RNG functions that write a buffer. -/
inductive RngFn where
  | bits | uni | mask
deriving DecidableEq, Repr

/-- An RNG instruction with the values taken at issue (R146, R147). -/
structure RngOp where
  seq : Nat
  pc : Nat
  fn : RngFn
  fmt : Bool
  he : W64
  off : W64
  st : W64
  sc : W64
  nr : Nat
  ne : Nat
  keep : W32
  seed : W64
deriving DecidableEq, Repr

/-- A stream transfer that the look-ahead pointer has passed or that has issued (R46 to R49, R220, R221). -/
structure StrEnt where
  id : Nat
  pc : Nat
  put : Bool
  /-- The issue number once the instruction has issued. -/
  seq : Option Nat
  h : Hdl
  he : W64
  sa : Nat
  desc : W64
  pol : BitVec 2
  p6 : Bool
  /-- GET: line requests formed. PUT: rows taken. -/
  formed : Nat
  /-- Lines landed or accepted. -/
  done : List Nat
  /-- PUT: rows taken and not yet sent, oldest first. -/
  rows : List (List PWord)
  /-- PUT: a nonzero pad bit has been counted for the instruction (R223). -/
  padded : Bool
deriving DecidableEq, Repr

/-- A line request outstanding under a tag, and whether it is a write. -/
structure LineRef where
  ent : Nat
  line : Nat
  addr : Nat
  wr : Bool
deriving DecidableEq, Repr

/-- Stream unit. -/
structure StreamU where
  ents : List StrEnt
  tags : Assoc (Option LineRef)
  nextTag : Nat
  nextId : Nat
  /-- The look-ahead pointer, and the words it has passed that have not issued, oldest first (R46). -/
  la : Nat
  path : List Nat
deriving DecidableEq, Repr

/-- A message in an inbound queue, in the order reservations were granted (R190). -/
structure QMsg where
  src : Gta
  act : Bool
  hidx : BitVec 4
  /-- Flits of the message. -/
  len : Nat
  spl : Bool
  cmb : Bool
  /-- Flits that have arrived, in order, and how many of them RECV has taken. -/
  flits : List (List PWord)
  taken : Nat
deriving DecidableEq, Repr

/-- One inbound message queue (R188 to R196). -/
structure MsgQ where
  msgs : List QMsg
  /-- Tally value of the first BUSY answer for lack of entries without a GRANT since. -/
  busyFrom : Option Nat
  /-- Requests refused since then. -/
  refused : Nat
  spilling : Bool
  /-- RING_FULL has been raised for this spill. -/
  fullRaised : Bool
  /-- Ring records placed since the spill began, and those read back into the queue. -/
  placed : Nat
  readBack : Nat
deriving DecidableEq, Repr

/-- A record of the overflow ring that has not been read back (R196). -/
structure RingRec where
  off : Nat
  units : Nat
  pad : Bool
  q : BitVec 2
  src : Gta
  len : Nat
  act : Bool
  hidx : BitVec 4
  /-- Units of the record that have been written. -/
  got : Nat
deriving DecidableEq, Repr

/-- The overflow ring of a tile: head, tail, SEQ and the records between them, oldest first. -/
structure OvRing where
  head : Nat
  tail : Nat
  seq : Nat
  recs : List RingRec
deriving DecidableEq, Repr

/-- What one lane of a combining slot has gathered: for the FP32 sum whether a NaN or an infinity has come, whether only negative
zeros have, and the exact sum in units of 2^-149; else the u32 sum or the maximum (R194). -/
structure LaneAcc where
  nan : Bool
  pinf : Bool
  ninf : Bool
  negz : Bool
  sum : Int
  w : W32
deriving DecidableEq, Repr

/-- A combining slot of queue 3: its accumulators, and which words of the result are poisoned (R194). -/
structure CSlot where
  armed : Bool
  n : Nat
  opk : Nat
  cnt : Nat
  acc : List LaneAcc
  poison : List Bool
  /-- A result that waits for a free entry. -/
  result : Option (List PWord)
deriving DecidableEq, Repr

/-- The kinds of MSG that reserve (R189). -/
inductive MsgKind where
  | send | asend | cadd
deriving DecidableEq, Repr

/-- The one reservation that a tile may have outstanding, with the values taken at issue (R189). -/
structure Resv where
  kind : MsgKind
  dst : Gta
  q : BitVec 2
  /-- Handler index, or SLOT and OPK. -/
  hx : BitVec 4
  len : Nat
  n : Nat
  /-- Issue number, the keys of the source rows, and the findings of their read. -/
  seq : Nat
  keys : List Nat
  errs : List StoreErr
  /-- A BUSY answer has arrived; the request goes again at this tally value. -/
  retryAt : Option Nat
deriving DecidableEq, Repr

/-- What the sync port has still to do, with the values taken at issue (R38, R191). -/
inductive SyncOp where
  /-- RECV: first register, queue, tag register. -/
  | recv (rt : Reg) (q : BitVec 2) (so : Reg)
  /-- SIG SIGNAL: its flit. -/
  | send (fl : Flit)
  /-- SIG PUT and PUTH: issue number, fields, receiver, first destination row, the keys of the source rows, and the findings of
  their read. -/
  | put (seq : Nat) (hx : Bool) (f : PutF) (dst : Gta) (drow : Nat) (keys : List Nat) (errs : List StoreErr)
  /-- A message that has been granted, or that goes to the given device address of a ring with the given SEQ (R189). -/
  | msg (r : Resv) (ring : Option (Nat × Nat))
  /-- The place of a WAIT, which has been evaluated at issue. -/
  | place
  /-- A ring record whose writes, tagged for transfer `id`, have not all been accepted: what follows is ordered behind it (R181). -/
  | acks (id : Nat)
deriving DecidableEq, Repr

/-- Is the instruction of the entry complete, so that it keeps no place in the command queue and holds no barrier (R98, R189)? -/
def SyncOp.complete : SyncOp → Bool
  | .acks _ => true
  | _ => false

/-- Sync and message port, signal objects, queues, slots and handlers. -/
structure Belfry where
  p : Assoc W32
  c : Assoc W32
  q : Assoc MsgQ
  ring : OvRing
  slots : Assoc CSlot
  handlers : Assoc (Option Nat)
  resv : Option Resv
  syncq : List SyncOp
deriving DecidableEq, Repr

/-- Tile counters (R461), in the order of the tile window, then the three busy counters. -/
structure TCtr where
  tally : Nat
  sEcc : Nat
  sLan : Nat
  sMem : Nat
  sXchg : Nat
  sPower : Nat
  sFtq : Nat
  sQueue : Nat
  sSync : Nat
  mxeBusy : Nat
  vxeBusy : Nat
  nOvf : Nat
  nNan : Nat
  poisonIn : Nat
  masked : Nat
  rngBlocks : Nat
  fp6Pad : Nat
  hMiss : Nat
  dbgSig : Nat
  bankConf : Nat
  rduBusy : Nat
  strBusy : Nat
  syncBusy : Nat
deriving DecidableEq, Repr

/-- The tile window's own registers (R448 to R451). -/
structure TDbg where
  snap : List Nat
  sel : W64
  d0 : W64
  d1 : W64
  sigVal : W64
  sigRes : W64
deriving DecidableEq, Repr

/-- One tile. -/
structure Tile where
  core : TCore
  imem : Assoc W64
  w : Assoc PWord
  a : Assoc PWord
  p : Assoc PWord
  /-- Words found uncorrectable and not yet written back as stored poison (R58). -/
  ue : List (StoreSel × Nat)
  mask : BitVec 24
  htab : Assoc W64
  /-- Landing counts (R56) and expected-item counts (R57). -/
  land : Assoc Nat
  expct : Assoc Nat
  seeds : Assoc W64
  /-- Instructions issued, and rows still to be read or written. -/
  seq : Nat
  acc : List Access
  mxe : Mxe
  ftq : List (BitVec 3)
  vxe : Vxe
  rdu : Rdu
  rng : List RngOp
  str : StreamU
  bel : Belfry
  ctr : TCtr
  dbg : TDbg
deriving DecidableEq, Repr

def TCore.empty : TCore := ⟨.off, 0, 0, [], [], 0, none, false, none, false, false, false, false⟩
def Mxe.empty : Mxe := ⟨[], false, [], [], false, false, 0, 0⟩
def MsgQ.empty : MsgQ := ⟨[], none, 0, false, false, 0, 0⟩
def LaneAcc.zero : LaneAcc := ⟨false, false, false, true, 0, 0⟩
def CSlot.empty : CSlot := ⟨false, 0, 0, 0, [], [], none⟩
def StreamU.empty : StreamU := ⟨[], [], 0, 0, 0, []⟩
def Belfry.empty : Belfry := ⟨[], [], [], ⟨0, 0, 0, []⟩, [], [], none, []⟩
def TCtr.zero : TCtr := ⟨0, 0, 0, 0, 0, 0, 0, 0, 0, 0, 0, 0, 0, 0, 0, 0, 0, 0, 0, 0, 0, 0, 0⟩
def TDbg.zero : TDbg := ⟨[], 0, 0, 0, 0, 0⟩

/-- A tile as a compute-domain reset leaves it: every item of tile state cleared, every segment powered down (R458). -/
def Tile.empty : Tile :=
  { core := .empty, imem := [], w := [], a := [], p := [], ue := [], mask := 0, htab := [], land := []
    expct := [], seeds := [], seq := 0, acc := [], mxe := .empty, ftq := [], vxe := ⟨64, [], false, 0⟩, rdu := ⟨[], []⟩
    rng := [], str := .empty, bel := .empty, ctr := .zero, dbg := .zero }

end Sys2Proof.Machine
end

