-- ==== Sys2Proof/Machine/StateNet.lean ====
section
/-! DEFINITION. The state of the Gallery, the token pools, the memory tiers and the error log. -/

namespace Sys2Proof.Machine

/-- The window of an output of a router (R158, R159): lane-slots gone, slots that VC0, VC1 and VC3 have had, the inputs whose VC3 head
has waited since the window began, and the input that each rotation served last, by side code plus one. -/
structure Win where
  used : Nat
  v0 : Nat
  v1 : Nat
  v3 : Nat
  old : List Nat
  last0 : Nat
  last1 : Nat
  last3 : Nat
deriving DecidableEq, Repr

/-- The Gallery. A link key is `64 * router + 4 * side + vc`: the flits at that input of that router, with those that its source has
offered and the router has not accepted behind them (R150, R161). -/
structure Net where
  links : Assoc (List Flit)
  /-- Flits that have reached a tile, key `4 * tile + vc`. -/
  ejects : Assoc (List Flit)
  /-- Flits that have left through an edge port, key `4 * port + vc` with `port` the seven bits die, side, position. -/
  edges : Assoc (List Flit)
  /-- Order-list entries used, by output key `16 * router + side` (R165). -/
  olPos : Assoc Nat
  /-- Items sent by an output and taken from an input in the superstep (R166). -/
  sent : Assoc Nat
  taken : Assoc Nat
  /-- Windows, by `16 * router + side code` of the output. -/
  wins : Assoc Win
  /-- Bridge ports operational (R444). -/
  bridgeUp : BitVec 32
  /-- Flit words corrected (GAL_CORR). -/
  corr : Nat
deriving DecidableEq, Repr

/-- A die's heavy-unit token pool (R65, R66): its size in this superstep and the requests that wait, oldest first. -/
structure Pool where
  size : Nat
  wait : List TileId
  /-- Requests that had to wait for a free token (PWR_TOKWAIT). -/
  waited : Nat
deriving DecidableEq, Repr

/-- One way of a tier-cache set. -/
structure CWay where
  line : Nat
  dirty : Bool
deriving DecidableEq, Repr

/-- One tier-cache set: sixteen ways and the pseudo-LRU tree (R203). -/
structure CSet where
  ways : Assoc (Option CWay)
  tree : BitVec 15
deriving DecidableEq, Repr

/-- A line read that waits at its home slice for a stack or a block (R204, R205). -/
structure LineReq where
  line : Nat
  pol : BitVec 2
  /-- Requester: REDGE and REQ (R227). -/
  edge : Bool
  req : Gta
  tag : Nat
  /-- A Lantern read. -/
  lan : Bool
  /-- A Lantern read at its slice or stack has deferred it at least once (R207). -/
  marked : Bool
  /-- The output that had a Lantern read at the same stack, at another slice, while this read waited (R207). -/
  near : Option Bool
deriving DecidableEq, Repr

/-- How far a block operation has come: it waits for one of the sixteen places, its stored units are being read, or its new units are
being written (R205, R214). -/
inductive OpStage where
  | queued | read | write
deriving DecidableEq, Repr

/-- A block operation at a slice (R205). -/
structure BlkOp where
  blk : Nat
  down : Bool
  /-- The policy of the request that missed. -/
  pol : BitVec 2
  waiting : List LineReq
  /-- Units whose UIO completion failed or timed out (R312). -/
  bad : List Nat
  stage : OpStage
  /-- The lines that a write-down took from the cache (R214). -/
  took : List Nat
  /-- A dirty line of the block has left the cache meanwhile: a write-down follows. -/
  again : Bool
deriving DecidableEq, Repr

/-- A UIO request of 64 B: block, unit, whether it is a write, the Type 3 device by its port-based-routing identifier, the address there,
and the eight words that a write carries (R209, R213, R312). -/
structure UioReq where
  blk : Nat
  unit : Nat
  write : Bool
  pbr : Nat
  addr : Nat
  data : List W64
deriving DecidableEq, Repr

/-- A line of 64 B that the host holds in its caches, and whether it may have modified it (R310). -/
structure SnoopEnt where
  line : Nat
  mod : Bool
deriving DecidableEq, Repr

/-- A home slice. -/
structure Slice where
  sets : Assoc CSet
  /-- Blocks whose tags the tag cache holds, newest first. -/
  tagc : List Nat
  /-- Tier H reads at the stack, oldest first. -/
  reads : List LineReq
  ops : List BlkOp
  /-- Words that wait to be written back corrected (R217) or as stored poison (R216). -/
  ceWb : List Nat
  ueWb : List Nat
  /-- UIO requests in flight for tier C blocks, and those that wait for one of the 1,024 places of the device (R308). -/
  uio : List UioReq
  uioq : List UioReq
deriving DecidableEq, Repr

/-- The three tiers: their bytes, poison marks by word address, Grotto tags by block, the home slices by slice number,
and the window of tier C. -/
structure Mem where
  bytes : List Host.Cell
  poison : Assoc Bool
  tags : Assoc W16
  slices : Assoc Slice
  hit : Nat
  miss : Nat
  refresh : Nat
  rfm : Nat
  gRefresh : Nat
  scrubs : Nat
  tierCio : Nat
  /-- Blocks whose first poisoned fetch has been logged (R218). -/
  poisonedBlks : Assoc Bool
  /-- The snoop filter, lines in the order the host took them, and back-invalidates without a response (R310). -/
  snoop : List SnoopEnt
  snooping : List Nat
  /-- Device writes of tier H that a fault made and that wait for a line the host holds, oldest first: address and bytes (R310). -/
  late : List (Nat × List Byte)
  /-- Words of four Grotto tags that are stored poison, by the number of their first block divided by four (R216, R218). -/
  tagPoison : Assoc Bool
  hTrained : Bool
  hCleared : Bool
  tagsZero : Bool
  /-- Tier H bytes remain to be cleared. -/
  clearing : Bool
deriving DecidableEq, Repr

/-- A log entry (R454). -/
structure LogEnt where
  time : Nat
  code : W16
  lkind : Byte
  flags : Byte
  loc : W32
  d0 : W64
  d1 : W64
deriving DecidableEq, Repr

/-- The error log and the ERR registers (R454 to R457). -/
structure Err where
  /-- Entries by ring index. -/
  log : Assoc (Option LogEnt)
  head : Nat
  tail : Nat
  drop : Nat
  alert : BitVec 9
  firstCode : W16
  firstLoc : W32
  ce : Nat
  ue : Nat
  faults : Nat
  /-- DEV_TIME_NS of the last MEM_CE logged, by `2^32 * LKIND + LOC`; stored plus one. -/
  lastCe : Assoc Nat
deriving DecidableEq, Repr

def Slice.empty : Slice := ⟨[], [], [], [], [], [], [], []⟩
def CSet.empty : CSet := ⟨[], 0⟩
def Win.empty : Win := ⟨0, 0, 0, 0, [], 0, 0, 0⟩
def Net.empty : Net := ⟨[], [], [], [], [], [], [], 0, 0⟩
def Pool.empty : Pool := ⟨0, [], 0⟩
def Mem.empty : Mem := ⟨[], [], [], [], 0, 0, 0, 0, 0, 0, 0, [], [], [], [], [], false, false, false, false⟩
def Err.empty : Err := ⟨[], 0, 0, 0, 0, 0, 0, 0, 0, 0, []⟩

end Sys2Proof.Machine
end

