-- ==== Sys2Proof/Machine/StateOpv.lean ====
section
/-! DEFINITION. The state of the two Opver ports and of the chain (R340 to R365, R444). -/

namespace Sys2Proof.Machine

/-- State of a port, as OPV_PORT_STAT codes it (R444). -/
inductive PortSt where
  | training | up | untrained | down
deriving DecidableEq, Repr

/-- Control messages (R346). -/
inductive Ctrl where
  | ident (src : Byte) (port : Bool) (straps : BitVec 4) (epoch : W32)
  /-- Sender's address, port state byte, straps, EPOCH of the down partner. -/
  | hello (src : Byte) (ports : BitVec 3) (straps : BitVec 4) (epoch : W32)
  | chainUp (n : Byte) (ring : Bool) (members : W16)
  | arrive (src : Byte) (nf fpv pre close : Bool) (rset : Byte) (ssnum : W64) (fprint : W64) (fpstep : W64)
  | release (nonfinite switch diverge : Bool) (divmask : W16) (ssnum : W64)
  | chainDown (src : Byte) (cause : Byte) (left : Byte)
deriving DecidableEq, Repr

/-- What a sequenced frame carries: nothing, up to three slots, each a flit with its edge row, or a control message. -/
inductive FrameBody where
  | idle
  | data (slots : List Flit)
  | ctrl (m : Ctrl)
deriving DecidableEq, Repr

/-- A frame sent: sequence number, what it carries, and the acknowledgement and credit fields of its header (R344). -/
structure Frame where
  seq : W16
  body : FrameBody
  nak : Bool
  ack : W16
  cr1 : Byte
  cr2 : Byte
  cr3 : Byte
deriving DecidableEq, Repr

/-- One Opver port. -/
structure OpvPort where
  st : PortSt
  /-- The EPOCH this port chose at power-up (R347). -/
  epoch : W32
  /-- Partner's address, EPOCH and port, once IDENT has come. -/
  paddr : Byte
  pepoch : W32
  ident : Bool
  /-- The link has trained and its partner's IDENT has not come since. -/
  awaitIdent : Bool
  /-- Direction of the port once the chain state is final: downstream, upstream or neither (R353, R357). -/
  dir : Option Bool
  /-- The link has been up since power-up. -/
  wasUp : Bool
  stale : Bool
  txSeq : W16
  rxSeq : W16
  /-- A NAK for the expected SEQ is to be sent, or has been sent. -/
  nakDue : Bool
  nakSent : Bool
  /-- The partner's NAK that has arrived and is not yet acted on. -/
  nakFrom : Option W16
  /-- The SEQ that the partner's last NAK named, and the NAKs in a row for it (R350). -/
  nakSeq : W16
  naked : Nat
  /-- The last SEQ acknowledged to the partner (R344). -/
  acked : W16
  /-- Refusals in a row of one SEQ, and failed retrains in a row (R350). -/
  refused : Nat
  retrains : Nat
  /-- Frames sent and not acknowledged, and every frame put on the wire, oldest first. -/
  replay : List Frame
  wire : List Frame
  /-- Frames that wait for the link, oldest first. -/
  waiting : List FrameBody
  /-- Receive slots that the partner has free, by VC 1 to 3, and slots freed here since the last report. -/
  credit : List Nat
  freed : List Nat
  /-- Control messages accepted and not yet acted on, oldest first. -/
  ctrl : List Ctrl
  /-- Flits that wait to leave: key `16 * vc + row`, with row 8 for flits passed through. -/
  out : Assoc (List Flit)
  /-- The window of the port's slots (R158, R364). -/
  win : Win
  /-- Order-list position, items sent, and items taken from each row or from the other port (R360). -/
  olPos : Nat
  sent : Nat
  taken : Assoc Nat
  retry : Nat
  fecCorr : Nat
  crcErr : Nat
deriving DecidableEq, Repr

/-- What a HELLO told module 0. -/
structure Hello where
  addr : Byte
  upTrained : Bool
  downTrained : Bool
  downIsHead : Bool
  downEpoch : W32
deriving DecidableEq, Repr

/-- What an ARRIVE told module 0 (R361). -/
structure Arrive where
  addr : Byte
  nf : Bool
  pre : Bool
  fpv : Bool
  rset : Byte
  fprint : W64
  fpstep : W64
  ssnum : W64
deriving DecidableEq, Repr

/-- The chain as this module sees it. -/
structure Opv where
  p0 : OpvPort
  p1 : OpvPort
  /-- The straps as sampled (R351). -/
  straps : BitVec 4
  sampled : Bool
  hasAddr : Bool
  /-- Addresses of the well-formed tokens received once since the strap window closed (R352). -/
  tokens : W16
  final : Bool
  /-- CHAIN_UP has come, or this module has formed a chain of more than one. -/
  chained : Bool
  ring : Bool
  n : Nat
  members : W16
  helloSent : Bool
  hellos : List Hello
  /-- Module 0: arrivals held for the barrier in progress. -/
  arrives : List Arrive
  /-- This module has arrived and sent ARRIVE in this superstep. -/
  arrived : Bool
  /-- CHAIN supersteps released so far by RELEASE or by this module, and the last RELEASE acted on. -/
  released : Option W64
  /-- NONFINITE and SWITCH of that RELEASE (R362). -/
  relNf : Bool
  relSw : Bool
  pulses : Nat
  pulseTime : Nat
  /-- CHAIN_FAULT_N is driven low; the token last sent, cell by cell, and tokens sent; pulses driven on CHAIN_TKN_OUT and on SYNC_OUT. -/
  chainFault : Bool
  tokenOut : List Bool
  tokensSent : Nat
  pulsesOut : Nat
  syncOut : Nat
  /-- Power-ups of the module so far: the argument of the free EPOCH. -/
  powerUps : Nat
deriving DecidableEq, Repr

def OpvPort.reset : OpvPort :=
  { st := .training, epoch := 0, paddr := 0xFF, pepoch := 0, ident := false, awaitIdent := false, dir := none, wasUp := false, stale := false, txSeq := 0
    rxSeq := 0, nakDue := false, nakSent := false, nakFrom := none, nakSeq := 0, naked := 0, acked := 0xFFFF, refused := 0, retrains := 0, replay := [], wire := []
    waiting := [], credit := [256, 256, 256], freed := [0, 0, 0], ctrl := [], out := [], win := Win.empty, olPos := 0, sent := 0, taken := []
    retry := 0, fecCorr := 0, crcErr := 0 }

def Opv.reset : Opv :=
  { p0 := .reset, p1 := .reset, straps := 0, sampled := false, hasAddr := false, tokens := 0, final := false
    chained := false, ring := false, n := 0, members := 0, helloSent := false, hellos := [], arrives := []
    arrived := false, released := none, relNf := false, relSw := false, pulses := 0, pulseTime := 0, chainFault := false, tokenOut := [], tokensSent := 0
    pulsesOut := 0, syncOut := 0, powerUps := 0 }

end Sys2Proof.Machine
end

