-- ==== Sys2Proof/Machine/StateSvc.lean ====
section
/-! DEFINITION. The state of Belfry's block counters, barrier waits and the scheduler (R33, R296 to R303, R443, R447). -/

namespace Sys2Proof.Machine

/-- Belfry's block counters (R443). -/
structure BelCtr where
  spills : Nat
  ringFull : Nat
deriving DecidableEq, Repr

/-- A barrier wait in progress (R33): DEV_TIME_NS of the first arrival, and whether BARRIER_SLOW has been raised. -/
structure BarWait where
  start : Nat
  raised : Bool
deriving DecidableEq, Repr

/-- Counters of one client (R302) and its place in the rotation (R296). Nanosecond counts grow with DEV_TIME_NS. -/
structure Client where
  runNs : Nat
  qwaitNs : Nat
  preempts : Nat
  late : Nat
  switchNs : Nat
  /-- Virtual time, in ns divided by SCH_WEIGHT, times 2^16. -/
  vtime : Nat
  /-- The client was runnable at the last look. -/
  wasRunnable : Bool
  /-- The client's image has been given to the tiles once, and its context lies in its save area. -/
  started : Bool
  saved : Bool
deriving DecidableEq, Repr

/-- What the scheduler is doing. -/
inductive SchPhase where
  | idle
  /-- A client runs. -/
  | running
  /-- Belfry and Opver have been drained at a pre-emption point; the save is under way. -/
  | saving
  /-- The save is complete; the next client is to be restored. -/
  | restoring
deriving DecidableEq, Repr

/-- The scheduler. -/
structure Sch where
  phase : SchPhase
  client : Nat
  /-- DEV_TIME_NS at which the running client was switched in, and at which the switch under way began. -/
  since : Nat
  switchAt : Nat
  /-- DEV_TIME_NS of a pre-emption request, and whether PREEMPT_LATE has been raised for it. -/
  request : Option Nat
  lateRaised : Bool
  /-- SCH_SLICE_NS and SCH_PREEMPT_BOUND as of the last pre-emption point (R447). -/
  slice : Nat
  bound : Nat
  clients : Assoc Client
deriving DecidableEq, Repr

def BelCtr.zero : BelCtr := ⟨0, 0⟩
def Client.zero : Client := ⟨0, 0, 0, 0, 0, 0, false, false, false⟩
def Sch.reset : Sch := ⟨.idle, 0, 0, 0, none, false, 10000000, 50000000, []⟩

end Sys2Proof.Machine
end

