-- ==== Sys2Proof/Machine/StateGro.lean ====
section
/-! DEFINITION. The state of the object table and its moves (R230 to R234) and of the Grotto engines (R236 to R255,
R272). -/

namespace Sys2Proof.Machine

/-! ## Objects -/

/-- Where an object spills (R230). -/
inductive Spill where
  | g | c | drop | none
deriving DecidableEq, Repr

/-- An entry of the object table. `tier` is 0 for H, 1 for G, 2 for C. -/
structure Obj where
  id : Nat
  owner : BitVec 6
  tier : Nat
  base : Nat
  size : Nat
  spill : Spill
  pin : Bool
  touch : Nat
  /-- Sealed by the loader for its client's image (R396). -/
  sealed : Bool
deriving DecidableEq, Repr

/-- One planned move of an eviction set: the object and its new place, or none for a drop. -/
structure Move where
  obj : Nat
  dst : Option (Nat × Nat)
deriving DecidableEq, Repr

/-- What a PLACE or an EVICT in progress does once its eviction set has moved: a new object, or a move of a named one. -/
inductive PlaceEnd where
  | place (tier base size : Nat) (spill : Spill) (pin : Bool)
  | evict (id tier base : Nat)
deriving DecidableEq, Repr

/-- The PLACE or EVICT that the tier mover executes: its command and the moves still to be made. -/
structure PlaceJob where
  ctx : BitVec 6
  cmd : Nat
  moves : List Move
  fin : PlaceEnd
deriving DecidableEq, Repr

/-- What a mover stream moves: the bytes of a COPY, or an object's contents. -/
inductive MvFor where
  | copy (cmd : Nat)
  | obj (id : Nat)
deriving DecidableEq, Repr

/-- A stream of the tier mover (R229): source and destination, each a host address under the context where so marked, the cache policy of
device writes, and its credit in bytes. Lines go in ascending order, or in descending order where `down`. -/
structure MvStream where
  what : MvFor
  ctx : BitVec 6
  src : Nat
  dst : Nat
  len : Nat
  hostSrc : Bool
  hostDst : Bool
  pol : BitVec 2
  down : Bool
  /-- Bytes asked for, bytes whose destination writes have been accepted, and the credit. -/
  asked : Nat
  done : Nat
  credit : Nat
  /-- Lines read and not yet written, oldest first: offset and words. -/
  staged : List (Nat × List PWord)
deriving DecidableEq, Repr

/-- The object table and its accounts. -/
structure ObjTab where
  /-- Entries, identifiers rising. -/
  objs : List Obj
  job : Option PlaceJob
  /-- Streams of the tier mover, oldest first (R229). -/
  streams : List MvStream
  /-- Objects evicted from tier H, G and C (R462). -/
  evictions : List Nat
deriving DecidableEq, Repr

/-! ## Grotto -/

/-- An update packet at a stack: the line, its words, the words it carries, and the requester (R241, R242). -/
structure UpdPkt where
  addr : Nat
  words : List PWord
  carries : List Bool
deriving DecidableEq, Repr

/-- A step whose verdict has reached a group's engines: what R248 fixes once per group and step, the blocks done, and
what the health record needs (R249, R253). Sums are multiples of 2^-298. -/
structure StepRec where
  step : Nat
  applied : Bool
  n : Nat
  lrs : W32
  c1 : W32
  c2 : W32
  /-- Blocks whose apply or discard has completed; the whole step has when all have. -/
  blks : Assoc Bool
  complete : Bool
  sd : Nat
  sw : Nat
  nonfin : Bool
  nfelem : Nat
  npois : Nat
deriving DecidableEq, Repr

/-- A health inlet's sums (R254). -/
structure Inlet where
  samples : W32
  cells : W32
  bad : W32
  maxrel : W32
  hpoison : Bool
deriving DecidableEq, Repr

/-- An enabled update group: its entry of the update table as the commit read it (R236), and what its engines keep. -/
structure Group where
  k : Nat
  base : Nat
  rule : Nat
  wf : Bool
  d : Nat
  efmt : Nat
  nelem : Nat
  lr : W32
  b1 : W32
  b2 : W32
  eps : W32
  wd : W32
  gs : W32
  slen : Nat
  out : Nat
  ostr : Nat
  sched : Nat
  n0 : Nat
  /-- Entry fields N, LASTS and STAT as last written. -/
  n : Nat
  lasts : Nat
  applying : Bool
  torn : Bool
  lastskip : Bool
  /-- FINITE verdicts since the commit. -/
  finites : Nat
  recs : List StepRec
  inlet : Inlet
  /-- Dirty bits that are clear, by block: bit 0 for bank 0, bit 1 for bank 1 (R272). -/
  clean : Assoc Nat
deriving DecidableEq, Repr

/-- The Grotto engines of the module. -/
structure Gro where
  groups : List Group
  /-- Packets that have reached a stack and are not yet added, by stack. -/
  packets : Assoc (List UpdPkt)
  /-- The training step in progress, when one is (R242, R254). -/
  opn : Option Nat
  step : Nat
  /-- Non-finite flags of the step, and the stacks that have reported (R267). -/
  nf : BitVec 16
  reported : BitVec 16
  /-- The verdict of the step has reached the engines. -/
  judged : Bool
  /-- The health ring (R255). -/
  head : Nat
  tail : Nat
  drop : Nat
  applyWait : Nat
  /-- Instructions for which UPD_WRITE and IMAGE_WRITE have been logged: by port, the last number. -/
  updSeen : Assoc Nat
  imgSeen : Assoc Nat
deriving DecidableEq, Repr

def Inlet.clear : Inlet := ⟨0, 0, 0, 0xFF800000, false⟩
def ObjTab.empty : ObjTab := ⟨[], none, [], [0, 0, 0]⟩
def Gro.reset : Gro := ⟨[], [], none, 0, 0, 0, false, 0, 0, 0, 0, [], []⟩

end Sys2Proof.Machine
end

