-- ==== Sys2Proof/Machine/StateHost.lean ====
section
/-! DEFINITION. The state of the host link, rings and client contexts (R306 to R336), of the sessions of the serving loop
(R282 to R294), of the training step sequencer (R257 to R277), and of loaded images (R385 to R396). -/

namespace Sys2Proof.Machine

/-! ## Rings -/

/-- A command in flight: its number in the order the device fetched commands, its context, and its descriptor (R323, R326). -/
structure Cmd where
  id : Nat
  ctx : BitVec 6
  ws : List W64
deriving DecidableEq, Repr

/-- A completion record that waits to be written (R330, R333): the command that leaves flight with it, if any, and whether
that command had IRQ set. -/
structure Rec where
  tag : W32
  status : W16
  opc : Byte
  result : W64
  irq : Bool
  cmd : Option Nat
  /-- For an EVICTED record: the command that caused it, whose own record waits behind this one (R332, R334). -/
  cause : Option Nat
deriving DecidableEq, Repr

/-- What the device has sent to the host: a write of host memory under a context's PASID, an answer, or a vector. -/
inductive HostOut where
  | mem (ctx : BitVec 6) (addr : Nat) (ws : List PWord)
  | bytes (ctx : BitVec 6) (addr : Nat) (bs : List Byte)
  /-- The answer to a CXL.mem access: its host address and the words read, none for a write. -/
  | answer (hpa : W64) (ws : List PWord)
  | vector (n : Nat)
deriving DecidableEq, Repr

/-- A descriptor burst outstanding: the host address of its first entry and its number of entries (R316, R322). -/
structure Burst where
  addr : Nat
  n : Nat
deriving DecidableEq, Repr

/-- A QUERY or CHECKPOINT that has been dispatched and left its unit's queue at once (R324): for a CHECKPOINT, the RUN_STEPS command of its
client's run in progress at that moment, and whether that run makes no checkpoints (R329). -/
structure Act where
  cmd : Nat
  run : Option Nat
  off : Bool
deriving DecidableEq, Repr

/-- One client context (R313, R316, R321, R435). -/
structure HCtx where
  en : Bool
  /-- Enabled, or disabled with the disable not yet complete (DEV_CTX_LIVE, R317). -/
  live : Bool
  stopped : Bool
  stopc : Byte
  sh : W32
  sqt : W32
  cqh : W32
  ct : W32
  /-- The device holds a valid copy of the doorbell line; a read of it is outstanding. -/
  dbValid : Bool
  dbRead : Bool
  /-- The first read of the doorbell since the context was enabled has not returned (R430). -/
  dbFirst : Bool
  /-- The descriptor bursts outstanding, oldest first. -/
  bursts : List Burst
  /-- Commands fetched and not dispatched, oldest first. -/
  ring : List Nat
  /-- Commands fetched that have not completed. -/
  unfinished : List Nat
  /-- Records that wait, oldest first. -/
  recs : List Rec
  /-- Records written since the vector was last signalled, and DEV_TIME_NS of the first of them. -/
  since : Nat
  first : Option Nat
deriving DecidableEq, Repr

/-- The host interface. -/
structure HostIf where
  ctxs : Assoc HCtx
  /-- Commands in flight, in the order they were fetched (R323). -/
  cmds : List Cmd
  nextId : Nat
  /-- The context whose turn the next burst is (R322). -/
  turn : Nat
  /-- Unit queues, key `8 * context + unit` (R324). -/
  units : Assoc (List Nat)
  /-- LOAD_IMAGE commands in dispatch order (R391). -/
  loads : List Nat
  /-- QUERY and CHECKPOINT commands dispatched and not yet acted on, oldest first (R324). -/
  acts : List Act
  /-- What the link's set-up gave: the PBR identifier, the HDM decoders and the MSI-X table (R306, R308, R309). -/
  cfg : LinkCfg
  /-- The pending-bit array of MSI-X: vectors signalled while masked (R306). -/
  pba : List Nat
  /-- What has been sent to the host, oldest first. -/
  out : List HostOut
deriving DecidableEq, Repr

/-! ## Images -/

/-- A client's loaded image: digest, image object, number of supersteps, bodies and bindings (R385, R393, R394). -/
structure Image where
  digest : List Byte
  obj : Nat
  dst : Nat
  size : Nat
  slen : Nat
  nss : Nat
  sbody : Option (Nat × Nat)
  vbody : Option (Nat × Nat)
  binds : List Nat
  /-- Some superstep has scope CHAIN; the scope of the step body's last superstep. -/
  chain : Bool
  sscope : Scope
deriving DecidableEq, Repr

/-! ## Training -/

/-- A feed's descriptor (R259). -/
structure FeedD where
  src : Nat
  rsize : Nat
  ord : Nat
  mbr : Nat
  nord : Nat
  ring : Nat
  nslot : Nat
  wrap : Bool
deriving DecidableEq, Repr

/-- A micro-batch fed into a ring: its sequence number, its first position and the position after its records, and whether
it is the first of a new pass. -/
structure FedMb where
  seq : Nat
  pos0 : Nat
  pos1 : Nat
  newPass : Bool
deriving DecidableEq, Repr

/-- A feed stream (R229, R263, R264). -/
structure Feed where
  d : FeedD
  /-- Next position and next sequence number to feed. -/
  pos : Nat
  seq : Nat
  /-- Bytes of the micro-batch in progress already asked for, credit in bytes, and freed bytes not yet returned as credit. -/
  asked : Nat
  credit : Nat
  freed : Nat
  /-- Entries whose data is in the ring, oldest first. -/
  full : List FedMb
deriving DecidableEq, Repr

/-- A checkpoint or a fingerprint being read (R269 to R276): the step, and the blocks still to be read as (group, block). -/
structure Ckpt where
  k : Nat
  c : Nat
  /-- Chain address of the neighbour, and the bank's address there. -/
  dest : BitVec 4
  bank : Nat
  todo : List (Nat × Nat)
  /-- Block images written to the neighbour and not yet accepted. -/
  unacked : Nat
  /-- Bank header fields taken at the step end: TPOS, TPASS, FPOS and SKIPS. -/
  tpos : Nat
  tpass : Nat
  fpos : Nat
  skips : Nat
  /-- (group, d, blocks, N) of each enabled group. -/
  table : List (Nat × Nat × Nat × Nat)
  /-- CHECKPOINT commands that this checkpoint completes. -/
  cmds : List Nat
  /-- The final header writes have left. -/
  final : Bool
deriving DecidableEq, Repr

/-- A fingerprint being formed (R275, R276). -/
structure Fpr where
  step : Nat
  todo : List (Nat × Nat)
  acc : W64
deriving DecidableEq, Repr

/-- How far a run has come. -/
inductive RunPhase where
  /-- The first step waits for the client to run and for the feed. -/
  | start
  /-- A step is in progress. -/
  | step
  /-- A step has ended, and the release is held for a pre-emption (R298). -/
  | held
  /-- A step has ended; the next waits for marked modules to be recopied, or for the feed. -/
  | wait
deriving DecidableEq, Repr

/-- A training run (R257, R258). The counts carry their epoch bits: they are taken modulo 2^65. -/
structure TRun where
  ctx : BitVec 6
  cmd : Nat
  tcb : Nat
  chain : Bool
  recopyPol : Bool
  ckdir : Bool
  rset : Nat
  mb : Nat
  fb : Nat
  fpn : Nat
  ckn : Nat
  sline : Nat
  ckbase : Nat
  cksize : Nat
  tfeed : Option Feed
  ffeed : Option Feed
  /-- Steps still to run. -/
  left : Nat
  tpos : Nat
  tpass : Nat
  fpos : Nat
  skips : Nat
  feedWait : Nat
  ckptWait : Nat
  cknum : Nat
  ckstep : Nat
  fprint : W64
  fpstep : Nat
  recopies : Nat
  diverged : Bool
  phase : RunPhase
  /-- Fill slots of the step that have data, in ascending order, and the micro-batches they run. -/
  slots : List Nat
  fills : List FedMb
  /-- A checkpoint is due and waits for the one in progress; CHECKPOINT commands that wait for a step end. -/
  ckDue : Bool
  ckCmds : List Nat
  fp : Option Fpr
  /-- Fingerprint to be carried by the next arrival (R277), and the modules marked by the last comparison. -/
  fpOut : Option (W64 × Nat)
  marked : List Nat
  /-- This module has been marked and waits for its recopy; modules recopied at the last comparison. -/
  recopyDue : Bool
  recopied : List Nat
  /-- Module 0's word that the run halts. -/
  halt : Bool
  /-- The step line of the next step has been written, its fill slots taken (R261, R262). -/
  lined : Bool
  /-- The verdict of the step in progress is NONFINITE (R267). -/
  bad : Bool
deriving DecidableEq, Repr

/-- The training step sequencer. -/
structure Trn where
  tstep : Nat
  tseq : Nat
  fseq : Nat
  /-- The last step was discarded (R268). -/
  lastv : Bool
  run : Option TRun
  /-- The checkpoint being written (R269 to R274). -/
  ckpt : Option Ckpt
deriving DecidableEq, Repr

/-! ## Serving -/

/-- State of a sequence slot (R284). -/
inductive SeqSt where
  | free | pending | prefill | active | leaving
deriving DecidableEq, Repr

/-- One sequence slot (R284) and what the loop keeps with it. -/
structure SeqEnt where
  st : SeqSt
  tokv : Bool
  pos : Nat
  maxtok : Nat
  nres : Nat
  token : W32
  laststep : Nat
  defers : Nat
  readyt : Nat
  pleft : Nat
  prompt : Nat
  nprompt : Nat
  pages : List Nat
  /-- Order of admission. -/
  adm : Nat
  join : Option Nat
  cont : Option Nat
  leaves : List Nat
deriving DecidableEq, Repr

/-- A join that waits: its command, slot, MAXTOK, NPROMPT and prompt address (R285 to R287). -/
structure Join where
  cmd : Nat
  slot : Nat
  maxtok : Nat
  nprompt : Nat
  prompt : Nat
  /-- Deferrals so far (R287). -/
  defers : Nat
deriving DecidableEq, Repr

/-- An entry of the batch table (R291). -/
structure BEnt where
  slot : Nat
  kind : Nat
  pos0 : Nat
  ntok : Nat
  token : W32
  src : Nat
deriving DecidableEq, Repr

/-- A session (R282). Counts carry their epoch bits. -/
structure Sess where
  scb : Nat
  ofmt : Nat
  bmax : Nat
  topk : Nat
  tokbud : Nat
  gather : Nat
  seqtab : Nat
  nseq : Nat
  pgbase : Nat
  pgsize : Nat
  npg : Nat
  pgtok : Nat
  ptbase : Nat
  ptstride : Nat
  outbase : Nat
  ostride : Nat
  vocab : Nat
  btab : Nat
  bstep : Nat
  tokens : Nat
  joins : Nat
  defers : Nat
  leaves : Nat
  prefillt : Nat
  busyNs : Nat
  idleNs : Nat
  seqwaitNs : Nat
  resv : Nat
  seqs : Assoc SeqEnt
  waiting : List Join
  /-- The batch step in progress, and DEV_TIME_NS at which it began. -/
  batch : Option (List BEnt)
  began : Nat
  admitted : Nat
  /-- GATHER_NS has passed since the first sequence became ready in this interval. -/
  gathered : Bool
  /-- DEV_TIME_NS at which the first sequence became ready in this interval. -/
  readyFrom : Option Nat
  /-- A CLOSE that waits for the end of the batch step. -/
  closing : Option Nat
deriving DecidableEq, Repr

def HCtx.reset : HCtx := ⟨false, false, false, 0, 0, 0, 0, 0, false, false, false, [], [], [], [], 0, none⟩
def HostIf.reset : HostIf := ⟨[], [], 0, 0, [], [], [], LinkCfg.none, [], []⟩
def Trn.reset : Trn := ⟨0, 0, 0, false, none, none⟩
def SeqEnt.free : SeqEnt := ⟨.free, false, 0, 0, 0, 0, 0, 0, 0, 0, 0, 0, [], 0, none, none, []⟩

end Sys2Proof.Machine
end

