-- ==== Sys2Proof/Machine/StatePwr.lean ====
section
/-! DEFINITION. The state of the Lantern outputs (R366 to R384, R445, R446), of the Keep (R400 to R404) and of power and
start-up (R405 to R421, R438). -/

namespace Sys2Proof.Machine

/-! ## Lantern -/

/-- State of an output (R372). -/
inductive LanSt where
  | off | start | run
deriving DecidableEq, Repr

/-- A FRAME_SUBMIT that an output holds (R374, R379). -/
structure Submit where
  cmd : Nat
  base : Nat
  frame : Nat
deriving DecidableEq, Repr

/-- An AUX transaction that the host has asked for (R446). -/
structure AuxOp where
  op : Nat
  addr : Nat
  len : Nat
deriving DecidableEq, Repr

/-- Where the raster stands (R378, R381). -/
inductive LanPos where
  /-- The stream has begun, or not yet; no latch point has passed. -/
  | stream
  /-- A latch point has passed and the frame's first active pixel has not been sent. -/
  | blank
  /-- The first active pixel is sent as line 0 begins. -/
  | first
  /-- A line is being sent. -/
  | line (k : Nat)
deriving DecidableEq, Repr

/-- A read of 256 B that an output has outstanding: edge row, tag, line, and place in the line; whether its data is still wanted. -/
structure LanRead where
  row : Nat
  tag : Nat
  line : Nat
  idx : Nat
  wanted : Bool
deriving DecidableEq, Repr

/-- The metadata that an output sends with a frame (R366): the MSA, with starts counted from the leading edge of sync, and the VSC SDP. -/
structure LanMeta where
  htotal : Nat
  hstart : Nat
  hwidth : Nat
  hsw : Nat
  hpos : Bool
  vtotal : Nat
  vstart : Nat
  vheight : Nat
  vsw : Nat
  vpos : Bool
  /-- Component depth is 10 bits; encoding is YCbCr 4:4:4. -/
  ten : Bool
  ycc : Bool
  /-- VSC SDP: colorimetry (0 sRGB, 1 BT.709, 2 BT.2020), and the CTA range. -/
  color : Nat
  cta : Bool
deriving DecidableEq, Repr

/-- One Lantern output. -/
structure LanOut where
  st : LanSt
  cause : Byte
  hpd : Bool
  /-- The settings in use, by offset from the output's first register; an accepted commit has changed them, and the change waits
  for the latch point (R371). -/
  use : Assoc (Option W64)
  change : Bool
  /-- The owner has been lost, and no LAN commit has been accepted since (R375). -/
  orphan : Bool
  /-- Current buffer, and the submission that has become current and waits for its first active pixel. -/
  cur : Option Nat
  latched : Option (Submit × Nat)
  pend : List Submit
  frame : Nat
  frameTime : Nat
  underrun : Nat
  poison : Nat
  deferC : Nat
  pos : LanPos
  /-- Reads outstanding, and reads that wait for a tag as (line, place). -/
  asked : List LanRead
  want : List (Nat × Nat)
  /-- The line buffer: rows of 64 B by `512 * line + row`. -/
  buf : Assoc (List PWord)
  underLogged : Bool
  lineUnder : Bool
  /-- Pixels of the last line sent: component c in bits [10c + 9:10c]. -/
  sent : List (BitVec 30)
  /-- Metadata of the last frame begun. -/
  info : Option LanMeta
  data0 : W64
  data1 : W64
  busy : Option AuxOp
  reply : BitVec 3
  irq : Bool
deriving DecidableEq, Repr

/-! ## Keep -/

/-- State of an SPDM session. -/
inductive SesSt where
  | handshake | established
deriving DecidableEq, Repr

/-- What the Keep has agreed with the requester on the DOE mailbox (R403): how far the connection has come (0 nothing,
1 version, 2 capabilities, 3 algorithms), sessions by identifier, last error, and the responses sent, oldest first. -/
structure Keep where
  idReady : Bool
  conn : Nat
  ver : Byte
  sessions : List (W32 × SesSt)
  spdmErr : Byte
  nextSession : Nat
  /-- IDE streams whose keys have been programmed (R306, R315). -/
  ideStreams : List (BitVec 2)
  /-- Response codes sent with their payload bytes. -/
  sent : List (Byte × List Byte)
deriving DecidableEq, Repr

/-! ## Power -/

/-- The module's supply and start-up. -/
structure Pwr where
  vin : Bool
  /-- Every rail is in regulation: PWR_OK. -/
  pwrOk : Bool
  straps : BitVec 4
  strapped : Bool
  /-- A thermal trip has locked the input stage (R417). -/
  tripped : Bool
  /-- Ticks taken when VIN48 fell below 38 V; none while it is above, or where it has never been. -/
  lowSince : Option Nat
  thermN : Bool
  /-- PERST_N is high. -/
  perst : Bool
  /-- PERST_N has risen since power-up. -/
  perstRose : Bool
  linkUp : Bool
  flit256 : Bool
  memact : Bool
  ready : Bool
  ceil : Nat
  /-- DEV-independent time in ms of the model's throttle evaluations, and the evaluation of the last change. -/
  evals : Nat
  lastChange : Option Nat
  cause : BitVec 2
  throtNs : Nat
  tcnt : Nat
  pcnt : Nat
  tj0 : W16
  tj1 : W16
  watts : Nat
  rate0 : Nat
  rate1 : Nat
  /-- Memory clearing began since PERST_N fell, or since power-up. -/
  phyTrained : Bool
deriving DecidableEq, Repr

def LanOut.reset : LanOut :=
  { st := .off, cause := 1, hpd := false, use := [], change := false, orphan := false, cur := none, latched := none, pend := []
    frame := 0, frameTime := 0, underrun := 0, poison := 0, deferC := 0, pos := .stream, asked := [], want := [], buf := []
    underLogged := false, lineUnder := false, sent := [], info := none, data0 := 0, data1 := 0, busy := none, reply := 0, irq := false }
def Keep.reset : Keep := ⟨false, 0, 0, [], 0, 0, [], []⟩
def Pwr.reset : Pwr :=
  { vin := false, pwrOk := false, straps := 0, strapped := false, tripped := false, lowSince := none, thermN := true, perst := false
    perstRose := false, linkUp := false, flit256 := false, memact := false, ready := false, ceil := 4, evals := 0
    lastChange := none, cause := 0, throtNs := 0, tcnt := 0, pcnt := 0, tj0 := 0, tj1 := 0, watts := 0, rate0 := 0
    rate1 := 0, phyTrained := false }

end Sys2Proof.Machine
end

