-- ==== Sys2Proof/Machine/State.lean ====
section
/-! DEFINITION. The state of the device, its faults and refusals, and the state after reset. -/

namespace Sys2Proof.Machine

/-- Commit state of a set-up block (R427, R428). -/
inductive CmtState where
  | never | busy | done | refused
deriving DecidableEq, Repr

/-- A set-up block's commit bookkeeping. -/
structure Cmt where
  state : CmtState
  /-- The work of an accepted commit is under way (R430). -/
  work : Bool
  cause : Byte
  detail : W16
  agen : BitVec 31
  /-- A held commit: its generation and the snapshot of the shadow (R428). -/
  held : Option (BitVec 31 × Assoc (Option W64))
deriving DecidableEq, Repr

def Cmt.reset : Cmt := ⟨.never, false, 0, 0, 0, none⟩

/-- Registers: shadow and active values of RWC registers by BAR0 offset (unlisted: the reset value; 2^32 above the offset of a LAN register
the reserved bits last written to it, R370), commit state by block number, and the epoch bits latched by counter reads (R425, R426). -/
structure Regs where
  shadow : Assoc (Option W64)
  active : Assoc (Option W64)
  cmt : Assoc Cmt
  epoch : Assoc Bool
  gstate : CmtState
  gcause : Byte
  gdetail : W16
  gmask : W16
  /-- Blocks of the latest global commit whose work is under way (R431). -/
  gwait : W16
deriving DecidableEq, Repr

/-- Device-wide state (R13, R434). -/
structure Dev where
  /-- DEV_TIME_NS. -/
  time : Nat
  cdreset : Bool
  /-- This module's chain address (R6). -/
  addr : BitVec 4
  /-- Ticks of 10 ns taken so far, and free values drawn so far: the model's own counters. -/
  ticks : Nat
  free : Nat
deriving DecidableEq, Repr

/-- The state of the device. -/
structure State where
  /-- Commands that wait, first in, first out. -/
  pending : List Instr
  dev : Dev
  regs : Regs
  err : Err
  tiles : Assoc Tile
  net : Net
  pool0 : Pool
  pool1 : Pool
  mem : Mem
  opv : Opv
  belc : BelCtr
  /-- Barrier waits: DIE scope of die 0 and 1, MODULE, CHAIN, at keys 0 to 3. -/
  waits : Assoc (Option BarWait)
  sch : Sch
  obj : ObjTab
  gro : Gro
  host : HostIf
  /-- Loaded images by client (R391). -/
  imgs : Assoc (Option Image)
  trn : Trn
  /-- Open sessions by client. -/
  sess : Assoc (Option Sess)
  lan0 : LanOut
  lan1 : LanOut
  keep : Keep
  pwr : Pwr
deriving DecidableEq, Repr

/-- Why a step stops with a fault. -/
inductive Fault where
  /-- Raised by VIN48_RISE alone, for an input above 65 V: R409 makes 65 V the absolute maximum and gives no behaviour of
  the module beyond it. Safe: the model stops where the spec gives nothing. -/
  | inputOvervoltage
deriving DecidableEq, Repr

/-- Why a step has no meaning. -/
inductive Refusal where
  /-- Raised by the dispatch of a command whose meaning is not written. Safe: nothing is claimed of it. -/
  | notModelled (mnemonic : String)
deriving DecidableEq, Repr

def Regs.reset : Regs := ⟨[], [], [], [], .never, 0, 0, 0, 0⟩
def Dev.reset : Dev := ⟨0, false, 0, 0, 0⟩

/-- The device with its main power off. -/
def State.reset : State :=
  { pending := [], dev := .reset, regs := .reset, err := .empty, tiles := [], net := .empty, pool0 := .empty
    pool1 := .empty, mem := .empty, opv := .reset, belc := .zero, waits := []
    sch := .reset, obj := .empty, gro := .reset, host := .reset, imgs := []
    trn := .reset, sess := [], lan0 := .reset, lan1 := .reset, keep := .reset, pwr := .reset }

end Sys2Proof.Machine
end

