-- ==== Sys2Proof/Machine/Bytes.lean ====
section
/-! DEFINITION. Bytes and words of the tiers' memory (R7, R9, R216, R219): a byte that nothing has written reads as zero. -/

namespace Sys2Proof.Machine

/-- A byte of memory. -/
def Mem.byte (m : Mem) (a : Nat) : Byte := aGet 0 m.bytes a
/-- `n` bytes from address `a`. -/
def Mem.rdBytes (m : Mem) (a n : Nat) : List Byte := aGetMany 0 m.bytes a n
/-- A little-endian number of `n` bytes. -/
def Mem.num (m : Mem) (a n : Nat) : Nat := ofBytes (m.rdBytes a n)
/-- The 64-bit word at a multiple of 8, with its poison mark. -/
def Mem.word (m : Mem) (a : Nat) : PWord := ⟨BitVec.ofNat 64 (m.num a 8), aGet false m.poison (a / 8)⟩
/-- `n` words from a multiple of 8. -/
def Mem.words (m : Mem) (a n : Nat) : List PWord := (List.range n).map fun k => m.word (a + 8 * k)
/-- Write the word at a multiple of 8 with fresh check bits, or with the poison mark (R216). -/
def Mem.setWord (m : Mem) (a : Nat) (w : PWord) : Mem :=
  { m with bytes := aSetMany 0 m.bytes a (toBytes 8 w.d.toNat), poison := aSet false m.poison (a / 8) w.p }
/-- Write consecutive words. -/
def Mem.setWords (m : Mem) : Nat → List PWord → Mem
  | _, [] => m
  | a, w :: ws => (m.setWord a w).setWords (a + 8) ws
/-- Write bytes; a word written whole or in part by them is clean (R216: fresh check bits). -/
def Mem.setBytes (m : Mem) (a : Nat) (bs : List Byte) : Mem :=
  { m with
    bytes := aSetMany 0 m.bytes a bs
    poison := m.poison.filter fun kv => decide (8 * kv.1 + 7 < a) || decide (a + bs.length ≤ 8 * kv.1) }
/-- Every word of a range of whole words is zero and clean. -/
def Mem.clearRange (m : Mem) (a n : Nat) : Mem :=
  { m with
    bytes := m.bytes.filter fun kv => decide (kv.1 < a) || decide (a + n ≤ kv.1)
    poison := m.poison.filter fun kv => decide (8 * kv.1 < a) || decide (a + n ≤ 8 * kv.1) }
/-- Copy `n` words with their poison marks, as through a separate buffer (R234). -/
def Mem.copyWords (m : Mem) (src dst n : Nat) : Mem := m.setWords dst (m.words src n)
/-- Does a range of words hold poison? -/
def Mem.anyPoison (m : Mem) (a n : Nat) : Bool := m.poison.any fun kv => decide (a ≤ 8 * kv.1 + 7) && decide (8 * kv.1 < a + n)

/-- Write bytes with poison marks: a word written only in part keeps its other bytes and its mark (R123, R216). -/
def Mem.putMarked (m : Mem) (a : Nat) (bs : List (Byte × Bool)) : Mem :=
  let lo := a - a % 8
  let n := (a + bs.length + 7) / 8 - a / 8
  (List.range n).foldl (fun m k =>
    let wa := lo + 8 * k
    let mine := (List.range 8).filterMap fun i => if a ≤ wa + i then bs[wa + i - a]? else none
    let old := m.word wa
    let d := (List.range 8).map fun i => if a ≤ wa + i && decide (wa + i < a + bs.length) then ((bs.getD (wa + i - a) (0, false)).1) else
      BitVec.ofNat 8 (old.d.toNat / 2 ^ (8 * i))
    m.setWord wa ⟨BitVec.ofNat 64 (ofBytes d), mine.any (·.2) || (old.p && decide (mine.length < 8))⟩) m

/-- Replace the memory of a state by a function of it. -/
def State.modMem (s : State) (f : Mem → Mem) : State := { s with mem := f s.mem }

/-! ## The snoop filter (R310) -/

/-- The 64 B lines of a range that the host holds and that a write of it, or a read of it, must pull back first. -/
def State.snoopNeed (s : State) (a n : Nat) (write : Bool) : List Nat :=
  (s.mem.snoop.filter fun e => decide (a < 64 * e.line + 64) && decide (64 * e.line < a + n) && (write || e.mod)).map (·.line)
/-- Send back-invalidates for lines that have none outstanding. -/
def State.sendSnoops (s : State) (ls : List Nat) : State :=
  s.modMem fun m => { m with snooping := m.snooping ++ (ls.filter fun l => !decide (l ∈ m.snooping)) }
/-- A device write of tier H: at once, or, for a line that the host holds, once its back-invalidate has been answered. -/
def State.putH (s : State) (a : Nat) (bs : List Byte) : State :=
  let need := s.snoopNeed a bs.length true
  if need.isEmpty then s.modMem fun m => m.setBytes a bs
  else (s.sendSnoops need).modMem fun m => { m with late := m.late ++ [(a, bs)] }
/-- Make the deferred writes whose lines the host no longer holds, in order. -/
def State.putLate (s : State) : State :=
  let ws := s.mem.late
  ws.foldl (fun s w => s.putH w.1 w.2) (s.modMem fun m => { m with late := [] })

end Sys2Proof.Machine
end

