-- ==== Sys2Proof/Machine/Crypto.lean ====
section
/-! DEFINITION. The check sums and the cryptography the device uses: CRC-32 of R273, CRC-64 of R276, SHA-512 and
Ed25519 (RFC 8032) of R391, R400 and R401. The constants of SHA-512 and of Ed25519 come from their standards, which the
spec names (PRESUMED, log entry 24). -/

namespace Sys2Proof.Machine

/-- One bit of the reflected CRC-32. -/
def crc32Bit (c : W32) : W32 := if c.getLsbD 0 then (c >>> 1) ^^^ 0xEDB88320#32 else c >>> 1

/-- One byte of the reflected CRC-32. -/
def crc32Byte (c : W32) (b : Byte) : W32 :=
  crc32Bit (crc32Bit (crc32Bit (crc32Bit (crc32Bit (crc32Bit (crc32Bit (crc32Bit (c ^^^ b.setWidth 32))))))))

/-- CRC-32: IEEE 802.3 polynomial, reflected, initial and final value 0xFFFF_FFFF (R273). -/
def crc32 (bs : List Byte) : W32 := bs.foldl crc32Byte 0xFFFFFFFF#32 ^^^ 0xFFFFFFFF#32

/-- One bit of CRC-64/ECMA-182, most significant bit first. -/
def crc64Bit (c : W64) : W64 := if c.getMsbD 0 then (c <<< 1) ^^^ 0x42F0E1EBA9EA3693#64 else c <<< 1

/-- One byte of CRC-64/ECMA-182. -/
def crc64Byte (c : W64) (b : Byte) : W64 :=
  crc64Bit (crc64Bit (crc64Bit (crc64Bit (crc64Bit (crc64Bit (crc64Bit (crc64Bit (c ^^^ (b.setWidth 64 <<< 56)))))))))

/-- CRC-64/ECMA-182 from an initial value, no reflection, final XOR 0 (R276). -/
def crc64 (init : W64) (bs : List Byte) : W64 := bs.foldl crc64Byte init

/-! ## SHA-512 -/

/-- Round constants of SHA-512, first half. -/
def sha512K0 : List W64 :=
  [0x428A2F98D728AE22#64, 0x7137449123EF65CD#64, 0xB5C0FBCFEC4D3B2F#64, 0xE9B5DBA58189DBBC#64,
   0x3956C25BF348B538#64, 0x59F111F1B605D019#64, 0x923F82A4AF194F9B#64, 0xAB1C5ED5DA6D8118#64,
   0xD807AA98A3030242#64, 0x12835B0145706FBE#64, 0x243185BE4EE4B28C#64, 0x550C7DC3D5FFB4E2#64,
   0x72BE5D74F27B896F#64, 0x80DEB1FE3B1696B1#64, 0x9BDC06A725C71235#64, 0xC19BF174CF692694#64,
   0xE49B69C19EF14AD2#64, 0xEFBE4786384F25E3#64, 0x0FC19DC68B8CD5B5#64, 0x240CA1CC77AC9C65#64,
   0x2DE92C6F592B0275#64, 0x4A7484AA6EA6E483#64, 0x5CB0A9DCBD41FBD4#64, 0x76F988DA831153B5#64,
   0x983E5152EE66DFAB#64, 0xA831C66D2DB43210#64, 0xB00327C898FB213F#64, 0xBF597FC7BEEF0EE4#64,
   0xC6E00BF33DA88FC2#64, 0xD5A79147930AA725#64, 0x06CA6351E003826F#64, 0x142929670A0E6E70#64,
   0x27B70A8546D22FFC#64, 0x2E1B21385C26C926#64, 0x4D2C6DFC5AC42AED#64, 0x53380D139D95B3DF#64,
   0x650A73548BAF63DE#64, 0x766A0ABB3C77B2A8#64, 0x81C2C92E47EDAEE6#64, 0x92722C851482353B#64]

/-- Round constants of SHA-512, second half. -/
def sha512K1 : List W64 :=
  [0xA2BFE8A14CF10364#64, 0xA81A664BBC423001#64, 0xC24B8B70D0F89791#64, 0xC76C51A30654BE30#64,
   0xD192E819D6EF5218#64, 0xD69906245565A910#64, 0xF40E35855771202A#64, 0x106AA07032BBD1B8#64,
   0x19A4C116B8D2D0C8#64, 0x1E376C085141AB53#64, 0x2748774CDF8EEB99#64, 0x34B0BCB5E19B48A8#64,
   0x391C0CB3C5C95A63#64, 0x4ED8AA4AE3418ACB#64, 0x5B9CCA4F7763E373#64, 0x682E6FF3D6B2B8A3#64,
   0x748F82EE5DEFB2FC#64, 0x78A5636F43172F60#64, 0x84C87814A1F0AB72#64, 0x8CC702081A6439EC#64,
   0x90BEFFFA23631E28#64, 0xA4506CEBDE82BDE9#64, 0xBEF9A3F7B2C67915#64, 0xC67178F2E372532B#64,
   0xCA273ECEEA26619C#64, 0xD186B8C721C0C207#64, 0xEADA7DD6CDE0EB1E#64, 0xF57D4F7FEE6ED178#64,
   0x06F067AA72176FBA#64, 0x0A637DC5A2C898A6#64, 0x113F9804BEF90DAE#64, 0x1B710B35131C471B#64,
   0x28DB77F523047D84#64, 0x32CAAB7B40C72493#64, 0x3C9EBE0A15C9BEBC#64, 0x431D67C49C100D4C#64,
   0x4CC5D4BECB3E42B6#64, 0x597F299CFC657E2A#64, 0x5FCB6FAB3AD6FAEC#64, 0x6C44198C4A475817#64]

/-- Initial hash value of SHA-512. -/
def sha512Init : List W64 :=
  [0x6A09E667F3BCC908#64, 0xBB67AE8584CAA73B#64, 0x3C6EF372FE94F82B#64, 0xA54FF53A5F1D36F1#64,
   0x510E527FADE682D1#64, 0x9B05688C2B3E6C1F#64, 0x1F83D9ABFB41BD6B#64, 0x5BE0CD19137E2179#64]

/-- A big-endian number from bytes. -/
def ofBytesBE (bs : List Byte) : Nat := bs.foldl (fun a b => a * 256 + b.toNat) 0

/-- Bytes of a number, most significant first. -/
def toBytesBE (n v : Nat) : List Byte := (toBytes n v).reverse

/-- Message schedule: from the last sixteen words (newest first), `n` more words, newest first. -/
def sha512Sched : Nat → List W64 → List W64
  | 0, ws => ws
  | n + 1, ws =>
    let w15 := ws.getD 14 0
    let w2 := ws.getD 1 0
    let s0 := w15.rotateRight 1 ^^^ w15.rotateRight 8 ^^^ (w15 >>> 7)
    let s1 := w2.rotateRight 19 ^^^ w2.rotateRight 61 ^^^ (w2 >>> 6)
    sha512Sched n ((s1 + ws.getD 6 0 + s0 + ws.getD 15 0) :: ws)

/-- One round on the working variables `[a, b, c, d, e, f, g, h]`. -/
def sha512Round (v : List W64) (kw : W64 × W64) : List W64 :=
  match v with
  | [a, b, c, d, e, f, g, h] =>
    let t1 := h + (e.rotateRight 14 ^^^ e.rotateRight 18 ^^^ e.rotateRight 41) + ((e &&& f) ^^^ (~~~e &&& g)) + kw.1 + kw.2
    let t2 := (a.rotateRight 28 ^^^ a.rotateRight 34 ^^^ a.rotateRight 39) + ((a &&& b) ^^^ (a &&& c) ^^^ (b &&& c))
    [t1 + t2, a, b, c, d + t1, e, f, g]
  | _ => v

/-- The sixteen big-endian words of a 128-byte block. -/
def sha512Words : Nat → List Byte → List W64
  | 0, _ => []
  | n + 1, bs => BitVec.ofNat 64 (ofBytesBE (bs.take 8)) :: sha512Words n (bs.drop 8)

/-- One block. -/
def sha512Block (h : List W64) (blk : List Byte) : List W64 :=
  let ws := (sha512Sched 64 (sha512Words 16 blk).reverse).reverse
  List.zipWith (· + ·) h (((sha512K0 ++ sha512K1).zip ws).foldl sha512Round h)

/-- All blocks of a padded message. -/
def sha512Blocks : Nat → List W64 → List Byte → List W64
  | 0, h, _ => h
  | n + 1, h, bs => sha512Blocks n (sha512Block h (bs.take 128)) (bs.drop 128)

/-- SHA-512: 64 bytes. -/
def sha512 (m : List Byte) : List Byte :=
  let l := m.length
  let z := (239 - l % 128) % 128
  let p := m ++ 0x80#8 :: List.replicate z 0#8 ++ toBytesBE 16 (8 * l)
  (sha512Blocks (p.length / 128) sha512Init p).flatMap fun w => toBytesBE 8 w.toNat

/-! ## Ed25519 (RFC 8032, pure) -/

/-- The field prime. -/
def edP : Nat := 2 ^ 255 - 19
/-- The group order. -/
def edL : Nat := 2 ^ 252 + 27742317777372353535851937790883648493

/-- Modular power, `fuel` bits of the exponent from the low end. -/
def powMod (m : Nat) : Nat → Nat → Nat → Nat → Nat
  | 0, _, _, acc => acc
  | fuel + 1, b, e, acc => powMod m fuel (b * b % m) (e / 2) (if e % 2 = 1 then acc * b % m else acc)

/-- Inverse in the field. -/
def edInv (x : Nat) : Nat := powMod edP 256 (x % edP) (edP - 2) 1
/-- The curve constant d. -/
def edD : Nat := (edP - 121665) * edInv 121666 % edP

/-- A point in extended coordinates (X, Y, Z, T). -/
structure EdPt where
  x : Nat
  y : Nat
  z : Nat
  t : Nat
deriving DecidableEq, Repr

/-- The neutral element. -/
def EdPt.zero : EdPt := ⟨0, 1, 1, 0⟩

/-- Point addition (complete). -/
def EdPt.add (p q : EdPt) : EdPt :=
  let a := (p.y + edP - p.x) * (q.y + edP - q.x) % edP
  let b := (p.y + p.x) * (q.y + q.x) % edP
  let c := 2 * p.t * q.t * edD % edP
  let d := 2 * p.z * q.z % edP
  let e := b + edP - a
  let f := d + edP - c
  let g := d + c
  let h := b + a
  ⟨e * f % edP, g * h % edP, f * g % edP, e * h % edP⟩

/-- Scalar multiplication, `fuel` bits from the low end. -/
def EdPt.mulGo : Nat → Nat → EdPt → EdPt → EdPt
  | 0, _, _, acc => acc
  | fuel + 1, s, p, acc => EdPt.mulGo fuel (s / 2) (p.add p) (if s % 2 = 1 then acc.add p else acc)

/-- Scalar multiplication by a scalar below 2^256. -/
def EdPt.mul (s : Nat) (p : EdPt) : EdPt := EdPt.mulGo 256 s p EdPt.zero

/-- Equality of points. -/
def EdPt.eqv (p q : EdPt) : Bool :=
  decide (p.x * q.z % edP = q.x * p.z % edP) && decide (p.y * q.z % edP = q.y * p.z % edP)

/-- Recover x from y and its sign bit; `none` when there is none. -/
def edRecoverX (y sign : Nat) : Option Nat :=
  if y ≥ edP then none
  else
    let x2 := (y * y + edP - 1) * edInv (edD * y * y + 1) % edP
    if x2 = 0 then (if sign = 1 then none else some 0)
    else
      let x := powMod edP 256 x2 ((edP + 3) / 8) 1
      let x := if x * x % edP = x2 then x else x * powMod edP 256 2 ((edP - 1) / 4) 1 % edP
      if x * x % edP = x2 then some (if x % 2 = sign then x else edP - x) else none

/-- Decode a compressed point. -/
def EdPt.decode (bs : List Byte) : Option EdPt :=
  let v := ofBytes bs
  let y := v % 2 ^ 255
  (edRecoverX y (v / 2 ^ 255)).map fun x => ⟨x, y, 1, x * y % edP⟩

/-- Compress a point. -/
def EdPt.encode (p : EdPt) : List Byte :=
  let zi := edInv p.z
  let x := p.x * zi % edP
  let y := p.y * zi % edP
  toBytes 32 (y + (x % 2) * 2 ^ 255)

/-- The base point. -/
def edBase : EdPt :=
  let y := 4 * edInv 5 % edP
  let x := (edRecoverX y 0).getD 0
  ⟨x, y, 1, x * y % edP⟩

/-- The clamped secret scalar of a 32-byte seed. -/
def edScalar (seed : List Byte) : Nat :=
  let h := ofBytes ((sha512 seed).take 32)
  h % 2 ^ 254 - h % 8 + 2 ^ 254

/-- The public key of a seed. -/
def edPublic (seed : List Byte) : List Byte := (edBase.mul (edScalar seed)).encode

/-- Sign a message with a seed. -/
def edSign (seed msg : List Byte) : List Byte :=
  let prefixB := (sha512 seed).drop 32
  let a := edScalar seed
  let r := ofBytes (sha512 (prefixB ++ msg)) % edL
  let rB := (edBase.mul r).encode
  let k := ofBytes (sha512 (rB ++ edPublic seed ++ msg)) % edL
  rB ++ toBytes 32 ((r + k * a) % edL)

/-- Verify a 64-byte signature: canonical, and the group equation holds (R401). -/
def edVerify (pub msg sig : List Byte) : Bool :=
  let rB := sig.take 32
  let s := ofBytes (sig.drop 32)
  if sig.length ≠ 64 || edL ≤ s then false
  else
    match EdPt.decode pub, EdPt.decode rB with
    | some a, some r =>
      let k := ofBytes (sha512 (rB ++ pub ++ msg)) % edL
      (edBase.mul s).eqv (r.add (a.mul k))
    | _, _ => false

end Sys2Proof.Machine
end

