-- ==== Sys2Proof/Machine/HostOps.lean ====
section
/-! DEFINITION. Client contexts, commands in flight and completion records (R323, R326, R330 to R336). -/

namespace Sys2Proof.Machine

/-- A client context. -/
def State.ctx (s : State) (c : BitVec 6) : HCtx := aGet HCtx.reset s.host.ctxs c.toNat
def State.setCtx (s : State) (c : BitVec 6) (x : HCtx) : State :=
  { s with host := { s.host with ctxs := aSet HCtx.reset s.host.ctxs c.toNat x } }
def State.modCtx (s : State) (c : BitVec 6) (f : HCtx → HCtx) : State := s.setCtx c (f (s.ctx c))

/-- The descriptor as one number, byte 0 lowest. -/
def Cmd.all (c : Cmd) : Nat := c.ws.foldr (fun w n => w.toNat + 2 ^ 64 * n) 0
/-- `n` bytes of the descriptor from byte `o`, as a number (R9, R326). -/
def Cmd.num (c : Cmd) (o n : Nat) : Nat := c.all / 2 ^ (8 * o) % 2 ^ (8 * n)
def Cmd.opc (c : Cmd) : Nat := c.num 0 1
def Cmd.nocq (c : Cmd) : Bool := decide (c.num 1 1 % 2 = 1)
def Cmd.irq (c : Cmd) : Bool := decide (c.num 1 1 / 2 % 2 = 1)
def Cmd.tag (c : Cmd) : W32 := BitVec.ofNat 32 (c.num 4 4)

/-- A command in flight by its number. -/
def State.cmd? (s : State) (id : Nat) : Option Cmd := s.host.cmds.find? fun c => decide (c.id = id)
/-- Commands of a context in flight (R323). -/
def State.inFlight (s : State) (c : BitVec 6) : Nat := (s.host.cmds.filter fun k => decide (k.ctx = c)).length

/-- The executing units (R324). -/
inductive HUnit where
  | loader | trainer | serving | mover | sched | lantern | host
deriving DecidableEq, Repr

def HUnit.num : HUnit → Nat
  | .loader => 0 | .trainer => 1 | .serving => 2 | .mover => 3 | .sched => 4 | .lantern => 5 | .host => 6

/-- A client's queue at a unit. -/
def State.unitQ (s : State) (c : BitVec 6) (u : HUnit) : List Nat := aGet [] s.host.units (8 * c.toNat + u.num)
def State.setUnitQ (s : State) (c : BitVec 6) (u : HUnit) (l : List Nat) : State :=
  { s with host := { s.host with units := aSet [] s.host.units (8 * c.toNat + u.num) l } }
/-- The command at the head of a client's queue at a unit. -/
def State.unitHead (s : State) (c : BitVec 6) (u : HUnit) : Option Cmd := (s.unitQ c u).head?.bind s.cmd?
/-- Take a command out of every queue it waits in. -/
def State.unqueue (s : State) (c : BitVec 6) (id : Nat) : State :=
  let f (kv : Nat × List Nat) : Nat × List Nat := (kv.1, kv.2.filter fun i => decide (i ≠ id))
  let s1 : State := { s with host := { s.host with
    units := (s.host.units.map f).filter fun kv => !kv.2.isEmpty, acts := s.host.acts.filter fun a => decide (a.cmd ≠ id) } }
  s1.modCtx c fun x => { x with ring := x.ring.filter fun i => decide (i ≠ id) }

/-- A command leaves flight (R323). -/
def State.leave (s : State) (id : Nat) : State :=
  { s with host := { s.host with cmds := s.host.cmds.filter fun c => decide (c.id ≠ id) } }

/-- Device ranges that a command's operands name (R328). -/
def Cmd.ranges (c : Cmd) : List (Nat × Nat) :=
  match c.opc with
  | 0x01 => (c.num 40 6, c.num 48 8) :: (if c.num 16 1 % 2 = 0 then [(c.num 24 8, c.num 32 8)] else [])
  | 0x02 => [(c.num 16 6, 256)]
  | 0x03 => if c.num 16 1 = 0 then [(c.num 24 6, 256)] else if c.num 16 1 = 2 then [(c.num 40 6, 4 * c.num 36 4)] else []
  | 0x04 => (if c.num 16 1 % 2 = 0 then [(c.num 24 8, c.num 40 8)] else [])
      ++ if c.num 16 1 / 2 % 2 = 0 then [(c.num 32 8, c.num 40 8)] else []
  | 0x0A => [(c.num 24 6, c.num 32 8)]
  | 0x0B => [(c.num 24 6, c.num 32 8)]
  | 0x0C => [(c.num 24 6, 1)]
  | _ => []
/-- Does a command name an object, by its identifier or by an address in it (R230)? -/
def Cmd.names (c : Cmd) (o : Obj) : Bool :=
  (decide (c.opc = 0x06) && decide (c.num 16 2 = o.id)) || (decide (c.opc = 0x09) && decide (c.num 16 1 = 3) && decide (c.num 18 2 = o.id))
    || c.ranges.any fun r => decide (r.1 < o.base + o.size) && decide (o.base < r.1 + r.2)
/-- The objects that a completed command named take its time as their touch time (R230). -/
def State.touch (s : State) (c : Cmd) : State :=
  { s with obj := { s.obj with objs := s.obj.objs.map fun o => if c.names o then { o with touch := s.dev.time } else o } }

/-- Does R327 or R330 state no RESULT for an opcode that completes with a status? A refused LOAD_IMAGE, PLACE, EVICT, CHECKPOINT
or FRAME_SUBMIT, and any DESC_BAD: the RESULT is then a free value. -/
def openResult (opc status : Nat) : Bool :=
  decide (status = 1) || (decide (status ≠ 0) && (decide (opc = 0x01) || decide (opc = 0x05) || decide (opc = 0x06) || decide (opc = 0x07)
    || (decide (opc = 0x0C) && decide (status ≠ 0x61) && decide (status ≠ 0x62))))

/-- Command `id` completes: its record waits to be written, or, with NOCQ and status OK, it leaves flight at once
(R323, R326, R330, R333). -/
def State.complete (s : State) (id status : Nat) (result : W64) : State :=
  match s.cmd? id with
  | none => s
  | some c =>
    let s1 := ((s.touch c).unqueue c.ctx id).modCtx c.ctx fun x => { x with unfinished := x.unfinished.filter fun i => decide (i ≠ id) }
    if c.nocq && decide (status = 0) then s1.leave id
    else
      let isOpen := openResult c.opc status
      let s2 : State := if isOpen then { s1 with dev := { s1.dev with free := s1.dev.free + 1 } } else s1
      s2.modCtx c.ctx fun x => { x with
        recs := x.recs ++ [⟨c.tag, BitVec.ofNat 16 status, BitVec.ofNat 8 c.opc,
          if isOpen then Config.freeWord s.dev.free else result, c.irq, some id, none⟩] }

/-- An EVICTED record goes to the completion ring of the object's owner (R332); in a context that is not live it waits for the ring. -/
def State.postEvicted (s : State) (owner : BitVec 6) (obj : Nat) (newBase : Option Nat) (cause : Nat) : State :=
  s.modCtx owner fun x => { x with
    recs := x.recs ++ [⟨BitVec.ofNat 32 obj, if newBase.isSome then 0 else 0x0035, 0x80,
      (newBase.map fun b => BitVec.ofNat 64 b).getD (BitVec.allOnes 64), false, none, some cause⟩] }

/-- Something is sent to the host. -/
def State.send (s : State) (o : HostOut) : State := { s with host := { s.host with out := s.host.out ++ [o] } }
/-- Vector `n` is signalled; one that its MSI-X entry masks becomes pending (R306, R336). -/
def State.signalVec (s : State) (n : Nat) : State :=
  if (s.host.cfg.msix[n]?).any (·.masked) then { s with host := { s.host with pba := if n ∈ s.host.pba then s.host.pba else s.host.pba ++ [n] } }
  else s.send (.vector n)
/-- The error vector is signalled (R336): vector 64. -/
def State.errVector (s : State) : State := s.signalVec 64

/-- An object of the table. -/
def State.obj? (s : State) (id : Nat) : Option Obj := s.obj.objs.find? fun o => decide (o.id = id)
def State.modObj (s : State) (id : Nat) (f : Obj → Obj) : State :=
  { s with obj := { s.obj with objs := s.obj.objs.map fun o => if o.id = id then f o else o } }
/-- The client's image. -/
def State.image (s : State) (c : BitVec 6) : Option Image := aGet none s.imgs c.toNat
/-- The client's session. -/
def State.session (s : State) (c : BitVec 6) : Option Sess := aGet none s.sess c.toNat
def State.setSession (s : State) (c : BitVec 6) (x : Option Sess) : State := { s with sess := aSet none s.sess c.toNat x }

/-! ## Blocks that sessions and runs keep in tier H -/

/-- Epoch bits of counts, the first in bit 0 (R278, R281). -/
def epochs (l : List Nat) : Nat := (l.mapIdx fun i n => n / 2 ^ 64 % 2 * 2 ^ i).sum
/-- A count's 64 visible bits as eight bytes. -/
def cnt8 (n : Nat) : List Byte := toBytes 8 (n % 2 ^ 64)

def SeqSt.num : SeqSt → Nat
  | .free => 0 | .pending => 1 | .prefill => 2 | .active => 3 | .leaving => 4
/-- A sequence-table entry (R284). -/
def SeqEnt.bytes (e : SeqEnt) : List Byte :=
  toBytes 1 e.st.num ++ toBytes 1 e.tokv.toNat ++ toBytes 2 0 ++ toBytes 4 e.pos ++ toBytes 4 e.maxtok ++ toBytes 4 e.pages.length
    ++ toBytes 4 e.nres ++ toBytes 4 e.token.toNat ++ toBytes 8 e.laststep ++ toBytes 8 e.defers ++ toBytes 8 e.readyt
    ++ toBytes 8 e.pleft ++ toBytes 8 0
/-- Write a slot's entry of the sequence table. -/
def State.writeSeq (s : State) (x : Sess) (slot : Nat) : State :=
  s.putH (x.seqtab + 64 * slot) (aGet SeqEnt.free x.seqs slot).bytes
/-- Sequences admitted and not yet left. -/
def Sess.active (x : Sess) : Nat := (x.seqs.filter fun kv => decide (kv.2.st = .prefill ∨ kv.2.st = .active ∨ kv.2.st = .leaving)).length
/-- Pages held. -/
def Sess.used (x : Sess) : Nat := (x.seqs.map fun kv => kv.2.pages.length).sum
/-- The device fields of an SCB, bytes 128 to 255 (R282). -/
def Sess.bytes (x : Sess) (isOpen : Bool) : List Byte :=
  let cs := [x.bstep, x.tokens, x.joins, x.defers, x.leaves, x.prefillt, x.busyNs, x.idleNs, x.seqwaitNs]
  cs.flatMap cnt8 ++ toBytes 4 x.active ++ toBytes 4 x.resv ++ toBytes 4 x.used ++ toBytes 2 (epochs cs) ++ toBytes 2 isOpen.toNat
    ++ toBytes 40 0
/-- Write an SCB's device fields in two line writes: bytes 192 to 255, then bytes 128 to 191 (R337). -/
def State.writeScb (s : State) (x : Sess) (isOpen : Bool) : State :=
  (s.putH (x.scb + 192) ((x.bytes isOpen).drop 64)).putH (x.scb + 128) ((x.bytes isOpen).take 64)

/-- RUNNING is cleared in a TCB, the other bits of RSTAT as they stand (R257). -/
def State.clearRunning (s : State) (tcb : Nat) : State :=
  s.putH (tcb + 240) (toBytes 2 (s.mem.num (tcb + 240) 2 / 2 * 2))

/-- RESULT of JOIN and CONT: batch step and slot (R330). -/
def slotResult (bstep slot : Nat) : W64 := BitVec.ofNat 64 (bstep % 2 ^ 48 + slot % 4096 * 2 ^ 48)

end Sys2Proof.Machine
end

