-- ==== Sys2Proof/Machine/Ops.lean ====
section
/-! DEFINITION. Named operations over the state: tiles and scalar registers, set-up registers, the error log, alerts, and
the raising of a fault (R458, R459). -/

namespace Sys2Proof.Machine

/-- The outcome of a command that leaves a next state. -/
abbrev Out := Host.Outcome State Fault Refusal

/-! ## Tiles -/

/-- Tile `t`. -/
def State.tile (s : State) (t : TileId) : Tile := aGet Tile.empty s.tiles t.toNat
/-- Replace tile `t`. -/
def State.setTile (s : State) (t : TileId) (x : Tile) : State := { s with tiles := aSet Tile.empty s.tiles t.toNat x }
/-- Apply `f` to tile `t`. -/
def State.modTile (s : State) (t : TileId) (f : Tile → Tile) : State := s.setTile t (f (s.tile t))

/-- Read a scalar register: s0 reads as zero (R36). -/
def Tile.reg (x : Tile) (r : Reg) : W64 := if r = 0 then 0 else aGet 0 x.core.regs r.toNat
/-- Write a scalar register: a write to s0 is discarded (R36). -/
def Tile.setReg (x : Tile) (r : Reg) (v : W64) : Tile :=
  if r = 0 then x else { x with core := { x.core with regs := aSet 0 x.core.regs r.toNat v } }
/-- Mark a write of `r` as pending or no longer pending (R40); s0 never pends. -/
def Tile.setPend (x : Tile) (r : Reg) (b : Bool) : Tile :=
  if r = 0 then x else { x with core := { x.core with pend := aSet false x.core.pend r.toNat b } }
/-- Has `r` a write pending? -/
def Tile.isPend (x : Tile) (r : Reg) : Bool := aGet false x.core.pend r.toNat
/-- The global tile address of tile `t` (R6). -/
def State.gta (s : State) (t : TileId) : Gta := s.dev.addr ++ t
/-- The tile of a global tile address. -/
def gtaTile (g : Gta) : TileId := g.setWidth 11
/-- The module of a global tile address. -/
def gtaMod (g : Gta) : BitVec 4 := g.extractLsb' 11 4

/-- Apply `f` to a tile's counters. -/
def Tile.count (x : Tile) (f : TCtr → TCtr) : Tile := { x with ctr := f x.ctr }

/-- A signal object's counts (R171). -/
def Tile.sigP (x : Tile) (o : BitVec 8) : W32 := aGet 0 x.bel.p o.toNat
def Tile.sigC (x : Tile) (o : BitVec 8) : W32 := aGet 0 x.bel.c o.toNat
def Tile.avail (x : Tile) (o : BitVec 8) : W32 := x.sigP o - x.sigC o
def Tile.setP (x : Tile) (o : BitVec 8) (v : W32) : Tile := { x with bel := { x.bel with p := aSet 0 x.bel.p o.toNat v } }
def Tile.setC (x : Tile) (o : BitVec 8) (v : W32) : Tile := { x with bel := { x.bel with c := aSet 0 x.bel.c o.toNat v } }
/-- A message queue. -/
def Tile.queue (x : Tile) (q : BitVec 2) : MsgQ := aGet MsgQ.empty x.bel.q q.toNat
def Tile.setQueue (x : Tile) (q : BitVec 2) (m : MsgQ) : Tile :=
  { x with bel := { x.bel with q := aSet MsgQ.empty x.bel.q q.toNat m } }
def Tile.cslot (x : Tile) (k : BitVec 2) : CSlot := aGet CSlot.empty x.bel.slots k.toNat
def Tile.setCslot (x : Tile) (k : BitVec 2) (c : CSlot) : Tile :=
  { x with bel := { x.bel with slots := aSet CSlot.empty x.bel.slots k.toNat c } }

/-! ## Set-up registers -/

/-- BAR0 offset of a block (R424). -/
def blkBase : Blk → Nat
  | .dev => 0x000000 | .hst => 0x010000 | .kep => 0x020000 | .pwr => 0x030000 | .trh => 0x040000 | .trg => 0x050000
  | .trc => 0x060000 | .gal => 0x070000 | .bel => 0x080000 | .opv => 0x090000 | .lan => 0x0A0000 | .sch => 0x0B0000
  | .err => 0x0C0000
/-- Mask bit of a block (R424). -/
def blkNum (b : Blk) : Nat := blkBase b / 0x10000
/-- Is the block a set-up block (R423)? -/
def Blk.setup : Blk → Bool
  | .hst | .kep | .pwr | .trh | .trg | .trc | .bel | .lan | .sch => true
  | _ => false

/-- Width mask of the RWC register at an offset inside a set-up block, as a number of defined bits per register
(R435 to R447); `none` where no RWC register lies. PWR_COOL and PWR_PLIM are given by the strap at reset. -/
def rwcMask (b : Blk) (o : Nat) : Option Nat :=
  match b with
  | .hst =>
    if o < 0x100 || 0x2100 ≤ o then none
    else match (o - 0x100) % 0x80 with
      | 0x00 => some (2 ^ 20 - 1) | 0x08 => some (2 ^ 64 - 1) | 0x10 => some (2 ^ 13 - 1) | 0x18 => some (2 ^ 64 - 1)
      | 0x20 => some (2 ^ 13 - 1) | 0x28 => some (2 ^ 64 - 1) | 0x30 => some (2 ^ 14 - 1) | 0x38 => some (2 ^ 48 - 1)
      | 0x40 => some 1
      | _ => none
  | .kep =>
    if 0x100 ≤ o && o < 0x240 && o % 8 = 0 then (if (o - 0x100) % 0x28 = 0x20 then some 1 else some (2 ^ 64 - 1))
    else if o = 0x240 then some 1 else none
  | .pwr =>
    match o with | 0x100 => some 7 | 0x108 => some 1 | 0x110 => some (2 ^ 11 - 1) | 0x118 => some (2 ^ 7 - 1) | _ => none
  | .trh => if o = 0x100 then some 0xFFFF01 else none
  | .trg =>
    match o with
    | 0x100 => some (2 ^ 48 - 1) | 0x108 => some (2 ^ 13 - 1) | 0x110 => some (2 ^ 48 - 1) | 0x118 => some (2 ^ 42 - 1)
    | 0x120 => some (2 ^ 48 - 1) | 0x128 => some (2 ^ 32 - 1) | _ => none
  | .trc =>
    match o with
    | 0x100 => some 1 | 0x108 => some (2 ^ 43 - 1) | 0x110 => some (2 ^ 48 - 1)
    | _ => if 0x118 ≤ o && o < 0x158 && o % 8 = 0 then some (2 ^ 48 - 2 ^ 24 + 2 ^ 20 - 1) else none
  | .bel =>
    match o with
    | 0x100 => some (2 ^ 21 - 1) | 0x108 => some (2 ^ 32 - 1)
    | _ => if 0x110 ≤ o && o < 0x310 && o % 8 = 0 then some (2 ^ 48 - 1) else none
  | .lan =>
    if o < 0x100 || 0x200 ≤ o then none
    else match (o - 0x100) % 0x80 with
      | 0x00 => some 0x1FF | 0x08 => some (2 ^ 22 - 1) | 0x10 => some (2 ^ 31 - 2 ^ 16 + 2 ^ 15 - 1)
      | 0x18 => some (2 ^ 32 - 2 ^ 16 + 2 ^ 15 - 1) | 0x20 => some (2 ^ 30 - 2 ^ 16 + 2 ^ 14 - 1)
      | 0x28 => some (2 ^ 32 - 2 ^ 16 + 2 ^ 15 - 1) | 0x30 => some (2 ^ 17 - 1) | 0x38 => some (2 ^ 30 - 1)
      | 0x40 => some 0x3F
      | _ => none
  | .sch =>
    match o with
    | 0x100 => some (2 ^ 32 - 1) | 0x108 => some (2 ^ 32 - 1) | 0x110 => some (2 ^ 32 - 1)
    | _ =>
      if o < 0x200 || 0x1200 ≤ o then none
      else match (o - 0x200) % 0x40 with
        | 0x00 => some (2 ^ 48 - 1) | 0x08 => some (2 ^ 16 - 1) | 0x10 => some (2 ^ 43 - 1) | 0x18 => some (2 ^ 43 - 1)
        | 0x20 => some (2 ^ 43 - 1)
        | _ => none
  | _ => none

/-- Reset value of an RWC register, but for the two that the strap gives (R435 to R447). -/
def rwcReset (b : Blk) (o : Nat) : Nat :=
  match b with
  | .hst => if (o - 0x100) % 0x80 = 0x30 then 128 else 0
  | .pwr => match o with | 0x100 => 2 | 0x118 => 95 | _ => 0
  | .trh => 24 * 256 + 1
  | .bel => match o with | 0x100 => 0x10000 | 0x108 => 4096 | _ => 0
  | .sch =>
    match o with
    | 0x100 => 10000000 | 0x108 => 50000000 | 0x110 => 100000000
    | _ => if 0x200 ≤ o && (o - 0x200) % 0x40 = 8 then 1 else 0
  | _ => 0

/-- Above the offset of an RWC register: the reserved bits that the host last wrote there. They read as zero, and a LAN commit checks them
(R10, R370). -/
def rsvAt : Nat := 2 ^ 32
/-- A shadow register. -/
def Regs.shadowAt (r : Regs) (b : Blk) (o : Nat) : W64 :=
  (aGet none r.shadow (blkBase b + o)).getD (BitVec.ofNat 64 (rwcReset b o))
/-- An active register. -/
def Regs.activeAt (r : Regs) (b : Blk) (o : Nat) : W64 :=
  (aGet none r.active (blkBase b + o)).getD (BitVec.ofNat 64 (rwcReset b o))
/-- The active value of a register of block `b`, as a number. -/
def State.act (s : State) (b : Blk) (o : Nat) : Nat := (s.regs.activeAt b o).toNat

/-! ## The error log -/

/-- The classes of place an entry names (R454). -/
inductive LK where
  | tile | slice | stack | port | output | ctx | blk | dev
deriving DecidableEq, Repr

def LK.num : LK → Nat
  | .tile => 0 | .slice => 1 | .stack => 2 | .port => 3 | .output => 4 | .ctx => 5 | .blk => 6 | .dev => 7

/-- Set bits of ERR_ALERT (R455, R457). -/
def State.alert (s : State) (bit : Nat) : State := { s with err := { s.err with alert := s.err.alert ||| BitVec.ofNat 9 (2 ^ bit) } }

/-- Append an entry to the log, or drop it when the ring is full (R454, R456). -/
def State.log (s : State) (code : Nat) (k : LK) (loc : Nat) (d0 d1 : Nat) (flags : Nat := 0) : State :=
  if (s.err.tail + 1) % 512 = s.err.head then
    { s with err := { s.err with drop := s.err.drop + 1, alert := s.err.alert ||| 0x40#9 } }
  else
    let e : LogEnt :=
      { time := s.dev.time, code := BitVec.ofNat 16 code, lkind := BitVec.ofNat 8 k.num, flags := BitVec.ofNat 8 flags
        loc := BitVec.ofNat 32 loc, d0 := BitVec.ofNat 64 d0, d1 := BitVec.ofNat 64 d1 }
    { s with err := { s.err with log := aSet none s.err.log s.err.tail (some e), tail := (s.err.tail + 1) % 512 } }

/-- A corrected word: counted, and logged as MEM_CE at most once in 1 ms for one place (R217, R456). -/
def State.memCe (s : State) (k : LK) (loc addr : Nat) (syn : Byte) : State :=
  let key := 2 ^ 32 * k.num + loc
  let last := aGet 0 s.err.lastCe key
  let s := { s with err := { s.err with ce := s.err.ce + 1 } }
  if last ≠ 0 && s.dev.time < last - 1 + 1000000 then s
  else (({ s with err := { s.err with lastCe := aSet 0 s.err.lastCe key (s.dev.time + 1) } } : State).log 0x2001 k loc addr syn.toNat)

/-- A new uncorrectable word: counted, logged as MEM_UE, and ALERT (R58, R216, R455). -/
def State.memUe (s : State) (k : LK) (loc addr : Nat) (syn : Byte) : State :=
  (({ s with err := { s.err with ue := s.err.ue + 1 } } : State).log 0x2002 k loc addr syn.toNat).alert 3

/-! ## Faults -/

/-- Keep what the compute-domain reset does not touch in the Gallery: VC0, Lantern's reads (R458). -/
def keepVc0 (l : Assoc (List Flit)) : Assoc (List Flit) := l.filter fun kv => kv.1 % 4 = 0

/-- Receive slots of the Opver ports that hold flits for this module, by VC, are returned when those flits are discarded
(R343, R458): the buffers behind rows 0 to 7 of a die's west edge. -/
def freeRx (links : Assoc (List Flit)) (die : Nat) (freed : List Nat) : List Nat :=
  freed.mapIdx fun i n => n + ((List.range 8).map fun row => (aGet [] links (64 * (1024 * die + 32 * row) + 29 + i)).length).sum

/-- Step 5 of R458 for tiles, Gallery and token pools: all tile state is cleared and flits of tiles are discarded. -/
def State.clearCompute (s : State) : State :=
  let lan (l : List LineReq) : List LineReq := l.filter (·.lan)
  let f (x : Slice) : Slice := { x with reads := lan x.reads, ops := x.ops.map fun o => { o with waiting := lan o.waiting } }
  { s with
    tiles := []
    mem := { s.mem with slices := (s.mem.slices.map fun kv => (kv.1, f kv.2)).filter fun kv => decide (kv.2 ≠ Slice.empty) }
    net := { s.net with links := keepVc0 s.net.links, ejects := [], edges := keepVc0 s.net.edges, olPos := [], sent := [], taken := []
                        wins := [] }
    opv := { s.opv with
      p0 := { s.opv.p0 with freed := freeRx s.net.links 0 s.opv.p0.freed }
      p1 := { s.opv.p1 with freed := freeRx s.net.links 1 s.opv.p1.freed } }
    pool0 := { s.pool0 with size := 0, wait := [] }
    pool1 := { s.pool1 with size := 0, wait := [] } }

/-- N, LASTS and STAT of a group's update-table entry as bytes 64 to 83 (R236). -/
def Group.entry (g : Group) : List Byte :=
  cnt8 g.n ++ cnt8 g.lasts ++ toBytes 4 (g.applying.toNat + 2 * g.torn.toNat + 4 * g.lastskip.toNat)
/-- Write them. -/
def State.writeEntry (s : State) (g : Group) : State :=
  s.putH (s.act .trg 0x100 + 128 * g.k + 64) g.entry

/-- A refused commit (R428): cause and detail, and one COMMIT_FAIL entry. -/
def State.refuse (s : State) (b : Blk) (cause detail : Nat) : State :=
  let c := aGet Cmt.reset s.regs.cmt (blkNum b)
  ({ s with regs := { s.regs with
      cmt := aSet Cmt.reset s.regs.cmt (blkNum b)
        { c with state := .refused, cause := BitVec.ofNat 8 cause, detail := BitVec.ofNat 16 detail, held := none } } } : State).log
    0x1008 .blk (blkNum b) cause detail

/-- A fault disables every update group: one with an apply or discard in progress is left TORN (R250, R432). -/
def State.endGroups (s : State) : State :=
  let hit (g : Group) : Bool := g.recs.any fun r => !r.complete
  let s1 := (s.gro.groups.filter hit).foldl (fun s g => s.writeEntry { g with applying := false, torn := true }) s
  let s2 : State := { s1 with
    gro := { s1.gro with groups := [], packets := [], opn := none, nf := 0, reported := 0, judged := false }
    regs := { s1.regs with active := aSet none s1.regs.active (blkBase .trg + 0x108) (some 0) } }
  let c := aGet Cmt.reset s2.regs.cmt (blkNum .trg)
  if c.work then
    let s3 : State := { s2 with regs := { s2.regs with cmt := aSet Cmt.reset s2.regs.cmt (blkNum .trg) { c with work := false } } }
    let g := s3.regs.gwait.getLsbD (blkNum .trg)
    let s4 : State := { s3 with regs := { s3.regs with
      gwait := if g then 0 else s3.regs.gwait, gstate := if g then .refused else s3.regs.gstate
      gcause := if g then 7 else s3.regs.gcause, gdetail := if g then BitVec.ofNat 16 (blkNum .trg) else s3.regs.gdetail } }
    s4.refuse .trg 7 0xFFFF
  else s2

/-- A fault ends the training run and every session, discards what the scheduler has saved, and unloads every image
(R280, R304, R458). -/
def State.endRuns (s : State) : State :=
  let s1 := match s.trn.run with
    | some r => s.clearRunning r.tcb
    | none => s
  let s2 := s1.sess.foldl (fun s kv =>
    match kv.2 with
    | some x => (x.seqs.foldl (fun s e => s.writeSeq { x with seqs := [] } e.1) s).writeScb { x with seqs := [], resv := 0 } false
    | none => s) s1
  { s2 with
    trn := { s2.trn with run := none, ckpt := none }, sess := [], imgs := []
    sch := { s2.sch with
      phase := .idle, request := none, lateRaised := false
      clients := s2.sch.clients.map fun kv => (kv.1, { kv.2 with started := false, saved := false, wasRunnable := false }) }
    obj := { s2.obj with objs := s2.obj.objs.map fun o => { o with sealed := false } }
    gro := { s2.gro with updSeen := [], imgSeen := [] }
    waits := [], opv := { s2.opv with arrived := false, arrives := [], released := none, relNf := false, relSw := false } }

/-- How a command in flight ends when a fault is raised: `none` where it goes on (R304). -/
def State.faultEnd (s : State) (code : Nat) (c : Cmd) : Option (Nat × W64) :=
  let bstep := (s.session c.ctx).elim 0 (·.bstep)
  let held := (s.trn.run.elim [] (·.ckCmds)) ++ (s.trn.ckpt.elim [] (·.cmds))
  let leaving := (s.session c.ctx).any fun x => decide (x.closing = some c.id) || x.seqs.any fun e => decide (c.id ∈ e.2.leaves)
  match c.opc with
  | 0x02 => some (code, BitVec.ofNat 64 s.trn.tstep)
  | 0x0A => some (code, 0)
  | 0x0B => some (code, 0)
  | 0x07 => if decide (c.id ∈ held) || s.host.acts.any (fun a => decide (a.cmd = c.id) && a.run.isSome) then some (code, 0) else none
  | 0x03 =>
    match c.num 16 1 with
    | 2 => some (code, slotResult bstep (c.num 18 2))
    | 3 => some (code, slotResult bstep (c.num 18 2))
    | 1 => if leaving then some (0, 0) else none
    | 4 => if leaving then some (0, slotResult 0 (c.num 18 2)) else none
    | _ => none
  | _ => none

/-- Is a command in flight still to complete, its record not among those that wait (R323)? -/
def State.unfinished (s : State) (c : Cmd) : Bool := decide (c.id ∈ (s.ctx c.ctx).unfinished)
/-- What a fault does to every job of the module (R250, R280, R304). -/
def State.endJobs (s : State) (code : Nat) : State :=
  let ends := (s.host.cmds.filter s.unfinished).filterMap fun c => (s.faultEnd code c).map fun e => (c.id, e)
  ends.foldl (fun s e => s.complete e.1 e.2.1 e.2.2) s.endGroups.endRuns

/-- Raise a fault (R458, R459): log it; unless a compute-domain reset is already in progress, end every job, clear the
compute domain and set CDRESET. -/
def State.raise (s : State) (code : Nat) (k : LK) (loc d0 d1 : Nat) : State :=
  let first := decide (s.err.firstCode = 0)
  let flags := (if s.dev.cdreset then 0 else 1) + (if first then 2 else 0)
  let s1 := s.log code k loc d0 d1 flags
  let s2 : State :=
    { s1 with err := { s1.err with
        faults := s1.err.faults + 1, alert := s1.err.alert ||| 1#9
        firstCode := if first then BitVec.ofNat 16 code else s1.err.firstCode
        firstLoc := if first then BitVec.ofNat 32 loc else s1.err.firstLoc } }
  if s.dev.cdreset then s2
  else
    let s3 := (s2.endJobs code).clearCompute
    { s3 with dev := { s3.dev with cdreset := true } }

/-- Raise a fault of tile `t` (LKIND 0); the tile shows FAULT until the reset ends (R448, R458). -/
def State.raiseTile (s : State) (t : TileId) (code d0 d1 : Nat) : State :=
  (s.raise code .tile (s.gta t).toNat d0 d1).modTile t fun x => { x with core := { x.core with faulted := true } }

end Sys2Proof.Machine
end

