-- ==== Sys2Proof/Machine/Operands.lean ====
section
/-! DEFINITION. Handles, store rows, elements and scale bytes (R50, R55, R58 to R64, R73, R102, R121, R123). -/

namespace Sys2Proof.Machine

/-- A handle-table entry (R59). -/
structure Hd where
  v : Bool
  store : Nat
  base : Nat
  rows : Nat
  cols : Nat
  stride : Nat
deriving DecidableEq, Repr

/-- The fields of an entry. -/
def hdOf (w : W64) : Hd := ⟨w.getLsbD 63, fld w 62 61, fld w 60 49, fld w 48 37, fld w 36 26, fld w 25 14⟩

/-- The buffer's last store row (R60). -/
def Hd.last (h : Hd) : Nat := h.base + h.rows * h.stride + h.cols / 32
/-- Rows of a store: 2,560 in the W- and A-store, 1,024 in the P-store (R50). -/
def storeRows (st : Nat) : Nat := if st = 2 then 1024 else 2560
/-- Rows of a segment (R62). -/
def segRows (st : Nat) : Nat := storeRows st / 8
/-- Is segment `g` of store `st` powered by mask `m` (R62)? -/
def segOn (m : BitVec 24) (st g : Nat) : Bool := m.getLsbD (8 * st + g)

/-- R60 and R61: an entry with V = 1 names a real store, a wide enough stride, and only rows of powered segments. -/
def Hd.legal (h : Hd) (m : BitVec 24) : Bool :=
  !h.v ||
    (decide (h.store ≠ 3) && (decide (h.rows = 0) || decide ((h.cols + 32) / 32 ≤ h.stride))
      && decide (h.last < storeRows h.store)
      && (List.range 8).all fun g =>
        decide (g < h.base / segRows h.store) || decide (h.last / segRows h.store < g) || segOn m h.store g)

/-- Bank and entry of word `w` of store row `r` (R50). -/
def bankOf (r w : Nat) : Nat := (w + r) % 32
def entryOf (r w : Nat) : Nat := r / 32 * 8 + w
/-- Do row accesses to rows `r` and `q` share a bank (R52)? -/
def shareBank (r q : Nat) : Bool := (List.range 8).any fun i => (List.range 8).any fun k => decide (bankOf r i = bankOf q k)
/-- Passes of a column access over 32 rows whose numbers step by `s` (R51). -/
def columnPasses (s : Nat) : Nat := Nat.gcd s 32
/-- The check bits a store or tier word is held with: those of its data, all inverted where it is stored poison (R50, R58, R216). -/
def PWord.check (v : PWord) : Byte := if v.p then ~~~(Config.h72 v.d) else Config.h72 v.d

/-- Key of a store row. -/
def rowKey (st row : Nat) : Nat := 4096 * st + row
/-- The number of a store. -/
def selNum : StoreSel → Nat
  | .w => 0 | .a => 1 | .p => 2
/-- The store of a number. -/
def storeOf (n : Nat) : StoreSel := if n = 0 then .w else if n = 1 then .a else .p

/-- The words of one store, by `8 * row + word`. -/
def Tile.store (x : Tile) (st : Nat) : Assoc PWord := if st = 0 then x.w else if st = 1 then x.a else x.p
def Tile.setStore (x : Tile) (st : Nat) (m : Assoc PWord) : Tile :=
  if st = 0 then { x with w := m } else if st = 1 then { x with a := m } else { x with p := m }

/-- Read a word of a store; a word found uncorrectable reads as poison (R58). -/
def Tile.rdWord (x : Tile) (st key : Nat) : PWord :=
  let v := aGet pw0 (x.store st) key
  ⟨v.d, v.p || decide ((storeOf st, key) ∈ x.ue)⟩
/-- Write a word of a store with fresh check bits or with the poison mark (R58). -/
def Tile.wrWord (x : Tile) (st key : Nat) (v : PWord) : Tile :=
  let x := x.setStore st (aSet pw0 (x.store st) key v)
  { x with ue := x.ue.filter fun u => decide (u ≠ (storeOf st, key)) }

/-- Read a whole store row: eight words. -/
def Tile.rdRow (x : Tile) (st row : Nat) : List PWord := (List.range 8).map fun w => x.rdWord st (8 * row + w)
/-- Write a whole store row. -/
def Tile.wrRow (x : Tile) (st row : Nat) (ws : List PWord) : Tile :=
  ((List.range 8).zip ws).foldl (fun x kv => x.wrWord st (8 * row + kv.1) kv.2) x

/-- An element's place in a store: row, and bit position within the row's 512 bits. -/
structure Place where
  row : Nat
  pos : Nat
deriving DecidableEq, Repr

/-- Elements of `b` bits in one logical row (R121). -/
def Hd.epr (h : Hd) (b : Nat) : Nat := (h.cols + 1) * 16 / b
/-- Scale blocks in one logical row, a partial block among them (R72, R73, R102). -/
def Hd.bpr (h : Hd) (b : Nat) : Nat := (h.epr b + 31) / 32
/-- Element (i, c) of `b` bits (R60). -/
def Hd.place (h : Hd) (b i c : Nat) : Place := ⟨h.base + i * h.stride + c * b / 512, c * b % 512⟩
/-- Is (i, c) inside ROWS and COLS (R61)? -/
def Hd.inside (h : Hd) (b i c : Nat) : Bool := decide (i ≤ h.rows) && decide (c < h.epr b)

/-- Read `b` bits at a place, with the poison mark of the word. -/
def Tile.rdAt (x : Tile) (st b : Nat) (p : Place) : Nat × Bool :=
  let w := x.rdWord st (8 * p.row + p.pos / 64)
  (w.d.toNat / 2 ^ (p.pos % 64) % 2 ^ b, w.p)
/-- Read element (i, c) of `b` bits: `elem` of R104 and R123. -/
def Tile.rdElem (x : Tile) (h : Hd) (b i c : Nat) : Nat × Bool := x.rdAt h.store b (h.place b i c)

/-- `sbyte` of R102: byte `n` of a packed scale buffer. -/
def Tile.sbyte (x : Tile) (h : Hd) (n : Nat) : Nat × Bool := x.rdElem h 8 (n / h.epr 8) (n % h.epr 8)
/-- The place of byte `n` of a packed scale buffer. -/
def Hd.sbyteAt (h : Hd) (n : Nat) : Place := h.place 8 (n / h.epr 8) (n % h.epr 8)
/-- Records in one logical row of a record buffer (R102). -/
def Hd.recs (h : Hd) : Nat := (h.cols + 1) / 2
/-- The place of record `q` (R102). -/
def Hd.recAt (h : Hd) (q : Nat) : Place := h.place 32 (q / h.recs) (q % h.recs)

/-- One lane's write: a place, a width, a value and a poison mark. -/
structure LaneWr where
  st : Nat
  pl : Place
  b : Nat
  v : Nat
  p : Bool
deriving DecidableEq, Repr

/-- What a group writes into one word: data, the bits it covers, and whether a poisoned lane is among them. -/
structure WordWr where
  d : Nat
  cover : Nat
  p : Bool
deriving DecidableEq, Repr

/-- Replace `b` bits at `lo` of a number below 2^64. -/
def putBits (d lo b v : Nat) : Nat := d - (d / 2 ^ lo % 2 ^ b) * 2 ^ lo + (v % 2 ^ b) * 2 ^ lo

/-- Gather the lanes' writes by word; the key is `2^20 * store + 8 * row + word`. -/
def gather (ws : List LaneWr) : Assoc WordWr :=
  ws.foldl (fun acc w =>
    let k := 2 ^ 20 * w.st + 8 * w.pl.row + w.pl.pos / 64
    let o := aGet ⟨0, 0, false⟩ acc k
    let lo := w.pl.pos % 64
    aInsert acc k ⟨putBits o.d lo w.b w.v, putBits o.cover lo w.b (2 ^ w.b - 1), o.p || w.p⟩) []

/-- The writes of one group under the word rule of R123: other bits of a word keep their value; the word is marked
poison when a poisoned lane was written into it, or when it was poisoned and some of its bits were left unwritten. -/
def Tile.wrLanes (x : Tile) (ws : List LaneWr) : Tile :=
  (gather ws).foldl (fun x kw =>
    let st := kw.1 / 2 ^ 20
    let key := kw.1 % 2 ^ 20
    let old := x.rdWord st key
    let nd := (old.d &&& ~~~(BitVec.ofNat 64 kw.2.cover)) ||| BitVec.ofNat 64 kw.2.d
    x.wrWord st key ⟨nd, kw.2.p || (old.p && decide (kw.2.cover ≠ 2 ^ 64 - 1))⟩) x

/-! ## Program order of store rows (R55) -/

/-- Do two lists of row keys share a key? -/
def meets (a b : List Nat) : Bool := a.any fun k => decide (k ∈ b)

/-- Does a VCH read the slot that the FTQ head names? -/
def VchOp.readsHead (o : VchOp) : Bool := o.stages.any fun g => g.1.fq
/-- Row keys of a P-store slot. -/
def slotRows (k : Slot) : List Nat := (List.range 128).map fun r => rowKey 2 (128 * k.toNat + r)

/-- Rows that the VCHs `ops` have still to read through the FTQ, where their slots are known: `slots` are those of the FTQ's
entries, oldest first, and of the drains that will push the next ones, with their issue numbers; `k` releases come first (R44,
R131; DEDUCED, log entry 115). -/
def fqReads (slots : List (Option Nat × Slot)) : Nat → List VchOp → List Access
  | _, [] => []
  | k, o :: os =>
    let own := match slots[k]? with
      | some (none, c) => if o.readsHead then [⟨o.seq, slotRows c, []⟩] else []
      | some (some q, c) => if o.readsHead && decide (q < o.seq) then [⟨o.seq, slotRows c, []⟩] else []
      | none => []
    own ++ fqReads slots (if o.f.rel then k + 1 else k) os
/-- The reads through the FTQ that the VCHs of a tile have still to make. -/
def Tile.headReads (x : Tile) : List Access :=
  fqReads (x.ftq.map (fun c => (none, c)) ++ (x.mxe.ops.filter (·.f.finish)).map fun o => (some o.seq, o.f.dslot))
    x.vxe.relDue.toNat x.vxe.ops

/-- May an instruction of issue number `seq` read rows `rd` and write rows `wr` now: no instruction issued before it has
still to write a row it touches, or to read a row it writes (R55). -/
def Tile.rowsFree (x : Tile) (seq : Nat) (rd wr : List Nat) : Bool :=
  (x.acc ++ x.headReads).all fun a => decide (seq ≤ a.seq) || !(meets a.wr rd || meets a.wr wr || meets a.rd wr)

/-- Record the rows that a newly issued instruction has to read and write. -/
def Tile.addAccess (x : Tile) (rd wr : List Nat) : Tile :=
  { x with seq := x.seq + 1, acc := x.acc ++ [⟨x.seq, rd, wr⟩] }
/-- Instruction `seq` has read rows `rd` and written rows `wr`. -/
def Tile.doneRows (x : Tile) (seq : Nat) (rd wr : List Nat) : Tile :=
  { x with acc := x.acc.map fun a =>
      if a.seq = seq then { a with rd := a.rd.filter fun k => !decide (k ∈ rd), wr := a.wr.filter fun k => !decide (k ∈ wr) } else a }
/-- Instruction `seq` has no access left. -/
def Tile.dropAccess (x : Tile) (seq : Nat) : Tile := { x with acc := x.acc.filter fun a => decide (a.seq ≠ seq) }
/-- The rows that instruction `seq` has still to write are `wr`. -/
def Tile.setWrites (x : Tile) (seq : Nat) (wr : List Nat) : Tile :=
  { x with acc := x.acc.map fun a => if a.seq = seq then { a with wr := wr } else a }
/-- Instruction `seq` has read all its rows. -/
def Tile.allRead (x : Tile) (seq : Nat) : Tile :=
  { x with acc := x.acc.map fun a => if a.seq = seq then { a with rd := [] } else a }

/-- Row keys that the access record of instruction `seq` still holds: to read, and to write. -/
def Tile.accessOf (x : Tile) (seq : Nat) : List Nat × List Nat :=
  match x.acc.find? fun a => decide (a.seq = seq) with
  | some a => (a.rd, a.wr)
  | none => ([], [])

/-- Rows that a VCH reads and writes, the FTQ head's slot among them (R55, R131). -/
def Tile.vchRows (x : Tile) (o : VchOp) : List Nat × List Nat :=
  let r := x.accessOf o.seq
  (if o.readsHead then r.1 ++ slotRows (x.ftq.headD 0) else r.1, r.2)
/-- May the oldest VCH work in the lanes: its rows hold what program order gives them, and the FTQ head it reads or releases is
there (R55, R131)? The rows that its own RDX will write do not hold it, since they are formed from it (DEDUCED, log entry 116). -/
def Tile.vchFree (x : Tile) (o : VchOp) : Bool :=
  let r := x.vchRows o
  let y := match o.rdx with
    | some e => { x with acc := x.acc.filter fun a => decide (a.seq ≠ e.seq) }
    | none => x
  y.rowsFree o.seq r.1 r.2 && (!(o.f.rel || o.readsHead) || (!x.ftq.isEmpty && !x.vxe.relDue))

/-! ## Steps and busy counters (R12, R138, R461) -/

/-- Does the MXE array perform work (MXE_BUSY)? -/
def Tile.mxeActive (x : Tile) : Bool := x.mxe.ops.any fun o => decide (o.stage = .running) && decide (o.occ ≠ 0)
/-- Has the VXE a group in its lanes or a chain store access in progress (VXE_BUSY)? -/
def Tile.vxeActive (x : Tile) : Bool :=
  match x.vxe.ops with
  | [] => false
  | o :: _ => decide (o.groups ≠ 0) && x.vchFree o
/-- Has the RDU a group, a pending result or an unpaired RDX (RDU_BUSY)? -/
def Tile.rduActive (x : Tile) : Bool := !x.rdu.unpaired.isEmpty || !x.rdu.results.isEmpty || x.vxe.ops.any fun o => o.rdx.isSome
/-- Has the stream unit a line outstanding or a take in progress (STR_BUSY)? -/
def Tile.strActive (x : Tile) : Bool := x.str.tags.any (fun kv => kv.2.isSome) || x.str.ents.any fun e => e.put && e.seq.isSome
/-- Does the sync port send, await an answer or hold a RECV (SYNC_BUSY)? -/
def Tile.syncActive (x : Tile) : Bool := x.bel.resv.isSome || x.bel.syncq.any fun o => !o.complete

/-- The counters after `n` tally steps: each busy counter counts the steps in which its unit is active, as they pass (R138). -/
def Tile.stepCtr (x : Tile) (n : Nat) : TCtr :=
  let one (b : Bool) : Nat := if b then n else 0
  { x.ctr with
    tally := x.ctr.tally + n, mxeBusy := x.ctr.mxeBusy + one x.mxeActive, vxeBusy := x.ctr.vxeBusy + one x.vxeActive
    rduBusy := x.ctr.rduBusy + one x.rduActive, strBusy := x.ctr.strBusy + one x.strActive
    syncBusy := x.ctr.syncBusy + one x.syncActive }
/-- Let `n` tally steps pass. -/
def Tile.step (x : Tile) (n : Nat) : Tile := { x with ctr := x.stepCtr n }

/-! ## H72 findings on store reads (R25, R58) -/

/-- Apply the findings on the rows `rd` that an engine reads: a correction is counted; a new uncorrectable word is
logged once and reads as poison from then on, its data a free value. -/
def State.storeErrs (s : State) (t : TileId) (rd : List Nat) (errs : List StoreErr) : State :=
  errs.foldl (fun s e =>
    if decide (rowKey (selNum e.store) e.row ∈ rd) && decide (e.word < 8) then
      match e.ecc with
      | .ok => s
      | .ce syn => s.memCe .tile (s.gta t).toNat e.row syn
      | .ue syn =>
        let key := 8 * e.row + e.word
        if ((s.tile t).rdWord (selNum e.store) key).p then s
        else
          let v := Config.freeWord s.dev.free
          ({ (s.memUe .tile (s.gta t).toNat e.row syn) with dev := { s.dev with free := s.dev.free + 1 } } : State).modTile t fun x =>
            let x := x.setStore (selNum e.store) (aSet pw0 (x.store (selNum e.store)) key ⟨v, false⟩)
            { x with ue := x.ue ++ [(e.store, key)] }
    else s) s

/-- Raise STORE_RANGE: D0 the word address, D1 the handle and the row (R453). -/
def State.storeRange (s : State) (t : TileId) (h : Hdl) (row : Nat) : State :=
  s.raiseTile t 0x8003 (s.tile t).core.pc (h.toNat + (row % 4096) * 2 ^ 16)

/-- A handle-table entry. -/
def Tile.hword (x : Tile) (h : Hdl) : W64 := aGet 0 x.htab h.toNat
/-- Landing and expected-item counts. -/
def Tile.landing (x : Tile) (h : Hdl) : Nat := aGet 0 x.land h.toNat
def Tile.expected (x : Tile) (h : Hdl) : Nat := aGet 0 x.expct h.toNat

/-- Does a handle's buffer hold store row offset `o`, counted from BASE, in a valid entry over powered segments (R61)? -/
def Tile.offsetOk (x : Tile) (h : Hdl) (o : Nat) : Bool :=
  let hd := hdOf (x.hword h)
  hd.v && hd.legal x.mask && decide (hd.base + o ≤ hd.last)

end Sys2Proof.Machine
end

