-- ==== Sys2Proof/Machine/MemOps.lean ====
section
/-! DEFINITION. Device physical memory: ranges, homes, and reads and writes of words, lines and bytes (R7, R201, R202,
R204, R216). A byte that nothing has written reads as zero (R219). -/

namespace Sys2Proof.Machine

/-- The tiers, and addresses outside every mapped range (R7, R8). -/
inductive Tier where
  | h | g | c | none
deriving DecidableEq, Repr

/-- Is the tier C window in use: enabled, and every tag of it written (R209, R219, R442)? -/
def State.tierCOn (s : State) : Bool := decide (s.act .trc 0x100 % 2 = 1) && !(aGet Cmt.reset s.regs.cmt (blkNum .trc)).work
/-- The tier of a device physical address. -/
def State.tierOf (s : State) (a : Nat) : Tier :=
  if a < 2 ^ 40 then .h
  else if a < 3 * 2 ^ 40 then .g
  else if s.tierCOn && decide (4 * 2 ^ 40 ≤ a) && decide (a < 4 * 2 ^ 40 + s.act .trc 0x108) then .c
  else .none

/-- The number that R202 folds. -/
def homeU (a : Nat) : Nat :=
  if a < 2 ^ 40 then bitsOf a 39 8
  else if a < 3 * 2 ^ 40 then bitsOf (a - 2 ^ 40) 40 12
  else bitsOf (a - 4 * 2 ^ 40) 41 12
/-- XOR of the 7-bit parts of a number of at most `7 * n` bits. -/
def fold7 : Nat → Nat → Nat
  | 0, _ => 0
  | n + 1, u => Nat.xor (u % 128) (fold7 n (u / 128))
/-- The home slice of an address (R202). -/
def homeOf (a : Nat) : SliceId :=
  let h := fold7 6 (homeU a)
  ⟨decide (h / 64 = 1), decide (h / 32 % 2 = 1), BitVec.ofNat 5 h⟩
/-- The number of a slice, 0 to 127: LOC of R454. -/
def sliceNum (sl : SliceId) : Nat := sl.die.toNat * 64 + sl.south.toNat * 32 + sl.col.toNat
/-- The tier H stack of a slice, 0 to 7, and its Grotto stack, 0 to 15 (R202). -/
def stackH (sl : SliceId) : Nat := 4 * sl.die.toNat + 2 * sl.south.toNat + sl.col.toNat / 16
def stackG (sl : SliceId) : Nat := 8 * sl.die.toNat + 4 * sl.south.toNat + sl.col.toNat / 8

/-- A slice. -/
def State.slice (s : State) (sl : SliceId) : Slice := aGet Slice.empty s.mem.slices (sliceNum sl)
def State.setSlice (s : State) (sl : SliceId) (x : Slice) : State :=
  s.modMem fun m => { m with slices := aSet Slice.empty m.slices (sliceNum sl) x }

/-- Does a range lie in tier H? -/
def inH (a n : Nat) : Bool := decide (a + n ≤ 2 ^ 40)
/-- Does a range lie in tier H or in tier G? -/
def inHG (a n : Nat) : Bool := inH a n || (decide (2 ^ 40 ≤ a) && decide (a + n ≤ 3 * 2 ^ 40))

end Sys2Proof.Machine
end

