-- ==== Sys2Proof/Machine/Cache.lean ====
section
/-! DEFINITION. What a home slice does for the lines and blocks it holds: Relpa blocks, the tier cache, block operations and their UIO
requests, and the findings on words that are read (R202, R203, R205, R209 to R218, R312). Memory holds the contents that a reader at
the home would get; the cache holds which lines a slice has. -/

namespace Sys2Proof.Machine

/-! ## Relpa blocks (R210 to R213) -/

/-- The block of an address. -/
def blkOf (a : Nat) : Nat := a - a % 4096
/-- Does a block lie in the tier C window? -/
def isC (a : Nat) : Bool := decide (4 * 2 ^ 40 ≤ a)
/-- Units for a payload of `n` bytes: 64 B in tier G, seven words in tier C. -/
def unitsFor (c : Bool) (n : Nat) : Nat := if c then ((n + 7) / 8 + 6) / 7 else (n + 63) / 64
/-- The bytes of a block's words. -/
def blockBytes (ws : List PWord) : List Byte := ws.flatMap fun w => toBytes 8 w.d.toNat
/-- Mode and stored units of a block's 512 words (R212). -/
def relpaMode (c : Bool) (ws : List PWord) : Nat × Nat :=
  let raw := unitsFor c 4096
  if ws.any (·.p) then (1, raw)
  else
    let nw := (ws.filter fun w => decide (w.d ≠ 0)).length
    let nb := ((blockBytes ws).filter fun b => decide (b ≠ 0)).length
    let wm := unitsFor c (64 + 8 * nw)
    let bm := unitsFor c (512 + nb)
    if nw = 0 then (0, 0)
    else if raw ≤ wm && raw ≤ bm then (1, raw)
    else if wm ≤ bm then (2, wm)
    else (3, bm)
/-- The 16-bit tag. -/
def relpaTag (mu : Nat × Nat) : W16 := BitVec.ofNat 16 (mu.1 * 2 ^ 14 + (mu.2 - 1))
/-- Mode and units of a tag. -/
def tagMode (t : W16) : Nat := t.toNat / 2 ^ 14
def tagUnits (t : W16) : Nat := if tagMode t = 0 then 0 else t.toNat % 128 + 1

/-- A mask of bytes: bit `i mod 8` of byte `i div 8` is 1 where the `i`-th flag is set. -/
def maskBytes : Nat → List Bool → List Byte
  | 0, _ => []
  | n + 1, fs => BitVec.ofNat 8 ((fs.take 8).mapIdx fun i f => f.toNat * 2 ^ i).sum :: maskBytes n (fs.drop 8)
/-- The payload of a mode (R211). -/
def relpaPayload (mode : Nat) (ws : List PWord) : List Byte :=
  match mode with
  | 0 => []
  | 1 => blockBytes ws
  | 2 => maskBytes 64 (ws.map fun w => decide (w.d ≠ 0)) ++ blockBytes (ws.filter fun w => decide (w.d ≠ 0))
  | _ => maskBytes 512 ((blockBytes ws).map fun b => decide (b ≠ 0)) ++ (blockBytes ws).filter fun b => decide (b ≠ 0)
/-- Payload words of a unit. -/
def unitWords (c : Bool) (u : Nat) : List Nat := if c then (List.range 7).map fun k => 7 * u + k else (List.range 8).map fun k => 8 * u + k
/-- Word `i` of the payload of a block's words, zero past its end; in a RAW payload it keeps its mark (R211, R212). -/
def payloadWord (mode : Nat) (ws : List PWord) (i : Nat) : PWord :=
  if mode = 1 then ws.getD i pw0 else ⟨BitVec.ofNat 64 (ofBytes (((relpaPayload mode ws).drop (8 * i)).take 8)), false⟩
/-- A stored unit of a block (R213): 64 B of payload in tier G, whose check bits lie apart; in tier C seven words, their check bytes in
order and a zero byte. -/
def unitLine (c : Bool) (mode : Nat) (ws : List PWord) (u : Nat) : List W64 :=
  let p := (unitWords c u).map (payloadWord mode ws)
  if c then p.map (·.d) ++ [BitVec.ofNat 64 (ofBytes (p.map PWord.check))] else p.map (·.d)
/-- The stored units of a block as a write-down forms them, from its home address upward: address and contents (R213, R214). -/
def storedUnits (blk : Nat) (ws : List PWord) : List (Nat × List W64) :=
  let mu := relpaMode (isC blk) ws
  (List.range mu.2).map fun u => (blk + 64 * u, unitLine (isC blk) mu.1 ws u)

/-! ## The tier C window (R209, R442) -/

/-- A segment of the window: its first window offset and its size in bytes, its PBR identifier and its base on the device. -/
structure Seg where
  off : Nat
  size : Nat
  pbr : Nat
  dbase : Nat
deriving DecidableEq, Repr

/-- The valid segments in order, the first at window offset `off`. -/
def segsOf (off : Nat) : List Nat → List Seg
  | [] => []
  | r :: rs =>
    if r % 2 = 0 then []
    else
      let size := r / 2 ^ 13 % 128 * 2 ^ 38
      ⟨off, size, r / 2 % 2 ^ 12, r / 2 ^ 24 % 2 ^ 24 * 2 ^ 38⟩ :: segsOf (off + size) rs
/-- The segment that holds an address of the window. -/
def State.segAt (s : State) (a : Nat) : Option Seg :=
  (segsOf 0 ((List.range 8).map fun k => s.act .trc (0x118 + 8 * k))).find? fun g =>
    decide (4 * 2 ^ 40 + g.off ≤ a) && decide (a < 4 * 2 ^ 40 + g.off + g.size)
/-- The UIO request of unit `u` of a block: to its segment's device, at the same offset in the segment. -/
def State.uioReq (s : State) (blk u : Nat) (write : Bool) (data : List W64) : UioReq :=
  match s.segAt blk with
  | some g => ⟨blk, u, write, g.pbr, g.dbase + (blk - 4 * 2 ^ 40 - g.off) + 64 * u, data⟩
  | none => ⟨blk, u, write, 0, 0, data⟩

/-- Tier H address of the tag of a tier C block (R209). -/
def State.tagAddr (s : State) (blk : Nat) : Nat := s.act .trc 0x110 + 2 * ((blk - 4 * 2 ^ 40) / 4096)
/-- A block's tag, and whether the word that holds it is poisoned. -/
def State.tagOf (s : State) (blk : Nat) : W16 × Bool :=
  if isC blk then
    let ta := s.tagAddr blk
    (BitVec.ofNat 16 (s.mem.num ta 2), (s.mem.word (ta - ta % 8)).p)
  else (aGet 0 s.mem.tags (blk / 4096), aGet false s.mem.tagPoison (blk / 16384))
/-- Write a block's tag; the other three tags of its word, and the word's mark, stay. -/
def State.setTag (s : State) (blk : Nat) (t : W16) : State :=
  if isC blk then s.modMem fun m => m.putMarked (s.tagAddr blk) ((toBytes 2 t.toNat).map fun b => (b, false))
  else s.modMem fun m => { m with tags := aSet 0 m.tags (blk / 4096) t }
/-- An uncorrectable word of tags becomes stored poison (R216). -/
def State.poisonTag (s : State) (blk : Nat) : State :=
  if isC blk then
    let ta := s.tagAddr blk
    let s1 := s.modMem fun m => m.setWord (ta - ta % 8) ⟨Config.freeWord s.dev.free, true⟩
    { s1 with dev := { s1.dev with free := s1.dev.free + 1 } }
  else s.modMem fun m => { m with tagPoison := aSet false m.tagPoison (blk / 16384) true }

/-! ## The tier cache (R203) -/

/-- The set of a line. -/
def setOf (a : Nat) : Nat := if a < 2 ^ 40 then homeU a / 128 % 256 else homeU a / 128 % 16 * 16 + a / 256 % 16

/-- Walk the pseudo-LRU tree to way `w` from node `n`, pointing each node away from the way (`mru`) or towards it. -/
def treePoint (t : BitVec 15) (w : Nat) (mru : Bool) : Nat → Nat → BitVec 15
  | 0, _ => t
  | k + 1, n =>
    let b := decide (w / 2 ^ k % 2 = 1)
    let bit := if mru then !b else b
    let t' := if bit then t ||| BitVec.ofNat 15 (2 ^ n) else t &&& ~~~(BitVec.ofNat 15 (2 ^ n))
    treePoint t' w mru k (2 * n + 1 + b.toNat)
/-- The way that the tree points to. -/
def treeWay (t : BitVec 15) : Nat → Nat → Nat
  | 0, _ => 0
  | k + 1, n => let b := t.getLsbD n; b.toNat * 2 ^ k + treeWay t k (2 * n + 1 + b.toNat)

/-- The way that holds a line. -/
def CSet.wayOf (c : CSet) (a : Nat) : Option Nat :=
  (c.ways.find? fun kv => match kv.2 with | some w => decide (w.line = a) | none => false).map (·.1)
/-- Place a line: in its own way, the lowest empty one, or the one the tree points to; the line that leaves. -/
def CSet.put (c : CSet) (a : Nat) (dirty mru : Bool) : CSet × Option CWay :=
  match c.wayOf a with
  | some w =>
    let old := (aGet none c.ways w).any (·.dirty)
    (⟨aSet none c.ways w (some ⟨a, dirty || old⟩), treePoint c.tree w mru 4 0⟩, none)
  | none =>
    let w := ((List.range 16).find? fun w => (aGet none c.ways w).isNone).getD (treeWay c.tree 4 0)
    (⟨aSet none c.ways w (some ⟨a, dirty⟩), treePoint c.tree w mru 4 0⟩, aGet none c.ways w)

def Slice.setAt (x : Slice) (a : Nat) : CSet := aGet CSet.empty x.sets (setOf a)
/-- Is a line in the slice's cache? -/
def Slice.has (x : Slice) (a : Nat) : Bool := ((x.setAt a).wayOf a).isSome
/-- A hit under ALLOC moves the line to the most-recent position. -/
def Slice.touch (x : Slice) (a : Nat) (pol : BitVec 2) : Slice :=
  match (x.setAt a).wayOf a, pol with
  | some w, 0 => { x with sets := aSet CSet.empty x.sets (setOf a) { x.setAt a with tree := treePoint (x.setAt a).tree w true 4 0 } }
  | _, _ => x
/-- The lines of a block become clean (R214). -/
def Slice.clean (x : Slice) (blk : Nat) : Slice :=
  let f (l : CWay) : CWay := if blkOf l.line = blk then { l with dirty := false } else l
  let g (c : CSet) : CSet := { c with ways := c.ways.map fun w => (w.1, w.2.map f) }
  { x with sets := x.sets.map fun kv => (kv.1, g kv.2) }
/-- The lines of a range leave the cache unwritten. -/
def Slice.forget (x : Slice) (lo n : Nat) : Slice :=
  let g (c : CSet) : CSet :=
    { c with ways := c.ways.filter fun w => w.2.all fun l => decide (l.line < lo) || decide (lo + n ≤ l.line) }
  { x with sets := (x.sets.map fun kv => (kv.1, g kv.2)).filter fun kv => decide (kv.2 ≠ CSet.empty) }
/-- The newest 8,192 tags stay in the tag cache (R214). -/
def Slice.seeTag (x : Slice) (blk : Nat) : Slice :=
  { x with tagc := (blk :: x.tagc.filter fun b => decide (b ≠ blk)).take 8192 }
/-- Lines of a block. -/
def blkLines (blk : Nat) : List Nat := (List.range 16).map fun k => blk + 256 * k

/-! ## Block operations (R205, R214, R312) -/

/-- The operation of a block. -/
def Slice.opOf (x : Slice) (blk : Nat) : Option BlkOp := x.ops.find? fun o => decide (o.blk = blk)
/-- Replace the operation of a block by a function of it. -/
def Slice.modOp (x : Slice) (blk : Nat) (f : BlkOp → BlkOp) : Slice := { x with ops := x.ops.map fun o => if o.blk = blk then f o else o }

/-- UIO requests in flight on every slice. -/
def State.uioOut (s : State) : Nat := (s.mem.slices.map fun kv => kv.2.uio.length).sum
/-- Requests that wait leave while fewer than 1,024 are in flight, lowest slice first (R308). -/
def State.pumpUio (s : State) : State :=
  s.mem.slices.foldl (fun s kv =>
    let x := aGet Slice.empty s.mem.slices kv.1
    let n := 1024 - s.uioOut
    if x.uioq.isEmpty || decide (n = 0) then s
    else s.modMem fun m => { m with slices := aSet Slice.empty m.slices kv.1 { x with uio := x.uio ++ x.uioq.take n, uioq := x.uioq.drop n } }) s

/-- Operation `o` takes one of the slice's places: in tier C the stored units that it needs are asked for. A fetch reads them all; a
write-down reads them unless the cache held all sixteen lines. -/
def State.beginOp (s : State) (sl : SliceId) (o : BlkOp) : State :=
  let x := s.slice sl
  let t := s.tagOf o.blk
  let reads := isC o.blk && !t.2 && !(o.down && decide (16 ≤ o.took.length))
  let us := if reads then (List.range (tagUnits t.1)).map fun u => s.uioReq o.blk u false [] else []
  s.setSlice sl { x.modOp o.blk (fun o => { o with stage := .read }) with uioq := x.uioq ++ us }
/-- The first sixteen operations of a slice run (R205). -/
def State.beginOps (s : State) (sl : SliceId) : State :=
  ((((s.slice sl).ops.take 16).filter fun o => decide (o.stage = .queued)).foldl (fun s o => s.beginOp sl o) s).pumpUio

/-- A dirty line of a block leaves the cache: the block's cached lines are gathered with it and become clean, and a write-down starts,
or follows the operation that the block has in flight (R205, R214). -/
def State.startDown (s : State) (sl : SliceId) (a : Nat) : State :=
  let x := s.slice sl
  let blk := blkOf a
  if (x.opOf blk).isSome then s.setSlice sl (x.modOp blk fun o => { o with again := true })
  else
    let took := (blkLines blk).filter fun l => decide (l = a) || x.has l
    (s.setSlice sl { (x.clean blk) with ops := x.ops ++ [⟨blk, true, 0, [], [], .queued, took, false⟩] }).beginOps sl

/-- Place a line in the cache; a dirty line of tier G or C that leaves starts a write-down. -/
def State.cachePut (s : State) (sl : SliceId) (a : Nat) (dirty mru : Bool) : State :=
  let x := s.slice sl
  let (c, out) := (x.setAt a).put a dirty mru
  let s1 := s.setSlice sl { x with sets := aSet CSet.empty x.sets (setOf a) c }
  match out with
  | some w => if w.dirty && decide (2 ^ 40 ≤ w.line) then s1.startDown sl w.line else s1
  | none => s1
/-- What a write of a line under a policy does to the cache (R203): tier H under NOALLOC writes through, every other write places the
line dirty, at the most-recent position under ALLOC. -/
def State.cacheWrite (s : State) (a : Nat) (pol : BitVec 2) : State :=
  if decide (a < 2 ^ 40) && decide (pol = 2) then s else s.cachePut (homeOf a) a true (decide (pol = 0))

/-- An operation ends: it leaves its place, a write-down that is due follows, and the next operation begins. -/
def State.endOp (s : State) (sl : SliceId) (o : BlkOp) : State :=
  let x := s.slice sl
  let s1 := s.setSlice sl { x with ops := x.ops.filter fun p => decide (p.blk ≠ o.blk) }
  let due := (x.opOf o.blk).any (·.again)
  if due then
    let x1 := s1.slice sl
    let took := (blkLines o.blk).filter x1.has
    (s1.setSlice sl { (x1.clean o.blk) with ops := x1.ops ++ [⟨o.blk, true, 0, [], [], .queued, took, false⟩] }).beginOps sl
  else s1.beginOps sl

/-- The first running operation of one kind whose UIO requests have all returned; sixteen run at once. -/
def Slice.readyOp (x : Slice) (down : Bool) : Option BlkOp :=
  (x.ops.take 16).find? fun o => decide (o.down = down) && decide (o.stage ≠ .queued) && (x.uio ++ x.uioq).all fun u => decide (u.blk ≠ o.blk)

/-! ## H72 findings (R216 to R218) -/

/-- Apply one finding on the word at `e.addr`, whose place is `(k, loc)`. -/
def State.memErr (s : State) (sl : SliceId) (k : LK) (loc : Nat) (e : MemErr) : State :=
  let a := e.addr - e.addr % 8
  match e.ecc with
  | .ok => s
  | .ce syn =>
    let s1 := s.memCe k loc a syn
    s1.setSlice sl { (s1.slice sl) with ceWb := (s1.slice sl).ceWb ++ [a] }
  | .ue syn =>
    if (s.mem.word a).p then s
    else
      let v := Config.freeWord s.dev.free
      let s1 := s.memUe k loc a syn
      let s2 : State := { s1 with mem := s1.mem.setWord a ⟨v, true⟩, dev := { s1.dev with free := s1.dev.free + 1 } }
      s2.setSlice sl { (s2.slice sl) with ueWb := (s2.slice sl).ueWb ++ [a] }
/-- Apply the findings that lie in the line at `a`. -/
def State.lineErrs (s : State) (sl : SliceId) (k : LK) (loc a : Nat) (errs : List MemErr) : State :=
  (errs.filter fun e => decide (a ≤ e.addr) && decide (e.addr < a + 256)).foldl (fun s e => s.memErr sl k loc e) s

/-- Mark words of a block as poison, but for the lines that the cache holds and those in `took`. -/
def State.poisonBlk (s : State) (sl : SliceId) (blk : Nat) (took idx : List Nat) : State :=
  let x := s.slice sl
  let held (i : Nat) : Bool := let l := blk + 256 * (i / 32); x.has l || decide (l ∈ took)
  let hit := idx.filter fun i => decide (i < 512) && !held i && !(s.mem.word (blk + 8 * i)).p
  let m := hit.foldl (fun (p : Mem × Nat) i => (p.1.setWord (blk + 8 * i) ⟨Config.freeWord p.2, true⟩, p.2 + 1)) (s.mem, s.dev.free)
  { s with mem := m.1, dev := { s.dev with free := m.2 } }

/-- The findings on the stored units of a block as they are read: corrections are counted; uncorrectable words poison one word of a RAW
block and all of a compressed one, an uncorrectable tag all of any; an uncorrectable word of tags becomes stored poison; the first
poisoned fetch of the block raises one entry (R216 to R218). -/
def State.fetchErrs (s : State) (sl : SliceId) (o : BlkOp) (errs : List MemErr) (tagUe : Bool) : State :=
  let c := isC o.blk
  let (k, loc) : LK × Nat := if c then (.slice, sliceNum sl) else (.stack, 8 + stackG sl)
  let t := s.tagOf o.blk
  let newTag := tagUe && !t.2
  let mine := errs.filter fun e => decide (o.blk ≤ e.addr) && decide (e.addr < o.blk + 4096) && decide ((e.addr - o.blk) / 8 < 8 * tagUnits t.1)
  let s1 := mine.foldl (fun s e => match e.ecc with | .ce syn => s.memErr sl k loc ⟨e.addr, .ce syn⟩ | _ => s) s
  let ues := mine.filter fun e => match e.ecc with | .ue _ => true | _ => false
  let fresh := ues.filter fun e => !(s1.mem.word (e.addr - e.addr % 8)).p
  let raw := decide (tagMode t.1 = 1)
  let badTag := newTag || t.2
  let idx :=
    if badTag then List.range 512
    else if raw then (ues.map fun e => (e.addr - o.blk) / 8) ++ o.bad.flatMap (unitWords c)
    else if ues.isEmpty && o.bad.isEmpty then []
    else List.range 512
  let s2 := s1.poisonBlk sl o.blk o.took idx
  let s3 := if newTag then s2.poisonTag o.blk else s2
  let n := fresh.length + newTag.toNat
  let s4 : State := if n = 0 then s3 else { s3 with err := { s3.err with ue := s3.err.ue + n, alert := s3.err.alert ||| 8#9 } }
  if (n = 0 && !badTag) || aGet false s4.mem.poisonedBlks (o.blk / 4096) then s4
  else
    let d := (fresh.head?).elim (o.blk, (0 : Byte)) fun e => (e.addr, match e.ecc with | .ue syn => syn | _ => 0)
    (s4.modMem fun m => { m with poisonedBlks := aSet false m.poisonedBlks (o.blk / 4096) true }).log 0x2002 k loc d.1 d.2.toNat

/-- Apply the findings on the words of the ranges `rs` that the host, a mover, a service or a Grotto engine reads (R216 to R218). -/
def State.tierErrs (s : State) (rs : List (Nat × Nat)) (errs : List MemErr) : State :=
  errs.foldl (fun s e =>
    let sl := homeOf e.addr
    if !(rs.any fun r => decide (r.1 ≤ e.addr) && decide (e.addr < r.1 + r.2)) then s
    else
      match s.tierOf e.addr with
      | .none => s
      | .h => s.memErr sl .stack (stackH sl) e
      | _ => s.fetchErrs sl ⟨blkOf e.addr, false, 0, [], [], .read, [], false⟩ [e] false) s

/-! ## Access at the home (R204, R205, R310) -/

/-- Does an access of the ranges `rd` and `wr` have to wait at a home: for a block operation in flight, or, to write, for an earlier
read that still waits at its stack? -/
def State.homeBusy (s : State) (rd wr : List (Nat × Nat)) : Bool :=
  let meets (a n : Nat) (r : Nat × Nat) : Bool := decide (a < r.1 + r.2) && decide (r.1 < a + n)
  s.mem.slices.any fun kv =>
    (kv.2.ops.any fun o => (rd ++ wr).any (meets o.blk 4096)) || kv.2.reads.any fun q => wr.any (meets q.line 256)
/-- Perform `k` once nothing at the homes and no line that the host holds stands in the way of reading the ranges `rd` and writing the
ranges `wr`; until then send the back-invalidates they need. -/
def State.withSnoops (s : State) (rd wr : List (Nat × Nat)) (k : State → State) : State :=
  let need := (rd.flatMap fun r => s.snoopNeed r.1 r.2 false) ++ (wr.flatMap fun r => s.snoopNeed r.1 r.2 true)
  if !need.isEmpty then s.sendSnoops need.eraseDups else if s.homeBusy rd wr then s else k s

end Sys2Proof.Machine
end

