-- ==== Sys2Proof/Machine/Flags.lean ====
section
/-! DEFINITION. The held-step counters and their attribution (R27 to R30), the holds checked at issue (R40), and the
issue stage that every tile instruction passes (R36 to R40, R93, R94, R97). -/

namespace Sys2Proof.Machine

/-- Causes of a held step, in the order of R29. -/
inductive Stall where
  | ecc | lantern | mem | xchg | power | ftq | queue | sync
deriving DecidableEq, Repr

/-- Add `n` to the stall counter of a cause. -/
def TCtr.charge (c : TCtr) (k : Stall) (n : Nat) : TCtr :=
  match k with
  | .ecc => { c with sEcc := c.sEcc + n }
  | .lantern => { c with sLan := c.sLan + n }
  | .mem => { c with sMem := c.sMem + n }
  | .xchg => { c with sXchg := c.sXchg + n }
  | .power => { c with sPower := c.sPower + n }
  | .ftq => { c with sFtq := c.sFtq + n }
  | .queue => { c with sQueue := c.sQueue + n }
  | .sync => { c with sSync := c.sSync + n }

/-- The sum of the stall counters (R30). -/
def TCtr.stalls (c : TCtr) : Nat := c.sEcc + c.sLan + c.sMem + c.sXchg + c.sPower + c.sFtq + c.sQueue + c.sSync

/-- `n` held steps charged to one cause: the tally and exactly one stall counter grow (R27, R29). -/
def Tile.held (x : Tile) (k : Stall) (n : Nat) : Tile := (x.step n).count fun c => c.charge k n

/-! ## What an instruction reads at issue -/

/-- Scalar registers that an instruction reads at issue (R38, R40). A chain's stages are added by `vchRegs`. -/
def readsOf : Instr → List Reg
  | .add _ _ _ a b | .sub _ _ _ a b | .andR _ _ _ a b | .orR _ _ _ a b | .xorR _ _ _ a b | .sll _ _ _ a b
  | .srl _ _ _ a b | .sra _ _ _ a b | .slt _ _ _ a b | .sltu _ _ _ a b | .mul _ _ _ a b | .mulhu _ _ _ a b
  | .minR _ _ _ a b | .maxR _ _ _ a b => [a, b]
  | .popc _ _ _ a | .ctz _ _ _ a => [a]
  | .addi _ _ _ a _ | .andi _ _ _ a _ | .ori _ _ _ a _ | .xori _ _ _ a _ | .slti _ _ _ a _ | .sltiu _ _ _ a _ => [a]
  | .slli _ _ _ a _ | .srli _ _ _ a _ | .srai _ _ _ a _ => [a]
  | .lih _ _ _ a _ => [a]
  | .ext _ _ _ a _ _ => [a]
  | .beq _ _ a b _ | .bne _ _ a b _ | .blt _ _ a b _ | .bge _ _ a b _ | .bltu _ _ a b _ | .bgeu _ _ a b _ => [a, b]
  | .dbnz _ _ a _ => [a]
  | .hset _ _ a _ => [a]
  | .mmaF4 _ _ f | .mmaF8 _ _ f | .mmaB16 _ _ f | .mmsF4 _ _ f => if f.bsk then [f.sx, f.sm] else [f.sx]
  | .vch _ _ f => [f.sn, f.sb0, f.sb1, f.sb2, f.sb3, f.sc]
  | .vlen _ _ a _ => [a]
  | .rdxSum _ _ f | .rdxSsq _ _ f | .rdxMax _ _ f | .rdxAmax _ _ f => [f.so]
  | .strGet _ _ f | .strPut _ _ f => [f.sa, f.sd]
  | .rngBits _ _ f | .rngUni _ _ f => [f.so, f.st, f.sc, f.sn]
  | .rngMask _ _ f => [f.so, f.st, f.sc, f.sn, f.rv]
  | .seedset _ _ _ r => [r]
  | .sigSignal _ _ r _ _ => [r]
  | .sigPut _ _ f _ | .sigPuth _ _ f _ => [f.rt, f.so]
  | .waitConsume _ _ f | .waitPeek _ _ f | .waitGe _ _ f => [f.rv]
  | .send _ _ f _ | .asend _ _ f _ => [f.rt, f.so]
  | .cadd _ _ f _ => [f.rt, f.so]
  | _ => []

/-- The stage words of a chain as they lie in the instruction store. -/
def Tile.chainWords (x : Tile) (f : VchF) : List W64 := aGetMany 0 x.imem f.caddr.toNat (f.nst.toNat + 1)
/-- The decoded chain of a VCH. -/
def Tile.chain (x : Tile) (f : VchF) : Option (List Stage) := decodeChain f.wb 0 (x.chainWords f)

/-- Registers that the load and store stages of a chain read at issue (R119, R121). -/
def vchRegs (ss : List Stage) : List Reg := (ss.filter fun g => g.op = .ld || g.op = .st).map (·.so)

/-- Is a stage's format narrow? -/
def narrowFmt (fmt : Nat) : Bool := decide (2 ≤ fmt)

/-- Handles that a stage reads store rows through: a load's buffer and scales, a FIX scale, a RUN record (R123, R124). -/
def stageReads (g : Stage) : List Hdl :=
  match g.op with
  | .ld => if g.fq then [] else if narrowFmt g.fmt then [g.h, g.h + 1] else [g.h]
  | .st => if narrowFmt g.fmt then (if g.pol = 0 then [g.h + 1] else if g.pol = 2 then [g.h + 2] else []) else []
  | _ => []

/-- Handles through which an instruction reads store rows (R40, R56, R57). -/
def handlesRead (x : Tile) : Instr → List Hdl
  | .mmaF4 _ _ f | .mmaF8 _ _ f => [f.ha, f.ha + 1, f.hw, f.hw + 1]
  | .mmaB16 _ _ f => [f.ha, f.hw]
  | .mmsF4 _ _ f => [f.ha, f.ha + 1, f.hw, f.hw + 1, f.hw + 2]
  | .vch _ _ f => ((x.chain f).getD []).flatMap stageReads
  | .strPut _ _ f => [f.h]
  | .sigPut _ _ f _ | .sigPuth _ _ f _ => [f.sh]
  | .send _ _ f _ | .asend _ _ f _ => [f.h]
  | .cadd _ _ f _ => [f.h]
  | .hset _ _ _ h => [h]
  | _ => []

/-- Has a Lantern read deferred the line that tile `g` asked for under `tag`: at its slice, or with the mark in its response (R26, R207)? -/
def State.deferredLine (s : State) (g : Gta) (tag : Nat) : Bool :=
  (s.mem.slices.any fun kv => (kv.2.reads ++ kv.2.ops.flatMap (·.waiting)).any fun r =>
    r.marked && !r.edge && decide (r.req = g) && decide (r.tag % 64 = tag))
  || (s.net.links ++ s.net.ejects ++ s.net.edges).any fun kv => kv.2.any fun fl =>
    fl.hdr.getLsbD 9 && !fl.hdr.getLsbD 58 && decide (fld fl.hdr 61 59 = 3) && decide (fl.hdr.extractLsb' 43 15 = g)
      && decide (fld fl.hdr 40 25 % 64 = tag)
/-- Does a line that a Lantern read has deferred still have to land for handle `h` of tile `t` (R26)? -/
def lanternHeld (s : State) (t : TileId) (x : Tile) (h : Hdl) : Bool :=
  x.str.tags.any fun kv => kv.2.any fun r =>
    (x.str.ents.any fun e => decide (e.id = r.ent) && decide (e.h = h) && !e.put) && s.deferredLine (s.gta t) kv.1

/-- Is the slot named by a live FTQ entry, or by a FINISH drain that has not pushed its entry yet (R44)? -/
def Tile.slotBusy (x : Tile) (k : Slot) : Bool :=
  decide (k ∈ x.ftq) || x.mxe.ops.any fun o => o.f.finish && decide (o.f.dslot = k)

/-- Fields of a matrix instruction. -/
def mmaOf : Instr → Option MmaF
  | .mmaF4 _ _ f | .mmaF8 _ _ f | .mmaB16 _ _ f | .mmsF4 _ _ f => some f
  | _ => none

/-- Does a chain read the FTQ head or release it (R131)? -/
def vchNeedsFtq (x : Tile) (f : VchF) : Bool := f.rel || ((x.chain f).getD []).any fun g => g.fq

/-- Instructions in the command queue of the sync port. -/
def Tile.syncQueued (x : Tile) : Nat := (x.bel.syncq.filter fun o => !o.complete).length

/-- The first cause, in the order of R29, that holds an instruction whatever its scalar values are (R40). -/
def holdCause (s : State) (t : TileId) (x : Tile) (i : Instr) : Option Stall :=
  let hs := handlesRead x i
  if hs.any fun h => decide (0 < x.landing h) then
    (if hs.any fun h => decide (0 < x.landing h) && lanternHeld s t x h then some .lantern else some .mem)
  else if hs.any fun h => decide (0 < x.expected h) then some .xchg
  else
    match mmaOf i with
    | some f => if !x.mxe.token then some .power else if x.slotBusy f.dslot then some .ftq else none
    | none =>
      match i with
      | .vch _ _ f => if vchNeedsFtq x f && x.ftq.isEmpty then some .ftq else none
      | .send .. | .asend .. | .cadd .. => if x.bel.resv.isSome || 0 < x.syncQueued then some .queue else none
      | .waitConsume .. | .waitPeek .. | .waitGe .. => if x.core.held.isSome then some .sync else none
      | _ => none

/-- Does some scalar register that the instruction reads have a write pending (R40)? -/
def scalarPending (x : Tile) (i : Instr) : Bool :=
  (readsOf i).any x.isPend ||
    match i with
    | .vch _ _ f => (vchRegs ((x.chain f).getD [])).any x.isPend
    | _ => false

/-- Stream transfers in the unit: issued and not finished. -/
def Tile.strQueued (x : Tile) : Nat := (x.str.ents.filter fun e => e.seq.isSome).length
/-- RDX instructions that the RDU holds: unpaired, paired with a chain, or with results to be written. -/
def Tile.rduQueued (x : Tile) : Nat :=
  x.rdu.unpaired.length + (x.vxe.ops.filter fun o => o.rdx.isSome).length + (x.rdu.results.filter (·.last)).length

/-- Is the command queue of the engine that the CLASS of word `w` names full: the rest of the word is not decoded until it has
room (R38, R39)? An instruction that its engine has begun still holds its place: a matrix operation up to its drain, a transfer
up to its last line, a RECV while it waits (DESIGN CHOICE, log entry 28: the spec does not say when a place is given up). -/
def queueFull (x : Tile) (w : W64) : Bool :=
  match classOf w with
  | 4 | 5 => decide (4 ≤ x.mxe.ops.length)
  | 6 | 7 => decide (4 ≤ x.vxe.ops.length)
  | 8 => decide (4 ≤ x.rduQueued)
  | 9 => decide (16 ≤ x.strQueued)
  | 10 | 11 | 12 => decide (4 ≤ x.syncQueued)
  | 13 => decide (4 ≤ x.rng.length)
  | _ => false

/-- The offset of a branch. -/
def branchOff : Instr → Option W16
  | .beq _ _ _ _ o | .bne _ _ _ _ o | .blt _ _ _ _ o | .bge _ _ _ _ o | .bltu _ _ _ _ o | .bgeu _ _ _ _ o
  | .j _ _ o | .dbnz _ _ _ o => some o
  | _ => none

/-- The target of a branch at word `pc` (R96): possibly outside the instruction store. -/
def branchTarget (pc : Nat) (off : W16) : Int := pc + off.toInt
/-- Does the instruction at `pc` branch outside words 0 to 6,143 (R97)? -/
def badTarget (pc : Nat) (i : Instr) : Bool :=
  match branchOff i with
  | some o => decide (branchTarget pc o < 0) || decide (6143 < branchTarget pc o)
  | none => false

/-! ## The issue stage -/

/-- The core's next word is `pc'`; the look-ahead pointer never falls behind it (R46), and what it had passed on another
path is dropped. -/
def Tile.jump (x : Tile) (pc' : Nat) : Tile :=
  let rest := match x.str.path with
    | [] => []
    | p :: ps => if p = x.core.pc then ps else []
  let again : StreamU := { x.str with path := [], la := pc', ents := x.str.ents.filter fun e => e.seq.isSome }
  let str := match rest with
    | [] => again
    | q :: _ => if q = pc' then { x.str with path := rest } else again
  { x with core := { x.core with pc := pc', fixed := false }, str := str }
/-- The core goes on at word `pc'` after `n` steps. -/
def Tile.goTo (x : Tile) (pc' n : Nat) : Tile := (x.step n).jump pc'
/-- The instruction has issued in one step; the next word follows. -/
def Tile.next (x : Tile) : Tile := x.goTo (x.core.pc + 1) 1
/-- The same, where the step has been counted. -/
def Tile.nextWord (x : Tile) : Tile := x.jump (x.core.pc + 1)

/-- What the issue stage finds when the next instruction is read. -/
inductive Issue where
  /-- The command's instruction is not the tile's next one, or nothing can issue: nothing happens. -/
  | idle
  /-- The instruction raises a fault at issue. -/
  | fault (code d1 : Nat)
  /-- A held step, charged to a cause (R29, R40). -/
  | stall (k : Stall)
  /-- A step in which a pending scalar write is the only unmet condition (R40). -/
  | wait
  /-- The instruction issues. -/
  | go
deriving DecidableEq, Repr

/-- The checks of the issue stage on command `i` of tile `t`, in order. Past word 6,143 there is no word for D1 to give: it is 0
(R97; DESIGN CHOICE, log entry 117). -/
def issueCheck (s : State) (t : TileId) (ecc : Ecc) (i : Instr) : Issue :=
  let x := s.tile t
  if x.core.phase ≠ .issue || s.dev.cdreset then .idle
  else if 6143 < x.core.pc then .fault 0x8001 0
  else
    match ecc with
    | .ue _ => .fault 0x8002 0
    | _ =>
      let w := aGet 0 x.imem x.core.pc
      if queueFull x w then .idle
      else
        match decodeWord t ecc w with
        | none => .fault 0x8001 w.toNat
        | some j =>
          if j ≠ i then .idle
          else if badTarget x.core.pc i then .fault 0x8001 w.toNat
          else
            match holdCause s t x i with
            | some k => .stall k
            | none => if scalarPending x i then .wait else .go

/-- The word at issue has been corrected: the issue stage is held for two steps, the first cause of R29, once for the word, and
the correction is counted (R25, R29, R94). -/
def Tile.fixWord (x : Tile) : Tile := let y := x.held .ecc 2; { y with core := { y.core with fixed := true } }
def State.issueEcc (s : State) (t : TileId) (ecc : Ecc) : State :=
  match ecc with
  | .ce syn =>
    if (s.tile t).core.fixed then s
    else (s.memCe .tile (s.gta t).toNat (s.tile t).core.pc syn).modTile t Tile.fixWord
  | _ => s

/-- The token pool of a die. -/
def State.pool (s : State) (die : Bool) : Pool := if die then s.pool1 else s.pool0
def State.setPool (s : State) (die : Bool) (p : Pool) : State := if die then { s with pool1 := p } else { s with pool0 := p }
/-- Tokens that the tiles of a die hold. -/
def State.tokensHeld (s : State) (die : Bool) : Nat :=
  (s.tiles.filter fun kx => decide (kx.1 / 1024 % 2 = die.toNat) && kx.2.mxe.token).length

/-- A tile without a token requests one from its die's distributor, once (R66). -/
def State.requestToken (s : State) (t : TileId) : State :=
  let x := s.tile t
  if x.mxe.token || x.mxe.requested then s
  else
    let die := t.getLsbD 10
    let p := s.pool die
    let noFree := decide (p.size ≤ s.tokensHeld die + p.wait.length)
    (s.setPool die { p with wait := p.wait ++ [t], waited := p.waited + (if noFree then 1 else 0) }).setTile t
      { x with mxe := { x.mxe with requested := true } }

/-- A matrix instruction that has reached issue requests a token, whatever holds it there (R66). -/
def State.asksToken (s : State) (t : TileId) (i : Instr) : State := if (mmaOf i).isSome then s.requestToken t else s

/-- Issue command `i` of tile `t`: `act` is what the instruction does once every condition of R40 is met. A correction of its
word holds it before any other cause (R29), and a matrix instruction without a token requests one (R66). -/
def issue (s : State) (t : TileId) (ecc : Ecc) (i : Instr) (act : State → State) : Out :=
  match issueCheck s t ecc i with
  | .idle => .next s
  | .fault code d1 => .next ((s.issueEcc t ecc).raiseTile t code (s.tile t).core.pc d1)
  | .stall k => .next (((s.issueEcc t ecc).asksToken t i).modTile t fun x => x.held k 1)
  | .wait => .next (((s.issueEcc t ecc).asksToken t i).modTile t fun x => x.step 1)
  | .go => .next (act (s.issueEcc t ecc))

end Sys2Proof.Machine
end

