-- ==== Sys2Proof/Machine/OpvOps.lean ====
section
/-! DEFINITION. Opver ports: directions, routing between modules, credits, and the frames they send (R343 to R345,
R348, R353, R358, R360, R364). -/

namespace Sys2Proof.Machine

/-- A port of the module. -/
def State.oport (s : State) (p : Bool) : OpvPort := if p then s.opv.p1 else s.opv.p0
def State.setOport (s : State) (p : Bool) (x : OpvPort) : State :=
  if p then { s with opv := { s.opv with p1 := x } } else { s with opv := { s.opv with p0 := x } }
def State.modOport (s : State) (p : Bool) (f : OpvPort → OpvPort) : State := s.setOport p (f (s.oport p))

/-- A chain address as a byte. -/
def State.addrByte (s : State) : Byte := s.dev.addr.setWidth 8
/-- Is address `a` in MEMBERS? -/
def Opv.member (o : Opv) (a : Nat) : Bool := decide (a < 16) && o.members.getLsbD a

/-- Direction of a port (R353): `some true` downstream, `some false` upstream. Where both partners show the address that
a rule names, the lower-numbered port takes it (DESIGN CHOICE, log entry 68). -/
def State.learnDir (s : State) (p : Bool) : Option Bool :=
  let me := s.oport p
  let ot := s.oport (!p)
  let own := s.dev.addr.toNat
  let taken (a : Nat) : Bool := p && ot.ident && decide (ot.paddr.toNat = a)
  if !(me.ident && s.opv.hasAddr) || decide (me.paddr = 0xFF) then none
  else if decide (own ≠ 0) && decide (me.paddr.toNat = own - 1) && !taken (own - 1) then some false
  else if decide (me.paddr.toNat = own + 1) && !taken (own + 1) then some true
  else if decide (own ≠ 0) && decide (me.paddr = 0) then some true
  else if decide (own = 0) && decide (2 ≤ me.paddr.toNat) then some false
  else none

/-- Direction of a port: it does not change once the chain state is final (R357). -/
def State.portDir (s : State) (p : Bool) : Option Bool := if s.opv.final then (s.oport p).dir else s.learnDir p
/-- The port of a direction. -/
def State.dirPort (s : State) (down : Bool) : Option Bool :=
  if s.portDir false = some down then some false else if s.portDir true = some down then some true else none

/-- Does a flit for module `dst` go downstream (R358)? -/
def State.goesDown (s : State) (dst : Nat) : Bool :=
  let own := s.dev.addr.toNat
  if s.opv.ring then
    decide ((dst + 16 * s.opv.n - own) % s.opv.n < (own + 16 * s.opv.n - dst) % s.opv.n)
  else decide (own < dst)

/-- May traffic leave through port `p`: this module is on a chain, the port has a direction, and its partner is a member
that shares the chain (R355, R356)? -/
def State.leaveOk (s : State) (p : Bool) : Bool :=
  let me := s.oport p
  s.opv.chained && (s.portDir p).isSome && !me.stale && s.opv.member me.paddr.toNat
    && (s.opv.ring || (if s.portDir p = some true then decide (me.paddr.toNat = s.dev.addr.toNat + 1)
        else decide (me.paddr.toNat + 1 = s.dev.addr.toNat)))

/-- The port by which a flit for another module leaves, or `none` for CHAIN_ROUTE: an address outside MEMBERS raises it
at the module where it would leave, on a ring at its source (R358). -/
def State.chainPort (s : State) (dst : Nat) : Option Bool :=
  if !s.opv.member dst && s.opv.ring then none
  else
    match s.dirPort (s.goesDown dst) with
    | some p => if s.leaveOk p then some p else none
    | none => none

/-! ## Sending -/

/-- Put a frame on the wire with the acknowledgement and credits due (R344). -/
def OpvPort.put (x : OpvPort) (seq : W16) (b : FrameBody) (nak : Bool) : OpvPort × Frame :=
  let cr (i : Nat) : Byte := BitVec.ofNat 8 (min 255 (x.freed.getD i 0))
  let f : Frame :=
    { seq := seq, body := b, nak := nak, ack := if nak then x.rxSeq else x.rxSeq - 1, cr1 := cr 0, cr2 := cr 1, cr3 := cr 2 }
  ({ x with wire := x.wire ++ [f], acked := x.rxSeq - 1, freed := x.freed.map fun n => n - 255 }, f)

/-- Send a sequenced frame: it takes the next SEQ and stays in the replay buffer (R348). -/
def OpvPort.send (x : OpvPort) (b : FrameBody) : OpvPort :=
  let (y, f) := x.put x.txSeq b x.nakDue
  { y with
    txSeq := x.txSeq + 1, replay := x.replay ++ [f], nakDue := false, nakSent := x.nakSent || x.nakDue }

/-- May a sequenced frame go: the link is up, its partner has shown the EPOCH that it had and shares the chain, and the replay buffer has
room (R348, R355, R365)? -/
def OpvPort.ready (x : OpvPort) : Bool :=
  decide (x.st = .up) && !x.awaitIdent && !x.stale && decide (x.replay.length < 4096)
/-- An IDLE frame goes when there is something to tell and no other frame tells it: receive slots freed, or frames to acknowledge (R343,
R345). -/
def OpvPort.tell (x : OpvPort) : OpvPort :=
  if decide (x.st = .up) && (x.freed.any (fun n => decide (0 < n)) || decide (x.acked ≠ x.rxSeq - 1)) then (x.put 0 .idle false).1 else x

/-- Send the control messages that wait; a CTRL frame goes ahead of every DATA frame (R364). -/
def OpvPort.sendWaiting (x : OpvPort) : OpvPort :=
  x.waiting.foldl (fun y b => if y.ready then y.send b else { y with waiting := y.waiting ++ [b] }) { x with waiting := [] }

/-- Send a control message through port `p`, or let it wait for the link. -/
def State.sendCtrl (s : State) (p : Bool) (m : Ctrl) : State :=
  s.modOport p fun x => ({ x with waiting := x.waiting ++ [.ctrl m] } : OpvPort).sendWaiting

/-- AGE of a header. -/
def ageOf (h : W64) : Nat := fld h 6 0
/-- Replace field [lo + b - 1 : lo] of a word. -/
def setField (w : W64) (lo b v : Nat) : W64 := BitVec.ofNat 64 (putBits w.toNat lo b v)

/-- Rows 0 to 7 of a port, and 8 for flits passed through. -/
def OpvPort.q (x : OpvPort) (vc row : Nat) : List Flit := aGet [] x.out (16 * vc + row)
def OpvPort.setQ (x : OpvPort) (vc row : Nat) (l : List Flit) : OpvPort := { x with out := aSet [] x.out (16 * vc + row) l }
def OpvPort.cred (x : OpvPort) (vc : Nat) : Nat := x.credit.getD (vc - 1) 0
def OpvPort.useCred (x : OpvPort) (vc : Nat) : OpvPort := { x with credit := x.credit.set (vc - 1) (x.cred vc - 1) }

/-- Rows whose queues hold a flit of a VC. -/
def OpvPort.rows (x : OpvPort) (vc : Nat) : List Nat := (List.range 9).filter fun r => !(x.q vc r).isEmpty
/-- The next of some rows in rotation; the first turn starts at a free place (R159, log entry 38). -/
def OpvPort.rotRow (x : OpvPort) (last : Nat) (l : List Nat) : Option Nat :=
  let from0 := if last = 0 then Config.freeNat (2 ^ 20 + x.epoch.toNat) % 9 else last
  l.foldl (fun (b : Option Nat) r =>
    match b with
    | none => some r
    | some q => if (r + 9 - from0) % 9 < (q + 9 - from0) % 9 then some r else b) none
/-- The row that VC1 or VC3 serves next: VC3 the highest AGE, ties and VC1 in rotation (R159). -/
def OpvPort.rowPick (x : OpvPort) (vc : Nat) : Option Nat :=
  let l := x.rows vc
  let age (r : Nat) : Nat := ((x.q vc r).head?.map fun f => ageOf f.hdr).getD 0
  if vc = 3 then
    let top := (l.map age).foldl max 0
    x.rotRow x.win.last3 (l.filter fun r => decide (age r = top))
  else x.rotRow x.win.last1 l
/-- The VC that the next slot of a DATA frame serves (R158, R364); `item` says that VC2's next item is at its row. -/
def OpvPort.slotVc (x : OpvPort) (item : Bool) : Option Nat :=
  let w := x.win
  let can (vc : Nat) : Bool := decide (0 < x.cred vc) && (if vc = 2 then item else !(x.rows vc).isEmpty)
  if can 1 && decide (w.v1 < 4) then some 1
  else if can 3 && decide (w.v3 < 4) && decide (16 - w.used ≤ 4 - w.v3) then some 3
  else if can 2 then some 2
  else if can 3 then some 3
  else none
/-- Add one to the AGE of the VC3 flit at the head of a row (R159). -/
def OpvPort.ageRow (x : OpvPort) (r : Nat) : OpvPort :=
  match x.q 3 r with
  | f :: fs => x.setQ 3 r ({ f with hdr := setField f.hdr 0 7 (min 127 (ageOf f.hdr + 1)) } :: fs)
  | [] => x
/-- A slot has gone to VC `vc` of row `r`; at the end of the window the VC3 flits that have waited through it age (R158, R159). -/
def OpvPort.slotGone (x : OpvPort) (vc r : Nat) : OpvPort :=
  let w := x.win
  let old := if vc = 3 then w.old.filter fun c => decide (c ≠ r) else w.old
  let w1 : Win := { w with
    used := w.used + 1, v1 := w.v1 + (decide (vc = 1)).toNat, v3 := w.v3 + (decide (vc = 3)).toNat, old := old
    last1 := if vc = 1 then r + 1 else w.last1, last3 := if vc = 3 then r + 1 else w.last3 }
  if w1.used < 16 then { x with win := w1 }
  else
    let y := old.foldl OpvPort.ageRow x
    { y with win := { w1 with used := 0, v1 := 0, v3 := 0, old := y.rows 3 } }

/-- What the port does next for a slot: take a flit, or stop on XCHG_ORDER (input, expected slot, received). -/
inductive PortPick where
  | nothing
  | take (fl : Flit) (x : OpvPort)
  | order (inp expect got : Nat)

/-- The entry of a port's order list: at most 4,096, of which bits [3:0] are reserved (R360). -/
def portEntry (p : Bool) (n i : Nat) : Option Byte := if i < 4096 then (Config.portOrder p.toNat n i).map fun e => e &&& 0xF0 else none
/-- The row that supplies a port's next VC2 item. -/
def State.portRow (s : State) (p : Bool) : Option Nat :=
  (portEntry p (s.opv.released.elim 0 fun n => n.toNat + 1) (s.oport p).olPos).map fun e =>
    if e.getLsbD 7 then 8 else (e.extractLsb' 4 3).toNat
/-- Take the head flit of a row on a VC. -/
def OpvPort.takeRow (x : OpvPort) (vc r : Nat) : PortPick :=
  match x.q vc r with
  | [] => .nothing
  | f :: fs => .take f (((x.setQ vc r fs).useCred vc).slotGone vc r)
/-- Take the next flit of the item that row `r` supplies, its SLOT checked and rewritten (R166, R360). -/
def OpvPort.takeItem (x : OpvPort) (r : Nat) : PortPick :=
  match x.q 2 r with
  | [] => .nothing
  | f :: fs =>
    let n := aGet 0 x.taken r
    let got := fld f.hdr 40 25
    if got ≠ n then .order 5 n got
    else
      let last := f.hdr.getLsbD 42
      let y := ((x.setQ 2 r fs).useCred 2).slotGone 2 r
      .take { f with hdr := setField f.hdr 25 16 x.sent }
        (if last then { y with olPos := y.olPos + 1, sent := y.sent + 1, taken := aSet 0 y.taken r (n + 1) } else y)
/-- The next flit of a port (R158, R159, R360, R364). -/
def State.portPick (s : State) (p : Bool) : PortPick :=
  let x := s.oport p
  let row2 := (s.portRow p).filter fun r => !(x.q 2 r).isEmpty
  match x.slotVc row2.isSome with
  | none => .nothing
  | some vc =>
    if vc = 2 then (row2.map x.takeItem).getD .nothing else ((x.rowPick vc).map (x.takeRow vc)).getD .nothing

/-- Collect up to `n` flits for a DATA frame. -/
def State.portCollect (p : Bool) : Nat → State → List Flit → State × List Flit
  | 0, s, acc => (s, acc)
  | n + 1, s, acc =>
    match s.portPick p with
    | .nothing => (s, acc)
    | .take f x => State.portCollect p n (s.setOport p x) (acc ++ [f])
    | .order i e g => (s.raise 0x8005 .port p.toNat i (e * 65536 + g), acc)

/-- Send DATA frames while flits wait, credits last and the replay buffer has room: `k` frames at most. -/
def State.portPump (p : Bool) : Nat → State → State
  | 0, s => s
  | k + 1, s =>
    if (s.oport p).ready then
      match State.portCollect p 3 s [] with
      | (s, []) => s
      | (s, fs) => State.portPump p k (s.modOport p fun x => x.send (.data fs))
    else s

/-- Flits that wait at a port. -/
def OpvPort.waitingFlits (x : OpvPort) : Nat := (x.out.map fun kv => kv.2.length).sum

/-- Send what can be sent through port `p`. -/
def State.pump (s : State) (p : Bool) : State :=
  State.portPump p (s.oport p).waitingFlits (s.modOport p fun x => x.sendWaiting)

/-- A flit reaches port `p` by edge row `row`, or is passed through (`row` 8). -/
def State.portAccept (s : State) (p : Bool) (vc row : Nat) (f : Flit) : State :=
  (s.modOport p fun x => x.setQ vc row (x.q vc row ++ [f])).pump p

end Sys2Proof.Machine
end

