-- ==== Sys2Proof/Machine/NetOps.lean ====
section
/-! DEFINITION. The Gallery's flits, queues and routes (R150 to R162), and the order lists of a superstep (R163 to R166). -/

namespace Sys2Proof.Machine

/-! ## Headers (R153) -/

/-- A flit header. -/
structure FHdr where
  vc : Nat
  kind : Nat
  edge : Bool
  dest : Gta
  last : Bool
  cmb : Bool
  slot : Nat
  dh : Nat
  drow : Nat
  age : Nat
deriving DecidableEq, Repr

/-- The 64 bits of a header. -/
def FHdr.word (h : FHdr) : W64 :=
  BitVec.ofNat 64 (h.vc % 4 * 2 ^ 62 + h.kind % 8 * 2 ^ 59 + h.edge.toNat * 2 ^ 58 + h.dest.toNat * 2 ^ 43
    + h.last.toNat * 2 ^ 42 + h.cmb.toNat * 2 ^ 41 + h.slot % 65536 * 2 ^ 25 + h.dh % 64 * 2 ^ 19 + h.drow % 4096 * 2 ^ 7
    + h.age % 128)
/-- The fields of a header. -/
def hdrOf (w : W64) : FHdr :=
  { vc := fld w 63 62, kind := fld w 61 59, edge := w.getLsbD 58, dest := w.extractLsb' 43 15, last := w.getLsbD 42
    cmb := w.getLsbD 41, slot := fld w 40 25, dh := fld w 24 19, drow := fld w 18 7, age := fld w 6 0 }

/-- DEST of an edge port: module, die, side 0 north, 1 south, 2 west, and position (R153). -/
def edgeDest (m : BitVec 4) (die : Bool) (side pos : Nat) : Gta :=
  BitVec.ofNat 15 (m.toNat * 2048 + die.toNat * 1024 + side % 4 * 256 + pos % 32)

/-! ## Sides and neighbours -/

/-- Code of a side in a link key. -/
def sideCode : Side → Nat
  | .north => 0 | .east => 1 | .south => 2 | .west => 3 | .loc => 4 | .edgeN => 5 | .edgeS => 6 | .edgeW => 7 | .bridge => 8
/-- Code of a side in an order list (R165): every edge port and the bridge are "edge port". -/
def sideOl : Side → Nat
  | .north => 0 | .east => 1 | .south => 2 | .west => 3 | .loc => 4 | _ => 5

/-- The die, row and column of a tile (R5). -/
def tDie (t : TileId) : Bool := t.getLsbD 10
def tY (t : TileId) : Nat := fld (t.setWidth 64) 9 5
def tX (t : TileId) : Nat := fld (t.setWidth 64) 4 0
def mkTile (d : Bool) (y x : Nat) : TileId := BitVec.ofNat 11 (d.toNat * 1024 + y % 32 * 32 + x % 32)

/-- Key of the buffer behind a side of a router. -/
def linkKey (r : TileId) (sd : Side) (vc : Nat) : Nat := 64 * r.toNat + 4 * sideCode sd + vc
/-- The edge port that a side of a router leads to: key in `Net.edges`. -/
def edgeKey (r : TileId) (sd : Side) (vc : Nat) : Nat :=
  let n := match sd with | .edgeN => 0 | .edgeS => 1 | _ => 2
  4 * ((tDie r).toNat * 128 + n * 32 + (if n = 2 then tY r else tX r)) + vc
/-- Key of a slice's arrivals. -/
def sliceKey (sl : SliceId) (vc : Nat) : Nat := 4 * (sl.die.toNat * 128 + sl.south.toNat * 32 + sl.col.toNat) + vc
/-- The router that owns a slice's port, and the side. -/
def sliceRouter (sl : SliceId) : TileId := mkTile sl.die (if sl.south then 31 else 0) sl.col.toNat
def sliceSide (sl : SliceId) : Side := if sl.south then .edgeS else .edgeN

/-- The next router beyond a mesh link or the bridge, and the side it arrives on. -/
def neighbour (r : TileId) : Side → Option (TileId × Side)
  | .north => if tY r = 0 then none else some (mkTile (tDie r) (tY r - 1) (tX r), .south)
  | .south => if tY r = 31 then none else some (mkTile (tDie r) (tY r + 1) (tX r), .north)
  | .west => if tX r = 0 then none else some (mkTile (tDie r) (tY r) (tX r - 1), .east)
  | .east => if tX r = 31 then none else some (mkTile (tDie r) (tY r) (tX r + 1), .west)
  | .bridge => if tX r = 31 then some (mkTile (!tDie r) (tY r) 31, .bridge) else none
  | _ => none

/-! ## Routes (R154, R358) -/

/-- Where a flit leaves the mesh: a router and a side of it; `none` for CHAIN_ROUTE. -/
def State.target (s : State) (fl : Flit) : Option (TileId × Side) :=
  let h := hdrOf fl.hdr
  let m := gtaMod h.dest
  if m = s.dev.addr then
    if h.edge then
      let d := h.dest.getLsbD 10
      let pos := h.dest.toNat % 32
      match h.dest.toNat / 256 % 4 with
      | 0 => some (mkTile d 0 pos, .edgeN)
      | 1 => some (mkTile d 31 pos, .edgeS)
      | _ => some (mkTile d pos 0, .edgeW)
    else some (gtaTile h.dest, .loc)
  else
    match s.chainPort m.toNat with
    | some p => some (mkTile p fl.row.toNat 0, .edgeW)
    | none => none

/-- The side by which a flit bound for `(b, sd)` leaves router `r`: along its row, over the bridge, then along the
destination column. -/
def sideTo (r b : TileId) (sd : Side) : Side :=
  if tDie r ≠ tDie b then (if tX r = 31 then .bridge else .east)
  else if tX r < tX b then .east
  else if tX b < tX r then .west
  else if tY b < tY r then .north
  else if tY r < tY b then .south
  else sd

/-- The output of a flit at router `r`. -/
def State.route (s : State) (r : TileId) (fl : Flit) : Option Side := (s.target fl).map fun x => sideTo r x.1 x.2

/-! ## Queues -/

/-- The flits in a link's buffer. -/
def State.link (s : State) (k : Nat) : List Flit := aGet [] s.net.links k
def State.setLink (s : State) (k : Nat) (l : List Flit) : State := { s with net := { s.net with links := aSet [] s.net.links k l } }
/-- The flits that have reached a tile. -/
def State.eject (s : State) (t : TileId) (vc : Nat) : List Flit := aGet [] s.net.ejects (4 * t.toNat + vc)
def State.setEject (s : State) (t : TileId) (vc : Nat) (l : List Flit) : State :=
  { s with net := { s.net with ejects := aSet [] s.net.ejects (4 * t.toNat + vc) l } }
/-- The flits that have reached an edge port. -/
def State.edgeQ (s : State) (k : Nat) : List Flit := aGet [] s.net.edges k
def State.setEdgeQ (s : State) (k : Nat) (l : List Flit) : State := { s with net := { s.net with edges := aSet [] s.net.edges k l } }

/-- A tile offers a flit to its router. A flit for another module leaves by the row y mod 8 (R358). -/
def State.inject (s : State) (t : TileId) (fl : Flit) : State :=
  let k := linkKey t .loc (hdrOf fl.hdr).vc
  s.setLink k (s.link k ++ [{ fl with row := BitVec.ofNat 3 (tY t), src := k }])
/-- A tile offers flits in order. -/
def State.injectAll (s : State) (t : TileId) (fls : List Flit) : State := fls.foldl (fun s f => s.inject t f) s
/-- An edge port offers a flit at its own router. -/
def State.injectEdge (s : State) (r : TileId) (sd : Side) (fl : Flit) : State :=
  let k := linkKey r sd (hdrOf fl.hdr).vc
  s.setLink k (s.link k ++ [{ fl with src := k }])

/-- Flits that an input of a router holds for each VC: 4 for each lane (R161), of which a mesh link and a bridge port have four and a
local or edge port one (R150, R152, R158). -/
def laneCap : Side → Nat
  | .north | .east | .south | .west | .bridge => 16
  | _ => 4
/-- The flits in the router's buffer behind an input. -/
def State.inLane (s : State) (r : TileId) (sd : Side) (vc : Nat) : List Flit := (s.link (linkKey r sd vc)).take (laneCap sd)
/-- The flits that tile `t` has offered and its router has not accepted: they enter as credits come back (R156, R161). -/
def State.offered (s : State) (t : TileId) (vc : Nat) : List Flit := (s.link (linkKey t .loc vc)).drop (laneCap .loc)
/-- Is the buffer behind side `sd` of router `r` full? -/
def State.linkFull (s : State) (r : TileId) (sd : Side) (vc : Nat) : Bool := decide (laneCap sd ≤ (s.link (linkKey r sd vc)).length)

/-- May router `r` pass a flit on through `o`: has the next router a credit for it (R161)? What lies behind a local or edge port takes
every flit: the spec gives it no depth (DESIGN CHOICE, log entry 37). -/
def State.outFree (s : State) (r : TileId) (o : Side) (vc : Nat) : Bool :=
  match neighbour r o with
  | some (r', sd) => !s.linkFull r' sd vc
  | none => true

/-- Pass a flit out of router `r` through `o`: to the next router, to the tile, to an Opver port, or to an edge port. -/
def State.passOn (s : State) (r : TileId) (o : Side) (vc : Nat) (fl : Flit) : State :=
  match neighbour r o with
  | some (r', sd) => s.setLink (linkKey r' sd vc) (s.link (linkKey r' sd vc) ++ [fl])
  | none =>
    match o with
    | .loc => if s.dev.cdreset then s else s.setEject r vc (s.eject r vc ++ [fl])
    | .edgeW =>
      if tY r < 8 then s.portAccept (tDie r) vc (tY r) fl
      else s.setEdgeQ (edgeKey r o vc) (s.edgeQ (edgeKey r o vc) ++ [fl])
    | _ => s.setEdgeQ (edgeKey r o vc) (s.edgeQ (edgeKey r o vc) ++ [fl])

/-! ## The tables of a superstep (R163, R165, R389) -/

/-- The header of the superstep a tile is in. -/
def Tile.ssHdr (x : Tile) : Option SsHdr :=
  if x.core.phase = .off then none
  else
    let w (k : Nat) : W64 := aGet 0 x.imem (x.core.hdr + k)
    decodeHdr (w 0) (w 1) (w 2) (w 3)

/-- Length of the order list of output code `o`. -/
def Tile.olLen (x : Tile) (h : SsHdr) (o : Nat) : Nat :=
  let w0 := aGet 0 x.imem h.olist
  let w1 := aGet 0 x.imem (h.olist + 1)
  if h.owords = 0 then 0
  else match o with
    | 0 => fld w0 12 0 | 1 => fld w0 25 13 | 2 => fld w0 38 26 | 3 => fld w0 51 39
    | 4 => fld w1 12 0 | 5 => fld w1 25 13 | _ => 0

/-- Entry `i` of the order list of output code `o`, as a byte. -/
def Tile.olEntry (x : Tile) (o i : Nat) : Option Nat :=
  match x.ssHdr with
  | none => none
  | some h =>
    if i < x.olLen h o then
      let n := ((List.range o).map fun o' => x.olLen h o').sum + i
      some (fld (aGet 0 x.imem (h.olist + 2 + n / 8)) (8 * (n % 8) + 7) (8 * (n % 8)))
    else none

/-- SRC and ADD of an entry. -/
def olSrc (e : Nat) : Nat := e / 32
def olAdd (e : Nat) : Bool := decide (e / 16 % 2 = 1)

/-- Key of an output or an input in `Net.olPos`, `Net.sent` and `Net.taken`. -/
def ioKey (r : TileId) (c : Nat) : Nat := 16 * r.toNat + c
/-- The next order-list position of an output. -/
def State.olAt (s : State) (r : TileId) (o : Nat) : Nat := aGet 0 s.net.olPos (ioKey r o)
/-- The entry an output is at. -/
def State.olNow (s : State) (r : TileId) (o : Nat) : Option Nat := (s.tile r).olEntry o (s.olAt r o)
/-- Does what is left of an output's list name input `i`? -/
def State.olNames (s : State) (r : TileId) (o i : Nat) : Bool :=
  match (s.tile r).ssHdr with
  | none => false
  | some h =>
    let p := s.olAt r o
    (List.range ((s.tile r).olLen h o - p)).any fun k => ((s.tile r).olEntry o (p + k)).any fun e => decide (olSrc e = i)

def State.takenAt (s : State) (r : TileId) (i : Nat) : Nat := aGet 0 s.net.taken (ioKey r i)
def State.sentAt (s : State) (r : TileId) (o : Nat) : Nat := aGet 0 s.net.sent (ioKey r o)

/-- An item has been taken whole from input `i`. -/
def State.countTaken (s : State) (r : TileId) (i : Nat) : State :=
  { s with net := { s.net with taken := aSet 0 s.net.taken (ioKey r i) (s.takenAt r i + 1) } }
/-- An output has sent an item whole and moves on by `n` entries of its list. -/
def State.countSent (s : State) (r : TileId) (o n : Nat) : State :=
  { s with net := { s.net with
      olPos := aSet 0 s.net.olPos (ioKey r o) (s.olAt r o + n), sent := aSet 0 s.net.sent (ioKey r o) (s.sentAt r o + 1) } }

/-- Raise XCHG_ORDER at a router or tile (R21, R166, R453). -/
def State.xchgOrder (s : State) (r : TileId) (inp expect got : Nat) : State :=
  s.raiseTile r 0x8005 (inp % 8) (expect % 65536 * 65536 + got % 65536)

end Sys2Proof.Machine
end

