-- ==== Sys2Proof/Machine/Gallery.lean ====
section
/-! DEFINITION. Routers and the exchange phase (R16, R19 to R21, R154 to R170). -/

namespace Sys2Proof.Machine

/-! ## FLIT_ROUTER_ARRIVAL -/

/-- Take a flit from an Opver port's side: a receive slot of its VC is freed (R343). -/
def State.freeSlot (s : State) (r : TileId) (inp : Side) (vc : Nat) : State :=
  if inp = .edgeW && decide (tY r < 8) then
    s.modOport (tDie r) fun x => { x with freed := x.freed.set (vc - 1) (x.freed.getD (vc - 1) 0 + 1) }
  else s

/-- What the H72 check of a router leaves of a flit (R162): an uncorrectable payload word is poison from here on, its data a free
value; a flit whose header is uncorrectable is gone. -/
def checkFlit (fr : Nat) (fl : Flit) (errs : List FlitErr) : Option Flit :=
  if errs.any fun e => match e with | .header _ => true | _ => false then none
  else some { fl with pay := fl.pay.mapIdx fun i p => if FlitErr.payload i ∈ errs && !p.p then ⟨Config.freeWord (fr + i), true⟩ else p }
/-- The syndrome of an uncorrectable header. -/
def headerSyn (errs : List FlitErr) : Nat := (errs.findSome? fun e => match e with | .header b => some b.toNat | _ => none).getD 0

/-- Count the corrected words of a flit in the ERR and GAL blocks (R162, R444), and draw free values for uncorrectable ones. -/
def State.flitCe (s : State) (errs : List FlitErr) : State :=
  let n := (errs.filter fun e => match e with | .corrected _ => true | _ => false).length
  let bad := errs.any fun e => match e with | .payload _ => true | _ => false
  { s with
    err := { s.err with ce := s.err.ce + n }, net := { s.net with corr := s.net.corr + n }
    dev := { s.dev with free := if bad then s.dev.free + 8 else s.dev.free } }
/-- Check the operands of a sum group in entry order: what is left of each, and the state after. -/
def State.checkOps (s : State) : List (Flit × List FlitErr) → State × List Flit
  | [] => (s, [])
  | (f, e) :: l =>
    let (s1, fs) := State.checkOps (s.flitCe e) l
    (s1, (checkFlit s.dev.free f e).getD f :: fs)

/-- An output whose current entry names input `i` although the item's route leaves elsewhere, and the routed output
does not name that input any more (R166). -/
def State.wrongOut (s : State) (r : TileId) (o i : Nat) : Bool :=
  !s.olNames r o i && (List.range 6).any fun o' => decide (o' ≠ o) && (s.olNow r o').any fun e => decide (olSrc e = i)

/-! ## Lane-slots (R157 to R159) -/

/-- Inputs of a router, in the order of their codes. -/
def allSides : List Side := [.north, .east, .south, .west, .loc, .edgeN, .edgeS, .edgeW, .bridge]
/-- Frames addressed to this module wait behind their Opver port while PERST_N is low (R411). -/
def State.heldRx (s : State) (r : TileId) (inp : Side) : Bool := !s.pwr.perst && decide (inp = .edgeW) && decide (tY r < 8)
/-- The flits ready at output `o` of router `r` on a VC: those at the head of an input whose route leaves there, with the input. -/
def State.ready (s : State) (r : TileId) (o : Side) (vc : Nat) : List (Side × Flit) :=
  allSides.filterMap fun sd =>
    match s.link (linkKey r sd vc) with
    | f :: _ => if s.route r f = some o && !s.heldRx r sd then some (sd, f) else none
    | [] => none
/-- The window of an output. -/
def winKey (r : TileId) (o : Side) : Nat := 16 * r.toNat + sideCode o
def State.win (s : State) (r : TileId) (o : Side) : Win := aGet Win.empty s.net.wins (winKey r o)
def State.setWin (s : State) (r : TileId) (o : Side) (w : Win) : State :=
  { s with net := { s.net with wins := aSet Win.empty s.net.wins (winKey r o) w } }
/-- How far side `sd` lies behind the side that a rotation served last; the first turn starts at a free place (R159, log entry 38). -/
def rotBehind (r : TileId) (o : Side) (last : Nat) (sd : Side) : Nat :=
  let l := if last = 0 then Config.freeNat (winKey r o) % 9 else last
  (sideCode sd + 9 - l) % 9
/-- The next of some inputs in rotation. -/
def rotPick (r : TileId) (o : Side) (last : Nat) (l : List (Side × Flit)) : Option Side :=
  (l.foldl (fun (b : Option Side) p =>
    match b with
    | none => some p.1
    | some q => if rotBehind r o last p.1 < rotBehind r o last q then some p.1 else b) none)
/-- The input that VC0, VC1 or VC3 serves next at an output: VC3 the highest AGE, ties and the other VCs in rotation (R159). -/
def State.vcPick (s : State) (r : TileId) (o : Side) (vc : Nat) : Option Side :=
  let l := s.ready r o vc
  let w := s.win r o
  if vc = 3 then
    let top := (l.map fun p => ageOf p.2.hdr).foldl max 0
    rotPick r o w.last3 (l.filter fun p => decide (ageOf p.2.hdr = top))
  else rotPick r o (if vc = 0 then w.last0 else w.last1) l
/-- Has VC2 a flit ready at an output: at the input that the order list names, or at every input of a sum group (R165, R167)? -/
def State.itemReady (s : State) (r : TileId) (o : Side) : Bool :=
  let p := s.olAt r (sideOl o)
  let es := (List.range 5).filterMap fun k => (s.tile r).olEntry (sideOl o) (p + k)
  let g := es.take ((es.takeWhile olAdd).length + 1)
  !g.isEmpty && g.all fun e => (s.ready r o 2).any fun q => decide (sideOl q.1 = olSrc e)
/-- The VC that the next lane-slot of an output serves (R158); none where the slot stays empty. -/
def State.slotVc (s : State) (r : TileId) (o : Side) : Option Nat :=
  let w := s.win r o
  let can (vc : Nat) : Bool := s.outFree r o vc && (if vc = 2 then s.itemReady r o else !(s.ready r o vc).isEmpty)
  if can 0 && decide (w.v0 = 0) then some 0
  else if can 1 && decide (w.v1 < 4) then some 1
  else if can 3 && decide (w.v3 < 4) && decide (16 - w.used ≤ 4 - w.v3) then some 3
  else if can 2 then some 2
  else if can 3 then some 3
  else none

/-- Add one to the AGE of the VC3 flit at the head of an input, up to 127 (R159). -/
def State.ageHead (s : State) (r : TileId) (sd : Side) : State :=
  match s.link (linkKey r sd 3) with
  | f :: fs => s.setLink (linkKey r sd 3) ({ f with hdr := setField f.hdr 0 7 (min 127 (ageOf f.hdr + 1)) } :: fs)
  | [] => s
/-- A lane-slot of an output has gone, to VC `vc` of input `inp` or to none. At the end of the window every VC3 flit that has waited
through it ages, and those ready then start to wait through the next (R158, R159). The model counts the slots that commands use or
find empty (DESIGN CHOICE, log entry 38). -/
def State.slotGone (s : State) (r : TileId) (o : Side) (served : Option (Nat × Side)) : State :=
  let w := s.win r o
  let old := match served with
    | some (3, sd) => w.old.filter fun c => decide (c ≠ sideCode sd)
    | _ => w.old
  let last (vc l : Nat) : Nat := match served with | some (v, sd) => if v = vc then sideCode sd + 1 else l | none => l
  let n (vc k : Nat) : Nat := match served with | some (v, _) => if v = vc then k + 1 else k | none => k
  let w1 : Win := { used := w.used + 1, v0 := n 0 w.v0, v1 := n 1 w.v1, v3 := n 3 w.v3, old := old
                    last0 := last 0 w.last0, last1 := last 1 w.last1, last3 := last 3 w.last3 }
  if w1.used < 16 then s.setWin r o w1
  else
    let s1 := (allSides.filter fun sd => decide (sideCode sd ∈ old)).foldl (fun s sd => s.ageHead r sd) s
    s1.setWin r o { w1 with used := 0, v0 := 0, v1 := 0, v3 := 0, old := (s1.ready r o 3).map fun p => sideCode p.1 }

/-! ## FLIT_ROUTER_ARRIVAL -/

/-- A flit is taken from the head of input `inp` and passed to output `o`. -/
def State.passFlit (s : State) (r : TileId) (inp o : Side) (vc : Nat) (fl : Flit) (rest : List Flit) : State :=
  (((s.setLink (linkKey r inp vc) rest).freeSlot r inp vc).passOn r o vc fl).slotGone r o (some (vc, inp))

/-- Is the item at the head of input `inp` one that output `o` refuses with XCHG_ORDER: its list names another input although nothing
else will take the item, or the item's SLOT is not the input's count (R166)? -/
def State.itemBad (s : State) (r : TileId) (inp o : Side) (fl : Flit) : Bool :=
  match s.olNow r (sideOl o) with
  | none => s.wrongOut r (sideOl o) (sideOl inp)
  | some e =>
    if olSrc e ≠ sideOl inp then s.wrongOut r (sideOl o) (sideOl inp)
    else !olAdd e && decide ((hdrOf fl.hdr).slot ≠ s.takenAt r (sideOl inp))
/-- An output passes the VC2 flit that its order list names, with the new SLOT; a flit of a sum group waits for SUM_GROUP_FORM. -/
def State.passItem (s : State) (r : TileId) (inp o : Side) (errs : List FlitErr) (fl : Flit) (rest : List Flit) : State :=
  match s.olNow r (sideOl o) with
  | none => s
  | some e =>
    if olSrc e ≠ sideOl inp || olAdd e then s
    else
      let out : Flit := { fl with hdr := setField fl.hdr 25 16 (s.sentAt r (sideOl o)) }
      let s1 := (s.flitCe errs).passFlit r inp o 2 out rest
      if (hdrOf fl.hdr).last then (s1.countTaken r (sideOl inp)).countSent r (sideOl o) 1 else s1

/-- FLIT_ROUTER_ARRIVAL (R154, R158, R159, R162, R166, R358): the flit at the head of an input is checked, and passed to its output when
the output's next lane-slot serves it. A slot that serves another flit waits for that flit's command; a slot that serves none stays
empty. -/
def execFlitRouterArrival (r : TileId) (inp : Side) (vc : BitVec 2) (errs : List FlitErr) (s : State) : Out :=
  if s.heldRx r inp then .next s else
  match s.link (linkKey r inp vc.toNat) with
  | [] => .next s
  | fl :: rest =>
    match checkFlit s.dev.free fl errs with
    | none =>
      .next (((s.setLink (linkKey r inp vc.toNat) rest).freeSlot r inp vc.toNat).raiseTile r 0x8007 (headerSyn errs) 0)
    | some fl' =>
      match s.route r fl with
      | none =>
        .next (((s.setLink (linkKey r inp vc.toNat) rest).freeSlot r inp vc.toNat).raise 0x8010 .tile (s.gta r).toNat
          (gtaMod (hdrOf fl.hdr).dest).toNat 0)
      | some o =>
        if vc = 2 && s.itemBad r inp o fl then
          .next (s.xchgOrder r (sideOl inp) (s.takenAt r (sideOl inp)) (hdrOf fl.hdr).slot)
        else
          match s.slotVc r o with
          | none => .next (s.slotGone r o none)
          | some v =>
            if v ≠ vc.toNat then .next s
            else if vc = 2 then .next (s.passItem r inp o errs fl' rest)
            else if s.vcPick r o v = some inp then .next ((s.flitCe errs).passFlit r inp o v fl' rest)
            else .next s

/-! ## SUM_GROUP_FORM -/

/-- The sources of the sum group that an output is at, in entry order; `none` when it is not at a group of 2 to 4. -/
def State.group (s : State) (r : TileId) (o : Nat) : Option (List Nat) :=
  let p := s.olAt r o
  let es := (List.range 5).filterMap fun k => (s.tile r).olEntry o (p + k)
  let adds := (es.takeWhile fun e => olAdd e).length
  if 1 ≤ adds && decide (adds ≤ 3) && decide (adds < es.length) then some ((es.take (adds + 1)).map olSrc) else none

/-- The sides that an order-list input can mean at router `r`. -/
def inputSide (r : TileId) : Nat → Side
  | 0 => .north | 1 => .east | 2 => .south | 3 => .west | 4 => .loc
  | _ => if tX r = 31 then .bridge else .edgeW

/-- The FP32 elements of a payload: two to a word. -/
def payElems (p : List PWord) : List W32 := p.flatMap fun w => [w.d.extractLsb' 0 32, w.d.extractLsb' 32 32]
/-- The payload of sixteen elements and eight poison marks. -/
def elemsPay (es : List W32) (ps : List Bool) : List PWord :=
  (List.range 8).map fun w => ⟨es.getD (2 * w + 1) 0 ++ es.getD (2 * w) 0, ps.getD w false⟩

/-- The sum of R167: the first operand is flushed, the others added in entry order; a word is poison where any operand's
is. -/
def sumPay : List (List PWord) → List PWord
  | [] => []
  | p :: ps =>
    let acc := ps.foldl (fun acc q => (acc.zip (payElems q)).map fun ab => fadd ab.1 ab.2) ((payElems p).map flush)
    elemsPay acc ((List.range 8).map fun w => (p :: ps).any fun q => (q.getD w pw0).p)

/-- Do two operand flits agree in CMB, DEST, DHANDLE, DROW and LAST? -/
def sameItem (a b : Flit) : Bool :=
  let x := hdrOf a.hdr
  let y := hdrOf b.hdr
  x.cmb && y.cmb && decide (x.dest = y.dest) && decide (x.edge = y.edge) && decide (x.dh = y.dh) && decide (x.drow = y.drow)
    && decide (x.last = y.last)

/-- SUM_GROUP_FORM (R162, R167): once every operand's next flit is present, the router checks each (`errs` gives its findings in entry
order), adds them and sends one flit. Operands that disagree, a slot that differs, or a route that leaves elsewhere raises XCHG_ORDER;
an operand whose header is uncorrectable is discarded with GAL_HEADER. -/
def execSumGroupForm (r : TileId) (out : Side) (errs : List (List FlitErr)) (s : State) : Out :=
  match s.group r (sideOl out) with
  | none => .next s
  | some srcs =>
    let heads := srcs.map fun i => (s.link (linkKey r (inputSide r i) 2)).head?
    if heads.any (·.isNone) || !decide srcs.Nodup then .next s
    else
      let fs := heads.filterMap id
      let found := fs.mapIdx fun k f => (f, errs.getD k [])
      match (srcs.zip found).find? fun p => (checkFlit 0 p.2.1 p.2.2).isNone with
      | some p =>
        let sd := inputSide r p.1
        .next (((s.setLink (linkKey r sd 2) (s.link (linkKey r sd 2)).tail).freeSlot r sd 2).raiseTile r 0x8007 (headerSyn p.2.2) 0)
      | none =>
      match (srcs.zip fs).find? fun p => decide ((hdrOf p.2.hdr).slot ≠ s.takenAt r p.1) with
      | some p => .next (s.xchgOrder r p.1 (s.takenAt r p.1) (hdrOf p.2.hdr).slot)
      | none =>
        match (srcs.zip fs).find? fun p => decide (s.route r p.2 ≠ some out) with
        | some p =>
          if (s.route r p.2).any fun o => s.olNames r (sideOl o) p.1 then .next s
          else .next (s.xchgOrder r p.1 (s.takenAt r p.1) (hdrOf p.2.hdr).slot)
        | none =>
          match fs with
          | [] => .next s
          | f0 :: _ =>
            if fs.any fun f => !sameItem f0 f then
              .next (s.xchgOrder r (srcs.getD 0 0) (s.takenAt r (srcs.getD 0 0)) (hdrOf f0.hdr).slot)
            else if s.slotVc r out ≠ some 2 then .next (if (s.slotVc r out).isNone then s.slotGone r out none else s)
            else
              let (s, ops) := s.checkOps found
              let fl : Flit := { f0 with pay := sumPay (ops.map (·.pay)), hdr := setField f0.hdr 25 16 (s.sentAt r (sideOl out)) }
              let s1 := srcs.foldl (fun s i =>
                let sd := inputSide r i
                (s.setLink (linkKey r sd 2) (s.link (linkKey r sd 2)).tail).freeSlot r sd 2) s
              let s2 := (s1.passOn r out 2 fl).slotGone r out (some (2, inputSide r (srcs.getD 0 0)))
              .next (if (hdrOf f0.hdr).last then (srcs.foldl (fun s i => s.countTaken r i) s2).countSent r (sideOl out) srcs.length
                else s2)

/-! ## EXCHANGE_BEGIN -/

/-- A send-list entry (R163). -/
structure SendEnt where
  dest : Gta
  sh : Hdl
  dh : Hdl
  srow : Nat
  drow : Nat
  nrows : Nat
  cmb : Bool
deriving DecidableEq, Repr

def sendEnt (w : W64) : SendEnt :=
  { dest := w.extractLsb' 49 15, sh := w.extractLsb' 43 6, dh := w.extractLsb' 37 6, srow := fld w 36 25, drow := fld w 24 13
    nrows := fld w 12 7, cmb := w.getLsbD 6 }

/-- The send list of a tile's superstep. -/
def Tile.sendList (x : Tile) (h : SsHdr) : List SendEnt := (aGetMany 0 x.imem h.slist h.nsend).map sendEnt
/-- The store rows that a send list reads. -/
def Tile.sendRows (x : Tile) (l : List SendEnt) : List Nat :=
  l.flatMap fun e =>
    let hd := hdOf (x.hword e.sh)
    (List.range (e.nrows + 1)).map fun k => rowKey hd.store (hd.base + e.srow + k)

/-- The flits of one item: row SROW + k to row DROW + k, the last with LAST (R164). -/
def Tile.itemFlits (x : Tile) (slot : Nat) (e : SendEnt) : List Flit :=
  let hd := hdOf (x.hword e.sh)
  (List.range (e.nrows + 1)).map fun k =>
    { hdr := FHdr.word { vc := 2, kind := 0, edge := false, dest := e.dest, last := decide (k = e.nrows), cmb := e.cmb
                         slot := slot, dh := e.dh.toNat, drow := e.drow + k, age := 0 }
      pay := x.rdRow hd.store (hd.base + e.srow + k), row := 0 }

/-- A row that the send list reads outside its source handle: item and row offset. -/
def Tile.badSend (x : Tile) (l : List SendEnt) : Option (Hdl × Nat) :=
  (l.find? fun e => !(x.offsetOk e.sh e.srow && x.offsetOk e.sh (e.srow + e.nrows))).map fun e => (e.sh, e.srow)

/-- EXCHANGE_BEGIN (R16, R163, R164): END has issued and no earlier instruction has still to write a row of the send
list; the tile offers its items in list order, one flit after another. -/
def execExchangeBegin (t : TileId) (errs : List StoreErr) (s : State) : Out :=
  let x := s.tile t
  match x.core.phase, x.core.xbegun, x.ssHdr with
  | .ended, false, some h =>
    let l := x.sendList h
    let rows := x.sendRows l
    if x.acc.any fun a => meets a.wr rows then .next s
    else
      match x.badSend l with
      | some (hd, r) => .next (s.storeRange t hd ((hdOf (x.hword hd)).base + r))
      | none =>
        let s1 := s.storeErrs t rows errs
        let x1 := s1.tile t
        let fls := (l.mapIdx fun i e => x1.itemFlits i e).flatten
        .next ((s1.injectAll t fls).modTile t fun x => { x with core := { x.core with xbegun := true } })
  | _, _, _ => .next s

/-! ## EXCHANGE_FLIT_WRITE -/

/-- EXCHANGE_FLIT_WRITE (R57, R164, R170): the tile checks an arriving flit's slot and its destination handle as that
entry stands, writes the row, and counts the item at its last flit. -/
def execExchangeFlitWrite (t : TileId) (s : State) : Out :=
  match s.eject t 2 with
  | [] => .next s
  | fl :: rest =>
    let h := hdrOf fl.hdr
    let s1 := s.setEject t 2 rest
    let n := s.takenAt t 9
    if h.slot ≠ n then .next (s1.xchgOrder t 4 n h.slot)
    else
      let s2 := if h.last then s1.countTaken t 9 else s1
      let x := s2.tile t
      let dh : Hdl := BitVec.ofNat 6 h.dh
      let hd := hdOf (x.hword dh)
      if !x.offsetOk dh h.drow then .next (s2.storeRange t dh (hd.base + h.drow))
      else
        let x := x.wrRow hd.store (hd.base + h.drow) fl.pay
        let x := if h.last then { x with expct := aSet 0 x.expct h.dh (x.expected dh - 1) } else x
        .next (s2.setTile t x)

end Sys2Proof.Machine
end

