-- ==== Sys2Proof/Machine/MemFlit.lean ====
section
/-! DEFINITION. Memory request flits and the data flits of writes (R224, R227, R359). -/

namespace Sys2Proof.Machine

/-- A payload whose first words are given, the rest zero. -/
def payOf (ws : List W64) : List PWord := (List.range 8).map fun k => ⟨ws.getD k 0, false⟩

/-- An entry of a request flit. -/
structure ReqEnt where
  tag : Nat
  cnt : Nat
  addr : Nat
deriving DecidableEq, Repr

/-- May line address `a` join the entry as its next line: consecutive, in one 4 KiB block of tier G or C, at most 16? -/
def ReqEnt.takes (e : ReqEnt) (a tag : Nat) : Bool :=
  decide (2 ^ 40 ≤ a) && decide (e.addr / 4096 = a / 4096) && decide (a = e.addr + 256 * e.cnt) && decide (e.cnt < 16)
    && decide (tag % 64 = (e.tag + e.cnt) % 64)
/-- Gather consecutive line requests into entries. -/
def gatherEnts : List (Nat × Nat) → List ReqEnt → List ReqEnt
  | [], acc => acc.reverse
  | (a, tag) :: l, [] => gatherEnts l [⟨tag, 1, a⟩]
  | (a, tag) :: l, e :: es =>
    if e.takes a tag then gatherEnts l ({ e with cnt := e.cnt + 1 } :: es) else gatherEnts l (⟨tag, 1, a⟩ :: e :: es)
/-- Gather entries to one home slice into flits of at most seven. -/
def gatherFlits : List ReqEnt → List (List ReqEnt) → List (List ReqEnt)
  | [], acc => (acc.map List.reverse).reverse
  | e :: l, [] => gatherFlits l [[e]]
  | e :: l, f :: fs =>
    match f with
    | g :: _ => if f.length < 7 && decide (homeOf g.addr = homeOf e.addr) then gatherFlits l ((e :: f) :: fs) else gatherFlits l ([e] :: f :: fs)
    | [] => gatherFlits l ([e] :: fs)

/-- DEST of the home slice of an address on module `m` (R202, R359). -/
def homeDest (m : BitVec 4) (a : Nat) : Gta :=
  let sl := homeOf a
  edgeDest m sl.die sl.south.toNat sl.col.toNat

/-- The request payload (R227). -/
def reqPay (write : Bool) (pol : BitVec 2) (edge : Bool) (req : Gta) (es : List ReqEnt) : List PWord :=
  payOf (BitVec.ofNat 64 (write.toNat * 2 ^ 60 + pol.toNat * 2 ^ 58 + (if write then 0 else es.length - 1) % 8 * 2 ^ 55
      + edge.toNat * 2 ^ 15 + req.toNat) ::
    es.map fun e => BitVec.ofNat 64 (e.tag % 64 * 2 ^ 58 + (e.cnt - 1) % 16 * 2 ^ 54 + e.addr % 2 ^ 48))

/-- A memory request flit to module `m`. -/
def reqFlit (m : BitVec 4) (upd write : Bool) (pol : BitVec 2) (req : Gta) (es : List ReqEnt) : Flit :=
  let a := (es.map (·.addr)).headD 0
  { hdr := FHdr.word { vc := 3, kind := if upd then 4 else 2, edge := true, dest := homeDest m a, last := !write, cmb := false
                       slot := 0, dh := 0, drow := 0, age := 0 }
    pay := reqPay write pol false req es, row := 0 }

/-- The data flits of a written line, from the row that `a` names: the tag in SLOT, the row in header bits [8:7], LAST on the last. -/
def dataFlits (m : BitVec 4) (upd : Bool) (a tag : Nat) (rows : List (List PWord)) : List Flit :=
  rows.mapIdx fun k r =>
    { hdr := FHdr.word { vc := 3, kind := if upd then 4 else 2, edge := true, dest := homeDest m a, last := decide (k + 1 = rows.length)
                         cmb := false, slot := tag % 64, dh := 0, drow := (a / 64 + k) % 4, age := 0 }
      pay := r, row := 0 }

end Sys2Proof.Machine
end

