-- ==== Sys2Proof/Machine/Scalar.lean ====
section
/-! DEFINITION. The tile core's own instructions: scalar, branch and control (R95 to R98). -/

namespace Sys2Proof.Machine

/-- Write `v` to `rd` and go on with the next word. -/
def State.aluWrite (s : State) (t : TileId) (rd : Reg) (v : W64) : State := s.modTile t fun x => (x.setReg rd v).next

/-- Sign-extend a 42-bit immediate (R95). -/
def sext42 (imm : BitVec 42) : W64 := imm.signExtend 64

/-- 1 when the condition holds, else 0. -/
def boolW (b : Bool) : W64 := if b then 1 else 0

/-- Number of one bits (POPC). -/
def popcount (w : W64) : Nat := (List.range 64).foldl (fun n i => if w.getLsbD i then n + 1 else n) 0
/-- Trailing zero bits, 64 for zero (CTZ). -/
def trailingZeros (w : W64) : Nat := ((List.range 64).takeWhile fun i => !w.getLsbD i).length

/-- Operations of two registers (R96). -/
inductive Alu where
  | add | sub | and | or | xor | sll | srl | sra | slt | sltu | mul | mulhu | min | max
deriving DecidableEq, Repr

/-- The value of an operation (R96): 64-bit, modulo 2^64, shift amounts from bits [5:0]. -/
def alu (o : Alu) (a b : W64) : W64 :=
  match o with
  | .add => a + b
  | .sub => a - b
  | .and => a &&& b
  | .or => a ||| b
  | .xor => a ^^^ b
  | .sll => a <<< (b.toNat % 64)
  | .srl => a >>> (b.toNat % 64)
  | .sra => a.sshiftRight (b.toNat % 64)
  | .slt => boolW (a.slt b)
  | .sltu => boolW (a.ult b)
  | .mul => a * b
  | .mulhu => BitVec.ofNat 64 (a.toNat * b.toNat / 2 ^ 64)
  | .min => if a.slt b then a else b
  | .max => if a.slt b then b else a

/-- An SCA instruction of two source registers: both are read at issue, the result goes to `rd`. -/
def aluRR (o : Alu) (t : TileId) (rd ra rb : Reg) (s : State) : State :=
  s.aluWrite t rd (alu o ((s.tile t).reg ra) ((s.tile t).reg rb))
/-- An SCI instruction: a register and a 64-bit immediate value. -/
def aluRI (o : Alu) (t : TileId) (rd ra : Reg) (imm : W64) (s : State) : State :=
  s.aluWrite t rd (alu o ((s.tile t).reg ra) imm)

/-- ADD (R96). -/
def execAdd (t : TileId) (ecc : Ecc) (rd ra rb : Reg) (s : State) : Out :=
  issue s t ecc (.add t ecc rd ra rb) (aluRR .add t rd ra rb)

/-- SUB (R96). -/
def execSub (t : TileId) (ecc : Ecc) (rd ra rb : Reg) (s : State) : Out :=
  issue s t ecc (.sub t ecc rd ra rb) (aluRR .sub t rd ra rb)

/-- AND (R96). -/
def execAndR (t : TileId) (ecc : Ecc) (rd ra rb : Reg) (s : State) : Out :=
  issue s t ecc (.andR t ecc rd ra rb) (aluRR .and t rd ra rb)

/-- OR (R96). -/
def execOrR (t : TileId) (ecc : Ecc) (rd ra rb : Reg) (s : State) : Out :=
  issue s t ecc (.orR t ecc rd ra rb) (aluRR .or t rd ra rb)

/-- XOR (R96). -/
def execXorR (t : TileId) (ecc : Ecc) (rd ra rb : Reg) (s : State) : Out :=
  issue s t ecc (.xorR t ecc rd ra rb) (aluRR .xor t rd ra rb)

/-- SLL (R96). -/
def execSll (t : TileId) (ecc : Ecc) (rd ra rb : Reg) (s : State) : Out :=
  issue s t ecc (.sll t ecc rd ra rb) (aluRR .sll t rd ra rb)

/-- SRL (R96). -/
def execSrl (t : TileId) (ecc : Ecc) (rd ra rb : Reg) (s : State) : Out :=
  issue s t ecc (.srl t ecc rd ra rb) (aluRR .srl t rd ra rb)

/-- SRA (R96). -/
def execSra (t : TileId) (ecc : Ecc) (rd ra rb : Reg) (s : State) : Out :=
  issue s t ecc (.sra t ecc rd ra rb) (aluRR .sra t rd ra rb)

/-- SLT (R96). -/
def execSlt (t : TileId) (ecc : Ecc) (rd ra rb : Reg) (s : State) : Out :=
  issue s t ecc (.slt t ecc rd ra rb) (aluRR .slt t rd ra rb)

/-- SLTU (R96). -/
def execSltu (t : TileId) (ecc : Ecc) (rd ra rb : Reg) (s : State) : Out :=
  issue s t ecc (.sltu t ecc rd ra rb) (aluRR .sltu t rd ra rb)

/-- MUL (R96). -/
def execMul (t : TileId) (ecc : Ecc) (rd ra rb : Reg) (s : State) : Out :=
  issue s t ecc (.mul t ecc rd ra rb) (aluRR .mul t rd ra rb)

/-- MULHU (R96). -/
def execMulhu (t : TileId) (ecc : Ecc) (rd ra rb : Reg) (s : State) : Out :=
  issue s t ecc (.mulhu t ecc rd ra rb) (aluRR .mulhu t rd ra rb)

/-- MIN (R96). -/
def execMinR (t : TileId) (ecc : Ecc) (rd ra rb : Reg) (s : State) : Out :=
  issue s t ecc (.minR t ecc rd ra rb) (aluRR .min t rd ra rb)

/-- MAX (R96). -/
def execMaxR (t : TileId) (ecc : Ecc) (rd ra rb : Reg) (s : State) : Out :=
  issue s t ecc (.maxR t ecc rd ra rb) (aluRR .max t rd ra rb)

/-- POPC (R96). -/
def execPopc (t : TileId) (ecc : Ecc) (rd ra : Reg) (s : State) : Out :=
  issue s t ecc (.popc t ecc rd ra) fun s => s.aluWrite t rd (BitVec.ofNat 64 (popcount ((s.tile t).reg ra)))

/-- CTZ (R96). -/
def execCtz (t : TileId) (ecc : Ecc) (rd ra : Reg) (s : State) : Out :=
  issue s t ecc (.ctz t ecc rd ra) fun s => s.aluWrite t rd (BitVec.ofNat 64 (trailingZeros ((s.tile t).reg ra)))

/-- ADDI (R96). -/
def execAddi (t : TileId) (ecc : Ecc) (rd ra : Reg) (imm : BitVec 42) (s : State) : Out :=
  issue s t ecc (.addi t ecc rd ra imm) (aluRI .add t rd ra (sext42 imm))

/-- ANDI (R96). -/
def execAndi (t : TileId) (ecc : Ecc) (rd ra : Reg) (imm : BitVec 42) (s : State) : Out :=
  issue s t ecc (.andi t ecc rd ra imm) (aluRI .and t rd ra (sext42 imm))

/-- ORI (R96). -/
def execOri (t : TileId) (ecc : Ecc) (rd ra : Reg) (imm : BitVec 42) (s : State) : Out :=
  issue s t ecc (.ori t ecc rd ra imm) (aluRI .or t rd ra (sext42 imm))

/-- XORI (R96). -/
def execXori (t : TileId) (ecc : Ecc) (rd ra : Reg) (imm : BitVec 42) (s : State) : Out :=
  issue s t ecc (.xori t ecc rd ra imm) (aluRI .xor t rd ra (sext42 imm))

/-- SLTI (R96). -/
def execSlti (t : TileId) (ecc : Ecc) (rd ra : Reg) (imm : BitVec 42) (s : State) : Out :=
  issue s t ecc (.slti t ecc rd ra imm) (aluRI .slt t rd ra (sext42 imm))

/-- SLTIU (R96). -/
def execSltiu (t : TileId) (ecc : Ecc) (rd ra : Reg) (imm : BitVec 42) (s : State) : Out :=
  issue s t ecc (.sltiu t ecc rd ra imm) (aluRI .sltu t rd ra (sext42 imm))

/-- SLLI (R96). -/
def execSlli (t : TileId) (ecc : Ecc) (rd ra : Reg) (sh : BitVec 6) (s : State) : Out :=
  issue s t ecc (.slli t ecc rd ra sh) (aluRI .sll t rd ra (sh.setWidth 64))

/-- SRLI (R96). -/
def execSrli (t : TileId) (ecc : Ecc) (rd ra : Reg) (sh : BitVec 6) (s : State) : Out :=
  issue s t ecc (.srli t ecc rd ra sh) (aluRI .srl t rd ra (sh.setWidth 64))

/-- SRAI (R96). -/
def execSrai (t : TileId) (ecc : Ecc) (rd ra : Reg) (sh : BitVec 6) (s : State) : Out :=
  issue s t ecc (.srai t ecc rd ra sh) (aluRI .sra t rd ra (sh.setWidth 64))

/-- LI (R96). -/
def execLi (t : TileId) (ecc : Ecc) (rd : Reg) (imm : BitVec 42) (s : State) : Out :=
  issue s t ecc (.li t ecc rd imm) fun s => s.aluWrite t rd (sext42 imm)

/-- The value of LIH: imm[21:0] above bits [41:0] of ra (R96). -/
def lihValue (a : W64) (imm : BitVec 22) : W64 := imm ++ a.setWidth 42

/-- LIH (R96). -/
def execLih (t : TileId) (ecc : Ecc) (rd ra : Reg) (imm : BitVec 22) (s : State) : Out :=
  issue s t ecc (.lih t ecc rd ra imm) fun s => s.aluWrite t rd (lihValue ((s.tile t).reg ra) imm)

/-- The value of EXT: `len + 1` bits of ra from bit `lo` (R96). -/
def extValue (a : W64) (lo len : BitVec 6) : W64 := BitVec.ofNat 64 (a.toNat / 2 ^ lo.toNat % 2 ^ (len.toNat + 1))

/-- EXT (R96). -/
def execExt (t : TileId) (ecc : Ecc) (rd ra : Reg) (lo len : BitVec 6) (s : State) : Out :=
  issue s t ecc (.ext t ecc rd ra lo len) fun s => s.aluWrite t rd (extValue ((s.tile t).reg ra) lo len)

/-! ## Branches -/

/-- Branch conditions (R96). -/
inductive Cond where
  | eq | ne | lt | ge | ltu | geu
deriving DecidableEq, Repr

/-- The value of a condition. -/
def Cond.holds (c : Cond) (a b : W64) : Bool :=
  match c with
  | .eq => decide (a = b)
  | .ne => decide (a ≠ b)
  | .lt => a.slt b
  | .ge => !(a.slt b)
  | .ltu => a.ult b
  | .geu => !(a.ult b)

/-- Branch by `off` in 2 steps when taken, else go on in 1 step (R97). -/
def Tile.branch (x : Tile) (taken : Bool) (off : W16) : Tile :=
  if taken then x.goTo (branchTarget x.core.pc off).toNat 2 else x.next

/-- A conditional branch. -/
def branchRR (c : Cond) (t : TileId) (ra rb : Reg) (off : W16) (s : State) : State :=
  s.modTile t fun x => x.branch (c.holds (x.reg ra) (x.reg rb)) off

/-- BEQ (R96, R97). -/
def execBeq (t : TileId) (ecc : Ecc) (ra rb : Reg) (off : W16) (s : State) : Out :=
  issue s t ecc (.beq t ecc ra rb off) (branchRR .eq t ra rb off)

/-- BNE (R96, R97). -/
def execBne (t : TileId) (ecc : Ecc) (ra rb : Reg) (off : W16) (s : State) : Out :=
  issue s t ecc (.bne t ecc ra rb off) (branchRR .ne t ra rb off)

/-- BLT (R96, R97). -/
def execBlt (t : TileId) (ecc : Ecc) (ra rb : Reg) (off : W16) (s : State) : Out :=
  issue s t ecc (.blt t ecc ra rb off) (branchRR .lt t ra rb off)

/-- BGE (R96, R97). -/
def execBge (t : TileId) (ecc : Ecc) (ra rb : Reg) (off : W16) (s : State) : Out :=
  issue s t ecc (.bge t ecc ra rb off) (branchRR .ge t ra rb off)

/-- BLTU (R96, R97). -/
def execBltu (t : TileId) (ecc : Ecc) (ra rb : Reg) (off : W16) (s : State) : Out :=
  issue s t ecc (.bltu t ecc ra rb off) (branchRR .ltu t ra rb off)

/-- BGEU (R96, R97). -/
def execBgeu (t : TileId) (ecc : Ecc) (ra rb : Reg) (off : W16) (s : State) : Out :=
  issue s t ecc (.bgeu t ecc ra rb off) (branchRR .geu t ra rb off)

/-- J (R96, R97). -/
def execJ (t : TileId) (ecc : Ecc) (off : W16) (s : State) : Out :=
  issue s t ecc (.j t ecc off) fun s => s.modTile t fun x => x.branch true off

/-- DBNZ: `ra := ra - 1`, then branch when `ra`, as it then reads, is not zero (R96); s0 always reads as zero. -/
def dbnzStep (t : TileId) (ra : Reg) (off : W16) (s : State) : State :=
  s.modTile t fun x =>
    let x := x.setReg ra (x.reg ra - 1)
    x.branch (decide (x.reg ra ≠ 0)) off

/-- DBNZ (R96, R97). -/
def execDbnz (t : TileId) (ecc : Ecc) (ra : Reg) (off : W16) (s : State) : Out :=
  issue s t ecc (.dbnz t ecc ra off) (dbnzStep t ra off)

/-! ## Control -/

/-- NOP (R96). -/
def execNop (t : TileId) (ecc : Ecc) (s : State) : Out :=
  issue s t ecc (.nop t ecc) fun s => s.modTile t Tile.next

/-- Raise ILLEGAL_INSTR at the tile's present word: D0 its address, D1 the word (R93, R453). -/
def State.illegal (s : State) (t : TileId) : State :=
  let x := s.tile t
  s.raiseTile t 0x8001 x.core.pc (aGet 0 x.imem x.core.pc).toNat

/-- END: nothing issues until release; inside a handler it is illegal (R98, R192). -/
def endStep (t : TileId) (s : State) : State :=
  if (s.tile t).core.hnd.isSome then s.illegal t
  else s.modTile t fun x => let x := x.next; { x with core := { x.core with phase := .ended } }

/-- END (R98). -/
def execEndC (t : TileId) (ecc : Ecc) (s : State) : Out := issue s t ecc (.endC t ecc) (endStep t)

/-- HSET: check the entry under R61 and write it; reserved bits [13:0] read as zero (R59). The row of STORE_RANGE is the last row of
the refused entry (DESIGN CHOICE, log entry 117). -/
def hsetStep (t : TileId) (ra : Reg) (h : Hdl) (s : State) : State :=
  let x := s.tile t
  let v := x.reg ra
  let d := hdOf v
  if d.legal x.mask then s.setTile t ({ x with htab := aSet 0 x.htab h.toNat (v >>> 14 <<< 14) } : Tile).next
  else s.storeRange t h d.last

/-- HSET (R61, R96). -/
def execHset (t : TileId) (ecc : Ecc) (ra : Reg) (h : Hdl) (s : State) : Out :=
  issue s t ecc (.hset t ecc ra h) (hsetStep t ra h)

/-- HGET (R96). -/
def execHget (t : TileId) (ecc : Ecc) (rd : Reg) (h : Hdl) (s : State) : Out :=
  issue s t ecc (.hget t ecc rd h) fun s => s.aluWrite t rd ((s.tile t).hword h)

/-- RDTALLY (R12, R96). -/
def execRdtally (t : TileId) (ecc : Ecc) (rd : Reg) (s : State) : Out :=
  issue s t ecc (.rdtally t ecc rd) fun s => s.aluWrite t rd (BitVec.ofNat 64 (s.tile t).ctr.tally)

/-- RDID (R6, R96). -/
def execRdid (t : TileId) (ecc : Ecc) (rd : Reg) (s : State) : Out :=
  issue s t ecc (.rdid t ecc rd) fun s => s.aluWrite t rd ((s.gta t).setWidth 64)

/-- RDSS (R96). -/
def execRdss (t : TileId) (ecc : Ecc) (rd : Reg) (s : State) : Out :=
  issue s t ecc (.rdss t ecc rd) fun s => s.aluWrite t rd (BitVec.ofNat 64 (s.tile t).core.ss)

end Sys2Proof.Machine
end

