-- ==== Sys2Proof/Machine/Belfry.lean ====
section
/-! DEFINITION. Signals, waits, puts, message queues, active messages, combining slots and overflow rings (R171 to R200). -/

namespace Sys2Proof.Machine

/-! ## Objects and held waits -/

/-- Is a wait satisfied (R178)? -/
def Tile.satisfied (x : Tile) (k : WaitKind) (o : BitVec 8) (n : W32) : Bool :=
  match k with
  | .ge => decide (0 ≤ (x.sigP o - n).toInt)
  | _ => decide (n.toNat ≤ (x.avail o).toNat)

/-- A wait completes: CONSUME consumes, RD receives what is then available, and the core goes on (R178). -/
def Tile.waitDone (x : Tile) (k : WaitKind) (o : BitVec 8) (n : W32) (rd : Reg) : Tile :=
  let x := if k = .consume then x.setC o (x.sigC o + n) else x
  let x := x.setReg rd ((x.avail o).setWidth 64)
  ({ x with core := { x.core with held := none } } : Tile).next

/-- Evaluate a held WAIT, at a step of its tile: after every signal and every debugger's write that came before the step (R173). -/
def Tile.evalHeld (x : Tile) : Tile :=
  match x.core.held with
  | none => x
  | some w => if x.satisfied w.kind w.obj w.n then x.waitDone w.kind w.obj w.n w.rd else x

/-- What a signal of `inc` would leave available. -/
def Tile.availWith (x : Tile) (o : BitVec 8) (inc : Nat) : W32 := x.sigP o + BitVec.ofNat 32 inc - x.sigC o

/-- A signal adds its increment to P, or raises SYNC_WINDOW and is not applied (R172, R174). -/
def State.addSignal (s : State) (t : TileId) (o : BitVec 8) (inc : Nat) : State :=
  let x := s.tile t
  let a := x.availWith o inc
  if 2 ^ 31 ≤ a.toNat then s.raiseTile t 0x8006 o.toNat a.toNat
  else s.setTile t (x.setP o (x.sigP o + BitVec.ofNat 32 inc))

/-! ## Flits on VC1 (R197) -/

/-- A VC1 flit: SUB and the 14 low bits of the tag, header bits [24:7], and the payload. -/
def vc1Flit (dst : Gta) (sub tag low : Nat) (pay : List PWord) : Flit :=
  { hdr := FHdr.word { vc := 1, kind := 1, edge := false, dest := dst, last := true, cmb := false
                       slot := sub * 2 ^ 14 + tag % 2 ^ 14, dh := low / 4096, drow := low % 4096, age := 0 }
    pay := pay, row := 0 }
/-- SUB of a VC1 flit. -/
def subOf (f : Flit) : Nat := fld f.hdr 40 39
/-- The low 14 bits of a VC1 tag. -/
def tagOf (f : Flit) : Nat := fld f.hdr 38 25
/-- The sender's address in header bits [21:7]. -/
def srcOf (f : Flit) : Gta := BitVec.ofNat 15 (fld f.hdr 21 7)

/-- A signal flit: OBJ and INC in payload word 0. -/
def signalFlit (dst : Gta) (o : BitVec 8) (inc : Nat) : Flit :=
  vc1Flit dst 1 0 0 (payOf [BitVec.ofNat 64 (o.toNat + inc % 65536 * 256)])

/-- The flits of a put (R178): PUT sends its signal after the data, PUTH on the last data flit. -/
def putFlits (dst : Gta) (f : PutF) (drow : Nat) (rows : List (List PWord)) (hx : Bool) : List Flit :=
  let n := rows.length
  (rows.mapIdx fun k r =>
    let sg := hx && decide (k + 1 = n)
    vc1Flit dst 0 (if sg then 2 ^ 13 + f.obj.toNat else 0) (f.dh.toNat * 4096 + (drow + k) % 4096) r)
    ++ (if hx then [] else [signalFlit dst f.obj f.inc.toNat])

/-- Rows `lo` to `lo + n - 1`, counted from a handle's BASE: their keys. -/
def Tile.srcKeys (x : Tile) (h : Hdl) (lo n : Nat) : List Nat :=
  let hd := hdOf (x.hword h)
  (List.range n).map fun k => rowKey hd.store (hd.base + lo + k)
/-- The contents of rows, by their keys. -/
def Tile.rowsAt (x : Tile) (keys : List Nat) : List (List PWord) := keys.map fun k => x.rdRow (k / 4096) (k % 4096)
/-- Do rows `lo` to `lo + n - 1` of a handle's buffer exist (R61)? -/
def Tile.rowsOk (x : Tile) (h : Hdl) (lo n : Nat) : Bool := x.offsetOk h lo && x.offsetOk h (lo + n - 1)
/-- STORE_RANGE of source rows (R178). -/
def State.rowsFault (s : State) (t : TileId) (h : Hdl) (lo : Nat) : State := s.storeRange t h ((hdOf ((s.tile t).hword h)).base + lo)
/-- The sync port takes the source rows of instruction `seq`: they are read as the H72 check leaves them, and its access ends (R55, R58). -/
def State.takeRows (s : State) (t : TileId) (seq : Nat) (keys : List Nat) (errs : List StoreErr) : State × List (List PWord) :=
  let s1 := s.storeErrs t keys errs
  (s1.modTile t fun x => x.dropAccess seq, (s1.tile t).rowsAt keys)
/-- Put an instruction into the command queue of the sync port. -/
def Tile.syncPush (x : Tile) (o : SyncOp) : Tile := { x with bel := { x.bel with syncq := x.bel.syncq ++ [o] } }
/-- A WAIT takes its place behind what waits in the sync port (R191). -/
def Tile.syncPlace (x : Tile) : Tile := if 0 < x.syncQueued then x.syncPush .place else x

/-! ## Arrivals of signals and puts -/

/-- SIGNAL_ARRIVAL (R172, R180): the flit at the head of VC1 is a signal. -/
def execSignalArrival (t : TileId) (s : State) : Out :=
  match s.eject t 1 with
  | f :: rest =>
    if subOf f = 1 then
      let w := (f.pay.getD 0 pw0).d
      .next ((s.setEject t 1 rest).addSignal t (w.extractLsb' 0 8) (fld w 23 8))
    else .next s
  | [] => .next s

/-- PUT_DATA_ARRIVAL (R178, R180, R181): the row is checked against DH and written; a PUTH flit then signals 1. -/
def execPutDataArrival (t : TileId) (s : State) : Out :=
  match s.eject t 1 with
  | f :: rest =>
    if subOf f = 0 then
      let h := hdrOf f.hdr
      let s1 := s.setEject t 1 rest
      let x := s1.tile t
      let dh : Hdl := BitVec.ofNat 6 h.dh
      let hd := hdOf (x.hword dh)
      if !x.offsetOk dh h.drow then .next (s1.storeRange t dh (hd.base + h.drow))
      else
        let s2 := s1.setTile t (x.wrRow hd.store (hd.base + h.drow) f.pay)
        .next (if tagOf f / 2 ^ 13 = 1 then s2.addSignal t (BitVec.ofNat 8 (tagOf f)) 1 else s2)
    else .next s
  | [] => .next s

/-! ## Queues -/

/-- Is a message readable: all its flits are present (R190)? -/
def QMsg.complete (m : QMsg) : Bool := decide (m.len ≤ m.flits.length)
/-- Entries of a queue that hold flits or are reserved. -/
def MsgQ.used (q : MsgQ) : Nat := (q.msgs.map fun m => m.len - m.taken).sum
/-- Entries that hold flits (R199). -/
def MsgQ.occ (q : MsgQ) : Nat := (q.msgs.map fun m => m.flits.length - m.taken).sum

/-- The tag of flit `idx` of a message (R191). -/
def tagWord (m : QMsg) (q : BitVec 2) (idx : Nat) : W64 :=
  let poi := (m.flits.getD idx []).any (·.p)
  BitVec.ofNat 64 (2 ^ 63 + poi.toNat * 2 ^ 62 + m.act.toNat * 2 ^ 61 + m.hidx.toNat * 2 ^ 57 + (m.len - 1) % 4 * 2 ^ 55
    + idx % 4 * 2 ^ 53 + q.toNat * 2 ^ 51 + m.spl.toNat * 2 ^ 50 + m.cmb.toNat * 2 ^ 49 + m.src.toNat)

/-- The tile's ring holds records of queue `q`. -/
def OvRing.has (r : OvRing) (q : BitVec 2) : Bool := r.recs.any fun c => !c.pad && decide (c.q = q)

/-- Write eight words to s[RT] and up, and end their pending writes. -/
def Tile.recvWords (x : Tile) (rt : Reg) (ws : List W64) : Tile :=
  (List.range 8).foldl (fun x k => (x.setReg (rt + BitVec.ofNat 5 k) (ws.getD k 0)).setPend (rt + BitVec.ofNat 5 k) false) x
/-- End the pending writes of a RECV's data registers. -/
def Tile.recvNone (x : Tile) (rt : Reg) : Tile :=
  (List.range 8).foldl (fun x k => x.setPend (rt + BitVec.ofNat 5 k) false) x

/-- Try a RECV: `none` while it must wait (R191). -/
def Tile.tryRecv (x : Tile) (rt : Reg) (q : BitVec 2) (so : Reg) : Option Tile :=
  let mq := x.queue q
  match mq.msgs with
  | [] => if x.bel.ring.has q then none else some ((x.recvNone rt).setReg so 0 |>.setPend so false)
  | m :: ms =>
    if m.complete then
      let row := m.flits.getD m.taken []
      let m' := { m with taken := m.taken + 1 }
      let x1 := x.setQueue q { mq with msgs := if m'.taken = m.len then ms else m' :: ms }
      let x1 := match x1.core.hnd with
        | some r => if r.q = q && decide (0 < r.left) then { x1 with core := { x1.core with hnd := some { r with left := r.left - 1 } } } else x1
        | none => x1
      let x1 := if row.any (·.p) then x1.count fun c => { c with poisonIn := c.poisonIn + 1 } else x1
      some (((x1.recvWords rt (row.map (·.d))).setReg so (tagWord m q m.taken)).setPend so false)
    else none

/-- The message flits of a granted reservation (R197). -/
def messageFlits (src : Gta) (r : Resv) (rows : List (List PWord)) : List Flit :=
  rows.mapIdx fun k row =>
    let act := decide (r.kind = .asend)
    let cadd := decide (r.kind = .cadd)
    vc1Flit r.dst 2 (r.q.toNat * 2 ^ 12 + (r.len - 1) % 4 * 2 ^ 10 + k % 4 * 2 ^ 8 + act.toNat * 2 ^ 7 + r.hx.toNat * 8
      + cadd.toNat * 4) src.toNat row

/-- The words of a record header (R196). -/
def ringHdr (typ units : Nat) (src : Gta) (ql hidx seq : Nat) : List PWord :=
  payOf [BitVec.ofNat 64 (typ + units * 2 ^ 16 + src.toNat * 2 ^ 32 + ql * 2 ^ 48 + hidx * 2 ^ 56), BitVec.ofNat 64 seq]

/-- Units of 64 B at consecutive device addresses, cut at line boundaries: the address of each run and its units. -/
def cutLines (a : Nat) : List (List PWord) → List (Nat × List (List PWord))
  | [] => []
  | u :: us =>
    match cutLines (a + 64) us with
    | (b, vs) :: ls => if b / 256 = a / 256 then (a, u :: vs) :: ls else (a, [u]) :: (b, vs) :: ls
    | [] => [(a, [u])]
/-- A ring record for device address `a` of the receiver's module, header first, in runs that each lie in one line (R196). -/
def recordLines (src : Gta) (r : Resv) (a seq : Nat) (rows : List (List PWord)) : List (Nat × List (List PWord)) :=
  let ql := r.q.toNat + (r.len - 1) % 4 * 4 + (decide (r.kind = .asend)).toNat * 16
  cutLines a (ringHdr 1 (r.len + 1) src ql r.hx.toNat seq :: rows)
/-- Write a ring record as memory traffic to the home slices of the receiver's module, each write under a tag of the tile, for its
acceptance to come back to (R195, R227, R359). A write of less than a line carries the flits of the rows it writes (DESIGN CHOICE, log
entry 126). -/
def State.sendRecord (s : State) (t : TileId) (m : BitVec 4) (id : Nat) : List (Nat × List (List PWord)) → State
  | [] => s
  | (a, us) :: ls =>
    let x := s.tile t
    let tag := x.str.nextTag
    let s1 := s.setTile t { x with str := { x.str with tags := aSet none x.str.tags tag (some ⟨id, 0, a, true⟩), nextTag := (tag + 1) % 64 } }
    State.sendRecord (s1.injectAll t (reqFlit m false true 0 (s.gta t) [⟨tag, 1, a⟩] :: dataFlits m false a tag us)) t m id ls

/-- The sync port performs what is at the head of its queue: the state after; `none` while it must wait, for a message (R191), for rows
that an earlier instruction has still to write (R55), for a tag, or for the acceptance of a record (R181). -/
def State.syncStep (s : State) (t : TileId) : Option State :=
  let x := s.tile t
  match x.bel.syncq with
  | [] => none
  | o :: ops =>
    let done (s : State) (ops : List SyncOp) : State := s.modTile t fun x => { x with bel := { x.bel with syncq := ops } }
    match o with
    | .recv rt q so => (x.tryRecv rt q so).map fun y => done (s.setTile t y) ops
    | .send fl => some ((done s ops).inject t fl)
    | .place => some (done s ops)
    | .put seq hx f dst drow keys errs =>
      if x.rowsFree seq keys [] then
        let (s1, rows) := (done s ops).takeRows t seq keys errs
        some (s1.injectAll t (putFlits dst f drow rows hx))
      else none
    | .msg r none =>
      if x.rowsFree r.seq r.keys [] then
        let (s1, rows) := (done s ops).takeRows t r.seq r.keys r.errs
        some (s1.injectAll t (messageFlits (s.gta t) r rows))
      else none
    | .msg r (some (a, sq)) =>
      let tags := (recordLines (s.gta t) r a sq (r.keys.map fun _ => [])).length
      if x.rowsFree r.seq r.keys [] && (List.range tags).all fun k => (aGet none x.str.tags ((x.str.nextTag + k) % 64)).isNone then
        let id := x.str.nextId
        let (s1, rows) := (done s (.acks id :: ops)).takeRows t r.seq r.keys r.errs
        let s2 := s1.modTile t fun x => { x with str := { x.str with nextId := id + 1 } }
        some (s2.sendRecord t (gtaMod r.dst) id (recordLines (s.gta t) r a sq rows))
      else none
    | .acks id => if x.str.tags.any fun kv => kv.2.any fun l => decide (l.ent = id) then none else some (done s ops)
/-- Let the sync port go on, `n` entries at most. -/
def State.drainSync (t : TileId) : Nat → State → State
  | 0, s => s
  | n + 1, s =>
    match s.syncStep t with
    | none => s
    | some s1 => State.drainSync t n s1
/-- Let the sync port go on as far as it can. -/
def State.drain (s : State) (t : TileId) : State := State.drainSync t (s.tile t).bel.syncq.length s

/-! ## SIG -/

/-- SIG SIGNAL (R176, R178). -/
def execSigSignal (t : TileId) (ecc : Ecc) (rt : Reg) (obj : BitVec 8) (inc : W16) (s : State) : Out :=
  issue s t ecc (.sigSignal t ecc rt obj inc) fun s =>
    (s.modTile t fun x => ((x.step 1).syncPush (.send (signalFlit ((x.reg rt).setWidth 15) obj inc.toNat))).nextWord).drain t

/-- Issue a put: its source rows are checked, take their place in program order, and are read when the sync port comes to them (R55,
R178). -/
def putIssue (t : TileId) (f : PutF) (hx : Bool) (errs : List StoreErr) (s : State) : State :=
  let x := s.tile t
  let so := x.reg f.so
  let lo := fld so 11 0
  let n := fld so 33 28 + 1
  if !x.rowsOk f.sh lo n then s.rowsFault t f.sh lo
  else
    let keys := x.srcKeys f.sh lo n
    let y := ((x.step 1).addAccess keys []).syncPush (.put x.seq hx f ((x.reg f.rt).setWidth 15) (fld so 27 16) keys errs)
    (s.setTile t y.nextWord).drain t

/-- SIG PUT (R176, R178). -/
def execSigPut (t : TileId) (ecc : Ecc) (f : PutF) (errs : List StoreErr) (s : State) : Out :=
  issue s t ecc (.sigPut t ecc f []) (putIssue t f false errs)
/-- SIG PUTH (R176, R178, R181). -/
def execSigPuth (t : TileId) (ecc : Ecc) (f : PutF) (errs : List StoreErr) (s : State) : Out :=
  issue s t ecc (.sigPuth t ecc f []) (putIssue t f true errs)

/-! ## WAIT -/

/-- The number a WAIT waits for (R177). -/
def Tile.waitN (x : Tile) (f : WaitF) : W32 := (x.reg f.rv).setWidth 32 + f.imm.setWidth 32

/-- Issue a WAIT: it completes when satisfied, else holds the core, charged to STALL_SYNC, and is evaluated again at the tile's steps
(R173, R174, R178, R192). Behind a RECV that waits only its place in the sync port waits (R191). -/
def waitIssue (t : TileId) (k : WaitKind) (f : WaitF) (s : State) : State :=
  let x := s.tile t
  let n := x.waitN f
  if x.core.hnd.isSome then s.illegal t
  else if k = .consume && decide (2 ^ 31 ≤ n.toNat) then s.raiseTile t 0x8006 f.obj.toNat n.toNat
  else if x.satisfied k f.obj n then s.setTile t (x.syncPlace.waitDone k f.obj n f.rd)
  else s.setTile t (({ x.syncPlace with core := { x.core with held := some ⟨k, f.obj, n, f.rd⟩ } } : Tile).held .sync 1)

/-- WAIT CONSUME (R177, R178). -/
def execWaitConsume (t : TileId) (ecc : Ecc) (f : WaitF) (s : State) : Out :=
  issue s t ecc (.waitConsume t ecc f) (waitIssue t .consume f)
/-- WAIT PEEK (R177, R178). -/
def execWaitPeek (t : TileId) (ecc : Ecc) (f : WaitF) (s : State) : Out := issue s t ecc (.waitPeek t ecc f) (waitIssue t .peek f)
/-- WAIT GE (R177, R178). -/
def execWaitGe (t : TileId) (ecc : Ecc) (f : WaitF) (s : State) : Out := issue s t ecc (.waitGe t ecc f) (waitIssue t .ge f)

/-! ## RECV and handlers -/

/-- RECV (R188, R191). -/
def execRecv (t : TileId) (ecc : Ecc) (rt : Reg) (q : BitVec 2) (so : Reg) (s : State) : Out :=
  issue s t ecc (.recv t ecc rt q so) fun s =>
    let x := s.tile t
    let y := (List.range 8).foldl (fun x k => x.setPend (rt + BitVec.ofNat 5 k) true) (x.step 1)
    (s.setTile t ((y.setPend so true).syncPush (.recv rt q so)).nextWord).drain t

/-! ## Handlers (R192, R193) -/

/-- The address of a valid handler. -/
def Tile.handler (x : Tile) (i : BitVec 4) : Option Nat := aGet none x.bel.handlers i.toNat
/-- The lowest queue whose head is a complete active message with a valid handler. -/
def Tile.ready (x : Tile) : Option (BitVec 2 × QMsg × Nat) :=
  ((List.range 4).filterMap fun k =>
    let q : BitVec 2 := BitVec.ofNat 2 k
    match (x.queue q).msgs with
    | m :: _ =>
      if m.complete && m.act then (x.handler m.hidx).map fun a => (q, m, a) else none
    | [] => none).head?

/-- POLL (R188, R191, R192): once the sync port has executed what issued before it, it goes on at once when no handler is to be entered
(DEDUCED, log entry 127). -/
def execPoll (t : TileId) (ecc : Ecc) (s : State) : Out :=
  issue s t ecc (.poll t ecc) fun s =>
    let x := s.tile t
    if x.core.hnd.isSome then s.illegal t
    else if 0 < x.syncQueued then s
    else if x.ready.isSome then s.setTile t { x with core := { x.core with poll := true } }
    else s.setTile t x.next

/-- HANDLER_ENTRY (R192): at a held WAIT or a POLL, the head's tag goes to s30 and the core goes on at the handler. -/
def execHandlerEntry (t : TileId) (s : State) : Out :=
  let x := s.tile t
  if x.core.phase = .issue && (x.core.held.isSome || x.core.poll) && x.core.hnd.isNone then
    match x.ready with
    | none => .next s
    | some (q, m, a) =>
      let ret := if x.core.held.isSome then x.core.pc else x.core.pc + 1
      let y := x.setReg 30 (tagWord m q m.taken)
      let y : Tile := { y with core := { y.core with held := none, poll := false, hnd := some ⟨ret, q, m.len - m.taken⟩ } }
      .next (s.setTile t (y.goTo a 2))
  else .next s

/-- HRET (R188, R193): the rest of the entered message is discarded and the core returns. -/
def execHret (t : TileId) (ecc : Ecc) (s : State) : Out :=
  issue s t ecc (.hret t ecc) fun s =>
    let x := s.tile t
    match x.core.hnd with
    | none => s.illegal t
    | some r =>
      if 0 < x.syncQueued then s
      else
        let mq := x.queue r.q
        let x := if 0 < r.left then x.setQueue r.q { mq with msgs := mq.msgs.drop 1 } else x
        let x : Tile := { x with core := { x.core with hnd := none } }
        s.setTile t (x.goTo r.ret 2)

/-! ## Reservations (R189) -/

/-- The request of a reservation: kind, queue, HX, LEN and N in payload word 0. -/
def requestFlit (src : Gta) (r : Resv) : Flit :=
  let k := match r.kind with | .send => 0 | .asend => 1 | .cadd => 2
  vc1Flit r.dst 3 0 src.toNat
    (payOf [BitVec.ofNat 64 (k + r.q.toNat * 4 + r.hx.toNat * 16 + (r.len - 1) % 4 * 256 + r.n % 65536 * 1024)])
/-- The answer: 0 GRANT, 1 RING, 2 BUSY; for RING the ring offset and SEQ. -/
def answerFlit (dst src : Gta) (a off seq : Nat) : Flit :=
  vc1Flit dst 3 (2 ^ 13) src.toNat (payOf [BitVec.ofNat 64 a, BitVec.ofNat 64 off, BitVec.ofNat 64 seq])

/-- Begin a reservation: the source rows are checked and take their place in program order; the MSG is held at issue until GRANT or
RING (R55, R178, R189). -/
def msgIssue (t : TileId) (kind : MsgKind) (rt : Reg) (q : BitVec 2) (hx : BitVec 4) (len : Nat) (h : Hdl) (so : Reg)
    (errs : List StoreErr) (s : State) : State :=
  let x := s.tile t
  let dst := x.reg rt
  let lo := fld (x.reg so) 11 0
  if !x.rowsOk h lo len then s.rowsFault t h lo
  else
    let n := if fld dst 31 16 = 0 then 1 else fld dst 31 16
    let r : Resv := ⟨kind, dst.setWidth 15, q, hx, len, n, x.seq, x.srcKeys h lo len, errs, none⟩
    (s.inject t (requestFlit (s.gta t) r)).modTile t fun x =>
      let y := (x.held .queue 1).addAccess r.keys []
      { y with bel := { y.bel with resv := some r } }

/-- MSG SEND (R188, R189). -/
def execSend (t : TileId) (ecc : Ecc) (f : SendF) (errs : List StoreErr) (s : State) : Out :=
  issue s t ecc (.send t ecc f []) (msgIssue t .send f.rt f.q 0 (f.len.toNat + 1) f.h f.so errs)
/-- MSG ASEND (R188, R189). -/
def execAsend (t : TileId) (ecc : Ecc) (f : SendF) (errs : List StoreErr) (s : State) : Out :=
  issue s t ecc (.asend t ecc f []) (msgIssue t .asend f.rt f.q f.hx (f.len.toNat + 1) f.h f.so errs)
/-- MSG CADD (R188, R194). -/
def execCadd (t : TileId) (ecc : Ecc) (f : CaddF) (errs : List StoreErr) (s : State) : Out :=
  issue s t ecc (.cadd t ecc f []) (msgIssue t .cadd f.rt 3 (f.slot ++ f.opk) 1 f.h f.so errs)

/-- Device address of a tile's overflow ring (R195, R443); none for a client without rings. -/
def State.ringBase (s : State) (t : TileId) : Option Nat :=
  let b := s.act .bel (0x110 + 8 * s.sch.client)
  if b = 0 || s.sch.phase ≠ .running then none else some (b + t.toNat * s.act .bel 0x100)

/-- Bytes of the ring between its head and its tail: records read back count until the head has passed them (R196). -/
def OvRing.used (r : OvRing) : Nat := (r.recs.map fun c => 64 * c.units).sum

/-- Reserve a record's space in the ring, with a pad record when it does not fit before the end: the record's offset and
SEQ; `none` when the ring has no room (R196). The answer gives the record's device address (R189). -/
def State.ringPlace (s : State) (t : TileId) (q : BitVec 2) (src : Gta) (len : Nat) (act : Bool) (hidx : BitVec 4) :
    Option (State × Nat × Nat) :=
  match s.ringBase t with
  | none => none
  | some base =>
    let size := s.act .bel 0x100
    let x := s.tile t
    let r := x.bel.ring
    let units := len + 1
    let pad := if size < r.tail + 64 * units then size - r.tail else 0
    if size < r.used + pad + 64 * units then none
    else
      let r1 : OvRing :=
        if pad = 0 then r
        else { r with recs := r.recs ++ [⟨r.tail, pad / 64, true, q, 0, 0, false, 0, 0⟩], tail := 0, seq := r.seq + 1 }
      let off := if pad = 0 then r.tail else 0
      let r2 : OvRing :=
        { r1 with recs := r1.recs ++ [⟨off, units, false, q, src, len, act, hidx, 0⟩], tail := (off + 64 * units) % size, seq := r1.seq + 1 }
      let s1 := if pad = 0 then s else s.modMem fun m => m.setWords (base + r.tail) (ringHdr 2 (pad / 64) 0 0 0 r.seq)
      some (s1.modTile t fun x => { x with bel := { x.bel with ring := r2 } }, base + off, r1.seq)

/-- What a receiver answers to a SEND or ASEND, and what it then holds (R190, R195, R196). -/
def State.answerMsg (s : State) (t : TileId) (src : Gta) (q : BitVec 2) (act : Bool) (hx : BitVec 4) (len : Nat) :
    State × Nat × Nat × Nat :=
  let x := s.tile t
  let mq := x.queue q
  if !mq.spilling then
    if mq.used + len ≤ 16 then
      (s.setTile t (x.setQueue q { mq with busyFrom := none, msgs := mq.msgs ++ [⟨src, act, hx, len, false, false, [], 0⟩] }), 0, 0, 0)
    else
      (s.setTile t (x.setQueue q { mq with busyFrom := some (mq.busyFrom.getD x.ctr.tally), refused := mq.refused + 1 }), 2, 0, 0)
  else
    match s.ringPlace t q src len act hx with
    | some (s1, off, seq) =>
      (s1.modTile t fun x => x.setQueue q { x.queue q with placed := (x.queue q).placed + 1 }, 1, off, seq)
    | none =>
      if mq.fullRaised then (s, 2, 0, 0)
      else
        let s1 := s.setTile t (x.setQueue q { mq with fullRaised := true })
        ({ s1 with belc := { s1.belc with ringFull := s1.belc.ringFull + 1 } } |>.log 0x1004 .tile (s.gta t).toNat q.toNat 0,
          2, 0, 0)

/-- What a receiver answers to a CADD (R194). -/
def State.answerCadd (s : State) (t : TileId) (hx : BitVec 4) (n : Nat) : State × Nat :=
  let x := s.tile t
  let slot : BitVec 2 := hx.extractLsb' 2 2
  let opk := hx.toNat % 4
  let c := x.cslot slot
  if c.result.isSome then (s, 2)
  else if !c.armed then (s.setTile t (x.setCslot slot { c with armed := true, n := n, opk := opk, cnt := 0, acc := [], poison := [] }), 0)
  else if c.n = n && c.opk = opk then (s, 0)
  else (s, 2)

/-- RESERVATION_ARRIVAL (R189): the request at the head of VC1 is answered at once. -/
def execReservationArrival (t : TileId) (s : State) : Out :=
  match s.eject t 1 with
  | f :: rest =>
    if subOf f = 3 && decide (tagOf f / 2 ^ 13 = 0) then
      let s := s.setEject t 1 rest
      let w := (f.pay.getD 0 pw0).d
      let src := srcOf f
      let q : BitVec 2 := w.extractLsb' 2 2
      let hx : BitVec 4 := w.extractLsb' 4 4
      let len := fld w 9 8 + 1
      if fld w 1 0 = 2 then
        let (s1, a) := s.answerCadd t hx (fld w 25 10)
        .next (s1.inject t (answerFlit src (s.gta t) a 0 0))
      else
        let (s1, a, off, seq) := s.answerMsg t src q (decide (fld w 1 0 = 1)) hx len
        .next (s1.inject t (answerFlit src (s.gta t) a off seq))
    else .next s
  | [] => .next s

/-- RESERVATION_ANSWER (R189): at a GRANT or RING the issue stage goes on and the sync port sends the flits or the record; BUSY asks
again after 64 steps. -/
def execReservationAnswer (t : TileId) (s : State) : Out :=
  match s.eject t 1 with
  | f :: rest =>
    if subOf f = 3 && decide (tagOf f / 2 ^ 13 = 1) then
      let s := s.setEject t 1 rest
      let x := s.tile t
      match x.bel.resv with
      | none => .next s
      | some r =>
        let a := (f.pay.getD 0 pw0).d
        if a = 2 then
          .next (s.setTile t { x with bel := { x.bel with resv := some { r with retryAt := some (x.ctr.tally + 64) } } })
        else
          let ring := if a = 0 then none else some ((f.pay.getD 1 pw0).d.toNat, (f.pay.getD 2 pw0).d.toNat)
          let y : Tile := { x with bel := { x.bel with resv := none } }
          .next ((s.setTile t ((y.step 1).syncPush (.msg r ring)).nextWord).drain t)
    else .next s
  | [] => .next s

/-- BUSY_RETRY (R189): 64 steps after a BUSY arrived, the sender asks again. -/
def execBusyRetry (t : TileId) (s : State) : Out :=
  let x := s.tile t
  match x.bel.resv with
  | some r =>
    match r.retryAt with
    | some n =>
      if n ≤ x.ctr.tally then
        .next ((s.inject t (requestFlit (s.gta t) r)).modTile t fun x =>
          { x with bel := { x.bel with resv := some { r with retryAt := none } } })
      else .next s
    | none => .next s
  | none => .next s

/-- QUEUE_SPILL_START (R195): a queue that has refused every request for 1,024 steps begins to spill. -/
def execQueueSpillStart (t : TileId) (q : BitVec 2) (s : State) : Out :=
  let x := s.tile t
  let mq := x.queue q
  match mq.busyFrom with
  | some n =>
    if !mq.spilling && decide (n + 1024 ≤ x.ctr.tally) then
      let s1 := s.setTile t (x.setQueue q { mq with spilling := true, fullRaised := false, placed := 0, readBack := 0, refused := 0 })
      .next { s1 with belc := { s1.belc with spills := s1.belc.spills + 1 } }
    else .next s
  | none => .next s

/-! ## Arrival of messages -/

/-- A message has become readable: an active one with an invalid handler counts (R193), and a waiting RECV goes on. -/
def State.readable (s : State) (t : TileId) (act : Bool) (hidx : BitVec 4) : State :=
  let s := if act && ((s.tile t).handler hidx).isNone then
      s.modTile t fun x => x.count fun c => { c with hMiss := c.hMiss + 1 } else s
  s.drain t

/-- Add a flit to the first incomplete granted message of `src`. -/
def addFlit (src : Gta) (row : List PWord) : List QMsg → List QMsg × Option QMsg
  | [] => ([], none)
  | m :: ms =>
    if m.src = src && !m.complete && !m.spl then
      let m' := { m with flits := m.flits ++ [row] }
      (m' :: ms, some m')
    else
      let (ms', r) := addFlit src row ms
      (m :: ms', r)

/-- A unit of 64 B at device address `a` has been written in tier H: where it belongs to a record that a tile's ring holds, it counts,
and the record's last unit raises the queue object (R190, R196). -/
def State.ringUnit (s : State) (a : Nat) : State :=
  let b := s.act .bel (0x110 + 8 * s.sch.client)
  let size := s.act .bel 0x100
  if a < b || b = 0 || size = 0 || 2048 ≤ (a - b) / size then s
  else
    let t : TileId := BitVec.ofNat 11 ((a - b) / size)
    let off := (a - b) % size
    let x := s.tile t
    match x.bel.ring.recs.find? fun c => !c.pad && decide (c.got < c.units) && decide (c.off ≤ off) && decide (off < c.off + 64 * c.units) with
    | none => s
    | some c =>
      let recs := x.bel.ring.recs.map fun d => if d = c then { d with got := d.got + 1 } else d
      let s2 := s.setTile t { x with bel := { x.bel with ring := { x.bel.ring with recs := recs } } }
      if c.got + 1 = c.units then s2.addSignal t (BitVec.ofNat 8 (252 + c.q.toNat)) 1 else s2

/-- MESSAGE_FLIT_ARRIVAL (R190): a message flit at the head of VC1 is written into its queue; the queue object gains 1 with a message's
last flit. -/
def execMessageFlitArrival (t : TileId) (s : State) : Out :=
  match s.eject t 1 with
  | f :: rest =>
    if subOf f = 2 && decide (tagOf f / 4 % 2 = 0) then
      let s := s.setEject t 1 rest
      let q : BitVec 2 := BitVec.ofNat 2 (tagOf f / 2 ^ 12)
      let x := s.tile t
      let mq := x.queue q
      match addFlit (srcOf f) f.pay mq.msgs with
      | (_, none) => .next s
      | (ms, some m) =>
        let s := s.setTile t (x.setQueue q { mq with msgs := ms })
        if m.complete then .next ((s.addSignal t (BitVec.ofNat 8 (252 + q.toNat)) 1).readable t m.act m.hidx) else .next s
    else .next s
  | [] => .next s

/-- RING_REFILL (R195, R196): the queue's oldest written record is read back as entries are free; the spill ends when all
that were placed are back. A record read back keeps its space until the head passes it. -/
def execRingRefill (t : TileId) (q : BitVec 2) (errs : List MemErr) (s : State) : Out :=
  let x := s.tile t
  let r := x.bel.ring
  match r.recs.find? fun c => !c.pad && decide (c.q = q), s.ringBase t with
  | some c, some base =>
    let mq := x.queue q
    if c.got = c.units && decide (mq.used + c.len ≤ 16) then
      let recs := (r.recs.map fun d => if d = c then { d with pad := true } else d).dropWhile (·.pad)
      let head := match recs with | d :: _ => d.off | [] => r.tail
      let back := mq.readBack + 1
      let done := decide (back = mq.placed)
      let place := [(base + c.off, 64 * c.units)]
      .next (s.withSnoops place [] fun s =>
        let s := s.tierErrs place errs
        let flits := (List.range c.len).map fun k => s.mem.words (base + c.off + 64 * (k + 1)) 8
        let mq := { mq with
          msgs := mq.msgs ++ [⟨c.src, c.act, c.hidx, c.len, true, false, flits, 0⟩], readBack := back
          spilling := mq.spilling && !done, busyFrom := if done then none else mq.busyFrom }
        let y : Tile := { x with bel := { x.bel with ring := { r with recs := recs, head := head } } }
        (s.setTile t (y.setQueue q mq)).readable t c.act c.hidx)
    else .next s
  | _, _ => .next s

/-! ## Combining slots (R194) -/

/-- A lane takes one contribution (R194). -/
def LaneAcc.add (opk : Nat) (first : Bool) (a : LaneAcc) (v : W32) : LaneAcc :=
  match opk with
  | 0 =>
    match f32 (flush v) with
    | .nan => { a with nan := true, negz := false }
    | .inf n => { a with pinf := a.pinf || !n, ninf := a.ninf || n, negz := false }
    | .fin n m e =>
      let k : Int := (shl2 m (e + 149) : Nat)
      { a with sum := if n then a.sum - k else a.sum + k, negz := a.negz && n && decide (m = 0) }
  | 1 => { a with w := a.w + v }
  | _ => { a with w := if first then fmaxR v v else fmaxR a.w v }
/-- The value of a lane (R194). -/
def LaneAcc.value (opk : Nat) (a : LaneAcc) : W32 :=
  if opk ≠ 0 then a.w
  else if a.nan || (a.pinf && a.ninf) then nan32
  else if a.pinf then inf32 false
  else if a.ninf then inf32 true
  else if a.sum = 0 then zero32 a.negz
  else packQ ⟨decide (a.sum < 0), a.sum.natAbs, 1, -149⟩

/-- A slot takes one contribution flit. -/
def CSlot.take (c : CSlot) (row : List PWord) : CSlot :=
  let es := payElems row
  let acc := (List.range 16).map fun e => (c.acc.getD e LaneAcc.zero).add c.opk (decide (c.cnt = 0)) (es.getD e 0)
  let poison := (List.range 8).map fun w => c.poison.getD w false || (row.getD w pw0).p
  { c with armed := true, cnt := c.cnt + 1, acc := acc, poison := poison }
/-- The result flit of what a slot has gathered. -/
def CSlot.row (c : CSlot) : List PWord :=
  elemsPay ((List.range 16).map fun e => (c.acc.getD e LaneAcc.zero).value c.opk) ((List.range 8).map fun w => c.poison.getD w false)

/-- Place a result in queue 3 as a one-flit message, when an entry is free; object 255 gains 1. -/
def State.placeResult (s : State) (t : TileId) (slot : BitVec 2) (row : List PWord) : State :=
  let x := s.tile t
  let mq := x.queue 3
  let c := x.cslot slot
  if mq.used + 1 ≤ 16 then
    let x := (x.setQueue 3 { mq with msgs := mq.msgs ++ [⟨s.gta t, false, 0, 1, false, true, [row], 0⟩] }).setCslot slot
      { c with armed := false, cnt := 0, acc := [], poison := [], result := none }
    ((s.setTile t x).addSignal t 255 1).drain t
  else s.setTile t (x.setCslot slot { c with cnt := 0, acc := [], poison := [], result := some row })

/-- CONTRIBUTION_ARRIVAL (R194): the slot takes the contribution, and forms its result when N have come. -/
def execContributionArrival (t : TileId) (s : State) : Out :=
  match s.eject t 1 with
  | f :: rest =>
    if subOf f = 2 && decide (tagOf f / 4 % 2 = 1) then
      let x := s.tile t
      let slot : BitVec 2 := BitVec.ofNat 2 (tagOf f / 32)
      let c := x.cslot slot
      if c.result.isSome then .next s
      else
        let c' := c.take f.pay
        let s := (s.setEject t 1 rest).setTile t (x.setCslot slot c')
        if c.n ≤ c'.cnt then .next (s.placeResult t slot c'.row) else .next s
    else .next s
  | [] => .next s

/-- COMBINED_RESULT_PLACE (R194): a result that waits is placed once an entry of queue 3 is free. -/
def execCombinedResultPlace (t : TileId) (slot : BitVec 2) (s : State) : Out :=
  match ((s.tile t).cslot slot).result with
  | some row => .next (s.placeResult t slot row)
  | none => .next s

end Sys2Proof.Machine
end

