-- ==== Sys2Proof/Machine/UpdOps.lean ====
section
/-! DEFINITION. Where an address lies in the update region (R239, R240), sealed objects (R396), and one write of a line
or of part of it at its home (R8, R240 to R242). -/

namespace Sys2Proof.Machine

/-! ## Update blocks (R239) -/

/-- Bytes of state per parameter. -/
def Group.perParam (g : Group) : Nat :=
  4 * (g.d + 1) + (if g.wf then 3 else 4) + (if g.rule = 1 then 4 else 0) + (if g.rule = 2 then 8 else 0)
/-- The largest power of two, at most 512, for which P × S fits 4,096 bytes. -/
def pOf : Nat → Nat → Nat
  | 0, p => p
  | n + 1, s => if 2 ^ n * s ≤ 4096 then 2 ^ n else pOf n s
/-- Parameters in a block. -/
def Group.p (g : Group) : Nat := pOf 10 g.perParam
/-- Blocks of the group. -/
def Group.nblk (g : Group) : Nat := (g.nelem + g.p - 1) / g.p
/-- Byte offsets of the arrays W, RES, M1 and M2 in a block. -/
def Group.oW (g : Group) : Nat := 4 * g.p * (g.d + 1)
def Group.oRes (g : Group) : Nat := g.oW + 2 * g.p
def Group.oM1 (g : Group) : Nat := g.oW + (if g.wf then 3 else 4) * g.p
def Group.oM2 (g : Group) : Nat := g.oM1 + 4 * g.p

/-- What an address means to the enabled groups. -/
inductive UpdAt where
  /-- Not in a block or health inlet of an enabled group. -/
  | none
  /-- A line of an ACC slot: group number, block, slot. -/
  | slot (k blk j : Nat)
  /-- The health inlet of a group. -/
  | health (k : Nat)
  /-- Another line of a block. -/
  | other
deriving DecidableEq, Repr

/-- Group `k`, when it is enabled. -/
def State.group? (s : State) (k : Nat) : Option Group := s.gro.groups.find? fun g => decide (g.k = k)

/-- What an address means (R240). -/
def State.updAt (s : State) (a : Nat) : UpdAt :=
  let b := s.act .trg 0x110
  if decide (b ≤ a) && decide (a < b + 2 ^ 20) && (s.group? ((a - b) / 256)).isSome then .health ((a - b) / 256)
  else
    match s.gro.groups.find? fun g => decide (g.base ≤ a) && decide (a < g.base + 4096 * g.nblk) with
    | some g =>
      let o := (a - g.base) % 4096
      if o < g.oW then .slot g.k ((a - g.base) / 4096) (o / (4 * g.p)) else .other
    | none => .none

/-- Does an address lie in a sealed object? -/
def State.sealedAt (s : State) (a : Nat) : Bool :=
  s.obj.objs.any fun o => o.sealed && decide (o.base ≤ a) && decide (a < o.base + o.size)

/-! ## Logged once per instruction or command -/

/-- Log UPD_WRITE at the block's Grotto stack, once for one number of one port (R240). -/
def State.updWrite (s : State) (a req src ins : Nat) : State :=
  if ins ≠ 0 && decide (aGet 0 s.gro.updSeen src = ins) then s
  else ({ s with gro := { s.gro with updSeen := aSet 0 s.gro.updSeen src ins } } : State).log 0x1005 .stack (8 + stackG (homeOf a)) a req
/-- Log IMAGE_WRITE once for one number of one port (R396). -/
def State.imageWrite (s : State) (a req src ins : Nat) : State :=
  if ins ≠ 0 && decide (aGet 0 s.gro.imgSeen src = ins) then s
  else ({ s with gro := { s.gro with imgSeen := aSet 0 s.gro.imgSeen src ins } } : State).log 0x1007 .dev 0 a req
/-- Log ADDR_UNMAPPED (R8). -/
def State.unmapped (s : State) (a req : Nat) : State := s.log 0x2003 .dev 0 a req

/-- Does an address lie in the update region (R240)? -/
def State.inUpd (s : State) (a : Nat) : Bool :=
  decide (s.act .trg 0x110 ≤ a) && decide (a < s.act .trg 0x110 + s.act .trg 0x118)
/-- The packets that wait at a Grotto stack. -/
def State.packetsAt (s : State) (st : Nat) : List UpdPkt := aGet [] s.gro.packets st
/-- A packet reaches its stack. -/
def State.pushPacket (s : State) (p : UpdPkt) : State :=
  let st := stackG (homeOf p.addr)
  { s with gro := { s.gro with packets := aSet [] s.gro.packets st (s.packetsAt st ++ [p]) } }

/-- Write the words that a write carries. -/
def Mem.setSome (m : Mem) : Nat → List (PWord × Bool) → Mem
  | _, [] => m
  | a, (w, c) :: ws => (if c then m.setWord a w else m).setSome (a + 8) ws

/-- One write of the line at `a` at its home under a cache policy: `carries` says which of its 32 words it writes, and `upd` that it came
as an update packet. A write outside every range, into a sealed object, or into an update block other than its inlet lines is discarded
and logged; a write of an inlet line, and every update packet for the update region, goes to the stack's engine (R8, R203, R240, R241,
R396). -/
def State.lineWrite (s : State) (a : Nat) (ws : List PWord) (carries : List Bool) (pol : BitVec 2) (upd : Bool) (req src ins : Nat) : State :=
  if s.tierOf a = .none then s.unmapped a req
  else if s.sealedAt a then s.imageWrite a req src ins
  else
    match s.updAt a with
    | .none =>
      if upd && s.inUpd a then s.pushPacket ⟨a, ws, carries⟩
      else (s.modMem fun m => m.setSome a (ws.zip carries)).cacheWrite a pol
    | .other => s.updWrite a req src ins
    | _ => s.pushPacket ⟨a, ws, carries⟩

/-- Whole lines. -/
def allWords : List Bool := List.replicate 32 true

/-- Write whole words from `a` (a multiple of 8) under a cache policy: line by line (R8, R240, R396). -/
def State.polWords (s : State) (pol : BitVec 2) (req src ins : Nat) : Nat → Nat → List PWord → State
  | 0, _, _ => s
  | _, _, [] => s
  | n + 1, a, ws =>
    let la := a - a % 256
    let lead := (a - la) / 8
    let here := ws.take (32 - lead)
    let padded := List.replicate lead pw0 ++ here
    let cs := List.replicate lead false ++ List.replicate here.length true
    (s.lineWrite la (padded ++ List.replicate (32 - padded.length) pw0) (cs ++ List.replicate (32 - cs.length) false) pol false req src ins).polWords
      pol req src ins n (la + 256) (ws.drop (32 - lead))
/-- As a device service: NOALLOC (log entry 129). -/
def State.svcWords (s : State) (req src ins : Nat) (n a : Nat) (ws : List PWord) : State := s.polWords 2 req src ins n a ws

end Sys2Proof.Machine
end

