-- ==== Sys2Proof/Machine/Memory.lean ====
section
/-! DEFINITION. Home slices: requests, stack reads, block operations, UIO and error write-backs, and the host's answers to
back-invalidates (R202 to R218, R227, R228, R310, R312, R439). -/

namespace Sys2Proof.Machine

/-! ## Responses (R228) -/

/-- A response flit. -/
def respFlit (r : LineReq) (rkind : Nat) (last chit : Bool) (row : Nat) (pay : List PWord) : Flit :=
  { hdr := FHdr.word { vc := if r.lan then 0 else 3, kind := if r.lan then 5 else 3, edge := r.edge, dest := r.req, last := last
                       cmb := false, slot := r.tag % 64, dh := rkind * 8, drow := chit.toNat * 8 + r.marked.toNat * 4 + row % 4, age := 0 }
    pay := pay, row := 0 }
/-- Send flits from a slice into the Gallery. -/
def State.sendFrom (s : State) (sl : SliceId) (fs : List Flit) : State := fs.foldl (fun s f => s.injectEdge (sliceRouter sl) (sliceSide sl) f) s
/-- Cut 32 words into four rows. -/
def fourRows (ws : List PWord) : List (List PWord) := (List.range 4).map fun k => (ws.drop (8 * k)).take 8
/-- Four read-data flits in ascending ROW. -/
def State.respond (s : State) (sl : SliceId) (r : LineReq) (chit : Bool) (ws : List PWord) : State :=
  s.sendFrom sl ((fourRows ws).mapIdx fun k row => respFlit r 0 (decide (k = 3)) chit k row)
/-- One write acceptance. -/
def State.accepted (s : State) (sl : SliceId) (r : LineReq) : State :=
  s.sendFrom sl [respFlit r 1 true false 0 (List.replicate 8 pw0)]

/-! ## Requests (R227) -/

/-- The requests of a request flit: whether it writes, and its lines in order. A reserved OP, or a count of more than seven
entries, makes none. -/
def reqsOf (fl : Flit) (lan : Bool) : Bool × List LineReq :=
  let w (k : Nat) : W64 := (fl.pay.getD k pw0).d
  let wr := decide (fld (w 0) 63 60 = 1)
  let n := if wr then 1 else if 1 < fld (w 0) 63 60 || decide (fld (w 0) 57 55 = 7) then 0 else fld (w 0) 57 55 + 1
  (wr, (List.range n).flatMap fun i =>
    let e := w (i + 1)
    (List.range (if wr then 1 else fld e 57 54 + 1)).map fun j =>
      { line := fld e 47 0 - fld e 47 0 % 256 + 256 * j, pol := (w 0).extractLsb' 58 2, edge := (w 0).getLsbD 15
        req := (w 0).extractLsb' 0 15, tag := (fld e 63 58 + j) % 64, lan := lan, marked := false, near := none })
/-- D1 of an entry: the requester. -/
def LineReq.who (r : LineReq) : Nat := r.edge.toNat * 2 ^ 15 + r.req.toNat

def State.countHit (s : State) : State := s.modMem fun m => { m with hit := m.hit + 1 }
def State.countMiss (s : State) : State := s.modMem fun m => { m with miss := m.miss + 1 }

/-- The words of a line outside every range: poison, with free data (R8). -/
def freeLine (n : Nat) : List PWord := (List.range 32).map fun k => ⟨Config.freeWord (n + k), true⟩

/-- A Lantern read goes ahead of the tile reads that wait, and marks them (R207). -/
def queueRead (l : List LineReq) (r : LineReq) : List LineReq :=
  if r.lan then (l.filter (·.lan)) ++ [r] ++ (l.filter fun q => !q.lan).map fun q => { q with marked := true } else l ++ [r]

/-- The output that made a Lantern read: its die (R151). -/
def LineReq.lanDie (r : LineReq) : Bool := r.req.getLsbD 10
/-- Count reads deferred behind an output's reads (R382). -/
def State.countDefer (s : State) (die : Bool) (n : Nat) : State :=
  if die then { s with lan1 := { s.lan1 with deferC := s.lan1.deferC + n } } else { s with lan0 := { s.lan0 with deferC := s.lan0.deferC + n } }
/-- The output whose Lantern read waits at the stack of a slice, at whichever slice. -/
def State.lanAtStack (s : State) (sl : SliceId) : Option Bool :=
  (s.mem.slices.find? fun kv => decide (kv.1 / 64 * 4 + kv.1 / 32 % 2 * 2 + kv.1 % 32 / 16 = stackH sl) && kv.2.reads.any (·.lan)).bind fun kv =>
    (kv.2.reads.find? (·.lan)).map LineReq.lanDie
/-- The reads of a stack's other slices have a Lantern read near. -/
def State.nearLan (s : State) (sl : SliceId) (die : Bool) : State :=
  let f (kv : Nat × Slice) : Nat × Slice :=
    if decide (kv.1 / 64 * 4 + kv.1 / 32 % 2 * 2 + kv.1 % 32 / 16 = stackH sl) && decide (kv.1 ≠ sliceNum sl) then
      (kv.1, { kv.2 with reads := kv.2.reads.map fun q => if q.lan then q else { q with near := some (q.near.getD die) } })
    else kv
  s.modMem fun m => { m with slices := m.slices.map f }
/-- Queue a tier H read at its stack. -/
def State.askStack (s : State) (sl : SliceId) (r : LineReq) : State :=
  let x := s.slice sl
  let r1 : LineReq := if r.lan then r else { r with near := s.lanAtStack sl }
  let s1 := s.setSlice sl { x with reads := queueRead x.reads r1 }
  if r.lan then (s1.countDefer r.lanDie (x.reads.filter fun q => !q.lan && !q.marked).length).nearLan sl r.lanDie else s1

/-- Start the fetch of a block for a request (R214). -/
def State.startFetch (s : State) (sl : SliceId) (r : LineReq) (pol : BitVec 2) : State :=
  let x := s.slice sl
  let blk := blkOf r.line
  (s.setSlice sl { (x.seeTag blk) with ops := x.ops ++ [⟨blk, false, pol, [r], [], .queued, [], false⟩] }).beginOps sl

/-- Take one line read at its home: served from the cache, queued at the stack, or added to its block's operation. -/
def State.takeRead (s : State) (sl : SliceId) (errs : List MemErr) (r : LineReq) : State :=
  let x := s.slice sl
  match s.tierOf r.line with
  | .none =>
    ({ (s.unmapped r.line r.who) with dev := { s.dev with free := s.dev.free + 32 } } : State).respond sl r false (freeLine s.dev.free)
  | .h =>
    if x.has r.line then
      let s1 := (s.countHit.setSlice sl (x.touch r.line r.pol)).lineErrs sl .slice (sliceNum sl) r.line errs
      s1.respond sl r true (s1.mem.words r.line 32)
    else s.countMiss.askStack sl r
  | _ =>
    match x.opOf (blkOf r.line) with
    | some _ =>
      s.setSlice sl { x with ops := x.ops.map fun o => if o.blk = blkOf r.line then { o with waiting := o.waiting ++ [r] } else o }
    | none =>
      if s.updAt r.line ≠ .none then s.startFetch sl r 2
      else if x.has r.line then
        let s1 := (s.countHit.setSlice sl (x.touch r.line r.pol)).lineErrs sl .slice (sliceNum sl) r.line errs
        s1.respond sl r true (s1.mem.words r.line 32)
      else s.countMiss.startFetch sl r r.pol

/-- The data flits that follow a write request from the same port: up to the last of the line, four at most. -/
def dataAfter (fl : Flit) (rest : List Flit) : List Flit :=
  let mine := (rest.filter fun f => decide (f.src = fl.src)).take 4
  let head := mine.takeWhile fun f => !(hdrOf f.hdr).last
  mine.take (head.length + 1)
/-- Have a write's data flits all come? -/
def dataWhole (ds : List Flit) : Bool := decide (ds.length = 4) || ds.getLast?.any fun f => (hdrOf f.hdr).last
/-- The words of a line that data flits carry, by the row in their headers, and which of the 32 they are (R227). -/
def lineOf (ds : List Flit) : List PWord × List Bool :=
  let rows := (List.range 4).map fun k => ds.find? fun f => decide ((hdrOf f.hdr).drow % 4 = k)
  (rows.flatMap fun r => r.elim (List.replicate 8 pw0) fun f => (f.pay ++ List.replicate 8 pw0).take 8,
   rows.flatMap fun r => List.replicate 8 r.isSome)

/-- Perform a line write at its home and answer it (R190, R203, R204, R216, R241). -/
def State.takeWrite (s : State) (sl : SliceId) (r : LineReq) (upd : Bool) (d : List PWord × List Bool) (src ins : Nat) : State :=
  let plain := decide (s.tierOf r.line ≠ .none) && !s.sealedAt r.line && decide (s.updAt r.line = .none)
  let hit := (s.slice sl).has r.line
  let s1 := if !plain then s else if hit then s.countHit else s.countMiss
  let s2 := s1.lineWrite r.line d.1 d.2 r.pol upd r.who src ins
  let units := if plain then (List.range 4).filter fun k => d.2.getD (8 * k) false else []
  (units.foldl (fun s k => s.ringUnit (r.line + 64 * k)) s2).accepted sl r

/-- What a slice does with the request at the head of its queue, and what the queue is then; `none` when the request has to
wait. -/
def State.serveHead (s : State) (sl : SliceId) (errs : List MemErr) (lan : Bool) (fl : Flit) (rest : List Flit) :
    Option (State × List Flit) :=
  let (wr, rs) := reqsOf fl lan
  let k := (hdrOf fl.hdr).kind
  if k ≠ 2 && k ≠ 4 && k ≠ 5 || decide (rs.any fun r => decide (r.pol = 3)) then some (s, rest)
  else if wr then
    let ds := dataAfter fl rest
    match rs with
    | [r] =>
      if !dataWhole ds then none
      else
        let x := s.slice sl
        let busy := (x.opOf (blkOf r.line)).isSome && decide (2 ^ 40 ≤ r.line)
        if busy || x.reads.any fun q => decide (q.line = r.line) then none
        else
          let rest' := ds.foldl (fun l d => l.erase d) rest
          some (s.takeWrite sl r (decide (k = 4)) (lineOf ds) fl.src fl.ins, rest')
    | _ => some (s, rest)
  else some (rs.foldl (fun s r => s.takeRead sl errs r) s, rest)

/-- The lines a request must pull back from the host first: its own, and the tag of a tier C block. -/
def State.headSnoops (s : State) (fl : Flit) : List Nat :=
  let (wr, rs) := reqsOf fl false
  (rs.flatMap fun r => s.snoopNeed r.line 256 wr ++ if isC r.line then s.snoopNeed (s.tagAddr (blkOf r.line)) 2 false else []).eraseDups

/-- Serve the head of the slice's queue on one VC. -/
def State.serveVc (s : State) (sl : SliceId) (errs : List MemErr) (lan : Bool) : Option State :=
  let k := sliceKey sl (if lan then 0 else 3)
  match s.edgeQ k with
  | [] => none
  | fl :: rest =>
    let need := s.headSnoops fl
    if !need.isEmpty then
      let s1 := s.sendSnoops need
      if s1 = s then none else some s1
    else (s.serveHead sl errs lan fl rest).map fun p => p.1.setEdgeQ k p.2

/-- MEMORY_REQUEST_ARRIVAL (R8, R203 to R205, R207, R214, R227, R240, R310, R396): the slice serves the oldest Lantern
request, else the oldest request of tiles and engines. -/
def execMemoryRequestArrival (sl : SliceId) (errs : List MemErr) (s : State) : Out :=
  match s.serveVc sl errs true with
  | some s1 => .next s1
  | none => .next ((s.serveVc sl errs false).getD s)

/-- TIER_READ_RESPONSE (R203, R207, R216, R217, R228): the oldest tier H read of the slice returns from its stack; `lmark` says that a
Lantern read of another slice has deferred it there. -/
def execTierReadResponse (sl : SliceId) (errs : List MemErr) (lmark : Bool) (s : State) : Out :=
  let x := s.slice sl
  match x.reads with
  | [] => .next s
  | r :: rest =>
    let now := lmark && !r.lan && !r.marked && r.near.isSome
    let r : LineReq := { r with marked := r.marked || now }
    let s0 := if now then s.countDefer (r.near.getD false) 1 else s
    let s1 := (s0.setSlice sl { x with reads := rest }).lineErrs sl .stack (stackH sl) r.line errs
    let s2 := if r.lan || decide (r.pol = 2) then s1 else s1.cachePut sl r.line false (decide (r.pol = 0))
    .next (s2.respond sl r false (s2.mem.words r.line 32))

/-! ## Block operations (R205, R214, R218) -/

/-- BLOCK_FETCH_COMPLETE (R203, R205, R214, R218): the units of the oldest fetch are back; its lines are placed under the
policy of the request that missed, and the requests that waited are served in order. -/
def execBlockFetchComplete (sl : SliceId) (errs : List MemErr) (tagUe : Bool) (s : State) : Out :=
  match (s.slice sl).readyOp false with
  | none => .next s
  | some o =>
    let s1 := (s.fetchErrs sl o errs tagUe).endOp sl o
    let s2 :=
      if o.pol = 2 then s1
      else (blkLines o.blk).foldl (fun s a => if (s.slice sl).has a then s else s.cachePut sl a false (decide (o.pol = 0))) s1
    .next (o.waiting.foldl (fun s r => s.respond sl r false (s.mem.words r.line 32)) s2)

/-- The lines of a write-down are whole: the codec compresses the block, and in tier C its units leave as UIO writes (R213, R214, R312). -/
def State.writeUnits (s : State) (sl : SliceId) (o : BlkOp) : State :=
  let x := s.slice sl
  let us := (storedUnits o.blk (s.mem.words o.blk 512)).mapIdx fun u l => s.uioReq o.blk u true l.2
  (s.setSlice sl { x.modOp o.blk (fun o => { o with stage := .write, bad := [] }) with uioq := x.uioq ++ us }).pumpUio
/-- The tag of a written block is written, and the requests that waited are served (R205, R212, R214, R312). -/
def State.endDown (s : State) (sl : SliceId) (o : BlkOp) : State :=
  let mu := relpaMode (isC o.blk) (s.mem.words o.blk 512)
  let s1 := s.setTag o.blk (relpaTag mu)
  let s2 := s1.modMem fun m => if m.anyPoison o.blk 4096 then m else { m with poisonedBlks := aSet false m.poisonedBlks (o.blk / 4096) false }
  let idx := if o.bad.isEmpty then [] else if mu.1 = 1 then o.bad.flatMap (unitWords true) else List.range 512
  let s3 := s2.setSlice sl ((s2.slice sl).seeTag o.blk)
  let s4 := (s3.poisonBlk sl o.blk [] idx).endOp sl o
  o.waiting.foldl (fun s r => s.respond sl r ((s.slice sl).has r.line) (s.mem.words r.line 32)) s4

/-- BLOCK_WRITE_DOWN_COMPLETE (R205, R212 to R214, R218, R312): a write-down has the block's lines, those not in the cache from the stored
block, and writes its units; with the units written, it writes the tag. In tier C the units are written by UIO, and a second command
follows their completions. -/
def execBlockWriteDownComplete (sl : SliceId) (errs : List MemErr) (tagUe : Bool) (s : State) : Out :=
  match (s.slice sl).readyOp true with
  | none => .next s
  | some o =>
    let tagRange := if isC o.blk then [(s.tagAddr o.blk, 2)] else []
    if o.stage = .write then .next (s.withSnoops [] tagRange fun s => s.endDown sl o)
    else
      .next (s.withSnoops tagRange tagRange fun s0 =>
        let s := if o.took.length < 16 then s0.fetchErrs sl o errs tagUe else s0
        if isC o.blk && decide (0 < (relpaMode true (s.mem.words o.blk 512)).2) then s.writeUnits sl o else s.endDown sl { o with bad := [] })

/-! ## Write-backs, refresh and scrub -/

/-- CORRECTED_WORD_WRITEBACK (R217): the oldest corrected word is written back; its contents do not change. -/
def execCorrectedWordWriteback (sl : SliceId) (s : State) : Out :=
  .next (s.setSlice sl { (s.slice sl) with ceWb := (s.slice sl).ceWb.tail })
/-- POISON_WRITEBACK (R216): the oldest uncorrectable location becomes stored poison, unless it has been written since. -/
def execPoisonWriteback (sl : SliceId) (s : State) : Out :=
  .next (s.setSlice sl { (s.slice sl) with ueWb := (s.slice sl).ueWb.tail })
/-- HBM_REFRESH (R206): a refresh hold of a tier H stack is counted. -/
def execHbmRefresh (_stack : BitVec 3) (s : State) : Out := .next (s.modMem fun m => { m with refresh := m.refresh + 1 })
/-- REFRESH_MANAGEMENT (R206): a refresh-management hold is counted. -/
def execRefreshManagement (_stack : BitVec 3) (s : State) : Out := .next (s.modMem fun m => { m with rfm := m.rfm + 1 })
/-- GROTTO_REFRESH (R208, R441): a refresh hold of a Grotto bank is counted. -/
def execGrottoRefresh (_stack : BitVec 4) (s : State) : Out := .next (s.modMem fun m => { m with gRefresh := m.gRefresh + 1 })
/-- PATROL_SCRUB_READ (R439): with scrub enabled, a tier H word is read; a corrected word is written back at once, and a new
uncorrectable word is reported as any read reports it. -/
def execPatrolScrubRead (a : DevAddr) (ecc : Ecc) (s : State) : Out :=
  if s.act .trh 0x100 % 2 = 0 || decide (2 ^ 40 ≤ a.toNat) then .next s
  else
    let sl := homeOf a.toNat
    let s1 := s.modMem fun m => { m with scrubs := m.scrubs + 1 }
    match ecc with
    | .ok => .next s1
    | .ce syn => .next (s1.memCe .stack (stackH sl) (a.toNat - a.toNat % 8) syn)
    | .ue syn => .next (s1.memErr sl .stack (stackH sl) ⟨a.toNat, .ue syn⟩)

/-! ## Unordered I/O (R312) -/

/-- UIO request `n` of a slice, in the order they left, ends; a failure is logged as TRC_IO and its unit remembered as bad. -/
def State.uioEnd (s : State) (sl : SliceId) (n : Nat) (fail : Option Nat) : State :=
  let x := s.slice sl
  match x.uio[n]? with
  | none => s
  | some u =>
    let rest := x.uio.eraseIdx n
    match fail with
    | none => (s.setSlice sl { x with uio := rest }).pumpUio
    | some st =>
      (((s.modMem fun m => { m with tierCio := m.tierCio + 1 }).setSlice sl
        { x.modOp u.blk (fun o => { o with bad := o.bad ++ [u.unit] }) with uio := rest }).log
        0x1022 .slice (sliceNum sl) (u.blk + 64 * u.unit) st).pumpUio

/-- UIO_COMPLETION (R312): the completion of UIO request `n` of those that a slice has in flight, in any order; a status other than 0 is
an error. -/
def execUioCompletion (sl : SliceId) (n : Nat) (status : Byte) (s : State) : Out :=
  .next (s.uioEnd sl n (if status = 0 then none else some status.toNat))
/-- UIO_TIMEOUT (R312): UIO request `n` of a slice has no completion after 10 ms. The status that the entry shows is a free
value: none has come. -/
def execUioTimeout (sl : SliceId) (n : Nat) (s : State) : Out :=
  if (s.slice sl).uio.length ≤ n then .next s
  else
    .next (({ s with dev := { s.dev with free := s.dev.free + 1 } } : State).uioEnd sl n (some (Config.freeWord s.dev.free).toNat))

/-! ## Back-invalidate responses (R310) -/

/-- BACK_INVALIDATE_RESPONSE (R310, R311): the host gives up a line; a modified line is written back, and device writes that waited for
it follow. -/
def execBackInvalidateResponse (a : DevAddr) (dirty : Bool) (data : List W64) (s : State) : Out :=
  let l := a.toNat / 64
  if !decide (l ∈ s.mem.snooping) then .next s
  else
    let s1 := s.modMem fun m => { m with
      snooping := m.snooping.filter fun k => decide (k ≠ l), snoop := m.snoop.filter fun e => decide (e.line ≠ l) }
    let ws : List PWord := (List.range 8).map fun k => ⟨data.getD k 0, false⟩
    .next (if dirty then s1.svcWords 0 0 0 2 (64 * l) ws else s1).putLate

end Sys2Proof.Machine
end

