-- ==== Sys2Proof/Machine/Stream.lean ====
section
/-! DEFINITION. The stream unit (R46 to R49, R56, R73, R220 to R227, R241, R463). -/

namespace Sys2Proof.Machine

/-! ## Descriptors -/

/-- TSTRIDE, NR, NL and ROW0 of a descriptor; NR and NL as counts (R221). -/
def dStride (d : W64) : Nat := fld d 63 32
def dRuns (d : W64) : Nat := fld d 31 20 + 1
def dLines (d : W64) : Nat := fld d 19 12 + 1
def dRow0 (d : W64) : Nat := fld d 11 0

/-- Lines of a transfer. -/
def StrEnt.total (e : StrEnt) : Nat := dRuns e.desc * dLines e.desc
/-- Tier address of line `n`, counted over the whole transfer (R221). -/
def lineAddr (sa : Nat) (d : W64) (n : Nat) : Nat := sa + 256 * (n / dLines d * dStride d + n % dLines d)
/-- Store rows of the transfer that line `n` fills or takes, as offsets from BASE. Under P6 the rows belong to the triple of
lines that holds line `n` (R221). -/
def lineRows (hd : Hd) (d : W64) (p6 : Bool) (n : Nat) : List Nat :=
  let i := n / dLines d
  let j := n % dLines d
  let b := dRow0 d + i * hd.stride
  if p6 then (List.range 16).map fun r => b + 16 * (j / 3) + r else (List.range 4).map fun k => b + 4 * j + k
/-- The last row that a transfer touches, as an offset from BASE. -/
def lastRow (hd : Hd) (d : W64) (p6 : Bool) : Nat :=
  dRow0 d + (dRuns d - 1) * hd.stride + (if p6 then 16 * (dLines d / 3) else 4 * dLines d) - 1
/-- Row keys of all lines, each row once. -/
def allRows (hd : Hd) (d : W64) (p6 : Bool) : List Nat :=
  (List.range (dRuns d * dLines d)).flatMap fun n =>
    if p6 && decide (n % dLines d % 3 ≠ 0) then [] else (lineRows hd d p6 n).map fun o => rowKey hd.store (hd.base + o)

/-- What is wrong with a stream instruction at issue, in the order of R222. -/
inductive StrFault where
  | illegal | range (row : Nat) | align
deriving DecidableEq, Repr

def strCheck (x : Tile) (h : Hdl) (sa : Nat) (d : W64) (p6 : Bool) : Option StrFault :=
  let hd := hdOf (x.hword h)
  if p6 && decide (dLines d % 3 ≠ 0) then some .illegal
  else if !(hd.v && hd.legal x.mask) then some (.range (hd.base + dRow0 d))
  else if hd.last < hd.base + lastRow hd d p6 then some (.range (hd.base + lastRow hd d p6))
  else if sa % 256 ≠ 0 then some .align
  else none

/-! ## FP6 packing (R73) -/

/-- Bytes of words. -/
def wordBytes (ws : List PWord) : List Byte := ws.flatMap fun w => toBytes 8 w.d.toNat
/-- Words of bytes, with the marks of the words. -/
def bytesWords (bs : List Byte) (ps : List Bool) : List PWord :=
  ps.mapIdx fun i p => ⟨BitVec.ofNat 64 (ofBytes ((bs.drop (8 * i)).take 8)), p⟩

/-- Element `n` of a packed run of FP6 elements. -/
def fp6At (bs : List Byte) (n : Nat) : Nat := ofBytes ((bs.drop (n / 4 * 3)).take 3) / 2 ^ (6 * (n % 4)) % 64
/-- Packed FP6: element `4k + j` in bits [6j + 5 : 6j] of the three bytes at 3k. -/
def fp6Pack (bs : List Byte) : List Byte :=
  (List.range (bs.length / 4)).flatMap fun k =>
    toBytes 3 (((List.range 4).map fun j => (bs.getD (4 * k + j) 0).toNat % 64 * 2 ^ (6 * j)).sum)

/-- The words of a packed run (packed true) or of the store (packed false) over which element range `lo` to `hi` of an
eight-element store word lies: the marks follow the bytes. A mark covers every word that holds a byte of the element. -/
def unpackMarks (ps : List Bool) : List Bool :=
  (List.range 128).map fun w => (List.range 6).any fun b => ps.getD ((6 * w + b) / 8) false
def packMarks (ps : List Bool) : List Bool :=
  (List.range 96).map fun w => (List.range 8).any fun b =>
    let k := (8 * w + b) / 3
    (List.range 4).any fun j => ps.getD ((4 * k + j) / 8) false

/-- 96 tier words to 128 store words (GET), and back (PUT). -/
def unpack6 (ws : List PWord) : List PWord :=
  let bs := wordBytes ws
  bytesWords ((List.range 1024).map fun n => BitVec.ofNat 8 (fp6At bs n)) (unpackMarks (ws.map (·.p)))
def pack6 (ws : List PWord) : List PWord := bytesWords (fp6Pack (wordBytes ws)) (packMarks (ws.map (·.p)))
/-- Does a store byte have bit 7 or 6 set (R223)? -/
def pad6 (ws : List PWord) : Bool := (wordBytes ws).any fun b => decide (64 ≤ b.toNat)

/-- Cut words into runs of eight. -/
def rowsOf : Nat → List PWord → List (List PWord)
  | 0, _ => []
  | n + 1, ws => ws.take 8 :: rowsOf n (ws.drop 8)

/-! ## Issue -/

/-- Issue STR.GET or STR.PUT: the faults of R222; a GET raises its handle's landing count (R56). -/
def strIssue (t : TileId) (put : Bool) (f : StrF) (s : State) : State :=
  let x := s.tile t
  let sa := fld (x.reg f.sa) 47 0
  let d := x.reg f.sd
  match strCheck x f.h sa d f.p6 with
  | some .illegal => s.illegal t
  | some (.range r) => s.storeRange t f.h r
  | some .align => s.raiseTile t 0x8004 x.core.pc sa
  | none =>
    let he := x.hword f.h
    let hd := hdOf he
    let rows := allRows hd d f.p6
    let same (e : StrEnt) : Bool := e.seq.isNone && decide (e.pc = x.core.pc)
    let x : Tile := { x with str := { x.str with
      ents := x.str.ents.filter fun e => !(same e) || (decide (e.sa = sa) && decide (e.desc = d)) } }
    let known := x.str.ents.any same
    let e0 : StrEnt := ⟨x.str.nextId, x.core.pc, put, some x.seq, f.h, he, sa, d, f.pol, f.p6, 0, [], [], false⟩
    let ents :=
      if known then x.str.ents.map fun e => if same e then { e with seq := some x.seq, he := he } else e
      else x.str.ents ++ [e0]
    let x := (x.step 1).addAccess (if put then rows else []) (if put then [] else rows)
    let x : Tile := { x with str := { x.str with ents := ents, nextId := if known then x.str.nextId else x.str.nextId + 1 } }
    let x := if put then x else { x with land := aSet 0 x.land f.h.toNat (x.landing f.h + e0.total) }
    s.setTile t x.nextWord

/-- STR.GET (R220 to R222, R56). -/
def execStrGet (t : TileId) (ecc : Ecc) (f : StrF) (s : State) : Out := issue s t ecc (.strGet t ecc f) (strIssue t false f)
/-- STR.PUT (R220 to R222). -/
def execStrPut (t : TileId) (ecc : Ecc) (f : StrF) (s : State) : Out := issue s t ecc (.strPut t ecc f) (strIssue t true f)

/-! ## Requests (R224) -/

/-- Form line requests of entry `e` while tags are free (R46, R224): the entry, the tags, the next tag, and what was formed. -/
def formLines (e : StrEnt) : Nat → Nat → Assoc (Option LineRef) → Nat → List (Nat × Nat) →
    Nat × Assoc (Option LineRef) × Nat × List (Nat × Nat)
  | 0, n, tags, tg, acc => (n, tags, tg, acc)
  | k + 1, n, tags, tg, acc =>
    if n < e.total && (aGet none tags (tg % 64)).isNone then
      let a := lineAddr e.sa e.desc n
      formLines e k (n + 1) (aSet none tags (tg % 64) (some ⟨e.id, n, a, false⟩)) ((tg + 1) % 64) (acc ++ [(a, tg % 64)])
    else (n, tags, tg, acc)

/-- Does a transfer share an address with a line of transfer `p` that is not yet accepted? -/
def overlaps (sa : Nat) (d : W64) (p : StrEnt) : Bool :=
  let mine := (List.range (dRuns d * dLines d)).map fun n => lineAddr sa d n
  (List.range p.total).any fun n => !decide (n ∈ p.done) && decide (lineAddr p.sa p.desc n ∈ mine)

/-- Form what can be formed of the first GET that has lines left. None of its lines is asked for while an earlier PUT
still has a line in its range to be accepted, even where the GET has issued (R463; DEDUCED, log entry 32). -/
def State.formGet (s : State) (t : TileId) : Option State :=
  let x := s.tile t
  match x.str.ents.find? fun e => !e.put && decide (e.formed < e.total) with
  | none => none
  | some e =>
    if x.str.ents.any fun g => g.put && decide (g.id < e.id) && overlaps e.sa e.desc g then some s
    else
    let (n, tags, tg, reqs) := formLines e 64 e.formed x.str.tags x.str.nextTag []
    let ents := x.str.ents.map fun g => if g.id = e.id then { g with formed := n } else g
    let s1 := s.setTile t { x with str := { x.str with ents := ents, tags := tags, nextTag := tg } }
    some (s1.injectAll t ((gatherFlits (gatherEnts reqs []) []).map fun es => reqFlit s.dev.addr false false e.pol (s.gta t) es))

/-! ## The look-ahead pointer (R46, R47, R463) -/

/-- Registers that an instruction writes. -/
def writesOf : Instr → List Reg
  | .add _ _ d _ _ | .sub _ _ d _ _ | .andR _ _ d _ _ | .orR _ _ d _ _ | .xorR _ _ d _ _ | .sll _ _ d _ _
  | .srl _ _ d _ _ | .sra _ _ d _ _ | .slt _ _ d _ _ | .sltu _ _ d _ _ | .mul _ _ d _ _ | .mulhu _ _ d _ _
  | .minR _ _ d _ _ | .maxR _ _ d _ _ => [d]
  | .popc _ _ d _ | .ctz _ _ d _ => [d]
  | .addi _ _ d _ _ | .andi _ _ d _ _ | .ori _ _ d _ _ | .xori _ _ d _ _ | .slti _ _ d _ _ | .sltiu _ _ d _ _ => [d]
  | .slli _ _ d _ _ | .srli _ _ d _ _ | .srai _ _ d _ _ => [d]
  | .li _ _ d _ => [d]
  | .lih _ _ d _ _ => [d]
  | .ext _ _ d _ _ _ => [d]
  | .dbnz _ _ a _ => [a]
  | .hget _ _ d _ => [d]
  | .rdtally _ _ d | .rdid _ _ d | .rdss _ _ d => [d]
  | .rdxSum _ _ f | .rdxSsq _ _ f | .rdxMax _ _ f | .rdxAmax _ _ f => if f.tos then [f.rd] else []
  | .seedget _ _ _ r => [r]
  | .waitConsume _ _ f | .waitPeek _ _ f | .waitGe _ _ f => [f.rd]
  | .recv _ _ rt _ so => so :: (List.range 8).map fun k => rt + BitVec.ofNat 5 k
  | _ => []

/-- Condition registers of a conditional branch. -/
def condRegs : Instr → List Reg
  | .beq _ _ a b _ | .bne _ _ a b _ | .blt _ _ a b _ | .bge _ _ a b _ | .bltu _ _ a b _ | .bgeu _ _ a b _ => [a, b]
  | .dbnz _ _ a _ => [a]
  | _ => []

/-- Where the pointer goes after an instruction whose condition registers are final (R96, R97). -/
def Tile.laNext (x : Tile) (pc : Nat) (i : Instr) : Nat :=
  let br (c : Bool) (o : W16) : Nat := if c then (branchTarget pc o).toNat else pc + 1
  match i with
  | .beq _ _ a b o => br (decide (x.reg a = x.reg b)) o
  | .bne _ _ a b o => br (decide (x.reg a ≠ x.reg b)) o
  | .blt _ _ a b o => br ((x.reg a).slt (x.reg b)) o
  | .bge _ _ a b o => br (!(x.reg a).slt (x.reg b)) o
  | .bltu _ _ a b o => br ((x.reg a).ult (x.reg b)) o
  | .bgeu _ _ a b o => br (!(x.reg a).ult (x.reg b)) o
  | .dbnz _ _ a o => br (decide ((x.setReg a (x.reg a - 1)).reg a ≠ 0)) o
  | .j _ _ o => br true o
  | .hret _ _ => (x.core.hnd.map (·.ret)).getD (pc + 1)
  | _ => pc + 1

/-- Line requests outstanding. -/
def Tile.linesOut (x : Tile) : Nat := (x.str.tags.filter fun kv => kv.2.isSome).length

/-- Does the pointer stop at instruction `i`, word `w` (R47, R463)? A dependence mark stops it until the issue stage reaches the
instruction. A WAIT stops it until it issues, and so does a POLL, behind which a handler may change what the program does; an HRET
that returns nowhere stops it; a register stops it until it is final, and an overlap until the line is accepted (DEDUCED, log
entry 32). -/
def Tile.laStops (x : Tile) (t : TileId) (w : W64) (i : Instr) : Bool :=
  let passed := x.str.path.filterMap fun p => decodeWord t .ok (aGet 0 x.imem p)
  let pend (r : Reg) : Bool := x.isPend r || (decide (r ≠ 0) && passed.any fun j => decide (r ∈ writesOf j))
  let dep := depBit w && decide (x.str.la ≠ x.core.pc)
  decide (64 ≤ x.linesOut) ||
  match i with
  | .waitConsume .. | .waitPeek .. | .waitGe .. | .poll .. => true
  | .hret .. => x.core.hnd.isNone
  | .strGet _ _ f =>
    dep || pend f.sa || pend f.sd
      || x.str.ents.any fun e => e.put && overlaps (fld (x.reg f.sa) 47 0) (x.reg f.sd) e
  | .strPut _ _ f => dep || pend f.sa || pend f.sd
  | i => dep || (condRegs i).any pend

/-- The pointer passes the instruction under it. -/
def State.laPass (s : State) (t : TileId) : State :=
  let x := s.tile t
  if x.core.phase ≠ .issue || decide (6143 < x.str.la) then s
  else
    let w := aGet 0 x.imem x.str.la
    match decodeWord t .ok w with
    | none => s
    | some (.endC ..) => s
    | some i =>
      if x.laStops t w i then s
      else if badTarget x.str.la i then s
      else
        let ent (put : Bool) (f : StrF) : List StrEnt :=
          let sa := fld (x.reg f.sa) 47 0
          let d := x.reg f.sd
          if (strCheck x f.h sa d f.p6).isSome then []
          else [⟨x.str.nextId, x.str.la, put, none, f.h, x.hword f.h, sa, d, f.pol, f.p6, 0, [], [], false⟩]
        let new := match i with
          | .strGet _ _ f => ent false f
          | .strPut _ _ f => ent true f
          | _ => []
        s.setTile t { x with str := { x.str with
          ents := x.str.ents ++ new, nextId := x.str.nextId + new.length, path := x.str.path ++ [x.str.la]
          la := x.laNext x.str.la i } }

/-- LOOKAHEAD_PASS (R46, R47, R224): lines of a GET already passed are requested as tags come free, and the pointer stands while one of
them is not; else it passes the next instruction, and forms the requests of a STR.GET. -/
def execLookaheadPass (t : TileId) (s : State) : Out :=
  if (s.tile t).core.phase = .off then .next s
  else
    match s.formGet t with
    | some s1 => .next s1
    | none =>
      let s1 := s.laPass t
      .next ((s1.formGet t).getD s1)

/-! ## Landing -/

/-- The read-data flits of a tag that have arrived, by row. -/
def State.lineFlits (s : State) (t : TileId) (tag : Nat) : List Flit :=
  (s.eject t 3).filter fun f =>
    decide ((hdrOf f.hdr).kind = 3) && decide (fld f.hdr 24 22 = 0) && decide (fld f.hdr 40 25 % 64 = tag)
/-- The 32 words of a returned line, when all four rows are here. -/
def State.lineWords (s : State) (t : TileId) (tag : Nat) : Option (List PWord) :=
  let fs := s.lineFlits t tag
  let rows := (List.range 4).filterMap fun r => (fs.find? fun f => decide (fld f.hdr 8 7 = r)).map (·.pay)
  if rows.length = 4 then some rows.flatten else none
/-- Remove a returned line's flits from the line buffer. -/
def State.dropLine (s : State) (t : TileId) (tag : Nat) : State :=
  s.setEject t 3 ((s.eject t 3).filter fun f => !decide (f ∈ s.lineFlits t tag))

/-- The tag that line `n` of entry `id` has. -/
def StreamU.tagOfLine (u : StreamU) (id n : Nat) : Option Nat :=
  (u.tags.find? fun kv => match kv.2 with | some r => decide (r.ent = id) && decide (r.line = n) | none => false).map (·.1)

/-- A group of lines that lands as one: one line, or under P6 a triple (R221): the entry, its line numbers and tags. -/
def Tile.landGroup (x : Tile) (r : LineRef) : Option (StrEnt × List Nat × List Nat) :=
  match x.str.ents.find? fun e => decide (e.id = r.ent) with
  | none => none
  | some e =>
    let b := if e.p6 then r.line - r.line % dLines e.desc % 3 else r.line
    let ns := if e.p6 then [b, b + 1, b + 2] else [b]
    let tags := ns.filterMap fun n => x.str.tagOfLine e.id n
    if tags.length = ns.length then some (e, ns, tags) else none

/-- Finish stream entries whose lines are all done (R225). -/
def Tile.strFinish (x : Tile) (e : StrEnt) : Tile :=
  if e.done.length = e.total then
    let x : Tile := { x with str := { x.str with ents := x.str.ents.filter fun g => decide (g.id ≠ e.id) } }
    match e.seq with | some q => x.dropAccess q | none => x
  else { x with str := { x.str with ents := x.str.ents.map fun g => if g.id = e.id then e else g } }

/-- Free a tag. -/
def Tile.freeTag (x : Tile) (tag : Nat) : Tile := { x with str := { x.str with tags := aSet none x.str.tags tag none } }

/-- Try to land the lines that tag `tag` belongs to: its GET has issued, all its data is here, and program order allows
the rows to be written (R48, R55, R56). -/
def State.landTag (s : State) (t : TileId) (tag : Nat) (r : LineRef) : Option State :=
  let x := s.tile t
  if x.str.ents.all fun e => decide (e.id ≠ r.ent) then
    (s.lineWords t tag).map fun _ => (s.dropLine t tag).modTile t fun x => x.freeTag tag
  else
    match x.landGroup r with
    | none => none
    | some (e, ns, tags) =>
      match e.seq, tags.mapM (s.lineWords t) with
      | some q, some ws =>
        if e.put then none
        else
          let hd := hdOf e.he
          let offs := lineRows hd e.desc e.p6 (ns.headD 0)
          let keys := offs.map fun o => rowKey hd.store (hd.base + o)
          if !x.rowsFree q [] keys then none
          else
            let words := if e.p6 then unpack6 ws.flatten else ws.flatten
            let x1 := (offs.zip (rowsOf offs.length words)).foldl (fun x p => x.wrRow hd.store (hd.base + p.1) p.2) x
            let x2 := tags.foldl (fun x g => x.freeTag g) x1
            let x3 := { x2 with land := aSet 0 x2.land e.h.toNat (x2.landing e.h - ns.length) }
            let x4 := (x3.doneRows q [] keys).strFinish { e with done := e.done ++ ns }
            some ((tags.foldl (fun s g => s.dropLine t g) s).setTile t x4)
      | _, _ => none

/-- LINE_LANDING (R48, R55, R56): a returned line is written into the store. -/
def execLineLanding (t : TileId) (s : State) : Out :=
  let cands := (s.tile t).str.tags.filterMap fun kv => kv.2.bind fun r => s.landTag t kv.1 r
  .next (cands.headD s)

/-! ## Taking and sending lines -/

/-- Send the completed lines of a PUT: `ls` are line numbers with their 32 words. -/
def State.sendLines (s : State) (t : TileId) (e : StrEnt) : List (Nat × List PWord) → State
  | [] => s
  | (n, ws) :: ls =>
    let x := s.tile t
    let a := lineAddr e.sa e.desc n
    let tag := x.str.nextTag
    let upd := s.inUpd a
    let s1 := s.setTile t { x with str := { x.str with tags := aSet none x.str.tags tag (some ⟨e.id, n, a, true⟩), nextTag := (tag + 1) % 64 } }
    State.sendLines (s1.injectAll t ((reqFlit s.dev.addr upd true e.pol (s.gta t) [⟨tag, 1, a⟩] :: dataFlits s.dev.addr upd a tag (rowsOf 4 ws)).map fun f => { f with ins := e.id + 1 })) t e ls

/-- PUT_ROW_TAKE (R49, R55, R223, R224, R241): the next source row of the oldest STR.PUT that has rows left is taken; a
completed line is sent at once. -/
def execPutRowTake (t : TileId) (errs : List StoreErr) (s : State) : Out :=
  let x := s.tile t
  match x.str.ents.find? fun e => e.put && e.seq.isSome && decide (e.formed < (allRows (hdOf e.he) e.desc e.p6).length) with
  | none => .next s
  | some e =>
    let hd := hdOf e.he
    let key := (allRows hd e.desc e.p6).getD e.formed 0
    let per := if e.p6 then 16 else 4
    let full := decide ((e.formed + 1) % per = 0)
    let lines := if e.p6 then 3 else 1
    let free := (List.range lines).all fun k => (aGet none x.str.tags ((x.str.nextTag + k) % 64)).isNone
    match e.seq with
    | some q =>
      if !x.rowsFree q [key] [] || (full && !free) then .next s
      else
        let s1 := s.storeErrs t [key] errs
        let x := s1.tile t
        let row := x.rdRow (key / 4096) (key % 4096)
        let bad := e.p6 && !e.padded && pad6 row
        let rows := e.rows ++ [row]
        let e1 : StrEnt := { e with formed := e.formed + 1, rows := if full then [] else rows, padded := e.padded || bad }
        let x := if bad then x.count fun c => { c with fp6Pad := c.fp6Pad + 1 } else x
        let x := (x.doneRows q [key] [])
        let x : Tile := { x with str := { x.str with ents := x.str.ents.map fun g => if g.id = e.id then e1 else g } }
        let s2 := s1.setTile t x
        if full then
          let words := if e.p6 then pack6 rows.flatten else rows.flatten
          let n0 := e.formed / per * lines
          .next (s2.sendLines t e1 ((List.range lines).map fun k => (n0 + k, (words.drop (32 * k)).take 32)))
        else .next s2
    | none => .next s

/-- PUT_LINE_ACCEPTED (R225): a write acceptance reaches the tile. -/
def execPutLineAccepted (t : TileId) (s : State) : Out :=
  match (s.eject t 3).find? fun f => decide ((hdrOf f.hdr).kind = 3) && decide (fld f.hdr 24 22 = 1) with
  | none => .next s
  | some f =>
    let s1 := s.setEject t 3 ((s.eject t 3).erase f)
    let tag := fld f.hdr 40 25 % 64
    let x := s1.tile t
    match aGet none x.str.tags tag with
    | none => .next s1
    | some r =>
      let x := x.freeTag tag
      match x.str.ents.find? fun e => decide (e.id = r.ent) with
      | none => .next (s1.setTile t x)
      | some e => .next (s1.setTile t (x.strFinish { e with done := e.done ++ [r.line] }))

/-- STORE_POISON_WRITEBACK (R58): the oldest word found uncorrectable is written back as stored poison. -/
def execStorePoisonWriteback (t : TileId) (s : State) : Out :=
  let x := s.tile t
  match x.ue with
  | [] => .next s
  | (st, key) :: _ =>
    let v := x.rdWord (selNum st) key
    .next (s.setTile t (x.wrWord (selNum st) key ⟨v.d, true⟩))

end Sys2Proof.Machine
end

