-- ==== Sys2Proof/Machine/Grotto.lean ====
section
/-! DEFINITION. The Grotto update engines: gradients in, verdicts, applies, discards, copies and layer health (R241 to
R255, R269 to R272). -/

namespace Sys2Proof.Machine

/-! ## Gradients in (R242, R243) -/

/-- The low and high FP32 values of a word. -/
def loF (w : W64) : W32 := w.extractLsb' 0 32
def hiF (w : W64) : W32 := w.extractLsb' 32 32

/-- Add one gradient value to its slot element: the new element, and whether the value sets the non-finite flag. An element at or beyond
NELEM stays zero (R239). -/
def addGrad (acc g : W32) (poisoned inRange : Bool) : W32 × Bool :=
  let v := flush g
  if poisoned || !isFin v then (acc, true)
  else if !inRange then (acc, false)
  else (fadd acc v, false)

/-- Add one word of a packet; `i` is the index of its first parameter. -/
def addWord (nelem i : Nat) (old new : PWord) (carries : Bool) : PWord × Bool :=
  if !carries then (old, false)
  else
    let a := addGrad (loF old.d) (loF new.d) new.p (decide (i < nelem))
    let b := addGrad (hiF old.d) (hiF new.d) new.p (decide (i + 1 < nelem))
    (⟨b.1 ++ a.1, old.p⟩, a.2 || b.2)

/-- Write the Relpa tag of an update block for its contents (R212, R256). -/
def State.retag (s : State) (blk : Nat) : State := s.setTag blk (relpaTag (relpaMode false (s.mem.words blk 512)))

/-- Log UPD_LATE at a stack: D1 is the step (R242). -/
def State.updLate (s : State) (st a : Nat) : State := s.log 0x1006 .stack (8 + st) a s.gro.step

/-- Replace group `k`. -/
def State.modGroup (s : State) (k : Nat) (f : Group → Group) : State :=
  { s with gro := { s.gro with groups := s.gro.groups.map fun g => if g.k = k then f g else g } }

/-- Set a stack's non-finite flag of the step. -/
def State.setNf (s : State) (st : Nat) (b : Bool) : State :=
  if b then { s with gro := { s.gro with nf := s.gro.nf ||| BitVec.ofNat 16 (2 ^ st) } } else s

/-- Is slot `j` of a group open at a stack (R242, R244)? -/
def State.slotOpen (s : State) (g : Group) (j st : Nat) : Bool :=
  match s.gro.opn with
  | some t => decide (j = t % (g.d + 1)) && !s.gro.reported.getLsbD st
  | none => false

/-- UPDATE_PACKET_ARRIVAL (R242, R243): the oldest packet of a stack, when it is for an inlet line of a block, is added into the
open slot; a packet for a slot that is not open is discarded and logged. `errs` are the findings on the slot words that it reads (R216). -/
def execUpdatePacketArrival (stack : BitVec 4) (errs : List MemErr) (s : State) : Out :=
  let st := stack.toNat
  match s.packetsAt st with
  | [] => .next s
  | p :: rest =>
    let s1 : State := { s with gro := { s.gro with packets := aSet [] s.gro.packets st rest } }
    match s.updAt p.addr with
    | .health _ => .next s
    | .slot k blk j =>
      match s.group? k with
      | none => .next s1
      | some g =>
        if !s.slotOpen g j st then .next (s1.updLate st p.addr)
        else
          let s1 := s1.tierErrs [(p.addr, 256)] errs
          let o := (p.addr - g.base) % 4096
          let i0 := blk * g.p + (o - 4 * g.p * j) / 4
          let new := (List.range 32).map fun w =>
            addWord g.nelem (i0 + 2 * w) (s1.mem.word (p.addr + 8 * w)) (p.words.getD w pw0) (p.carries.getD w false)
          let s2 := s1.modMem fun m => m.setWords p.addr (new.map (·.1))
          .next ((s2.setNf st (new.any (·.2))).retag (blkOf p.addr))
    | _ => .next (s1.updLate st p.addr)

/-- The larger of two FP32 values with NaN above every number (R254). -/
def maxRel (a b : W32) : W32 := if isNan a || isNan b then nan32 else fmaxR a b

/-- Write a health inlet's sums where a read of the inlet finds them (R240, R254). -/
def State.putInlet (s : State) (k : Nat) : State :=
  match s.group? k with
  | none => s
  | some g =>
    let a := s.act .trg 0x110 + 256 * k
    (s.modMem fun m => m.setWords a [⟨g.inlet.cells ++ g.inlet.samples, false⟩, ⟨g.inlet.maxrel ++ g.inlet.bad, false⟩]).retag (blkOf a)

/-- HEALTH_INLET_WRITE (R254): the oldest packet of a stack, when it is for a health inlet, is accumulated; with no training
step in progress it is discarded and logged. -/
def execHealthInletWrite (stack : BitVec 4) (s : State) : Out :=
  let st := stack.toNat
  match s.packetsAt st with
  | [] => .next s
  | p :: rest =>
    let s1 : State := { s with gro := { s.gro with packets := aSet [] s.gro.packets st rest } }
    match s.updAt p.addr with
    | .health k =>
      if s.gro.opn.isNone then .next (s1.updLate st p.addr)
      else
        let w (i : Nat) : PWord := p.words.getD i pw0
        let c (i : Nat) : Bool := p.carries.getD i false
        let ok (i : Nat) : Bool := c i && !(w i).p
        .next ((s1.modGroup k fun g => { g with inlet :=
          { samples := if ok 0 then g.inlet.samples + loF (w 0).d else g.inlet.samples
            cells := if ok 0 then g.inlet.cells + hiF (w 0).d else g.inlet.cells
            bad := if ok 1 then g.inlet.bad + loF (w 1).d else g.inlet.bad
            maxrel := if ok 1 then maxRel g.inlet.maxrel (hiF (w 1).d) else g.inlet.maxrel
            hpoison := g.inlet.hpoison || (c 0 && (w 0).p) || (c 1 && (w 1).p) } }).putInlet k)
    | _ => .next s

/-! ## Verdicts (R244 to R248) -/

/-- Step `t` begins: its slots open, flags and inlets are cleared (R242, R244, R254). -/
def State.beginStep (s : State) (t : Nat) : State :=
  let s1 : State := { s with gro := { s.gro with
      opn := some t, step := t, nf := 0, reported := 0, judged := false
      groups := s.gro.groups.map fun g => { g with inlet := Inlet.clear } } }
  s.gro.groups.foldl (fun s g => s.putInlet g.k) s1

/-- The learning-rate multiplier of the schedule (R248). -/
def State.schedMult (s : State) (g : Group) (n : Nat) : W32 :=
  if g.slen = 0 then 0x3F800000 else BitVec.ofNat 32 (s.mem.num (g.sched + 4 * min (n - 1) (g.slen - 1)) 4)

/-- What R248 fixes once per group and step. -/
def State.newRec (s : State) (g : Group) (t : Nat) (finite : Bool) : StepRec :=
  let n := g.n0 + 1 + g.finites
  { step := t, applied := finite, n := n, lrs := fmul g.lr (s.schedMult g n)
    c1 := if g.rule = 2 then biasCorr g.b1 n else 0, c2 := if g.rule = 2 then biasCorr g.b2 n else 0
    blks := [], complete := false, sd := 0, sw := 0, nonfin := false, nfelem := 0, npois := 0 }

/-- The verdict for step `t` reaches the engines: every group gets an apply or discard of the step (R244, R245). -/
def State.judge (s : State) (t : Nat) (finite : Bool) : State :=
  let gs := s.gro.groups.map fun g =>
    { g with recs := g.recs ++ [s.newRec g t finite], finites := g.finites + finite.toNat, applying := true }
  let s1 : State := { s with gro := { s.gro with groups := gs, judged := true } }
  gs.foldl (fun s g => s.writeEntry g) s1

/-! ## The apply (R247 to R249, R253) -/

/-- One element's state. -/
structure Elem where
  w : W32
  wb : W16
  res : Byte
  m1 : W32
  m2 : W32
deriving DecidableEq, Repr

/-- What an apply does to one element: its new state, and how it counts. -/
structure ElemOut where
  e : Elem
  /-- Kept under R249, or marked poison. -/
  kept : Bool
  pois : Bool
deriving DecidableEq, Repr

/-- The represented value before or after an apply (R253); `none` when it is not finite. -/
def repOf (wf : Bool) (e : Elem) : Option Q :=
  if isFin e.w then some (if wf then resValue e.wb e.res else (f32 e.w).q) else none

/-- A finite represented value as a multiple of 2^-149. -/
def repInt (q : Q) : Int := q.intAt (-149)

/-- The rule of R248 on one element with slot value `acc`; `pois` says that some input word is poisoned. -/
def applyElem (g : Group) (r : StepRec) (acc : W32) (e : Elem) (pois : Bool) : ElemOut :=
  let gv := fmul acc g.gs
  let one : W32 := 0x3F800000
  let m1 := if g.rule = 1 then ffma g.b1 e.m1 gv else if g.rule = 2 then ffma g.b1 e.m1 (fmul (fsub one g.b1) gv) else e.m1
  let m2 := if g.rule = 2 then ffma g.b2 e.m2 (fmul (fsub one g.b2) (fmul gv gv)) else e.m2
  let u :=
    if g.rule = 0 then gv
    else if g.rule = 1 then m1
    else fdiv (fmul m1 r.c1) (fadd (fsqrt (fmul m2 r.c2)) g.eps)
  let dlt := fneg (fmul r.lrs (ffma g.wd e.w u))
  let new : Elem :=
    if g.wf then
      let p := residueAdd e.wb e.res dlt
      ⟨ofBf16 p.1, p.1, p.2, m1, m2⟩
    else ⟨fadd e.w dlt, e.wb, e.res, m1, m2⟩
  let finIn := [acc, e.w, e.m1, e.m2].all fun x => isFin (flush x)
  let finOut := isFin new.w && isFin m1 && isFin m2
  if pois then ⟨new, false, true⟩
  else if finIn && !finOut then ⟨e, true, false⟩
  else ⟨new, false, false⟩

/-- `n` bytes at offset `o` of a block, as a number, and whether their word is poisoned. -/
def blkNumAt (ws : List PWord) (o n : Nat) : Nat × Bool :=
  let w := ws.getD (o / 8) pw0
  (w.d.toNat / 2 ^ (8 * (o % 8)) % 2 ^ (8 * n), w.p)

/-- Element `i` of a block: its state and whether any of its words, slot word included, is poisoned. -/
def Group.elemAt (g : Group) (ws : List PWord) (j i : Nat) : W32 × Elem × Bool :=
  let a := blkNumAt ws (4 * g.p * j + 4 * i) 4
  let w := if g.wf then blkNumAt ws (g.oW + 2 * i) 2 else blkNumAt ws (g.oW + 4 * i) 4
  let r := if g.wf then blkNumAt ws (g.oRes + i) 1 else (0, false)
  let m := if g.rule = 0 then (0, false) else blkNumAt ws (g.oM1 + 4 * i) 4
  let v := if g.rule = 2 then blkNumAt ws (g.oM2 + 4 * i) 4 else (0, false)
  let wb : W16 := BitVec.ofNat 16 w.1
  (BitVec.ofNat 32 a.1,
   ⟨if g.wf then ofBf16 wb else BitVec.ofNat 32 w.1, wb, BitVec.ofNat 8 r.1, BitVec.ofNat 32 m.1, BitVec.ofNat 32 v.1⟩,
   a.2 || w.2 || r.2 || m.2 || v.2)

/-- Elements of block `b` that lie below NELEM. -/
def Group.count (g : Group) (b : Nat) : Nat := min g.p (g.nelem - b * g.p)

/-- Put `n` bytes of value `v` at offset `o` of a block's bytes. -/
def putBytes (bs : List Byte) (o n v : Nat) : List Byte := bs.take o ++ toBytes n v ++ bs.drop (o + n)

/-- Write an element's results into a block's bytes. -/
def Group.putElem (g : Group) (bs : List Byte) (i : Nat) (e : Elem) : List Byte :=
  let b1 := if g.wf then putBytes (putBytes bs (g.oW + 2 * i) 2 e.wb.toNat) (g.oRes + i) 1 e.res.toNat
    else putBytes bs (g.oW + 4 * i) 4 e.w.toNat
  let b2 := if g.rule = 0 then b1 else putBytes b1 (g.oM1 + 4 * i) 4 e.m1.toNat
  if g.rule = 2 then putBytes b2 (g.oM2 + 4 * i) 4 e.m2.toNat else b2

/-- The words that an element's results lie in. -/
def Group.elemWords (g : Group) (i : Nat) : List Nat :=
  (if g.wf then [(g.oW + 2 * i) / 8, (g.oRes + i) / 8] else [(g.oW + 4 * i) / 8])
    ++ (if g.rule = 0 then [] else [(g.oM1 + 4 * i) / 8]) ++ (if g.rule = 2 then [(g.oM2 + 4 * i) / 8] else [])

/-- What the apply of one block makes: its words, and the step's sums. -/
structure BlkOut where
  ws : List PWord
  r : StepRec
deriving DecidableEq, Repr

/-- Clear slot `j` of a block's words to clean +0.0 (R246, R248). -/
def Group.clearSlot (g : Group) (j : Nat) (ws : List PWord) : List PWord :=
  ws.mapIdx fun w x => if 4 * g.p * j ≤ 8 * w && decide (8 * w < 4 * g.p * (j + 1)) then pw0 else x

/-- Apply step `r` to block `b` (R248, R249, R253). -/
def Group.applyBlk (g : Group) (b : Nat) (r : StepRec) (ws : List PWord) : BlkOut :=
  let j := r.step % (g.d + 1)
  let outs := (List.range (g.count b)).map fun i =>
    let x := g.elemAt ws j i
    (i, x.2.1, applyElem g r x.1 x.2.1 x.2.2)
  let done := outs.filter fun o => !o.2.2.kept
  let bs := done.foldl (fun bs o => g.putElem bs o.1 o.2.2.e) (wordBytes ws)
  let marks := done.flatMap fun o => (g.elemWords o.1).map fun w => (w, o.2.2.pois)
  let ws' := (List.range 512).map fun w =>
    let mine := marks.filter fun m => decide (m.1 = w)
    let p := if mine.isEmpty then (ws.getD w pw0).p else mine.any (·.2)
    (⟨BitVec.ofNat 64 (ofBytes ((bs.drop (8 * w)).take 8)), p⟩ : PWord)
  let clean := done.filter fun o => !o.2.2.pois
  let pairs := clean.map fun o => (repOf g.wf o.2.1, repOf g.wf o.2.2.e)
  let sums := pairs.filterMap fun p => match p with
    | (some a, some c) => some ((repInt c - repInt a).natAbs ^ 2, (repInt a).natAbs ^ 2)
    | _ => none
  { ws := g.clearSlot j ws'
    r := { r with
      sd := r.sd + (sums.map (·.1)).sum, sw := r.sw + (sums.map (·.2)).sum
      nonfin := r.nonfin || decide (sums.length < pairs.length)
      nfelem := r.nfelem + (outs.length - done.length), npois := r.npois + (done.length - clean.length) } }

/-! ## Copies (R251) -/

/-- Element width in bits of a copy format, and its narrow format. -/
def copyBits (efmt : Nat) : Nat := match efmt with | 1 => 4 | 2 => 8 | 3 => 16 | _ => 0
def copyNf (efmt : Nat) : Option Nf := match efmt with | 1 => some .e2m1 | 2 => some .e4m3 | _ => none
/-- Offset of the scales in a copy buffer. -/
def Group.scaleOff (g : Group) : Nat := (g.nelem * copyBits g.efmt + 2047) / 2048 * 256
/-- Bytes of a copy buffer. -/
def Group.copySize (g : Group) : Nat := g.scaleOff + (if (copyNf g.efmt).isSome then (g.nelem + 31) / 32 else 0)
/-- Address of copy buffer `v mod (d + 1)`. -/
def Group.bufAt (g : Group) (v : Nat) : Nat := g.out + v % (g.d + 1) * g.ostr

/-- The weights of block `b` as FP32 with their poison marks, padded with +0 to whole blocks of 32. -/
def Group.weights (g : Group) (b : Nat) (ws : List PWord) : List (W32 × Bool) :=
  let hi := min g.p ((g.nelem + 31) / 32 * 32 - b * g.p)
  (List.range hi).map fun i =>
    if b * g.p + i < g.nelem then
      let x := if g.wf then blkNumAt ws (g.oW + 2 * i) 2 else blkNumAt ws (g.oW + 4 * i) 4
      (if g.wf then ofBf16 (BitVec.ofNat 16 x.1) else BitVec.ofNat 32 x.1, x.2)
    else (0, false)

/-- Cut a list into parts of `n`. -/
def chunks {α : Type} (n : Nat) : Nat → List α → List (List α)
  | 0, _ => []
  | k + 1, l => if l.isEmpty then [] else l.take n :: chunks n k (l.drop n)

/-- Narrow codes as tier bytes (R73): FP4 two to a byte, the even element low. -/
def codeBytes (bits : Nat) (cs : List (Nat × Bool)) : List (Byte × Bool) :=
  if bits = 4 then (chunks 2 cs.length cs).map fun p =>
    (BitVec.ofNat 8 ((p.getD 0 (0, false)).1 % 16 + (p.getD 1 (0, false)).1 % 16 * 16), p.any (·.2))
  else cs.flatMap fun c => (toBytes (bits / 8) c.1).map fun b => (b, c.2)

/-- Write the copy of version `v` of block `b` into its buffer (R251). -/
def Group.writeCopy (g : Group) (b v : Nat) (ws : List PWord) (m : Mem) : Mem :=
  let vals := g.weights b ws
  let bits := copyBits g.efmt
  let base := g.bufAt v
  let i0 := b * g.p
  if g.efmt = 0 then m
  else
    match copyNf g.efmt with
    | none =>
      m.putMarked (base + i0 * 2) (codeBytes 16 (vals.map fun x => ((toBf16 x.1 .rne 0).toNat, x.2)))
    | some f =>
      let parts := (chunks 32 (vals.length / 32 + 1) vals).map fun p =>
        let vs := p.map fun x => flush x.1
        let q := if blockNonFinite vs then nanBlock vs else quantBlock vs (vs.map fun _ => 0) (fitScale (maxAbs vs) f) f .rne
        ((q.codes.zip (p.map (·.2))), (BitVec.ofNat 8 q.scale, p.any (·.2)))
      let m1 := m.putMarked (base + i0 * bits / 8) (codeBytes bits (parts.flatMap (·.1)))
      m1.putMarked (base + g.scaleOff + i0 / 32) (parts.map (·.2))

/-- The ranges of memory that a block's copy of version `v` writes. -/
def Group.copyRanges (g : Group) (b v : Nat) : List (Nat × Nat) :=
  if g.efmt = 0 then []
  else
    let a := g.bufAt v
    let n := min g.p ((g.nelem + 31) / 32 * 32 - b * g.p)
    [(a + b * g.p * copyBits g.efmt / 8, n * copyBits g.efmt / 8), (a + g.scaleOff + b * g.p / 32, (n + 31) / 32)]

/-- The copy of version `v` of block `b` leaves its stack as ordinary writes to their home slices (R251, R256); bytes of a word beside the
copy's stay. The requester is the port of the block's home slice. -/
def State.putCopy (s : State) (g : Group) (b v : Nat) (ws : List PWord) : State :=
  let m := g.writeCopy b v ws s.mem
  let req := 2 ^ 15 + (edgeDest s.dev.addr (homeOf (g.base + 4096 * b)).die (homeOf (g.base + 4096 * b)).south.toNat
    (homeOf (g.base + 4096 * b)).col.toNat).toNat
  (g.copyRanges b v).foldl (fun s r =>
    let a := r.1 - r.1 % 8
    let n := (r.1 + r.2 + 7) / 8 - a / 8
    s.svcWords req 0 0 (n / 32 + 2) a (m.words a n)) s

/-! ## Applies and discards as commands -/

/-- The oldest step that block `b` of a group has still to apply or discard (R247). -/
def Group.nextRec (g : Group) (b : Nat) : Option StepRec := g.recs.find? fun r => !r.complete && !aGet false r.blks b

/-- Does block `b` of group `k` wait to be read for a checkpoint or fingerprint before step `t` is applied (R271, R275)? -/
def State.readHolds (s : State) (g : Group) (b t : Nat) : Bool :=
  let inTodo (c : Nat) (todo : List (Nat × Nat)) : Bool := decide (c < t + g.d) && decide ((g.k, b) ∈ todo)
  let now := match s.trn.ckpt with | some c => inTodo c.c c.todo | none => false
  match s.trn.run with
  | none => now
  | some r =>
    let fp := match r.fp with | some f => inTodo f.step f.todo | none => false
    let due (c : Nat) : Bool :=
      (decide (0 < r.ckn) && decide ((c + 1) % r.ckn = 0)) || (decide (0 < r.fpn) && decide (r.rset ≠ 0xFF) && decide ((c + 1) % r.fpn = 0))
    let coming := (List.range (min r.left (t + g.d - s.trn.tstep))).any fun i =>
      due (s.trn.tstep + i) || ((r.ckDue || !r.ckCmds.isEmpty) && decide (i = 0))
    now || fp || coming

/-- A finished step of a group: N, LASTS and STAT (R236, R248). -/
def Group.finishRec (g : Group) (r : StepRec) : Group :=
  let g1 : Group := { g with recs := g.recs.map fun q => if q.step = r.step then { r with complete := true, blks := [] } else q }
  { g1 with n := if r.applied then r.n else g.n, lasts := r.step, lastskip := !r.applied
            applying := g1.recs.any fun q => !q.complete }

/-- Perform the apply or discard `r` of block `b` of group `g` (R246 to R251, R272). -/
def State.doBlock (s : State) (g : Group) (b : Nat) (r : StepRec) : State :=
  let a := g.base + 4096 * b
  let ws := s.mem.words a 512
  let o : BlkOut := if r.applied then g.applyBlk b r ws else ⟨g.clearSlot (r.step % (g.d + 1)) ws, r⟩
  let s1 := ((s.modMem fun m => m.setWords a o.ws).retag a).putCopy g b (r.step + 1) o.ws
  let blks := aSet false r.blks b true
  let full := decide (blks.length = g.nblk)
  let r1 : StepRec := { o.r with blks := blks }
  let changed := decide (o.ws.drop (g.oW / 8) ≠ ws.drop (g.oW / 8))
  let g1 : Group := { g with clean := if changed then aSet 0 g.clean b 0 else g.clean }
  let g2 := if full then g1.finishRec r1 else { g1 with recs := g1.recs.map fun q => if q.step = r1.step then r1 else q }
  let s2 := s1.modGroup g.k fun _ => g2
  if full then s2.writeEntry g2 else s2

/-- Run an apply (`applied`) or a discard of one block, when it is the block's next and nothing holds it. -/
def State.tryBlock (s : State) (applied : Bool) (group : BitVec 12) (blk : W32) (errs : List MemErr) : State :=
  match s.group? group.toNat with
  | none => s
  | some g =>
    let b := blk.toNat
    let a := g.base + 4096 * b
    if g.nblk ≤ b || ((s.slice (homeOf a)).opOf a).isSome then s
    else
      match g.nextRec b with
      | none => s
      | some r =>
        if r.applied ≠ applied || s.readHolds g b r.step then s
        else s.withSnoops [] (g.copyRanges b (r.step + 1)) fun s => (s.tierErrs [(a, 4096)] errs).doBlock g b r

/-- BLOCK_APPLY (R247 to R249, R251, R253). -/
def execBlockApply (group : BitVec 12) (blk : W32) (errs : List MemErr) (s : State) : Out := .next (s.tryBlock true group blk errs)
/-- BLOCK_DISCARD (R246, R247, R251). -/
def execBlockDiscard (group : BitVec 12) (blk : W32) (errs : List MemErr) (s : State) : Out := .next (s.tryBlock false group blk errs)

/-! ## Health records (R253, R255) -/

/-- RATIO of a finished apply. -/
def StepRec.ratio (r : StepRec) : W32 :=
  if r.nonfin then nan32
  else if r.sw = 0 then (if r.sd = 0 then 0 else inf32 false)
  else packQ (Q.sqrt ⟨false, r.sd, r.sw, 0⟩)

/-- The health record of group `g` for step `t`, written at time `now`. -/
def Group.record (g : Group) (t now : Nat) : List Byte :=
  let r? := if t < g.d then none else g.recs.find? fun r => decide (r.step = t - g.d)
  let ap := r?.any (·.applied)
  let flags := ap.toNat + 2 * (r?.any fun r => !r.applied).toNat + 4 * (decide (t < g.d)).toNat + 8 * g.inlet.hpoison.toNat
  let n := match r? with | none => g.n0 | some r => if r.applied then r.n else r.n - 1
  toBytes 8 t ++ toBytes 2 g.k ++ toBytes 2 flags ++ toBytes 4 ((if ap then r?.elim 0 (·.ratio) else 0) : W32).toNat
    ++ toBytes 4 (r?.elim 0 (·.nfelem)) ++ toBytes 4 (r?.elim 0 (·.npois)) ++ toBytes 4 g.inlet.samples.toNat
    ++ toBytes 4 g.inlet.cells.toNat ++ toBytes 4 g.inlet.bad.toNat ++ toBytes 4 g.inlet.maxrel.toNat
    ++ toBytes 4 ((r?.elim 0 (·.lrs)) : W32).toNat ++ toBytes 4 0 ++ cnt8 n ++ toBytes 8 now

/-- Append one record to the health ring, or drop it when the ring is full (R255, R441). -/
def State.appendHealth (s : State) (rec : List Byte) : State :=
  let size := s.act .trg 0x128
  if size = 0 || decide ((s.gro.tail + 64) % size = s.gro.head) then { s with gro := { s.gro with drop := s.gro.drop + 1 } }
  else
    let s1 := s.putH (s.act .trg 0x120 + s.gro.tail) rec
    { s1 with gro := { s1.gro with tail := (s.gro.tail + 64) % size } }

/-- The health records of step `t`, in ascending group number; records of earlier steps are dropped (R255). -/
def State.healthRecords (s : State) (t : Nat) : State :=
  let s1 := s.gro.groups.foldl (fun s g => s.appendHealth (g.record t s.dev.time)) s
  { s1 with gro := { s1.gro with groups := s1.gro.groups.map fun g => { g with recs := g.recs.filter fun r => decide (t < r.step + g.d + 1) } } }

end Sys2Proof.Machine
end

