-- ==== Sys2Proof/Machine/Barrier.lean ====
section
/-! DEFINITION. Barriers: arrival, the chain's ARRIVE and RELEASE, release, and the barrier watchdog (R15 to R18, R33,
R65, R67, R98, R185 to R187, R361 to R363, R389, R390). -/

namespace Sys2Proof.Machine

/-! ## Scopes -/

/-- The tiles of this module in a barrier's scope (R15). -/
def scopeTiles (sc : Scope) (die : Bool) : List TileId :=
  match sc with
  | .die => (List.range 1024).map fun k => BitVec.ofNat 11 (die.toNat * 1024 + k)
  | _ => (List.range 2048).map fun k => BitVec.ofNat 11 k
/-- Has a tile arrived at a barrier of scope `sc` (R17)? -/
def State.atBarrier (s : State) (sc : Scope) (t : TileId) : Bool :=
  (s.tile t).core.phase = .arrived && (s.tile t).ssHdr.any fun h => decide (h.scope = sc)
/-- Has every tile of this module in the scope arrived (R18)? -/
def State.gathered (s : State) (sc : Scope) (die : Bool) : Bool := (scopeTiles sc die).all (s.atBarrier sc)
/-- A tile of a scope, whose header speaks for all of them (R392). -/
def scopeHead (sc : Scope) (die : Bool) : TileId := if sc = .die && die then 1024#11 else 0#11
/-- Key of a barrier wait. -/
def waitKey (sc : Scope) (die : Bool) : Nat := match sc with | .die => die.toNat | .module => 2 | .chain => 3
def State.setWait (s : State) (sc : Scope) (die : Bool) (w : Option BarWait) : State :=
  { s with waits := aSet none s.waits (waitKey sc die) w }

/-! ## Arrival -/

/-- Has every engine of a tile finished what issued before END (R98)? -/
def Tile.enginesIdle (x : Tile) : Bool :=
  x.mxe.ops.isEmpty && x.vxe.ops.isEmpty && !x.vxe.relDue && x.rdu.unpaired.isEmpty && x.rdu.results.isEmpty && x.rng.isEmpty
    && x.str.ents.isEmpty && (x.bel.syncq.all SyncOp.complete) && x.bel.resv.isNone && x.core.hnd.isNone
/-- Is no line that the tile has asked for on its way or in its line buffer (R70)? -/
def Tile.linesBack (x : Tile) : Bool := x.str.tags.all fun kv => kv.2.all (·.wr)
/-- Do the conditions of R17 and R70 hold for a tile? -/
def State.mayArrive (s : State) (t : TileId) : Bool :=
  let x := s.tile t
  x.core.phase = .ended && !s.dev.cdreset && x.core.xbegun && x.enginesIdle && x.expct.isEmpty && x.land.isEmpty
    && x.linesBack && (s.offered t 2).isEmpty
/-- A tile gives up its heavy-unit token, or its request for one (R67). -/
def State.dropToken (s : State) (t : TileId) : State :=
  let die := t.getLsbD 10
  let p := s.pool die
  (s.setPool die { p with wait := p.wait.filter fun u => decide (u ≠ t) }).modTile t fun x =>
    { x with mxe := { x.mxe with token := false, requested := false } }

/-- The training step in progress: the run's client holds the tiles and a step has begun. -/
def State.stepping (s : State) : Option TRun := s.trn.run.filter fun r => r.phase = .step

/-- The module's non-finite flag (R266). -/
def State.moduleFlag (s : State) : Bool := decide (s.gro.nf ≠ 0) || s.tiles.any fun kx => kx.2.core.nf

/-! ## The chain (R361, R362) -/

/-- Add this module's or another's arrival. -/
def State.holdArrive (s : State) (a : Arrive) : State := { s with opv := { s.opv with arrives := s.opv.arrives ++ [a] } }

/-- Modules whose fingerprint differs from that of the lowest address of their replica set (R277). -/
def divergedOf (as : List Arrive) : List Nat :=
  (as.filter fun a =>
    a.fpv && as.any fun b =>
      b.fpv && decide (b.rset = a.rset) && decide (b.addr.toNat < a.addr.toNat) && decide (b.fprint ≠ a.fprint)
        && as.all fun c => !c.fpv || decide (c.rset ≠ a.rset) || decide (b.addr.toNat ≤ c.addr.toNat)).map fun a => a.addr.toNat

/-- The superstep number that ARRIVE and RELEASE carry: the releases received (DEDUCED, log entry 63). -/
def State.chainSs (s : State) : Nat := (s.tile 0).core.ss

/-- RSET of chain module `m`: its own run's, what its ARRIVE told module 0, or a free value (R277; log entry 132). -/
def State.peerSet (s : State) (as : List Arrive) (m : Nat) : Nat :=
  match as.find? fun a => decide (a.addr.toNat = m) with
  | some a => a.rset.toNat
  | none => if m = s.dev.addr.toNat then s.trn.run.elim 0xFF (·.rset) else Config.peerSet m s.chainSs

/-- What a release's comparison does to the run of a module that has carried a fingerprint: a marked module of its own replica set
diverges it (R277). `as` are the arrivals, where this is module 0. -/
def State.compared (s : State) (as : List Arrive) (divmask : W16) : State :=
  match s.stepping with
  | none => s
  | some r =>
    match r.fpOut with
    | none => s
    | some fp =>
      let marked := (List.range 16).filter fun m => divmask.getLsbD m && decide (s.peerSet as m = r.rset)
      let again := marked.any fun m => decide (m ∈ r.recopied)
      let diverge := !marked.isEmpty
      let r' : TRun := { r with
        diverged := r.diverged || diverge, marked := marked, fpOut := none, recopied := marked
        halt := r.halt || (diverge && (!r.recopyPol || again))
        recopyDue := diverge && r.recopyPol && !again && decide (s.dev.addr.toNat ∈ marked) }
      let s1 : State := { s with trn := { s.trn with run := some r' } }
      if diverge then (s1.log 0x1003 .dev 0 (marked.map fun m => 2 ^ m).sum fp.2).alert 7 else s1

/-- Act on a release: the first for the superstep that this module waits in (R362, R363). -/
def State.actRelease (s : State) (as : List Arrive) (nonfinite switch diverge : Bool) (divmask : W16) (ss : W64) : State :=
  let s1 : State := { s with opv := { s.opv with released := some ss, relNf := nonfinite, relSw := switch } }
  let s2 := s1.setWait .chain false none
  let s3 : State := if switch && s2.sch.request.isNone then { s2 with sch := { s2.sch with request := some s2.dev.time } } else s2
  s3.compared as (if diverge then divmask else 0)

/-- Send a message out of every port that is up. -/
def State.sendAll (s : State) (m : Ctrl) : State :=
  [false, true].foldl (fun s p => if (s.oport p).st = .up && s.leaveOk p then s.sendCtrl p m else s) s

/-- The superstep number, of no barrier, that tells every member of an arrival for another superstep (DESIGN CHOICE, log entry 133: R362 has
CHAIN_SKEW raised on every member, and no frame of R346 is named for it). -/
def skewSs : W64 := BitVec.allOnes 64
/-- Module 0 forms the release when it holds an arrival of every member; an arrival for another superstep raises CHAIN_SKEW, here and, by
a RELEASE for no barrier, on every member (R362). -/
def State.tryRelease (s : State) : State :=
  let own := s.chainSs
  let as := s.opv.arrives
  if s.dev.addr ≠ 0 || !s.opv.arrived || s.opv.released = some (BitVec.ofNat 64 own) then s
  else
    match as.find? fun a => decide (a.ssnum.toNat ≠ own) with
    | some a => (s.sendAll (.release false false false 0 skewSs)).raise 0x8011 .dev 0 own a.ssnum.toNat
    | none =>
      if (List.range 16).all fun m => (s.opv.chained && !s.opv.member m) || (!s.opv.chained && decide (m ≠ 0))
          || as.any fun a => decide (a.addr.toNat = m) then
        let marked := divergedOf as
        let mask : W16 := BitVec.ofNat 16 ((marked.map fun m => 2 ^ m).sum)
        let nf := as.any (·.nf)
        let sw := as.any (·.pre)
        let ss := BitVec.ofNat 64 own
        let s1 : State := { s with opv := { s.opv with
          arrives := [], pulsesOut := s.opv.pulsesOut + s.opv.chained.toNat, syncOut := s.opv.syncOut + s.opv.chained.toNat } }
        (s1.sendAll (.release nf sw (!marked.isEmpty) mask ss)).actRelease as nf sw (!marked.isEmpty) mask ss
      else s

/-- The module arrives at a CHAIN barrier once its tiles have, and, at a closing barrier of a training step, its stacks have
reported and a fingerprint it must carry is complete (R267, R277, R361). -/
def State.tryArrive (s : State) : State :=
  if s.opv.arrived || !s.gathered .chain false then s
  else
    match (s.tile 0).ssHdr with
    | none => s
    | some h =>
      let r := if h.close then s.stepping else none
      let ready := match r with
        | none => true
        | some r => decide (s.gro.reported = 0xFFFF#16) && r.fp.isNone
      if !ready then s
      else
        let a : Arrive :=
          { addr := s.addrByte, nf := h.close && s.moduleFlag, pre := s.sch.request.isSome
            fpv := r.any fun r => r.fpOut.isSome, rset := (r.map fun r => BitVec.ofNat 8 r.rset).getD 0
            fprint := ((r.bind (·.fpOut)).map (·.1)).getD 0, fpstep := ((r.bind (·.fpOut)).map fun x => BitVec.ofNat 64 x.2).getD 0
            ssnum := BitVec.ofNat 64 s.chainSs }
        let s1 : State := { s with opv := { s.opv with arrived := true } }
        if s.dev.addr = 0 then (s1.holdArrive a).tryRelease
        else
          match s.dirPort (s.goesDown 0) with
          | some p => s1.sendCtrl p (.arrive a.addr a.nf a.fpv a.pre h.close a.rset a.ssnum a.fprint a.fpstep)
          | none => s1

/-- BARRIER_ARRIVAL (R17, R33, R67, R98): the tile arrives, gives up its token, and starts the barrier's wait; the last of a CHAIN
barrier's tiles lets the module arrive. -/
def execBarrierArrival (t : TileId) (s : State) : Out :=
  if !s.mayArrive t then .next s
  else
    match (s.tile t).ssHdr with
    | none => .next s
    | some h =>
      let die := t.getLsbD 10
      let s1 := (s.dropToken t).modTile t fun x => { x with core := { x.core with phase := .arrived } }
      let s2 := if (aGet none s1.waits (waitKey h.scope die)).isSome then s1
        else s1.setWait h.scope die (some ⟨s.dev.time, false⟩)
      if h.scope = .chain then .next s2.tryArrive
      else .next (if s2.gathered h.scope die then s2.setWait h.scope die none else s2)

/-! ## Release -/

/-- P := P − C and C := 0 on every object (R187). -/
def Tile.realign (x : Tile) : Tile := (List.range 256).foldl (fun x o => (x.setP (BitVec.ofNat 8 o) (x.avail (BitVec.ofNat 8 o))).setC (BitVec.ofNat 8 o) 0) x
/-- A release reaches a tile: it is counted, and the objects are re-aligned at the period (R187, R96). -/
def Tile.release (x : Tile) (period : Nat) : Tile :=
  let y : Tile := { x with core := { x.core with ss := x.core.ss + 1, held := none, poll := false } }
  if period ≠ 0 && decide (y.core.ss % period = 0) then y.realign else y
/-- The expected-item counts of a superstep (R57, R389). The counts of two entries that name one handle add, as the loader's check of
the lists takes them (DESIGN CHOICE, log entry 125). -/
def Tile.expects (x : Tile) (h : SsHdr) : Assoc Nat :=
  (List.range h.necnt).foldl (fun l k =>
    let w := aGet 0 x.imem (h.ecnt + k / 4)
    let hd := fld w (16 * (k % 4) + 15) (16 * (k % 4) + 10)
    aSet 0 l hd (aGet 0 l hd + fld w (16 * (k % 4) + 9) (16 * (k % 4)))) []
/-- A tile begins the superstep whose header is at word `hdr` (R57, R98, R116, R389). -/
def Tile.enter (x : Tile) (hdr : Nat) : Tile :=
  let y : Tile := { x with
    core := { x.core with phase := .issue, hdr := hdr, pc := hdr + 4, xbegun := false, fixed := false }
    vxe := { x.vxe with vlen := 64 }
    str := { x.str with la := hdr + 4, path := [] } }
  { y with expct := (y.ssHdr.map y.expects).getD [] }

/-- The heavy-unit cap of the cooling class (R415). -/
def State.tokenCap (s : State) : Nat := if s.act .pwr 0x108 % 2 = 1 then 640 else 1024
/-- The pool of a die takes its size for the superstep that its tiles have begun (R65). -/
def State.sizePool (s : State) (die : Bool) : State :=
  match (s.tile (scopeHead .die die)).ssHdr with
  | some h => s.setPool die { s.pool die with size := min (if die then h.res1 else h.res0) s.tokenCap }
  | none => s
/-- The Gallery's per-superstep positions of a tile's router begin again (R165, R166). -/
def State.clearLists (s : State) (sc : Scope) (die : Bool) : State :=
  let keep (kv : Nat × Nat) : Bool := sc = .die && decide (kv.1 / 16 / 1024 % 2 ≠ die.toNat)
  { s with net := { s.net with olPos := s.net.olPos.filter keep, sent := s.net.sent.filter keep, taken := s.net.taken.filter keep } }
/-- The Opver order lists begin again (R360). -/
def State.clearPortLists (s : State) : State :=
  let f (x : OpvPort) : OpvPort := { x with olPos := 0, sent := 0, taken := [] }
  (s.modOport false f).modOport true f

/-- Apply `f` to every tile of a scope. -/
def State.modScope (s : State) (sc : Scope) (die : Bool) (f : Tile → Tile) : State :=
  (scopeTiles sc die).foldl (fun s t => s.modTile t f) s

/-- Let release reach the tiles of a scope, with `f` what each tile does next. -/
def State.releaseScope (s : State) (sc : Scope) (die : Bool) (f : Tile → Tile) : State :=
  let s1 := (s.modScope sc die fun x => f (x.release (s.act .bel 0x108))).setWait sc die none
  let s2 := s1.clearLists sc die
  if sc = .chain then
    let s3 := s2.clearPortLists
    { s3 with opv := { s3.opv with arrived := false } }
  else s2
/-- Size the pools of the dies of a scope. -/
def State.sizePools (s : State) (sc : Scope) (die : Bool) : State :=
  if sc = .die then s.sizePool die else (s.sizePool false).sizePool true

/-- May release reach the tiles of a scope: all have arrived, and a CHAIN barrier has its RELEASE (R18, R362)? -/
def State.releasable (s : State) (sc : Scope) (die : Bool) : Bool :=
  !s.dev.cdreset && s.gathered sc die
    && (decide (sc ≠ .chain) || (s.opv.arrived && decide (s.opv.released = some (BitVec.ofNat 64 s.chainSs))))

/-- BARRIER_RELEASE (R18, R57, R65, R187, R389, R390): a barrier that no service closes releases its scope; the tiles begin the next
superstep, or, behind PARK, wait without issuing. -/
def execBarrierRelease (scope : Scope) (die : Bool) (s : State) : Out :=
  if !s.releasable scope die then .next s
  else
    match (s.tile (scopeHead scope die)).ssHdr with
    | none => .next s
    | some h =>
      if h.close then .next s
      else if h.park then
        .next (s.releaseScope scope die fun x => { x with core := { x.core with phase := .parked } })
      else .next ((s.releaseScope scope die fun x => x.enter x.core.pc).sizePools scope die)

/-- BARRIER_SLOW (R33): a wait that has reached SCH_WDOG_BOUND is reported once. -/
def execBarrierSlow (scope : Scope) (die : Bool) (s : State) : Out :=
  match aGet none s.waits (waitKey scope die) with
  | none => .next s
  | some w =>
    let bound := s.act .sch 0x110
    if w.raised || bound = 0 || decide (s.dev.time < w.start + bound) then .next s
    else
      let ts := scopeTiles scope die
      let ss := ((ts.find? fun t => s.atBarrier scope t).bind fun t => (s.tile t).ssHdr).elim 0 (·.ssnum)
      let missing := (ts.filter fun t => !s.atBarrier scope t).length
      .next (((s.setWait scope die (some { w with raised := true })).log 0x1001 .dev 0 ss missing).alert 1)

end Sys2Proof.Machine
end

