-- ==== Sys2Proof/Machine/Chain.lean ====
section
/-! DEFINITION. How modules learn their addresses and form a chain (R351 to R357), and what breaks it (R365). -/

namespace Sys2Proof.Machine

/-- CHAIN_FAULT_N is low while a link of the module is down (R408). -/
def State.chainPin (s : State) : State :=
  { s with opv := { s.opv with chainFault := decide (s.opv.p0.st = .down) || decide (s.opv.p1.st = .down) } }

/-- HEAD and RING (R351). -/
def Opv.head (o : Opv) : Bool := o.straps.getLsbD 0
def Opv.ringStrap (o : Opv) : Bool := o.straps.getLsbD 1

/-- Take the control message at the head of a port's queue. -/
def State.popCtrl (s : State) (p : Bool) : State := s.modOport p fun x => { x with ctrl := x.ctrl.tail }
/-- Send or pass on a message through a port whose link is up and carries this chain's traffic. -/
def State.passCtrl (s : State) (p : Bool) (m : Ctrl) : State := if s.leaveOk p then s.sendCtrl p m else s

/-! ## HELLO (R353) -/

/-- Has a port come up, its partner known, or reported itself untrained? -/
def OpvPort.settled (x : OpvPort) : Bool := (decide (x.st = .up) && x.ident && !x.awaitIdent) || decide (x.st = .untrained)
/-- What this module reports in its HELLO. -/
def State.myHello (s : State) : Hello :=
  let up := (s.dirPort false).any fun p => decide ((s.oport p).st = .up)
  let dp := (s.dirPort true).filter fun p => decide ((s.oport p).st = .up)
  let toHead := dp.any fun p => decide ((s.oport p).paddr = 0)
  { addr := s.addrByte, upTrained := up, downTrained := dp.isSome, downIsHead := toHead
    downEpoch := if toHead then (dp.map fun p => (s.oport p).pepoch).getD 0 else 0 }
/-- Keep what a HELLO said. -/
def State.keepHello (s : State) (h : Hello) : State :=
  { s with opv := { s.opv with hellos := (s.opv.hellos.filter fun g => decide (g.addr ≠ h.addr)) ++ [h] } }
/-- Send HELLO once, when the module has its address and each port is up or reported untrained; module 0 keeps its own. -/
def State.tryHello (s : State) : State :=
  if s.opv.helloSent || !s.opv.hasAddr || !s.opv.p0.settled || !s.opv.p1.settled then s
  else
    let h := s.myHello
    let s1 : State := { s with opv := { s.opv with helloSent := true } }
    if s.dev.addr = 0 then s1.keepHello h
    else
      match s.dirPort false with
      | none => s
      | some p =>
        let bits := BitVec.ofNat 3 (h.upTrained.toNat + 2 * h.downTrained.toNat + 4 * h.downIsHead.toNat)
        s1.sendCtrl p (.hello h.addr bits s.opv.straps h.downEpoch)

/-! ## Formation -/

/-- A link that is up to a partner outside the chain carries no traffic: STALE is set and CHAIN_STALE logged, once (R355, R356). -/
def State.markStale (s : State) (p : Bool) : State :=
  let x := s.oport p
  if s.opv.final && x.st = .up && x.ident && !x.stale && !s.leaveOk p then
    (s.setOport p { x with stale := true }).log 0x1033 .port p.toNat x.pepoch.toNat 0
  else s
/-- The chain state is final (R357). -/
def State.finish (s : State) (n : Nat) (ring : Bool) (members : W16) : State :=
  let s0 : State := { s with opv := { s.opv with chained := decide (2 ≤ n), ring := ring, n := n, members := members, hasAddr := true } }
  let s1 : State := { s0 with opv := { s0.opv with
    final := true, p0 := { s0.opv.p0 with dir := s0.learnDir false }, p1 := { s0.opv.p1 with dir := s0.learnDir true } } }
  (s1.markStale false).markStale true

/-- The last module of the longest run of addresses from 0 that module 0 has a HELLO from. -/
def Opv.runEnd (o : Opv) : Nat := ((List.range 16).tail.takeWhile fun a => o.hellos.any fun h => decide (h.addr.toNat = a)).length
/-- What module `k` said, if anything. -/
def Opv.helloOf (o : Opv) (k : Nat) : Option Hello := o.hellos.find? fun h => decide (h.addr.toNat = k)
/-- The EPOCH of the last module's downstream partner is one of module 0's own. -/
def Opv.ownEpoch (o : Opv) (e : W32) : Bool := decide (e = o.p0.epoch) || decide (e = o.p1.epoch)

/-- Module 0 forms the chain from what it has (R354, R355). -/
def State.form (s : State) : State :=
  let k := s.opv.runEnd
  let n := k + 1
  let h := s.opv.helloOf k
  let toHead := h.any (·.downIsHead)
  let own := h.any fun h => h.downIsHead && s.opv.ownEpoch h.downEpoch
  let ring := s.opv.ringStrap && decide (3 ≤ n) && own
  let s1 := if s.opv.ringStrap && !ring then s.log 0x1031 .dev 0 n 0 else s
  let s2 := if toHead && !own then s1.log 0x1034 .dev 0 ((h.map fun h => h.downEpoch.toNat).getD 0) 0 else s1
  let mask : W16 := BitVec.ofNat 16 (2 ^ n - 1)
  let s3 := s2.finish n ring mask
  if 2 ≤ n then
    match s3.dirPort true with
    | some p => s3.sendCtrl p (.chainUp (BitVec.ofNat 8 n) ring mask)
    | none => s3
  else s3
/-- May module 0 form the chain before its deadline: the last module of the run reports an untrained downstream port, or a downstream
partner at address 0? -/
def State.mayForm (s : State) : Bool :=
  s.opv.sampled && s.opv.head && !s.opv.final
    && (s.opv.helloOf s.opv.runEnd).any fun h => !h.downTrained || h.downIsHead

/-- CHAIN_FORMATION (R354, R355). -/
def execChainFormation (s : State) : Out := .next (if s.mayForm then s.form else s)

/-- CHAIN_FORM_DEADLINE (R354, R356): 2 s after power-good a head forms the chain from what it has; a module without an address or
outside MEMBERS runs alone. -/
def execChainFormDeadline (s : State) : Out :=
  if !s.opv.sampled || s.opv.final then .next s
  else if s.opv.head then .next s.form
  else .next (({ s with dev := { s.dev with addr := 0 } } : State).finish 1 false 1 |>.log 0x1032 .dev 0 1 0)

/-! ## Tokens (R352) -/

/-- The eight cells of the token for an address: 1, 1, 0, the address bits least significant first, and a parity bit that makes the ones of
address and parity odd. -/
def tokenCells (a : BitVec 4) : List Bool :=
  let bs := [a.getLsbD 0, a.getLsbD 1, a.getLsbD 2, a.getLsbD 3]
  [true, true, false] ++ bs ++ [decide ((bs.map Bool.toNat).sum % 2 = 0)]
/-- TOKEN_SEND: a module with an address below 15 sends its token, for the next address, while its chain state is not final; module 15 keeps
CHAIN_TKN_OUT low. -/
def execTokenSend (s : State) : Out :=
  if s.opv.sampled && s.opv.hasAddr && !s.opv.final && s.dev.addr ≠ 15 then
    .next { s with opv := { s.opv with tokenOut := tokenCells (s.dev.addr + 1), tokensSent := s.opv.tokensSent + 1 } }
  else .next s

/-- The address of a well-formed token: cells 1, 1, 0, address bits least significant first, and odd parity. -/
def tokenAddr : List Bool → Option (BitVec 4)
  | [true, true, false, a, b, c, d, p] =>
    if (a.toNat + b.toNat + c.toNat + d.toNat + p.toNat) % 2 = 1 then
      some (BitVec.ofNat 4 (a.toNat + 2 * b.toNat + 4 * c.toNat + 8 * d.toNat))
    else none
  | _ => none

/-- TOKEN_RECEIVE: a module that is not a head takes the address of the first two identical well-formed tokens. -/
def execTokenReceive (cells : List Bool) (s : State) : Out :=
  if !s.opv.sampled || s.opv.head || s.opv.hasAddr || s.opv.final then .next s
  else
    match tokenAddr cells with
    | none => .next s
    | some a =>
      if s.opv.tokens.getLsbD a.toNat then
        .next ({ s with dev := { s.dev with addr := a }, opv := { s.opv with hasAddr := true } } : State).tryHello
      else .next { s with opv := { s.opv with tokens := s.opv.tokens ||| BitVec.ofNat 16 (2 ^ a.toNat) } }

/-! ## Messages -/

/-- CHAIN_LOST (R365): a fault, and its own alert bit. -/
def State.chainLost (s : State) (p : Bool) (left : Nat) : State := (s.raise 0x8012 .port p.toNat left 0).alert 8

/-- The port learns its partner from an IDENT. A partner that shows the EPOCH it had takes the frames it has not acknowledged, from the
oldest; those for a partner that has lost its state are discarded (R350, R365). -/
def OpvPort.learn (x : OpvPort) (src : Byte) (epoch : W32) : OpvPort :=
  let y : OpvPort := { x with paddr := src, pepoch := epoch, ident := true, awaitIdent := false }
  if x.ident && decide (x.pepoch ≠ epoch) then { y with replay := [] }
  else if x.ident && x.awaitIdent && decide (1 < x.replay.length) then { y with wire := y.wire ++ y.replay }
  else y
/-- IDENT_RECEIVE (R353, R356, R365): the port learns its partner, and what waits for the link goes. A partner of this chain that shows
another EPOCH has lost its state: the replay buffer is discarded, CHAIN_DOWN goes to every member that can be reached, and CHAIN_LOST is
raised. -/
def execIdentReceive (port : Bool) (s : State) : Out :=
  match (s.oport port).ctrl with
  | .ident src _ _ epoch :: _ =>
    let x := s.oport port
    let s0 := s.popCtrl port
    let lost := x.ident && decide (x.pepoch ≠ epoch) && s.leaveOk port
    let s1 := s0.modOport port fun y => y.learn src epoch
    if lost then
      let s2 := s1.modOport port fun y => { y with stale := true }
      let s3 := s2.log 0x1033 .port port.toNat epoch.toNat 0
      .next ((s3.passCtrl (!port) (.chainDown s.addrByte 0 x.paddr)).chainLost port x.paddr.toNat)
    else .next ((s1.markStale port).tryHello.pump port)
  | _ => .next s

/-- HELLO_RECEIVE (R353): module 0 keeps it; another module passes it on upstream, once it knows which port that is. -/
def execHelloReceive (port : Bool) (s : State) : Out :=
  match (s.oport port).ctrl with
  | .hello src bits straps epoch :: _ =>
    if s.opv.hasAddr && s.dev.addr = 0 then
      .next ((s.popCtrl port).keepHello ⟨src, bits.getLsbD 0, bits.getLsbD 1, bits.getLsbD 2, epoch⟩)
    else
      match s.dirPort false with
      | some p => .next ((s.popCtrl port).sendCtrl p (.hello src bits straps epoch))
      | none => .next s
  | _ => .next s

/-- CHAIN_UP_RECEIVE (R354, R357): a member fixes its chain state and passes the message on downstream to a member other than 0.
Module 0 discards it. -/
def execChainUpReceive (port : Bool) (s : State) : Out :=
  match (s.oport port).ctrl with
  | .chainUp n ring members :: _ =>
    let s1 := s.popCtrl port
    if s.dev.addr = 0 || s.opv.final || !s.opv.hasAddr || !members.getLsbD s.dev.addr.toNat then .next s1
    else
      let s2 := s1.finish n.toNat ring members
      match s2.dirPort true with
      | some p =>
        let a := (s2.oport p).paddr
        .next (if a ≠ 0 && s2.opv.member a.toNat then s2.sendCtrl p (.chainUp n ring members) else s2)
      | none => .next s2
  | _ => .next s

/-- ARRIVE_RECEIVE (R361, R362): module 0 holds it and forms the release when it has one of every member; another module passes it
on unchanged. -/
def execArriveReceive (port : Bool) (s : State) : Out :=
  match (s.oport port).ctrl with
  | .arrive src nf fpv pre close rset ss fp fs :: _ =>
    let s1 := s.popCtrl port
    if s.dev.addr = 0 then
      .next (s1.holdArrive { addr := src, nf := nf, pre := pre, fpv := fpv, rset := rset, fprint := fp, fpstep := fs, ssnum := ss }).tryRelease
    else .next (s1.passCtrl (!port) (.arrive src nf fpv pre close rset ss fp fs))
  | _ => .next s

/-- RELEASE_RECEIVE (R362): a module acts on the first RELEASE for its superstep and passes it on; a second copy is discarded; one
for another superstep raises CHAIN_SKEW. -/
def execReleaseReceive (port : Bool) (s : State) : Out :=
  match (s.oport port).ctrl with
  | .release nf sw dv mask ss :: _ =>
    let s1 := s.popCtrl port
    if s.dev.addr = 0 || s.opv.released = some ss then .next s1
    else
      let s2 := s1.passCtrl (!port) (.release nf sw dv mask ss)
      if ss.toNat ≠ s.chainSs then
        let s3 := s2.raise 0x8011 .dev 0 s.chainSs ss.toNat
        .next { s3 with opv := { s3.opv with released := some ss } }
      else .next (s2.actRelease [] nf sw dv mask ss)
  | _ => .next s

/-- CHAIN_DOWN_RECEIVE (R365): the message is passed on, and CHAIN_LOST raised. -/
def execChainDownReceive (port : Bool) (s : State) : Out :=
  match (s.oport port).ctrl with
  | .chainDown src cause left :: _ =>
    let s1 := s.popCtrl port
    if src = s.addrByte then .next s1
    else .next ((s1.passCtrl (!port) (.chainDown src cause left)).chainLost port left.toNat)
  | _ => .next s

/-- CHAIN_PULSE_RECEIVE (R363): a member counts the pulse, latches its time and repeats it on CHAIN_TKN_OUT and SYNC_OUT; module 0
of a ring counts the pulses that return. -/
def execChainPulseReceive (s : State) : Out :=
  if !s.opv.chained then .next s
  else if s.dev.addr = 0 then
    .next (if s.opv.ring then { s with opv := { s.opv with pulses := s.opv.pulses + 1 } } else s)
  else
    .next { s with opv := { s.opv with
      pulses := s.opv.pulses + 1, pulseTime := s.dev.time, pulsesOut := s.opv.pulsesOut + 1, syncOut := s.opv.syncOut + 1 } }

end Sys2Proof.Machine
end

