-- ==== Sys2Proof/Machine/Services.lean ====
section
/-! DEFINITION. What the device services share: reads and writes of tier memory as a requester, the parts of an image object
(R385 to R387), and the giving of an image to the tiles (R63, R141, R192, R295, R390). -/

namespace Sys2Proof.Machine

/-! ## Reads and writes of services -/

/-- Requester of the service sequencers: the west edge port of die 1 at row 20 (R151). -/
def State.svcReq (s : State) : Nat := 2 ^ 15 + (edgeDest s.dev.addr true 2 20).toNat
/-- Requester of the tier movers: the west edge port of die 0 at row 8. -/
def State.moverReq (s : State) : Nat := 2 ^ 15 + (edgeDest s.dev.addr false 2 8).toNat
/-- The port number under which services' writes are logged once per command. -/
def svcSrc : Nat := 2 ^ 32

/-- Words of memory as a service reads them: outside every range they are poison (R8). -/
def State.svcRead (s : State) (a n : Nat) : List PWord :=
  (List.range n).map fun k => if s.tierOf (a + 8 * k) = .none then ⟨Config.freeWord s.dev.free, true⟩ else s.mem.word (a + 8 * k)
/-- The 256 B lines of a range. -/
def linesOf (a n : Nat) : List Nat := (List.range ((a % 256 + n + 255) / 256)).map fun k => a - a % 256 + 256 * k
/-- A service has read `n` bytes from `a`: each line outside every range is logged, and the free values of its words have been drawn (R8). -/
def State.svcSeen (s : State) (req a n : Nat) : State :=
  let bad := (linesOf a n).filter fun l => decide (s.tierOf l = .none)
  let s1 := bad.foldl (fun s l => s.unmapped l req) s
  if bad.isEmpty then s1 else { s1 with dev := { s1.dev with free := s1.dev.free + 1 } }
/-- Bytes of memory as a service reads them, from a multiple of 8, and a little-endian number among them (R8, R9). -/
def State.svcBytesAt (s : State) (a n : Nat) : List Byte := ((s.svcRead a ((n + 7) / 8)).flatMap fun w => toBytes 8 w.d.toNat).take n
def State.svcNum (s : State) (a n : Nat) : Nat := ofBytes ((s.svcBytesAt (a - a % 8) (a % 8 + n)).drop (a % 8))
/-- Write whole words from `a` as a service, for command number `ins`. -/
def State.svcWrite (s : State) (a ins : Nat) (ws : List PWord) : State := s.svcWords s.svcReq svcSrc ins (ws.length / 32 + 2) a ws
/-- Write bytes, a whole number of words, as a service. -/
def State.svcBytes (s : State) (a ins : Nat) (bs : List Byte) : State :=
  s.svcWrite a ins (bytesWords bs (List.replicate (bs.length / 8) false))

/-- Is the compute domain given to client `c` (R296)? -/
def State.running (s : State) (c : BitVec 6) : Bool := s.sch.phase = .running && decide (s.sch.client = c.toNat)
/-- Do all tiles of the module wait without issuing (R390)? -/
def State.allParked (s : State) : Bool := (scopeTiles .module false).all fun t => (s.tile t).core.phase = .parked

/-- Do the tiles stand at a closing CHAIN barrier that has its RELEASE? -/
def State.atChainClose (s : State) : Bool :=
  ((s.tile 0).ssHdr.any fun h => h.close && decide (h.scope = .chain)) && s.releasable .chain false
/-- Is the client that holds the tiles to be switched out at its next pre-emption point? At a CHAIN barrier the RELEASE says so, for every
module alike (R298, R361, R362). -/
def State.wantSwitch (s : State) : Bool := if s.atChainClose then s.opv.relSw else s.sch.request.isSome
/-- Do a pre-emption or a CTX_SAVE of client `c` wait for its next pre-emption point (R298, R303)? -/
def State.pointTaken (s : State) (c : BitVec 6) : Bool :=
  s.wantSwitch || (s.unitHead c .sched).any fun k => decide (k.opc = 0x0A)
/-- The tiles wait for a service: `some none` parked, `some (some sc)` at a released closing barrier of scope `sc` whose release is held. -/
def State.atRest (s : State) : Option (Option Scope) :=
  if s.allParked then some none
  else
    match (s.tile 0).ssHdr with
    | some h => if h.close && s.releasable h.scope false then some (some h.scope) else none
    | none => none
/-- New slice and bound values apply from a pre-emption point on (R447). -/
def State.latchSch (s : State) : State := { s with sch := { s.sch with slice := s.act .sch 0x100, bound := s.act .sch 0x108 } }

/-! ## Images (R385 to R387) -/

/-- Section `k` of the image object at `base`: type, address of its first byte, and size. -/
def State.sect (s : State) (base k : Nat) : Nat × Nat × Nat :=
  let e := base + 256 + 32 * k
  (s.mem.num e 2, base + s.mem.num (e + 8) 8, s.mem.num (e + 16) 8)
/-- Address of the TILES section. -/
def State.tilesAt (s : State) (base : Nat) : Nat :=
  ((List.range (s.mem.num (base + 12) 4)).find? fun k => decide ((s.sect base k).1 = 1)).elim 0 fun k => (s.sect base k).2.1
/-- A code word address of a tile's entry: ENTRY at 8, SBENT at 10, VBENT at 12. -/
def State.tileEntry (s : State) (tiles : Nat) (t : TileId) (o : Nat) : Nat := s.mem.num (tiles + 64 * t.toNat + o) 2

/-- A handle-table entry as it is held: bits [13:0] read zero (R59). -/
def htabMask (w : W64) : W64 := (w >>> 14) <<< 14
/-- The state that an image gives a tile: instruction store, handler table, handle table, segment mask and seeds, with every
powered segment zero (R37, R63, R141, R192, R387); the tile's counters go on. -/
def State.imageTile (s : State) (base tiles : Nat) (t : TileId) : Tile :=
  let e := tiles + 64 * t.toNat
  let code := (s.sect base (s.mem.num e 2)).2.1
  let htab := (s.sect base (s.mem.num (e + 2) 2)).2.1
  let old := s.tile t
  let hs := (List.range 16).map fun i => s.mem.num (code + 2 * i) 2
  { Tile.empty with
    imem := aSetMany 0 [] 0 ((s.mem.words (code + 256) 6144).map (·.d))
    htab := aSetMany 0 [] 0 ((s.mem.words htab 64).map fun w => htabMask w.d)
    mask := BitVec.ofNat 24 (s.mem.num (e + 4) 3)
    seeds := aSetMany 0 [] 0 ((s.mem.words (e + 16) 4).map (·.d))
    bel := { Belfry.empty with handlers := aSetMany none [] 0 (hs.map fun h => if h / 2 ^ 15 = 1 then some (h % 2 ^ 13) else none) }
    ctr := old.ctr, dbg := old.dbg }

/-- Give client `c`'s image to the tiles: each begins the superstep at ENTRY (R63, R295, R390). -/
def State.startImage (s : State) (img : Image) : State :=
  let tiles := s.tilesAt img.dst
  let s1 := (scopeTiles .module false).foldl (fun u t =>
    u.setTile t ((s.imageTile img.dst tiles t).enter (s.tileEntry tiles t 8))) s
  let s2 : State := { s1 with opv := { s1.opv with arrived := false, released := none, relNf := false, relSw := false } }
  (s2.clearLists .module false).sizePools .module false

/-- Let every tile continue at its entry `o` of a body (R390); `counted` says that a barrier's release reaches the tiles. -/
def State.enterBody (s : State) (img : Image) (o : Nat) (sc : Scope) (counted : Bool) : State :=
  let tiles := s.tilesAt img.dst
  let go (u : State) (t : TileId) : State := u.modTile t fun x => x.enter (s.tileEntry tiles t o)
  if counted then ((scopeTiles .module false).foldl go (s.releaseScope sc false id)).sizePools .module false
  else (((scopeTiles .module false).foldl go s).clearLists .module false).sizePools .module false

end Sys2Proof.Machine
end

