-- ==== Sys2Proof/Machine/Objects.lean ====
section
/-! DEFINITION. The object table and the tier mover's host commands: PLACE, EVICT and COPY (R229 to R234, R329, R332). -/

namespace Sys2Proof.Machine

/-! ## Binding and room -/

/-- Ranges that active set-up settings name (R230). -/
def State.setupRanges (s : State) : List (Nat × Nat) :=
  (if s.act .trg 0x108 = 0 then [] else [(s.act .trg 0x110, s.act .trg 0x118), (s.act .trg 0x120, s.act .trg 0x128)])
    ++ (if s.act .trc 0x100 % 2 = 1 then [(s.act .trc 0x110, 2 * (s.act .trc 0x108 / 4096))] else [])
    ++ (List.range 64).flatMap fun n =>
      let r := s.act .bel (0x110 + 8 * n)
      let c := s.act .sch (0x200 + 0x40 * n)
      (if r = 0 then [] else [(r, 2048 * s.act .bel 0x100)]) ++ if c = 0 then [] else [(c, 862880000)]
/-- A setting in use of an output, by its offset. -/
def LanOut.reg (o : LanOut) (k : Nat) : Nat := ((aGet none o.use k).getD 0).toNat
/-- Buffers that Lantern holds (R376). -/
def State.lanRanges (s : State) : List (Nat × Nat) :=
  [s.lan0, s.lan1].flatMap fun o =>
    (o.cur.toList ++ (o.latched.toList.map fun l => l.1.base) ++ o.pend.map (·.base)).map fun a => (a, o.reg 0x30 * (o.reg 0x20 % 2 ^ 14))
/-- Do two ranges overlap? -/
def rangeMeets (a n : Nat) (o : Obj) : Bool := decide (a < o.base + o.size) && decide (o.base < a + n)
/-- Is an object bound for a reason other than command `but` (R230, R234)? -/
def State.bound (s : State) (o : Obj) (but : Nat) : Bool :=
  o.sealed || (s.imgs.any fun kv => kv.2.any fun i => decide (o.id ∈ i.binds) || decide (i.obj = o.id))
    || (s.host.cmds.any fun c => decide (c.id ≠ but) && c.names o)
    || (s.setupRanges ++ s.lanRanges).any fun r => rangeMeets r.1 r.2 o

/-- First address and size of a tier: 0 H, 1 G, 2 C (R7). -/
def State.tierRange (s : State) (t : Nat) : Nat × Nat :=
  match t with
  | 0 => (0, 2 ^ 40)
  | 1 => (2 ^ 40, 2 ^ 41)
  | _ => (2 ^ 42, if s.tierCOn then s.act .trc 0x108 else 0)
/-- The lowest free range of a tier that fits (R231). -/
def lowestFit (tr : Nat × Nat) (objs : List Obj) (t size : Nat) : Option Nat :=
  let mine := objs.filter fun o => decide (o.tier = t)
  let fits (a : Nat) : Bool := decide (a + size ≤ tr.1 + tr.2) && mine.all fun o => !rangeMeets a size o
  let starts := (tr.1 :: mine.map fun o => o.base + o.size).filter fits
  starts.foldl (fun b a => some (b.elim a (min a))) none
/-- Bytes of a tier that a client uses, and bytes free. -/
def usage (objs : List Obj) (t : Nat) (c : BitVec 6) : Nat :=
  ((objs.filter fun o => decide (o.tier = t) && decide (o.owner = c)).map (·.size)).sum
def State.freeBytes (s : State) (t : Nat) : Nat := (s.tierRange t).2 - ((s.obj.objs.filter fun o => decide (o.tier = t)).map (·.size)).sum
/-- A client's floor in a tier (R233). -/
def State.floor (s : State) (c : BitVec 6) (t : Nat) : Nat := s.act .sch (0x200 + 0x40 * c.toNat + 0x10 + 8 * t)
/-- The tier of a spill. -/
def Spill.tier : Spill → Option Nat
  | .g => some 1 | .c => some 2 | _ => Option.none

/-- May object `o` be evicted to make room in tier `t` (R231)? The objects in `keep` are being moved already. -/
def State.candidate (s : State) (objs : List Obj) (keep : List Nat) (t but : Nat) (o : Obj) : Bool :=
  decide (o.tier = t) && !decide (o.id ∈ keep) && !s.bound o but && !o.pin && o.spill ≠ .none && decide (o.spill.tier ≠ some t)
    && decide (s.floor o.owner t + o.size ≤ usage objs t o.owner)

/-- A planned placement: where it goes, the moves that make its room in order, and the table after them. -/
structure Plan where
  base : Nat
  moves : List Move
  objs : List Obj
deriving DecidableEq, Repr

/-- Insert by touch time, ties by lower identifier. -/
def byTouch (o : Obj) : List Obj → List Obj
  | [] => [o]
  | p :: l => if o.touch < p.touch || (decide (o.touch = p.touch) && decide (o.id < p.id)) then o :: p :: l else p :: byTouch o l

/-- Place `size` bytes in tier `t`: at the lowest free range, or behind an eviction set whose spills into other tiers are themselves
placed under this rule (R231). `keep` names the objects that are being moved; the first number bounds the depth of spills, each of which
moves one object more. -/
def State.plan (s : State) (but : Nat) : Nat → List Nat → List Obj → Nat → Nat → Option Plan
  | 0, _, objs, t, size => (lowestFit (s.tierRange t) objs t size).map fun b => ⟨b, [], objs⟩
  | n + 1, keep, objs, t, size =>
    match lowestFit (s.tierRange t) objs t size with
    | some b => some ⟨b, [], objs⟩
    | none =>
      let evict (acc : Plan × Bool) (o : Obj) : Plan × Bool :=
        let p := acc.1
        if acc.2 || !s.candidate p.objs keep t but o then acc
        else
          let q : Option Plan :=
            if o.spill = .drop then some ⟨0, p.moves ++ [⟨o.id, none⟩], p.objs.filter fun x => decide (x.id ≠ o.id)⟩
            else
              match o.spill.tier with
              | none => none
              | some t2 => (s.plan but n (o.id :: keep) p.objs t2 o.size).map fun r =>
                ⟨0, p.moves ++ r.moves ++ [⟨o.id, some (t2, r.base)⟩],
                 r.objs.map fun x => if x.id = o.id then { x with tier := t2, base := r.base } else x⟩
          match q with
          | none => acc
          | some q =>
            match lowestFit (s.tierRange t) q.objs t size with
            | some b => ({ q with base := b }, true)
            | none => (q, false)
      let r := (objs.foldl (fun l o => byTouch o l) []).foldl evict (⟨0, [], objs⟩, false)
      if r.2 then some r.1 else none

/-- Make room for `size` bytes in tier `t` without moving the objects in `keep`. -/
def State.makeRoom (s : State) (but : Nat) (keep : List Nat) (t size : Nat) : Option Plan :=
  s.plan but (s.obj.objs.length + 1) keep s.obj.objs t size

/-! ## Mover streams (R229) -/

/-- A stream's share of the mover's 1 MiB staging buffer: one of 64 (log entry 131). -/
def moverShare : Nat := 16384
/-- Begin a stream between plain ranges. Where the destination overlaps its source from above, the lines go in descending order, so that
every line is read before it is overwritten (R234). -/
def State.beginStream (s : State) (what : MvFor) (ctx : BitVec 6) (src dst len : Nat) (hostSrc hostDst : Bool) (pol : BitVec 2) : State :=
  let down := !hostSrc && !hostDst && decide (src < dst) && decide (dst < src + len)
  { s with obj := { s.obj with streams := s.obj.streams ++ [⟨what, ctx, src, dst, len, hostSrc, hostDst, pol, down, 0, 0, moverShare, []⟩] } }
/-- The stream of a command or an object. -/
def State.streamOf (s : State) (what : MvFor) : Option MvStream := s.obj.streams.find? fun m => decide (m.what = what)
/-- A stream ends. -/
def State.dropStream (s : State) (what : MvFor) : State :=
  { s with obj := { s.obj with streams := s.obj.streams.filter fun m => decide (m.what ≠ what) } }
def State.setStream (s : State) (m : MvStream) : State :=
  { s with obj := { s.obj with streams := s.obj.streams.map fun k => if k.what = m.what then m else k } }
/-- May the stream's next source read be issued: its credit covers it? -/
def MvStream.canAsk (m : MvStream) : Bool := decide (m.asked < m.len) && decide (256 ≤ m.credit)
/-- Offset of the next line to read. -/
def MvStream.next (m : MvStream) : Nat := if m.down then m.len - 256 - m.asked else m.asked

/-! ## PLACE, EVICT and the moves -/

/-- The PLACE or EVICT at the head of a client's mover queue, when it is the oldest fetched of any client's and none executes. -/
def State.moverHead (s : State) (ctx : BitVec 6) (opc : Nat) : Option Cmd :=
  (s.unitHead ctx .mover).filter fun c =>
    decide (c.opc = opc) && s.obj.job.isNone
      && (List.range 64).all fun n => ((s.unitQ (BitVec.ofNat 6 n) .mover).filterMap s.cmd?).all fun d =>
        decide (c.id ≤ d.id) || (decide (d.opc ≠ 5) && decide (d.opc ≠ 6))

/-- The lowest identifier free in the table. -/
def State.freeId (s : State) : Option Nat := (List.range 65536).find? fun i => (s.obj? i).isNone
/-- Insert into the table, identifiers rising. -/
def insertObj (o : Obj) : List Obj → List Obj
  | [] => [o]
  | p :: l => if o.id < p.id then o :: p :: l else p :: insertObj o l
/-- SPILL of a PLACE. -/
def spillOf (n : Nat) : Spill := match n with | 1 => .g | 2 => .c | 3 => .drop | _ => .none
/-- Status of a PLACE or EVICT for which no room can be made (R232). -/
def State.noRoom (s : State) (t size : Nat) : Nat := if size ≤ s.freeBytes t then 0x0031 else 0x0030

/-- An object has moved: its entry names its new place (R234). -/
def State.moveObj (s : State) (id tier base : Nat) : State := s.modObj id fun o => { o with tier := tier, base := base }
/-- The mover begins to move an object's contents. -/
def State.beginMove (s : State) (ctx : BitVec 6) (id base : Nat) : State :=
  match s.obj? id with
  | none => s
  | some o => s.beginStream (.obj id) ctx o.base base o.size false false 2
/-- Has the stream that moves an object written every byte? -/
def State.moved (s : State) (id : Nat) : Bool := (s.streamOf (.obj id)).any fun m => decide (m.done = m.len)
/-- Remove an object from the table. -/
def State.freeObj (s : State) (id : Nat) : State :=
  { s with obj := { s.obj with objs := s.obj.objs.filter fun o => decide (o.id ≠ id) } }

/-- End a PLACE or EVICT whose room has been made: a new object takes the lowest identifier that is free then (R329). -/
def State.endJob (s : State) (j : PlaceJob) : State :=
  let s1 : State := { s with obj := { s.obj with job := none } }
  match j.fin with
  | .place tier base size spill pin =>
    let id := s.freeId.getD 0
    let o : Obj := ⟨id, j.ctx, tier, base, size, spill, pin, s.dev.time, false⟩
    ({ s1 with obj := { s1.obj with objs := insertObj o s1.obj.objs } } : State).complete j.cmd 0 (BitVec.ofNat 64 (base + id * 2 ^ 48))
  | .evict id tier base => (s1.moveObj id tier base).complete j.cmd 0 (BitVec.ofNat 64 base)
/-- A job goes on: with no move left, a PLACE ends and an EVICT begins to move its object; else the mover begins the next move. -/
def State.nextMove (s : State) (j : PlaceJob) : State :=
  let s1 : State := { s with obj := { s.obj with job := some j } }
  match j.moves with
  | [] =>
    match j.fin with
    | .place .. => s1.endJob j
    | .evict id _ base => s1.beginMove j.ctx id base
  | m :: _ =>
    match m.dst with
    | some (_, b) => s1.beginMove j.ctx m.obj b
    | none => s1

/-- PLACE (R231, R232, R329). -/
def execPlace (ctx : BitVec 6) (s : State) : Out :=
  match s.moverHead ctx 5 with
  | none => .next s
  | some c =>
    let t := c.num 16 1
    let size := c.num 24 8
    if s.freeId.isNone then .next (s.complete c.id 0x0033 0)
    else
      match s.makeRoom c.id [] t size with
      | none => .next (s.complete c.id (s.noRoom t size) 0)
      | some p => .next (s.nextMove ⟨ctx, c.id, p.moves, .place t p.base size (spillOf (c.num 17 1)) (decide (c.num 18 1 % 2 = 1))⟩)

/-- EVICT (R234, R329). -/
def execEvict (ctx : BitVec 6) (s : State) : Out :=
  match s.moverHead ctx 6 with
  | none => .next s
  | some c =>
    let t := c.num 18 1
    match (s.obj? (c.num 16 2)).filter fun o => decide (o.owner = ctx) with
    | none => .next (s.complete c.id 0x0034 0)
    | some o =>
      if s.bound o c.id then .next (s.complete c.id 0x0032 0)
      else if t = 3 then .next ((s.freeObj o.id).complete c.id 0 (BitVec.allOnes 64))
      else if t = o.tier then .next (s.complete c.id 0 (BitVec.ofNat 64 o.base))
      else
        match s.makeRoom c.id [o.id] t o.size with
        | none => .next (s.complete c.id (s.noRoom t o.size) 0)
        | some p => .next (s.nextMove ⟨ctx, c.id, p.moves, .evict o.id t p.base⟩)

/-- OBJECT_SPILL_COMPLETE (R231, R332): the next object of the eviction set has moved, every byte of it written, or is dropped; its EVICTED
record is posted, and the PLACE or EVICT goes on. -/
def execObjectSpillComplete (obj : W16) (s : State) : Out :=
  match s.obj.job with
  | none => .next s
  | some j =>
    match j.moves, s.obj? obj.toNat with
    | m :: ms, some o =>
      if decide (m.obj ≠ obj.toNat) || (m.dst.isSome && !s.moved o.id) then .next s
      else
        let s1 := match m.dst with
          | some (t, b) => (s.dropStream (.obj o.id)).moveObj o.id t b
          | none => s.freeObj o.id
        let s2 := s1.postEvicted o.owner o.id (m.dst.map (·.2)) j.cmd
        let s3 : State := { s2 with obj := { s2.obj with evictions := s2.obj.evictions.set o.tier (s2.obj.evictions.getD o.tier 0 + 1) } }
        .next (s3.nextMove { j with moves := ms })
    | _, _ => .next s

/-- COPY (R229, R234, R328): the mover begins a stream for it; a COPY of no bytes completes at once. -/
def execCopy (ctx : BitVec 6) (s : State) : Out :=
  match s.unitHead ctx .mover with
  | none => .next s
  | some c =>
    let sp := c.num 16 1
    let len := c.num 40 8
    if decide (c.opc ≠ 4) || (s.streamOf (.copy c.id)).isSome then .next s
    else if len = 0 then .next (s.complete c.id 0 0)
    else .next (s.beginStream (.copy c.id) ctx (c.num 24 8) (c.num 32 8) len (decide (sp % 2 = 1)) (decide (sp / 2 % 2 = 1)) (BitVec.ofNat 2 (sp / 4)))

/-- The next source read of a stream is issued; `data` is what the host's memory holds there. Its line waits in the staging buffer. -/
def State.readStream (s : State) (m : MvStream) (data : List W64) (errs : List MemErr) : State :=
  let a := m.src + m.next
  let take (s : State) (ws : List PWord) : State :=
    s.setStream { m with asked := m.asked + 256, credit := m.credit - 256, staged := m.staged ++ [(m.next, ws)] }
  if m.hostSrc then (if data.length = 32 then take s (data.map fun w => ⟨w, false⟩) else s)
  else
    s.withSnoops [(a, 256)] [] fun s0 =>
      let s := s0.tierErrs [(a, 256)] errs
      take (s.svcSeen s.moverReq a 256) (s.svcRead a 32)
/-- A stream has written every byte: its COPY completes, or the EVICT whose object it moved ends; an object of an eviction set waits for
its OBJECT_SPILL_COMPLETE. -/
def State.endStream (s : State) (m : MvStream) : State :=
  match m.what with
  | .copy id => (s.dropStream m.what).complete id 0 (BitVec.ofNat 64 m.len)
  | .obj id =>
    match s.obj.job with
    | some j => if j.moves.isEmpty && (match j.fin with | .evict i _ _ => decide (i = id) | _ => false) then (s.dropStream m.what).endJob j else s
    | none => s
/-- The oldest staged line of a stream is written and accepted: its bytes return as credit. -/
def State.writeStream (s : State) (m : MvStream) : State :=
  match m.staged with
  | [] => s
  | (off, ws) :: rest =>
    let a := m.dst + off
    let ins := match m.what with | .copy id => id + 1 | .obj _ => s.obj.job.elim 0 fun j => j.cmd + 1
    let m1 : MvStream := { m with done := m.done + 256, credit := m.credit + 256, staged := rest }
    let fin (s : State) : State := if m1.done = m1.len then (s.setStream m1).endStream m1 else s.setStream m1
    if m.hostDst then fin (s.send (.mem m.ctx a ws))
    else s.withSnoops [] [(a, 256)] fun s => fin (s.polWords m.pol s.moverReq svcSrc ins 2 a ws)

end Sys2Proof.Machine
end

