-- ==== Sys2Proof/Machine/Lantern.lean ====
section
/-! DEFINITION. The two Lantern outputs: settings, submissions, the frame cycle, reads and pixels, failures, and AUX (R366 to
R384, R445, R446). -/

namespace Sys2Proof.Machine

def State.lan (s : State) (n : Bool) : LanOut := if n then s.lan1 else s.lan0
def State.setLan (s : State) (n : Bool) (o : LanOut) : State := if n then { s with lan1 := o } else { s with lan0 := o }
def State.modLan (s : State) (n : Bool) (f : LanOut → LanOut) : State := s.setLan n (f (s.lan n))

/-! ## Settings (R369, R370, R445) -/

def LanOut.en (o : LanOut) : Bool := decide (o.reg 0 % 2 = 1)
def LanOut.hactive (o : LanOut) : Nat := o.reg 0x10 % 2 ^ 15
def LanOut.vactive (o : LanOut) : Nat := o.reg 0x20 % 2 ^ 14
def LanOut.pitch (o : LanOut) : Nat := o.reg 0x30
/-- Offset of an output's first register in the LAN block. -/
def lanBase (n : Bool) : Nat := 0x100 + 0x80 * n.toNat
/-- The active settings of an output. -/
def State.lanSet (s : State) (n : Bool) : Assoc (Option W64) :=
  (List.range 9).foldl (fun l k => aSet none l (8 * k) (some (s.regs.activeAt .lan (lanBase n + 8 * k)))) []

/-- Payload capacity in kbit/s (R368). -/
def lanCap : Nat → Nat
  | 0 => 38180000 | 1 => 51540000 | _ => 76350000
/-- The first check of R370 that an enabled output's settings fail, as its cause code; `reg` reads a LAN register, and `rsvAt` above its
offset the reserved bits written to it, and `ctxEn` says which contexts are enabled under the new settings. -/
def lanCause (reg : Nat → Nat) (ctxEn : Nat → Bool) (n : Bool) : Option Nat :=
  let r (k : Nat) : Nat := reg (lanBase n + k)
  let ha := r 0x10 % 2 ^ 15
  let ht := r 0x10 / 2 ^ 16
  let hfp := r 0x18 % 2 ^ 15
  let hsw := r 0x18 / 2 ^ 16 % 2 ^ 15
  let va := r 0x20 % 2 ^ 14
  let vt := r 0x20 / 2 ^ 16
  let vfp := r 0x28 % 2 ^ 15
  let vsw := r 0x28 / 2 ^ 16 % 2 ^ 15
  let rate := r 0 / 2 % 4
  let depth := if r 0 / 8 % 2 = 1 then 10 else 8
  let pclk := r 8
  if r 0 % 2 = 0 then none
  else if decide (ha < 640) || decide (7680 < ha) || decide (ha % 8 ≠ 0) || decide (va < 480) || decide (4320 < va)
      || decide (ht < ha + 64) || decide (16384 < ht) || decide (ht < ha + hfp + hsw) || decide (hsw < 8)
      || decide (vt < va + 8) || decide (8192 < vt) || decide (vt < va + vfp + vsw) || decide (vsw < 1)
      || decide (rate = 3) || decide (r 0 / 64 % 4 = 3) || (List.range 9).any (fun k => decide (r (rsvAt + 8 * k) ≠ 0)) then some 3
  else if decide (pclk < 25000) || decide (2400000 < pclk) || decide (1000 * pclk < 23 * ht * vt) || decide (121 * ht * vt < 1000 * pclk)
    then some 4
  else if 99 * lanCap rate < 100 * (pclk * 3 * depth) then some 5
  else if decide (r 0x30 % 256 ≠ 0) || decide (r 0x30 < 4 * ha) || decide (65536 < r 0x30) then some 6
  else if !ctxEn (r 0x40) then some 7
  else none

/-! ## Completing submissions -/

/-- Submissions complete with one status and result. -/
def State.endSubs (s : State) (l : List Submit) (status : Nat) (result : W64) : State := l.foldl (fun s x => s.complete x.cmd status result) s
/-- An output's reads are wanted no more. -/
def LanOut.dropLines (o : LanOut) : LanOut :=
  { o with asked := o.asked.map fun a => { a with wanted := false }, want := [], buf := [], lineUnder := false }
/-- An output leaves RUN or START: its pending submissions complete with LAN_OFF, and it drops its current buffer. -/
def State.lanStop (s : State) (n : Bool) : State :=
  let o := s.lan n
  let s1 := s.setLan n { o.dropLines with st := .off, pend := [], latched := none, cur := none, pos := .stream }
  s1.endSubs ((o.latched.toList.map (·.1)) ++ o.pend) 0x64 0
/-- A failure returns an output to OFF (R372). -/
def State.lanFail (s : State) (n : Bool) (cause : Nat) : State :=
  ((s.lanStop n).modLan n fun o => { o with cause := BitVec.ofNat 8 cause }).log 0x1010 .output n.toNat cause 0 |>.alert 4

/-- An accepted LAN commit reaches an output (R371, R372). -/
def State.lanAccept (s : State) (n : Bool) : State :=
  let o := s.lan n
  let new := s.lanSet n
  let o1 : LanOut := { o with cause := 0, underLogged := false, orphan := false }
  if o.st = .off then
    let o2 : LanOut := { o1 with use := new, change := false }
    s.setLan n (if o2.en && s.pwr.ready then { o2 with st := .start, pos := .stream } else o2)
  else s.setLan n { o1 with change := decide (new ≠ o.use) }
/-- The contexts that own outputs lose them (R375). -/
def State.ownerLost (s : State) (c : BitVec 6) : State :=
  [false, true].foldl (fun s n =>
    let o := s.lan n
    if s.act .lan (lanBase n + 0x40) = c.toNat && !o.orphan then
      if o.st = .off then s.setLan n { o with orphan := true }
      else (s.setLan n { o with orphan := true, pend := [], cause := 7 }).endSubs o.pend 0x63 0
    else s) s

/-! ## FRAME_SUBMIT (R374, R379) -/

/-- FRAME_SUBMIT: the command at the head of the client's queue at Lantern is refused, or becomes pending once one of the sixteen
places is free. -/
def execFrameSubmit (ctx : BitVec 6) (s : State) : Out :=
  match s.unitHead ctx .lantern with
  | none => .next s
  | some c =>
    let n := decide (c.num 16 1 % 2 = 1)
    let o := s.lan n
    let base := c.num 24 6
    if base % 256 ≠ 0 || decide (2 ^ 40 < base + o.pitch * o.vactive) then .next (s.complete c.id 0x60 0)
    else if o.orphan || decide (s.act .lan (lanBase n + 0x40) ≠ ctx.toNat) then .next (s.complete c.id 0x63 0)
    else if o.st = .off then .next (s.complete c.id 0x64 0)
    else if 16 ≤ o.pend.length then .next s
    else .next ((s.setLan n { o with pend := o.pend ++ [⟨c.id, base, c.num 32 8⟩] }).unqueue ctx c.id)

/-! ## Reads (R381) -/

/-- The request flit for one 256 B line of memory. -/
def lanReq (req : Gta) (home : Gta) (tag addr : Nat) : Flit :=
  { hdr := FHdr.word { vc := 0, kind := 5, edge := true, dest := home, last := true, cmb := false, slot := 0, dh := 0, drow := 0, age := 0 }
    pay := [⟨BitVec.ofNat 64 (2 * 2 ^ 58 + 2 ^ 15 + req.toNat), false⟩, ⟨BitVec.ofNat 64 (tag * 2 ^ 58 + addr), false⟩]
      ++ List.replicate 6 pw0
    row := 0 }
/-- The edge port of a home slice. -/
def State.homePort (s : State) (a : Nat) : Gta :=
  let sl := homeOf a
  edgeDest s.dev.addr sl.die (if sl.south then 1 else 0) sl.col.toNat
/-- Send one read that waits, through row 16 + place mod 4, when a tag of that row is free. -/
def State.lanAsk (s : State) (n : Bool) (p : Nat × Nat) : State :=
  let o := s.lan n
  let row := 16 + p.2 % 4
  match o.cur, (List.range 64).find? fun t => !(o.asked.any fun a => decide (a.row = row) && decide (a.tag = t)) with
  | some base, some tag =>
    let a := base + p.1 * o.pitch + 256 * p.2
    (s.setLan n { o with asked := o.asked ++ [⟨row, tag, p.1, p.2, true⟩] }).injectEdge (mkTile n row 0) .edgeW
      (lanReq (edgeDest s.dev.addr n 2 row) (s.homePort a) tag a)
  | _, _ => s.setLan n { o with want := o.want ++ [p] }
/-- Send the reads that wait. -/
def State.lanPump (s : State) (n : Bool) : State :=
  let w := (s.lan n).want
  w.foldl (fun s p => s.lanAsk n p) (s.modLan n fun o => { o with want := [] })
/-- Ask for a line of the current buffer, all its 256 B lines. -/
def State.lanLine (s : State) (n : Bool) (k : Nat) : State :=
  let o := s.lan n
  if o.cur.isSome && decide (k < o.vactive) then
    (s.setLan n { o with want := o.want ++ (List.range ((4 * o.hactive + 255) / 256)).map fun i => (k, i) }).lanPump n
  else s

/-- One response flit reaches an output at edge row `row`. -/
def LanOut.land (o : LanOut) (row : Nat) (f : Flit) : LanOut :=
  let h := hdrOf f.hdr
  match o.asked.find? fun a => decide (a.row = row) && decide (a.tag = h.slot % 64) with
  | none => o
  | some a =>
    let r := h.drow % 4
    let o1 : LanOut := if a.wanted then { o with buf := aSet [] o.buf (512 * a.line + 4 * a.idx + r) f.pay } else o
    if r = 3 then { o1 with asked := o1.asked.erase a } else o1
/-- Take what has arrived at the output's four edge rows. -/
def State.lanTake (s : State) (n : Bool) : State :=
  ([16, 17, 18, 19].foldl (fun s row =>
    let k := edgeKey (mkTile n row 0) .edgeW 0
    let q := s.edgeQ k
    (s.modLan n fun o => q.foldl (fun o f => o.land row f) o).setEdgeQ k []) s).lanPump n

/-! ## Pixels (R373, R383) -/

/-- Three components as sent, from a pixel word in format P10 or P8, at 10 or 8 bits per component. -/
def pixelOut (p10 ten : Bool) (w : Nat) : BitVec 30 :=
  let comp (c : Nat) : Nat :=
    if p10 then (let v := w / 2 ^ (10 * c) % 1024; if ten then v else v / 4)
    else (let v := w / 2 ^ (8 * c) % 256; if ten then 4 * v + v / 64 else v)
  BitVec.ofNat 30 (comp 0 + 2 ^ 10 * comp 1 + 2 ^ 20 * comp 2)
/-- A word of a line of the line buffer, if it has arrived. -/
def LanOut.word (o : LanOut) (k i : Nat) : Option PWord :=
  match aGet [] o.buf (512 * k + i / 8) with
  | [] => none
  | l => l[i % 8]?
/-- The pixels of line `k` with what the line buffer holds of it. -/
def LanOut.pixels (o : LanOut) (k : Nat) : List (BitVec 30) :=
  let ten := decide (o.reg 0 / 8 % 2 = 1)
  let p10 := decide (o.reg 0 / 32 % 2 = 1)
  let fill := pixelOut true ten (o.reg 0x38)
  (List.range o.hactive).map fun x =>
    match o.word k (x / 2) with
    | some w => if w.p then fill else pixelOut p10 ten (if x % 2 = 0 then w.d.toNat % 2 ^ 32 else w.d.toNat / 2 ^ 32)
    | none => fill
/-- Is a pixel of line `k` missing from the line buffer? -/
def LanOut.missing (o : LanOut) (k : Nat) : Bool := o.cur.isSome && (List.range (o.hactive / 2)).any fun i => (o.word k i).isNone
/-- A line with missing pixels is counted once, and logged once after a commit; its later data is not wanted. -/
def State.lineLate (s : State) (n : Bool) (k : Nat) : State :=
  let o := s.lan n
  if o.lineUnder || !o.missing k then s
  else
    let o1 : LanOut := { o with
      underrun := o.underrun + 1, lineUnder := true, underLogged := true
      asked := o.asked.map fun a => if a.line = k then { a with wanted := false } else a
      want := o.want.filter fun w => decide (w.1 ≠ k) }
    let s1 := s.setLan n o1
    if o.underLogged then s1 else s1.log 0x1011 .output n.toNat o.frame k
/-- A line has been sent. -/
def State.lineSent (s : State) (n : Bool) (k : Nat) : State :=
  let s1 := s.lineLate n k
  s1.modLan n fun o =>
    { o with
      sent := o.pixels k, lineUnder := false
      poison := o.poison + ((List.range (o.hactive / 2)).filter fun i => (o.word k i).any (·.p)).length
      buf := o.buf.filter fun kv => decide (kv.1 / 512 ≠ k)
      asked := o.asked.map fun a => if a.line = k then { a with wanted := false } else a }

/-! ## The frame cycle (R378 to R381) -/

/-- LATCH_POINT (R371, R379): the last line has been sent, or the stream has begun. Changed settings stop the output here; else the
current buffer of the next frame is chosen, and its first two lines are asked for. -/
def execLatchPoint (out : Bool) (s : State) : Out :=
  let o := s.lan out
  let due := match o.pos with
    | .stream => true
    | .line k => decide (k + 1 = o.vactive)
    | _ => false
  if o.st ≠ .run || !due then .next s
  else
    let s1 := s.lanTake out
    let s2 := match o.pos with
      | .line k => s1.lineSent out k
      | _ => s1
    if o.change then
      let s3 := (s2.lanStop out).modLan out fun x => { x with use := s.lanSet out, change := false }
      .next (if (s3.lan out).en then s3.modLan out fun x => { x with st := .start } else s3)
    else
      let o2 := (s2.lan out).dropLines
      let f := o2.frame + 1
      let mine := o2.pend.filter fun p => decide (p.frame = 0 ∨ p.frame ≤ f)
      let rest := o2.pend.filter fun p => !decide (p.frame = 0 ∨ p.frame ≤ f)
      let s3 := match mine.getLast? with
        | some p => (s2.setLan out { o2 with pend := rest, cur := some p.base, latched := some (p, f), pos := .blank }).endSubs mine.dropLast 0x61
            (BitVec.ofNat 64 f)
        | none => s2.setLan out { o2 with pos := .blank }
      .next ((s3.lanLine out 0).lanLine out 1)

/-- The metadata of a frame under the settings in use (R366, R445). -/
def LanOut.frameMeta (o : LanOut) : LanMeta :=
  let ht := o.reg 0x10 / 2 ^ 16
  let vt := o.reg 0x20 / 2 ^ 16
  let bit (r k : Nat) : Bool := decide (o.reg r / 2 ^ k % 2 = 1)
  { htotal := ht, hstart := ht - o.hactive - o.reg 0x18 % 2 ^ 15, hwidth := o.hactive, hsw := o.reg 0x18 / 2 ^ 16 % 2 ^ 15, hpos := bit 0x18 31
    vtotal := vt, vstart := vt - o.vactive - o.reg 0x28 % 2 ^ 15, vheight := o.vactive, vsw := o.reg 0x28 / 2 ^ 16 % 2 ^ 15, vpos := bit 0x28 31
    ten := bit 0 3, ycc := bit 0 4, color := o.reg 0 / 64 % 4, cta := bit 0 8 }
/-- FIRST_ACTIVE_PIXEL (R366, R378, R380): the frame begins, its metadata sent in the blank before it; the submission that became current
completes. -/
def execFirstActivePixel (out : Bool) (s : State) : Out :=
  let o := s.lan out
  if o.st ≠ .run || o.pos ≠ .blank then .next s
  else
    let s1 := s.setLan out { o with frame := o.frame + 1, frameTime := s.dev.time, pos := .first, latched := none, info := some o.frameMeta }
    match o.latched with
    | none => .next s1
    | some (p, n) => .next (s1.complete p.cmd (if decide (p.frame ≠ 0) && decide (p.frame < n) then 0x62 else 0) (BitVec.ofNat 64 n))

/-- LINE_START (R373, R381): the line before has been sent; line k begins, and line k + 2 is asked for. -/
def execLineStart (out : Bool) (s : State) : Out :=
  let o := s.lan out
  if o.st ≠ .run then .next s
  else
    match o.pos with
    | .first => .next (((s.lanTake out).modLan out fun x => { x with pos := .line 0 }).lanLine out 2)
    | .line k =>
      if k + 1 < o.vactive then
        .next ((((s.lanTake out).lineSent out k).modLan out fun x => { x with pos := .line (k + 1) }).lanLine out (k + 3))
      else .next s
    | _ => .next s

/-- LINE_UNDERRUN (R383): a pixel of the line being sent is not in the line buffer when it is due. -/
def execLineUnderrun (out : Bool) (s : State) : Out :=
  let o := s.lan out
  match o.pos with
  | .line k => .next (if o.st = .run then (s.lanTake out).lineLate out k else s)
  | _ => .next s

/-! ## Starting and failing (R372, R384) -/

/-- OUTPUT_START_COMPLETE (R372): the stream begins, or the output returns to OFF with the cause. -/
def execOutputStartComplete (out : Bool) (res : StartResult) (s : State) : Out :=
  let o := s.lan out
  if o.st ≠ .start then .next s
  else if !o.hpd then .next (s.lanFail out 0x10)
  else
    match res with
    | .ok => .next (s.setLan out { o with st := .run, pos := .stream })
    | .noSink => .next (s.lanFail out 0x10)
    | .sinkCaps => .next (s.lanFail out 0x11)
    | .trainFail => .next (s.lanFail out 0x12)

/-- HPD_LOST (R384): hot-plug detect falls while the output runs. -/
def execHpdLost (out : Bool) (s : State) : Out :=
  .next (if (s.lan out).st = .run then (s.modLan out fun o => { o with hpd := false }).lanFail out 0x13 else s)
/-- LINK_LOST (R372, R384, R446): an IRQ pulse reports loss of lock. -/
def execLinkLost (out : Bool) (s : State) : Out :=
  .next (if (s.lan out).st = .run then (s.modLan out fun o => { o with irq := true }).lanFail out 0x14 else s)
/-- HPD_IRQ_PULSE (R446). -/
def execHpdIrqPulse (out : Bool) (s : State) : Out := .next (s.modLan out fun o => { o with irq := true })
/-- HPD_LEVEL_CHANGE (R445): while the output does not run. -/
def execHpdLevelChange (out level : Bool) (s : State) : Out :=
  .next (if (s.lan out).st = .run then s else s.modLan out fun o => { o with hpd := level })

/-! ## AUX (R366, R446) -/

/-- A LAN_AUXn_CMD write: discarded while a transaction is in progress. -/
def State.auxCmd (s : State) (n : Bool) (op : Nat) (len : BitVec 4) (addr : BitVec 20) : State :=
  if !s.pwr.perst || (s.lan n).busy.isSome then s
  else s.modLan n fun o => { o with busy := some ⟨op, addr.toNat, len.toNat⟩ }
/-- AUX_NATIVE_WRITE. -/
def execAuxNativeWrite (out : Bool) (len : BitVec 4) (addr : BitVec 20) (s : State) : Out := .next (s.auxCmd out 0 len addr)
/-- AUX_NATIVE_READ. -/
def execAuxNativeRead (out : Bool) (len : BitVec 4) (addr : BitVec 20) (s : State) : Out := .next (s.auxCmd out 1 len addr)
/-- AUX_I2C_WRITE. -/
def execAuxI2cWrite (out : Bool) (len : BitVec 4) (addr : BitVec 20) (s : State) : Out := .next (s.auxCmd out 4 len addr)
/-- AUX_I2C_READ. -/
def execAuxI2cRead (out : Bool) (len : BitVec 4) (addr : BitVec 20) (s : State) : Out := .next (s.auxCmd out 5 len addr)
/-- AUX_I2C_WRITE_STOP_WITHHELD. -/
def execAuxI2cWriteStopWithheld (out : Bool) (len : BitVec 4) (addr : BitVec 20) (s : State) : Out := .next (s.auxCmd out 6 len addr)
/-- AUX_I2C_READ_STOP_WITHHELD. -/
def execAuxI2cReadStopWithheld (out : Bool) (len : BitVec 4) (addr : BitVec 20) (s : State) : Out := .next (s.auxCmd out 7 len addr)

/-- The low `n` bytes of the two data words come from `new`, the others stay. -/
def auxData (n : Nat) (old new : Nat) : Nat := new % 2 ^ (8 * n) + old / 2 ^ (8 * n) * 2 ^ (8 * n)
/-- AUX_REPLY: the transaction ends; a read that was acknowledged leaves its bytes in DATA0 and DATA1. Host transactions wait while
the output is in START. -/
def execAuxReply (out : Bool) (ans : AuxAnswer) (data0 data1 : W64) (s : State) : Out :=
  let o := s.lan out
  match o.busy with
  | none => .next s
  | some b =>
    if o.st = .start then .next s
    else
      let rep : BitVec 3 := match ans with | .ack => 0 | .nack => 1 | .defer => 2
      let o1 : LanOut := { o with busy := none, reply := rep }
      if ans = .ack && decide (b.op % 2 = 1) then
        let v := auxData (b.len + 1) (o.data0.toNat + 2 ^ 64 * o.data1.toNat) (data0.toNat + 2 ^ 64 * data1.toNat)
        .next (s.setLan out { o1 with data0 := BitVec.ofNat 64 v, data1 := BitVec.ofNat 64 (v / 2 ^ 64) })
      else .next (s.setLan out o1)
/-- AUX_TIMEOUT: no reply in 400 µs. -/
def execAuxTimeout (out : Bool) (s : State) : Out :=
  let o := s.lan out
  .next (if o.busy.isSome && o.st ≠ .start then s.setLan out { o with busy := none, reply := 3 } else s)

end Sys2Proof.Machine
end

