-- ==== Sys2Proof/Machine/OpvFrame.lean ====
section
/-! DEFINITION. The 256 bytes of an Opver link frame: what a port sends and what a receiver reads (R344 to R346). -/

namespace Sys2Proof.Machine

/-! ## Control messages (R346) -/

/-- A bit as a number. -/
def bitNat (b : Bool) (k : Nat) : Nat := b.toNat * 2 ^ k

/-- The 240-byte body of a control message: CTYPE, bytes 18 to 21, the two bytes at 22, the words at 24, 32 and 40. -/
def ctrlBody (ctype b18 b19 b20 b21 h22 w24 w32 w40 : Nat) : List Byte :=
  toBytes 2 ctype ++ toBytes 1 b18 ++ toBytes 1 b19 ++ toBytes 1 b20 ++ toBytes 1 b21 ++ toBytes 2 h22 ++ toBytes 8 w24 ++ toBytes 8 w32
    ++ toBytes 8 w40 ++ List.replicate 208 0

/-- The body of a CTRL frame. -/
def Ctrl.bytes : Ctrl → List Byte
  | .ident src port straps epoch => ctrlBody 1 src.toNat 0xFF port.toNat straps.toNat 0 epoch.toNat 0 0
  | .hello src ports straps epoch => ctrlBody 2 src.toNat 0 ports.toNat straps.toNat 0 epoch.toNat 0 0
  | .chainUp n ring members => ctrlBody 3 0 0xFF n.toNat ring.toNat members.toNat 0 0 0
  | .arrive src nf fpv pre close rset ss fp fs =>
    ctrlBody 4 src.toNat 0 (bitNat nf 0 + bitNat fpv 1 + bitNat pre 2 + bitNat close 3) rset.toNat 0 ss.toNat fp.toNat fs.toNat
  | .release nf sw dv mask ss => ctrlBody 5 0 0xFF (bitNat nf 0 + bitNat sw 1 + bitNat dv 2) 0 mask.toNat ss.toNat 0 0
  | .chainDown src cause left => ctrlBody 6 src.toNat 0xFF cause.toNat left.toNat 0 0 0 0

/-- A little-endian number in a byte list. -/
def numAt (bs : List Byte) (o n : Nat) : Nat := ofBytes ((bs.drop o).take n)

/-- Read a CTRL body; `none` for an unknown CTYPE, or where a field that R346 fixes holds another value. -/
def parseCtrl (b : List Byte) : Option Ctrl :=
  let b18 := BitVec.ofNat 8 (numAt b 2 1)
  let b19 := numAt b 3 1
  let b20 := numAt b 4 1
  let b21 := numAt b 5 1
  let h22 := numAt b 6 2
  let w24 := numAt b 8 8
  let w32 := numAt b 16 8
  let w40 := numAt b 24 8
  let bit (k : Nat) : Bool := decide (b20 / 2 ^ k % 2 = 1)
  if numAt b 32 208 ≠ 0 then none
  else
    match numAt b 0 2 with
    | 1 => if b19 = 0xFF && b20 < 2 && b21 < 16 && h22 = 0 && w24 < 2 ^ 32 && w32 = 0 && w40 = 0 then
        some (.ident b18 (bit 0) (BitVec.ofNat 4 b21) (BitVec.ofNat 32 w24)) else none
    | 2 => if b19 = 0 && b20 < 8 && b21 < 16 && h22 = 0 && w24 < 2 ^ 32 && w32 = 0 && w40 = 0 then
        some (.hello b18 (BitVec.ofNat 3 b20) (BitVec.ofNat 4 b21) (BitVec.ofNat 32 w24)) else none
    | 3 => if b18 = 0 && b19 = 0xFF && b21 < 2 && w24 = 0 && w32 = 0 && w40 = 0 then
        some (.chainUp (BitVec.ofNat 8 b20) (decide (b21 = 1)) (BitVec.ofNat 16 h22)) else none
    | 4 => if b19 = 0 && b20 < 16 && h22 = 0 then
        some (.arrive b18 (bit 0) (bit 1) (bit 2) (bit 3) (BitVec.ofNat 8 b21) (BitVec.ofNat 64 w24) (BitVec.ofNat 64 w32)
          (BitVec.ofNat 64 w40)) else none
    | 5 => if b18 = 0 && b19 = 0xFF && b20 < 8 && b21 = 0 && w32 = 0 && w40 = 0 then
        some (.release (bit 0) (bit 1) (bit 2) (BitVec.ofNat 16 h22) (BitVec.ofNat 64 w24)) else none
    | 6 => if b19 = 0xFF && b20 = 0 && h22 = 0 && w24 = 0 && w32 = 0 && w40 = 0 then
        some (.chainDown b18 (BitVec.ofNat 8 b20) (BitVec.ofNat 8 b21)) else none
    | _ => none

/-! ## Slots (R345) -/

/-- A payload word and its check byte: inverted for a poisoned word (R216). -/
def slotWord (w : PWord) : List Byte := toBytes 8 w.d.toNat ++ [if w.p then ~~~Config.h72 w.d else Config.h72 w.d]
/-- The 80 bytes of a valid slot. -/
def slotBytes (f : Flit) : List Byte := toBytes 8 f.hdr.toNat ++ f.pay.flatMap slotWord
/-- Read a slot: a word whose check byte does not fit is poison. -/
def parseSlot (b : List Byte) (row : BitVec 3) : Flit :=
  { hdr := BitVec.ofNat 64 (numAt b 0 8)
    pay := (List.range 8).map fun w =>
      let d := BitVec.ofNat 64 (numAt b (8 + 9 * w) 8)
      ⟨d, decide (BitVec.ofNat 8 (numAt b (16 + 9 * w) 1) ≠ Config.h72 d)⟩
    row := row }

/-! ## Frames (R344) -/

/-- The 256 bytes of a frame. -/
def Frame.bytes (f : Frame) : List Byte :=
  let ft := match f.body with | .idle => 0 | .data _ => 1 | .ctrl _ => 2
  let slotd := match f.body with
    | .data fs => (fs.mapIdx fun k g => (8 + g.row.toNat) * 16 ^ k).sum
    | _ => 0
  let body := match f.body with
    | .idle => List.replicate 240 0
    | .data fs => fs.flatMap slotBytes ++ List.replicate (240 - 80 * fs.length) 0
    | .ctrl m => m.bytes
  let head := toBytes 1 (ft + 4 * f.nak.toNat) ++ toBytes 1 0 ++ toBytes 2 f.seq.toNat ++ toBytes 2 f.ack.toNat ++ toBytes 2 slotd
    ++ [f.cr1, f.cr2, f.cr3] ++ toBytes 1 0
  head ++ toBytes 4 (crc32 (head ++ body)).toNat ++ body

/-! ## Wire blocks (R341) -/

/-- Every second item of a list, from the first. -/
def evens {α : Type} : List α → List α
  | a :: _ :: l => a :: evens l
  | l => l
/-- The two codewords of a wire block: its even and its odd bytes. -/
def codewords (b : List Byte) : List Byte × List Byte := (evens b, evens b.tail)
/-- Two lists byte by byte in turn. -/
def interleave : List Byte → List Byte → List Byte
  | a :: l, b :: m => a :: b :: interleave l m
  | l, m => l ++ m
/-- The 272 B wire block of a frame: each codeword's 128 data symbols, then its eight check symbols (the order DEDUCED, log entry 135). -/
def Frame.block (f : Frame) : List Byte :=
  let c := codewords f.bytes
  interleave (c.1 ++ Config.rsCheck c.1) (c.2 ++ Config.rsCheck c.2)
/-- The 17 bytes of a block that lane `k` of the 16 carries. -/
def laneBytes (b : List Byte) (k : Nat) : List Byte := (List.range 17).map fun i => b.getD (16 * i + k) 0
/-- A received block with the symbols that the FEC corrects. -/
def corrected (b : List Byte) (fix : List (Nat × Byte)) : List Byte := fix.foldl (fun b p => b.set p.1 p.2) b

/-- Read a frame; `none` where its CRC or a field is wrong (R348). -/
def parseFrame (b : List Byte) : Option Frame :=
  let body := b.drop 16
  let ft := numAt b 0 1
  let slotd := numAt b 6 2
  let seq := BitVec.ofNat 16 (numAt b 2 2)
  let mk (x : FrameBody) : Frame :=
    { seq := seq, body := x, nak := decide (4 ≤ ft), ack := BitVec.ofNat 16 (numAt b 4 2), cr1 := BitVec.ofNat 8 (numAt b 8 1)
      cr2 := BitVec.ofNat 8 (numAt b 9 1), cr3 := BitVec.ofNat 8 (numAt b 10 1) }
  if b.length ≠ 256 || decide ((crc32 (b.take 12 ++ body)).toNat ≠ numAt b 12 4) || decide (8 ≤ ft) || decide (numAt b 1 1 ≠ 0)
      || decide (numAt b 11 1 ≠ 0) then none
  else
    match ft % 4 with
    | 0 => if seq = 0 && slotd = 0 && numAt body 0 240 = 0 then some (mk .idle) else none
    | 1 =>
      let slot (k : Nat) : List Byte := (body.drop (80 * k)).take 80
      let valid (k : Nat) : Bool := decide (slotd / 16 ^ k / 8 % 2 = 1)
      let fs := ((List.range 3).filter valid).map fun k => parseSlot (slot k) (BitVec.ofNat 3 (slotd / 16 ^ k))
      if slotd < 4096 && ((List.range 3).all fun k => valid k || decide (numAt (slot k) 0 80 = 0))
          && fs.all fun f => decide ((hdrOf f.hdr).vc ≠ 0) then some (mk (.data fs)) else none
    | 2 => if slotd = 0 then (parseCtrl body).map fun m => mk (.ctrl m) else none
    | _ => none

end Sys2Proof.Machine
end

