-- ==== Sys2Proof/Machine/Opver.lean ====
section
/-! DEFINITION. Opver links: training, frames, retry and the loss of a link (R340, R343 to R350, R358). -/

namespace Sys2Proof.Machine

/-! ## Training (R347, R350) -/

/-- The link is up: IDENT is sent; every other frame waits until the partner has shown its EPOCH (R350, R365). -/
def OpvPort.trained (x : OpvPort) (ident : Ctrl) : OpvPort :=
  ({ x with
    st := .up, wasUp := true, awaitIdent := true, refused := 0, retrains := 0, nakSent := false, nakFrom := none, naked := 0 } : OpvPort).send
      (.ctrl ident)
/-- This module's IDENT for port `p`. -/
def State.ident (s : State) (p : Bool) : Ctrl :=
  .ident (if s.opv.hasAddr then s.addrByte else 0xFF) p s.opv.straps (s.oport p).epoch
/-- A port's link comes up. -/
def State.portUp (s : State) (p : Bool) : State := (s.modOport p fun x => x.trained (s.ident p)).chainPin.pump p
/-- A port's link is down: OPV_LINK_DOWN and ALERT_N. -/
def State.portDown (s : State) (p : Bool) : State :=
  ((s.modOport p fun x => { x with st := .down }).chainPin.log 0x1030 .port p.toNat (s.oport p).paddr.toNat 0).alert 8

/-- LINK_TRAINING_COMPLETE (R347, R350): both ends have sent and received acknowledgements. -/
def execLinkTrainingComplete (port : Bool) (s : State) : Out :=
  .next (if s.opv.sampled && (s.oport port).st ≠ .up then s.portUp port else s)

/-- TRAINING_TIMEOUT (R347): a port that has not been up reports itself untrained. -/
def execTrainingTimeout (port : Bool) (s : State) : Out :=
  let x := s.oport port
  if s.opv.sampled && x.st = .training && !x.wasUp then
    .next (s.setOport port { x with st := .untrained }).tryHello
  else .next s

/-- Has one SEQ been refused eight times in a row, here or, as its NAKs tell, at the partner (R350)? -/
def OpvPort.mustRetrain (x : OpvPort) : Bool := decide (8 ≤ x.refused) || decide (8 ≤ x.naked)
/-- LINK_RETRAIN (R350): after eight refusals of one SEQ in a row, at either end, the link retrains; after three failed retrains in a row it
is down. -/
def execLinkRetrain (port ok : Bool) (s : State) : Out :=
  let x := s.oport port
  if (decide (x.st = .up) && x.mustRetrain) || (decide (x.st = .training) && x.wasUp) then
    if ok then .next (s.portUp port)
    else
      let s1 := s.setOport port { x with st := .training, retrains := x.retrains + 1 }
      .next (if 3 ≤ x.retrains + 1 then s1.portDown port else s1)
  else .next s

/-- LINK_TRAINING_RETRY (R350): a link that is down attempts training again; it stays down until the training completes. -/
def execLinkTrainingRetry (port : Bool) (s : State) : Out :=
  let x := s.oport port
  .next (if x.st = .down then (s.setOport port { x with retrains := x.retrains + 1 }).chainPin else s)

/-- OPVER_LANE_FAILURE (R340): a failed lane takes its link down. -/
def execOpverLaneFailure (port : Bool) (s : State) : Out :=
  .next (if (s.oport port).st = .up then s.portDown port else s)

/-! ## Receiving (R343 to R345, R348, R358) -/

/-- Position in the replay buffer of the frame with a SEQ. -/
def OpvPort.replayAt (x : OpvPort) (seq : W16) : Option Nat := x.replay.findIdx? fun f => decide (f.seq = seq)
/-- Act on a frame's ACK, NAK and credit fields. -/
def OpvPort.header (x : OpvPort) (f : Frame) : OpvPort :=
  let n := match x.replayAt f.ack with
    | some i => if f.nak then i else i + 1
    | none => 0
  { x with
    replay := x.replay.drop n, nakFrom := if f.nak then some f.ack else x.nakFrom
    nakSeq := if f.nak then f.ack else x.nakSeq
    naked := if f.nak then (if f.ack = x.nakSeq then x.naked + 1 else 1) else if n = 0 then x.naked else 0
    credit := (x.credit.zip [f.cr1, f.cr2, f.cr3]).map fun c => min 256 (c.1 + c.2.toNat) }

/-- A receive slot is freed at once. -/
def State.freeNow (s : State) (p : Bool) (vc : Nat) : State :=
  s.modOport p fun x => { x with freed := x.freed.set (vc - 1) (x.freed.getD (vc - 1) 0 + 1) }
/-- A flit leaves the receiver: into the Gallery at its row, through the other port, or, where it would leave the chain, nowhere (R358). During a compute-domain reset flits
for tiles are discarded (R458). -/
def State.deliver (s : State) (p : Bool) (f : Flit) : State :=
  let h := hdrOf f.hdr
  let m := gtaMod h.dest
  if m = s.dev.addr then
    if s.dev.cdreset && !h.edge then s.freeNow p h.vc
    else s.injectEdge (mkTile p f.row.toNat 0) .edgeW f
  else if (s.opv.member m.toNat || !s.opv.ring) && s.leaveOk (!p) then (s.freeNow p h.vc).portAccept (!p) h.vc 8 f
  else (s.freeNow p h.vc).raise 0x8010 .port (!p).toNat m.toNat 0

/-- A frame is discarded and counted; NAK goes once for each expected SEQ, and again when that frame itself comes and is refused. -/
def OpvPort.refuse (x : OpvPort) (seq : W16) : OpvPort :=
  let same := decide (seq = x.rxSeq)
  let y : OpvPort := { x with crcErr := x.crcErr + 1, refused := if same then x.refused + 1 else x.refused }
  if same || !x.nakSent then { (y.put 0 .idle true).1 with nakSent := true } else y

/-- FRAME_RECEIVE (R341, R344, R345, R348): a wire block arrives, and the FEC corrects the symbols `fix`. The port takes the frame it
expects, or an IDENT that it awaits; any other frame is discarded. -/
def execFrameReceive (port : Bool) (block : List Byte) (fix : List (Nat × Byte)) (s : State) : Out :=
  let x := { s.oport port with fecCorr := (s.oport port).fecCorr + fix.length }
  let frame := (corrected block fix).take 256
  if x.st ≠ .up then .next s
  else
    match parseFrame frame with
    | none => .next (s.setOport port (x.refuse (BitVec.ofNat 16 (numAt frame 2 2))))
    | some f =>
      let y := x.header f
      let z : OpvPort := { y with rxSeq := y.rxSeq + 1, nakSent := false, refused := 0 }
      match f.body with
      | .idle => .next ((s.setOport port y).pump port)
      | .ctrl m =>
        if f.seq = x.rxSeq then .next ((s.setOport port { z with ctrl := z.ctrl ++ [m] }).pump port)
        else
          match m with
          | .ident .. => .next (s.setOport port (if x.awaitIdent then { x with ctrl := x.ctrl ++ [m] } else x.refuse f.seq))
          | _ => .next (s.setOport port (x.refuse f.seq))
      | .data fs =>
        if f.seq = x.rxSeq then .next (fs.foldl (fun s g => s.deliver port g) (s.setOport port z) |>.pump port)
        else .next (s.setOport port (x.refuse f.seq))

/-- NAK_RECEIVE (R348, R349): the sender sends again from the named SEQ, in order. -/
def execNakReceive (port : Bool) (s : State) : Out :=
  let x := s.oport port
  match x.nakFrom with
  | none => .next s
  | some n =>
    let y : OpvPort := { x with nakFrom := none }
    match x.replayAt n with
    | none => .next (s.setOport port y)
    | some i =>
      if x.st ≠ .up then .next s
      else
        let again := (x.replay.drop i).map fun f => { f with nak := false, ack := x.rxSeq - 1 }
        .next (s.setOport port { y with wire := y.wire ++ again, retry := y.retry + 1 })

end Sys2Proof.Machine
end

