-- ==== Sys2Proof/Machine/Power.lean ====
section
/-! DEFINITION. Supply, straps, start-up, PERST_N and the throttle (R405 to R421, R432, R438). -/

namespace Sys2Proof.Machine

/-! ## Strapped registers, pins and status -/

/-- PWR_COOL and PWR_PLIM take their reset values from the latched straps (R406, R410, R415). -/
def State.strapRegs (s : State) : State :=
  if !s.pwr.strapped then s
  else
    let cool : W64 := if s.pwr.straps.getLsbD 2 then 1 else 0
    let plim : W64 := if s.pwr.straps.getLsbD 3 then 1000 else 1300
    let put (l : Assoc (Option W64)) : Assoc (Option W64) :=
      aSet none (aSet none l (blkBase .pwr + 0x108) (some cool)) (blkBase .pwr + 0x110) (some plim)
    { s with regs := { s.regs with shadow := put s.regs.shadow, active := put s.regs.active } }
/-- The input power limit that the strap gives (R406, R410). -/
def Pwr.strapLimit (p : Pwr) : Nat := if p.straps.getLsbD 3 then 1000 else 1300
/-- The effective operating point (R416). -/
def State.effPoint (s : State) : Nat := min (s.act .pwr 0x100) s.pwr.ceil
/-- Junction temperature of the module, in units of 0.125 °C (R413). -/
def Pwr.tj (p : Pwr) : Int := max p.tj0.toInt p.tj1.toInt
/-- THERM_N (R408). -/
def State.thermPin (s : State) : State :=
  let low := decide (s.effPoint < s.act .pwr 0x100) || decide (8 * (s.act .pwr 0x118 : Int) ≤ s.pwr.tj)
  { s with pwr := { s.pwr with thermN := !low } }
/-- Bridge ports are operational while the compute domain is out of reset (R411, R418, R444). -/
def State.bridgePorts (s : State) : State :=
  { s with net := { s.net with bridgeUp := if s.pwr.strapped && s.pwr.perst then BitVec.allOnes 32 else 0 } }
/-- Memory_Active is set once tier H is cleared and the link is up in 256 B flit mode (R307, R419). -/
def State.setMemact (s : State) : State :=
  if s.mem.hCleared && s.pwr.linkUp && s.pwr.flit256 && s.pwr.perst then { s with pwr := { s.pwr with memact := true } } else s

/-! ## Supply -/

/-- Every rail is off (R409, R417): nothing survives but the levels of the input pins, what has left the module, the commands
that wait, and the model's own counters. -/
def State.powerOff (s : State) (vin tripped : Bool) : State :=
  { State.reset with
    pending := s.pending
    dev := { Dev.reset with ticks := s.dev.ticks, free := s.dev.free }
    host := { HostIf.reset with out := s.host.out }
    opv := { Opv.reset with powerUps := s.opv.powerUps }
    keep := { Keep.reset with sent := s.keep.sent }
    lan0 := { LanOut.reset with hpd := s.lan0.hpd }, lan1 := { LanOut.reset with hpd := s.lan1.hpd }
    pwr := { Pwr.reset with vin := vin, tripped := tripped, perst := s.pwr.perst, thermN := !tripped, lowSince := s.pwr.lowSince } }

/-- VIN48_RISE (R409, R417, R418): between 40 V and 60 V the input stage starts, unless a thermal trip still locks it. Above 65 V
the module is outside its absolute maximum, and the spec says nothing of what follows. -/
def execVin48Rise (decivolt : Nat) (s : State) : Out :=
  let waited := s.pwr.lowSince.any fun t => decide (t + 100000000 ≤ s.dev.ticks)
  if 650 < decivolt then .fault .inputOvervoltage
  else if s.pwr.vin || decide (decivolt < 400) || decide (600 < decivolt) then .next s
  else if s.pwr.tripped && !waited then .next { s with pwr := { s.pwr with lowSince := none } }
  else .next { s with pwr := { s.pwr with vin := true, tripped := false, lowSince := none, thermN := true } }

/-- POWER_GOOD (R347, R416, R418): PWR_OK rises, the strap window opens, the ceiling is at point 4 and each Opver port chooses its EPOCH. -/
def execPowerGood (s : State) : Out :=
  if !s.pwr.vin || s.pwr.pwrOk || s.pwr.tripped then .next s
  else
    let n := s.opv.powerUps
    .next { s with
      pwr := { s.pwr with pwrOk := true, ceil := 4 }
      opv := { s.opv with
        powerUps := n + 1
        p0 := { s.opv.p0 with epoch := Config.portEpoch 0 n }
        p1 := { s.opv.p1 with epoch := Config.portEpoch 1 n } } }

/-- STRAP_WINDOW_END (R351, R406, R407, R418): the straps are latched; a head takes address 0. -/
def execStrapWindowEnd (straps : BitVec 4) (s : State) : Out :=
  if !s.pwr.pwrOk || s.pwr.strapped then .next s
  else
    let s1 : State := { s with
      pwr := { s.pwr with straps := straps, strapped := true }
      opv := { s.opv with straps := straps, sampled := true, hasAddr := straps.getLsbD 0 }
      dev := { s.dev with addr := 0 } }
    .next s1.strapRegs.bridgePorts

/-- MEMORY_PHY_TRAINED (R219, R418): every stack is trained and clearing begins. -/
def execMemoryPhyTrained (s : State) : Out :=
  if !s.pwr.strapped || s.pwr.phyTrained then .next s
  else .next { s with pwr := { s.pwr with phyTrained := true }, mem := { s.mem with hTrained := true, clearing := true } }

/-- MEMORY_CLEAR_COMPLETE (R219, R418, R419): every word of tier H is zero with valid check bits, every Grotto tag is ZERO, and
Memory_Active is set if the link is up. -/
def execMemoryClearComplete (s : State) : Out :=
  if !s.mem.clearing then .next s
  else
    let m := s.mem.clearRange 0 (3 * 2 ^ 40)
    .next ({ s with mem := { m with tags := [], tagPoison := [], poisonedBlks := [], slices := [], hCleared := true, tagsZero := true, clearing := false } }
      : State).setMemact

/-- VIN48_LOSS (R409): VIN48 has been below 38 V for 100 µs, and every rail goes off at once. -/
def execVin48Loss (s : State) : Out :=
  let s1 : State := { s with pwr := { s.pwr with lowSince := some (s.pwr.lowSince.getD s.dev.ticks) } }
  .next (s1.powerOff false s.pwr.tripped)

/-- THERMAL_TRIP (R417): THERM_N goes low and every rail goes off; the input stage stays off. -/
def execThermalTrip (s : State) : Out :=
  if !s.pwr.pwrOk then .next s else .next (s.powerOff false true)

/-! ## The CXL side -/

/-- CXL_LINK_UP (R306, R307, R309, R419): the link has trained, with 256 B flits or for CXL.io only; `cfg` is the set-up that the fabric
manager and the host give it (log entry 130). -/
def execCxlLinkUp (flit256 : Bool) (cfg : LinkCfg) (s : State) : Out :=
  if !s.pwr.strapped || !s.pwr.perst || s.pwr.linkUp then .next s
  else .next ({ s with pwr := { s.pwr with linkUp := true, flit256 := flit256 }, host := { s.host with cfg := cfg } } : State).setMemact

/-- An output that a commit accepted before READY has enabled leaves OFF (R372, R420). -/
def LanOut.begin (o : LanOut) : LanOut := if o.st = .off && o.en then { o with st := .start, pos := .stream } else o

/-- DEVICE_READY (R420). -/
def execDeviceReady (s : State) : Out :=
  if s.pwr.ready || !s.pwr.memact || !s.keep.idReady || !s.opv.final then .next s
  else .next { s with pwr := { s.pwr with ready := true }, lan0 := s.lan0.begin, lan1 := s.lan1.begin }

/-- What PERST_N keeps of a port: its sequence state, buffers and EPOCH; its counters are registers (R411, R432). -/
def OpvPort.perst (x : OpvPort) : OpvPort := { x with retry := 0, fecCorr := 0, crcErr := 0 }
/-- Is a link key one of the Opver-side inputs, where frames for this module wait (R411)? -/
def isRxKey (k : Nat) : Bool := decide (k / 64 % 32 = 0) && decide (k / 2048 % 32 < 8) && decide (k % 64 / 4 = 7)

/-- PERST_ASSERT (R219, R411, R432): the host-facing parts are in reset, every job is lost, every register but those that R432
keeps takes its reset value, and clearing begins again. -/
def execPerstAssert (s : State) : Out :=
  if !s.pwr.perst then .next s
  else
    let off : State := { State.reset with
      pending := s.pending
      dev := { s.dev with time := 0, cdreset := false }
      net := { Net.empty with links := s.net.links.filter fun kv => isRxKey kv.1 }
      mem := { Mem.empty with
        bytes := s.mem.bytes, poison := s.mem.poison, tags := s.mem.tags, tagPoison := s.mem.tagPoison, poisonedBlks := s.mem.poisonedBlks
        hTrained := s.mem.hTrained, clearing := s.pwr.phyTrained }
      opv := { s.opv with p0 := s.opv.p0.perst, p1 := s.opv.p1.perst, pulses := 0, pulseTime := 0, arrives := [], arrived := false, released := none, relNf := false, relSw := false }
      host := { HostIf.reset with out := s.host.out }
      keep := { s.keep with conn := 0, ver := 0, sessions := [], spdmErr := 0, ideStreams := [] }
      lan0 := { LanOut.reset with hpd := s.lan0.hpd }, lan1 := { LanOut.reset with hpd := s.lan1.hpd }
      pwr := { s.pwr with
        perst := false, linkUp := false, flit256 := false, memact := false, ready := false, throtNs := 0, tcnt := 0, pcnt := 0
        cause := 0 } }
    .next off.strapRegs.thermPin

/-- Counters and status registers are held in reset while PERST_N is low, whatever goes on beneath them (R411, R432). -/
def State.holdRegs (s : State) : State :=
  { s with
    err := Err.empty
    mem := { s.mem with hit := 0, miss := 0, refresh := 0, rfm := 0, gRefresh := 0, scrubs := 0, tierCio := 0 }
    net := { s.net with corr := 0 }
    opv := { s.opv with p0 := s.opv.p0.perst, p1 := s.opv.p1.perst, pulses := 0, pulseTime := 0 }
    lan0 := { s.lan0 with irq := false }, lan1 := { s.lan1 with irq := false }
    pwr := { s.pwr with throtNs := 0, tcnt := 0, pcnt := 0, cause := 0 } }

/-- PERST_DEASSERT (R411, R412, R419): the host-facing parts leave reset and DEV_TIME_NS counts from zero. -/
def execPerstDeassert (s : State) : Out :=
  if s.pwr.perst then .next s
  else
    let s1 := s.holdRegs
    .next ({ s1 with pwr := { s1.pwr with perst := true, perstRose := true } } : State).bridgePorts

/-! ## The throttle (R416) -/

/-- At least `n` evaluations, one each 1 ms, have passed since the ceiling last changed. -/
def Pwr.settledFor (p : Pwr) (n : Nat) : Bool := p.lastChange.all fun t => decide (t + n ≤ p.evals)
/-- A new ceiling. -/
def Pwr.setCeil (p : Pwr) (c : Nat) : Pwr := if c = p.ceil then p else { p with ceil := c, lastChange := some p.evals }

/-- THROTTLE_EVALUATION (R413, R416, R438): temperatures in units of 0.125 °C, input power in watts and step rates in M steps/s over
the last 1 ms, and for how many ms the conditions of a raise have held. -/
def execThrottleEvaluation (tj0 tj1 : Int) (watts coolFor rate0 rate1 : Nat) (s : State) : Out :=
  if !s.pwr.strapped then .next s
  else
    let p : Pwr := { s.pwr with
      tj0 := BitVec.ofInt 16 tj0, tj1 := BitVec.ofInt 16 tj1, watts := watts, rate0 := rate0, rate1 := rate1, evals := s.pwr.evals + 1 }
    let tlim := 8 * (s.act .pwr 0x118 : Int)
    let plim := s.act .pwr 0x110
    let hot := decide (tlim ≤ max tj0 tj1)
    let ovr := decide (plim ≤ watts)
    let p1 : Pwr :=
      if (hot || ovr) && p.settledFor 10 then
        { p.setCeil (min p.ceil s.effPoint - 1) with
          tcnt := p.tcnt + hot.toNat, pcnt := p.pcnt + ovr.toNat, cause := BitVec.ofNat 2 (hot.toNat + 2 * ovr.toNat) }
      else if decide (max tj0 tj1 ≤ tlim - 40) && decide (100 * watts ≤ 95 * plim) && decide (100 ≤ coolFor) && p.settledFor 100
          && decide (p.ceil < 4) then p.setCeil (p.ceil + 1)
      else p
    .next ({ s with pwr := p1 } : State).thermPin

end Sys2Proof.Machine
end

