-- ==== Sys2Proof/Machine/Mxe.lean ====
section
/-! DEFINITION. Matrix operations and heavy-unit tokens (R41 to R44, R65 to R68, R99 to R113). -/

namespace Sys2Proof.Machine

/-! ## Layouts (R101 to R103) -/

/-- Values of k in one logical row of the A operand. -/
def MmaKind.kpa : MmaKind → Nat
  | .f4 | .s4 => 2
  | .f8 | .b16 => 1
/-- Values of k in one logical row of W (value rows for MMS.F4). -/
def MmaKind.kpw : MmaKind → Nat
  | .f4 => 4 | .f8 => 2 | .b16 => 1 | .s4 => 8
/-- Bits of one stored element. -/
def MmaKind.bits : MmaKind → Nat
  | .f4 | .s4 => 4
  | .f8 => 8
  | .b16 => 16
/-- Width of an A logical row in 16-bit columns. -/
def MmaKind.colsA : MmaKind → Nat
  | .b16 => 64
  | _ => 32
/-- Scale blocks in a logical row of A. -/
def MmaKind.bprA : MmaKind → Nat
  | .f4 | .s4 => 4
  | .f8 => 2
  | .b16 => 0
/-- Scale blocks in a logical row of W. -/
def MmaKind.bprW : MmaKind → Nat
  | .f4 | .s4 => 4
  | .f8 => 2
  | .b16 => 0

/-- FMTA and FMTW codes (R99). -/
def mmaFmt (c : BitVec 2) : Nf :=
  match c.toNat with
  | 0 => .e4m3 | 1 => .e5m2 | 2 => .e3m2 | _ => .e2m3
/-- Element format of the A operand. -/
def MxeOp.fa (o : MxeOp) : Nf := if o.kind = .f8 then mmaFmt o.f.fmta else .e2m1
/-- Element format of the W operand. -/
def MxeOp.fw (o : MxeOp) : Nf := if o.kind = .f8 then mmaFmt o.f.fmtw else .e2m1
/-- K (R99). -/
def mmaK (f : MmaF) : Nat := (f.kd.toNat + 1) * 32

/-- Rows `lo` to `lo + n - 1` of an operand buffer exist, in store `st`, with `cols` columns. -/
def operandOk (h : Hd) (m : BitVec 24) (st cols lo n : Nat) : Bool :=
  h.v && h.legal m && decide (h.store = st) && decide (h.cols + 1 = cols) && decide (lo + n ≤ h.rows + 1)
/-- A scale buffer holds byte `n - 1`. -/
def scaleOk (h : Hd) (m : BitVec 24) (n : Nat) : Bool :=
  h.v && h.legal m && decide (h.store = 2) && decide (h.cols + 1 = 32) && decide (n ≤ (h.rows + 1) * 64)

/-- The checks of R103 on an operation: the first that fails in this order gives the handle and the row of STORE_RANGE: an operand's
first row, row 0 for a scale buffer, and HA with the slot's first row for a slot whose segment is down (DESIGN CHOICE, log entry
117: R103 and R453 name no order, and no handle for a slot). -/
def mmaCheck (m : BitVec 24) (o : MxeOp) : Option (Hdl × Nat) :=
  let k := mmaK o.f
  let na := k / o.kind.kpa
  let nw := k / o.kind.kpw
  let narrow := decide (o.kind ≠ .b16)
  let sparse := decide (o.kind = .s4)
  if !operandOk (hdOf o.hA) m 1 o.kind.colsA o.aoff na then some (o.f.ha, o.aoff)
  else if !operandOk (hdOf o.hW) m 0 32 o.woff nw then some (o.f.hw, o.woff)
  else if narrow && !scaleOk (hdOf o.hA1) m ((o.aoff + na) * o.kind.bprA) then some (o.f.ha + 1, 0)
  else if narrow && !scaleOk (hdOf o.hW1) m ((o.woff + nw) * o.kind.bprW) then some (o.f.hw + 1, 0)
  else if sparse && (decide (o.woff % 2 = 1) || !operandOk (hdOf o.hW2) m 0 32 (o.woff / 2) (k / 16)) then
    some (o.f.hw + 2, o.woff / 2)
  else if !segOn m 2 o.f.dslot.toNat then some (o.f.ha, 128 * o.f.dslot.toNat)
  else if o.f.init && !segOn m 2 o.f.islot.toNat then some (o.f.ha, 128 * o.f.islot.toNat)
  else none

/-! ## Rows that an operation reads and writes -/

/-- The K blocks that the mask selects (R109). -/
def MxeOp.blocks (o : MxeOp) : List Nat := (List.range (o.f.kd.toNat + 1)).filter fun b => o.msk.getLsbD b
/-- Row keys of element (i, c) of a handle. -/
def elemRow (h : Hd) (b i c : Nat) : Nat := rowKey h.store (h.place b i c).row

/-- Row keys that the array work reads: none when MV or the present depth is 0 (R110). -/
def MxeOp.readRows (o : MxeOp) : List Nat :=
  if o.mv = 0 then []
  else
    (o.blocks.flatMap fun b =>
      (List.range 32).flatMap fun kk =>
        let k := 32 * b + kk
        let ia := o.aoff + k / o.kind.kpa
        let iw := o.woff + k / o.kind.kpw
        let a := (List.range (o.kind.colsA / 32)).map fun q => elemRow (hdOf o.hA) 16 ia (32 * q)
        let w := [elemRow (hdOf o.hW) 16 iw 0]
        let sc :=
          if o.kind = .b16 then []
          else [rowKey 2 ((hdOf o.hA1).sbyteAt (ia * o.kind.bprA)).row, rowKey 2 ((hdOf o.hW1).sbyteAt (iw * o.kind.bprW)).row]
        let ps := if o.kind = .s4 then [elemRow (hdOf o.hW2) 16 (o.woff / 2 + k / 16) 0] else []
        a ++ w ++ sc ++ ps).dedup

/-! ## What an operation computes (R104 to R107) -/

/-- The product of two narrow elements under their scale codes (R105). -/
def productNarrow (fa fw : Nf) (ca cw xa xw : Nat) : W32 :=
  if xa = 255 || xw = 255 then nan32
  else if (fa.special ca).isSome || (fw.special cw).isSome then fmul (decodeNarrow fa ca 0x7F) (decodeNarrow fw cw 0x7F)
  else
    let q := (fa.value ca).mul (fw.value cw)
    packQ { q with e := q.e + (xa : Int) + xw - 254 }

/-- A narrow element's code: FP6 reads bits [5:0] of its byte (R73). -/
def codeOf (f : Nf) (raw : Nat) : Nat := if f = .e3m2 || f = .e2m3 then raw % 64 else raw

/-- A operand at (m, k): element, its scale byte, and their poison marks. -/
def MxeOp.aAt (o : MxeOp) (x : Tile) (k m : Nat) : Nat × Nat × Bool :=
  let ia := o.aoff + k / o.kind.kpa
  let ea := k % o.kind.kpa * 64 + m
  let (c, q) := x.rdElem (hdOf o.hA) o.kind.bits ia ea
  if o.kind = .b16 then (c, 0, q)
  else
    let (sx, sq) := x.sbyte (hdOf o.hA1) (ia * o.kind.bprA + ea / 32)
    (c, sx, q || sq)

/-- One term of a cell: a value of k for the dense forms, a group and a kept value for MMS.F4 (R106). -/
def MxeOp.product (o : MxeOp) (x : Tile) (m n : Nat) (t : Nat × Nat) : ACell :=
  match o.kind with
  | .b16 =>
    let (ca, _, qa) := o.aAt x t.1 m
    let (cw, qw) := x.rdElem (hdOf o.hW) 16 (o.woff + t.1) n
    ⟨fmul (ofBf16 (BitVec.ofNat 16 ca)) (ofBf16 (BitVec.ofNat 16 cw)), qa || qw⟩
  | .s4 =>
    let g := 2 * o.woff + t.1
    let (nb, qp) := x.rdElem (hdOf o.hW2) 4 (g / 4) (g % 4 * 32 + n)
    let k := 4 * t.1 + (if t.2 = 0 then nb % 4 else nb / 4)
    let ev := g % 2 * 64 + 2 * n + t.2
    let (cw, qw) := x.rdElem (hdOf o.hW) 4 (g / 2) ev
    let (xw, sw) := x.sbyte (hdOf o.hW1) (g / 2 * 4 + ev / 32)
    let (ca, xa, qa) := o.aAt x k m
    ⟨productNarrow .e2m1 .e2m1 ca cw xa xw, qa || qw || sw || qp⟩
  | kd =>
    let (ca, xa, qa) := o.aAt x t.1 m
    let iw := o.woff + t.1 / kd.kpw
    let ew := t.1 % kd.kpw * 32 + n
    let (cw, qw) := x.rdElem (hdOf o.hW) kd.bits iw ew
    let (xw, sw) := x.sbyte (hdOf o.hW1) (iw * kd.bprW + ew / 32)
    ⟨productNarrow o.fa o.fw (codeOf o.fa ca) (codeOf o.fw cw) xa xw, qa || qw || sw⟩

/-- The terms of the selected blocks in term order (R106). -/
def MxeOp.terms (o : MxeOp) : List (Nat × Nat) :=
  o.blocks.flatMap fun b =>
    if o.kind = .s4 then (List.range 8).flatMap fun g => [(8 * b + g, 0), (8 * b + g, 1)]
    else (List.range 32).map fun k => (32 * b + k, 0)

/-- Accumulate one cell: products one at a time, each addition rounded (R104, R106, R107). -/
def MxeOp.cell (o : MxeOp) (x : Tile) (m n : Nat) (c0 : ACell) : ACell :=
  if m < o.mv then o.terms.foldl (fun c t => let p := o.product x m n t; ⟨fadd c.v p.v, c.z || p.z⟩) c0 else c0

/-- The block of an accumulator. -/
def Mxe.accBlock (e : Mxe) (a : Bool) : List ACell := if a then e.acc1 else e.acc0
def Mxe.setAcc (e : Mxe) (a : Bool) (b : List ACell) : Mxe := if a then { e with acc1 := b } else { e with acc0 := b }

/-- Cell (m, n) of the block in a P-store slot, with its word's poison mark (R108). -/
def Tile.pcell (x : Tile) (k : Slot) (m n : Nat) : ACell :=
  let (v, q) := x.rdAt 2 32 ⟨128 * k.toNat + 2 * m + n / 16, n % 16 * 32⟩
  ⟨BitVec.ofNat 32 v, q⟩

/-- A whole block, cell by cell. -/
def blockOf (f : Nat → Nat → ACell) : List ACell := (List.range 64).flatMap fun m => (List.range 32).map (f m)

/-- Write a block to a slot: a word is poisoned when either of its cells is marked (R108). -/
def Tile.drainTo (x : Tile) (k : Slot) (blk : List ACell) : Tile :=
  (List.range 1024).foldl (fun x i =>
    let lo := blk.getD (2 * i) ⟨0, false⟩
    let hi := blk.getD (2 * i + 1) ⟨0, false⟩
    x.wrWord 2 (1024 * k.toNat + i) ⟨hi.v ++ lo.v, lo.z || hi.z⟩) x

/-- Array occupancy O of an operation (R112). -/
def MxeOp.occupancy (o : MxeOp) : Nat :=
  if o.mv = 0 then 0
  else
    let kp := 32 * o.blocks.length
    match o.kind with
    | .f4 => kp | .f8 => 2 * kp | .b16 => 4 * kp | .s4 => kp / 2

/-! ## Issue -/

/-- The operation that a matrix instruction issues, with its values taken at issue (R38, R100). -/
def mmaOp (x : Tile) (kind : MmaKind) (f : MmaF) : MxeOp :=
  let sx := x.reg f.sx
  let o : MxeOp := {
    seq := x.seq, kind := kind, f := f, acc := x.mxe.nextAcc, aoff := fld sx 15 0, woff := fld sx 31 16
    mv := if f.rte then min (fld sx 38 32) 64 else 64
    msk := if f.bsk then x.reg f.sm else BitVec.allOnes 64
    hA := x.hword f.ha, hA1 := x.hword (f.ha + 1), hW := x.hword f.hw, hW1 := x.hword (f.hw + 1)
    hW2 := x.hword (f.hw + 2), occ := 0, stage := .queued }
  { o with occ := o.occupancy }

/-- Issue a matrix instruction: the checks of R103, then a place in the MXE queue (R38, R112). -/
def mmaIssue (t : TileId) (kind : MmaKind) (f : MmaF) (s : State) : State :=
  let x := s.tile t
  let o := mmaOp x kind f
  match mmaCheck x.mask o with
  | some (h, r) => s.storeRange t h r
  | none =>
    let rd := (if f.init then slotRows f.islot else []) ++ o.readRows
    let x := (x.step 1).addAccess rd (slotRows f.dslot)
    s.setTile t ({ x with mxe := { x.mxe with ops := x.mxe.ops ++ [o], nextAcc := !x.mxe.nextAcc } } : Tile).nextWord

/-- MMA.F4 (R99 to R104). -/
def execMmaF4 (t : TileId) (ecc : Ecc) (f : MmaF) (s : State) : Out := issue s t ecc (.mmaF4 t ecc f) (mmaIssue t .f4 f)
/-- MMA.F8 (R99 to R104). -/
def execMmaF8 (t : TileId) (ecc : Ecc) (f : MmaF) (s : State) : Out := issue s t ecc (.mmaF8 t ecc f) (mmaIssue t .f8 f)
/-- MMA.B16 (R99 to R104). -/
def execMmaB16 (t : TileId) (ecc : Ecc) (f : MmaF) (s : State) : Out := issue s t ecc (.mmaB16 t ecc f) (mmaIssue t .b16 f)
/-- MMS.F4 (R99 to R104). -/
def execMmsF4 (t : TileId) (ecc : Ecc) (f : MmaF) (s : State) : Out := issue s t ecc (.mmsF4 t ecc f) (mmaIssue t .s4 f)

/-! ## Tokens -/

/-- The distributor grants the oldest waiting request when a token is free (R65, R66). -/
def execTokenGrant (die : Bool) (s : State) : Out :=
  let p := s.pool die
  match p.wait with
  | [] => .next s
  | t :: ts =>
    if s.tokensHeld die < p.size then
      .next ((s.setPool die { p with wait := ts }).modTile t fun x =>
        { x with mxe := { x.mxe with token := true, requested := false, idleFrom := x.ctr.tally } })
    else .next s

/-- A tile whose MXE has been idle for 32 steps gives its token up (R67). Steps before the grant do not count to the 32: the grant
starts the count, as the end of an operation does (DESIGN CHOICE, log entry 118). -/
def execTokenIdleRelease (t : TileId) (s : State) : Out :=
  let x := s.tile t
  if x.mxe.token && x.mxe.ops.isEmpty && decide (x.mxe.idleFrom + 32 ≤ x.ctr.tally) then
    .next (s.setTile t { x with mxe := { x.mxe with token := false } })
  else .next s

/-! ## The MXE's own events (R113) -/

/-- The first operation of the queue that meets `p`, and the operations ahead of it. -/
def firstOp (p : MxeOp → Bool) : List MxeOp → List MxeOp → Option (List MxeOp × MxeOp)
  | _, [] => none
  | done, o :: os => if p o then some (done, o) else firstOp p (done ++ [o]) os

/-- Change the stage of operation `seq`. -/
def Mxe.setStage (e : Mxe) (seq : Nat) (st : MxeStage) : Mxe :=
  { e with ops := e.ops.map fun o => if o.seq = seq then { o with stage := st } else o }

/-- Has the operation started its array work? -/
def MxeOp.started (o : MxeOp) : Bool := decide (o.stage = .running) || decide (o.stage = .draining)

/-- An accumulator has its initial block: the first operation with INIT = 1 that is not loaded, once the drain of the
previous operation on that accumulator is complete and the slot's rows are free (R55, R113). -/
def execInitialLoadComplete (t : TileId) (errs : List StoreErr) (s : State) : Out :=
  let x := s.tile t
  match firstOp (fun o => o.f.init && decide (o.stage = .queued)) [] x.mxe.ops with
  | some (ahead, o) =>
    if ahead.all (fun a => decide (a.acc ≠ o.acc)) && x.rowsFree o.seq (slotRows o.f.islot) [] then
      let s := s.storeErrs t (slotRows o.f.islot) errs
      let x := s.tile t
      let x := { x with mxe := (x.mxe.setAcc o.acc (blockOf (x.pcell o.f.islot))).setStage o.seq .loaded }
      .next (s.setTile t (x.doneRows o.seq ((slotRows o.f.islot).filter fun k => !decide (k ∈ o.readRows)) []))
    else .next s
  | none => .next s

/-- An operation starts its array work: the array is idle, its accumulator is ready, and its operand rows hold what
program order gives them (R55, R113). -/
def execMxeOperationStart (t : TileId) (errs : List StoreErr) (s : State) : Out :=
  let x := s.tile t
  match firstOp (fun o => !o.started) [] x.mxe.ops with
  | some (ahead, o) =>
    if ahead.all (fun a => decide (a.stage = .draining) && decide (a.acc ≠ o.acc))
        && (!o.f.init || decide (o.stage = .loaded)) && x.rowsFree o.seq o.readRows [] then
      let s := s.storeErrs t o.readRows errs
      let x := s.tile t
      let blk := x.mxe.accBlock o.acc
      let c0 (m n : Nat) : ACell := if o.f.init then blk.getD (32 * m + n) ⟨0, false⟩ else ⟨0, false⟩
      let e := { (x.mxe.setAcc o.acc (blockOf fun m n => o.cell x m n (c0 m n))).setStage o.seq .running with busy0 := x.ctr.mxeBusy }
      .next (s.setTile t (({ x with mxe := e } : Tile).allRead o.seq))
    else .next s
  | none => .next s

/-- Steps in which the array has worked on the running operation: MXE_BUSY counts them as they pass (R138). -/
def Tile.arraySteps (x : Tile) : Nat := x.ctr.mxeBusy - x.mxe.busy0
/-- The array finishes an operation's work once `steps` steps of it have passed, no fewer than its occupancy (R11, R112, R138). -/
def execArrayWorkComplete (t : TileId) (steps : Nat) (s : State) : Out :=
  let x := s.tile t
  match firstOp (fun o => decide (o.stage = .running)) [] x.mxe.ops with
  | some (_, o) =>
    if o.occ = 0 || decide (max steps o.occ ≤ x.arraySteps) then .next (s.setTile t { x with mxe := x.mxe.setStage o.seq .draining })
    else .next s
  | none => .next s

/-- The oldest drain completes: the block is in its slot, POISON_IN grows by one when a drained word is poisoned, and
under FINISH an FTQ entry naming the slot is pushed (R44, R107, R108). -/
def execDrainComplete (t : TileId) (s : State) : Out :=
  let x := s.tile t
  match x.mxe.ops with
  | o :: os =>
    if o.stage = .draining && x.rowsFree o.seq [] (slotRows o.f.dslot) then
      let blk := x.mxe.accBlock o.acc
      let x := x.drainTo o.f.dslot blk
      let x := { x with
        mxe := { x.mxe with ops := os, idleFrom := if os.isEmpty then x.ctr.tally else x.mxe.idleFrom }
        ftq := if o.f.finish then x.ftq ++ [o.f.dslot] else x.ftq }
      let x := x.count fun c => { c with poisonIn := c.poisonIn + (if blk.any (·.z) then 1 else 0) }
      .next (s.setTile t (x.dropAccess o.seq))
    else .next s
  | [] => .next s

end Sys2Proof.Machine
end

