-- ==== Sys2Proof/Machine/Serving.lean ====
section
/-! DEFINITION. The serving loop: sessions, sequences, admission and batch steps (R282 to R294, R433). -/

namespace Sys2Proof.Machine

/-! ## Sequences -/

def Sess.seq (x : Sess) (slot : Nat) : SeqEnt := aGet SeqEnt.free x.seqs slot
def Sess.setSeq (x : Sess) (slot : Nat) (e : SeqEnt) : Sess := { x with seqs := aSet SeqEnt.free x.seqs slot e }
/-- Is a sequence ready (R290)? -/
def SeqEnt.ready (e : SeqEnt) : Bool := (decide (e.st = .active) && e.tokv) || (decide (e.st = .prefill) && decide (0 < e.pleft))
/-- Ready sequences. -/
def Sess.readySeqs (x : Sess) : List (Nat × SeqEnt) := x.seqs.filter fun kv => kv.2.ready
/-- Pages that MAXTOK positions need (R284). -/
def Sess.pagesFor (x : Sess) (n : Nat) : Nat := (n + x.pgtok - 1) / x.pgtok
/-- A sequence or a join has become ready at `now`: the gather window of the interval begins with the first (R290). -/
def Sess.wake (x : Sess) (now : Nat) : Sess := if x.batch.isNone && x.readyFrom.isNone then { x with readyFrom := some now } else x

/-- Store the session and write a slot's table entry. -/
def State.putSeq (s : State) (c : BitVec 6) (x : Sess) (slot : Nat) : State := (s.setSession c (some x)).writeSeq x slot

/-- The entry of a slot that its sequence has left: FREE, or PENDING with the values of the join that waits for it (R284, R285). -/
def Sess.freed (x : Sess) (slot : Nat) : SeqEnt :=
  match x.waiting.find? fun j => decide (j.slot = slot) with
  | some j => { SeqEnt.free with st := .pending, maxtok := j.maxtok, nres := x.pagesFor j.maxtok, pleft := j.nprompt, defers := j.defers }
  | none => SeqEnt.free
/-- A sequence has left (R288): its pages and reservation are released, its LEAVEs complete, and a JOIN or CONT of its that has not
completed ends with SEQ_CANCEL. -/
def State.seqLeft (s : State) (c : BitVec 6) (x : Sess) (slot : Nat) : State × Sess :=
  let e := x.seq slot
  let x1 := x.setSeq slot (x.freed slot)
  let x2 : Sess := { x1 with resv := x.resv - e.nres, leaves := x.leaves + 1 }
  let s1 := (e.join.toList ++ e.cont.toList).foldl (fun s i => s.complete i 0x0025 (slotResult x.bstep slot)) s
  let s2 := e.leaves.foldl (fun s i => s.complete i 0 (slotResult 0 slot)) s1
  (s2.putSeq c x2 slot, x2)

/-- End every sequence, cancel every waiting join, and close the session (R283). -/
def State.closeSession (s : State) (c : BitVec 6) (x : Sess) (id : Nat) : State :=
  let s1 := x.waiting.foldl (fun s j => s.complete j.cmd 0x0025 (slotResult x.bstep j.slot)) s
  let x1 : Sess := { x with waiting := [], closing := none }
  let p := (x1.seqs.map (·.1)).foldl (fun p slot => p.1.seqLeft c p.2 slot) (s1, x1)
  ((p.1.writeScb p.2 false).setSession c none).complete id 0 0

/-! ## OPEN and CLOSE (R282, R283, R433) -/

/-- Bytes of an output entry (R293). -/
def outSize (ofmt topk vocab : Nat) : Nat := 64 + (if ofmt = 0 then 8 * topk else if ofmt = 1 then 4 * vocab else 2 * vocab)

/-- The session that an SCB describes. -/
def Mem.newSess (m : Mem) (scb : Nat) : Sess :=
  let n (o k : Nat) : Nat := m.num (scb + o) k
  { scb := scb, ofmt := n 0 2 % 4, bmax := n 2 2, topk := n 4 2, tokbud := n 8 4, gather := n 12 4, seqtab := n 16 6, nseq := n 22 2
    pgbase := n 24 6, pgsize := n 32 4, npg := n 36 4, pgtok := n 40 4, ptbase := n 48 6, ptstride := n 56 4, outbase := n 64 6
    ostride := n 72 4, vocab := n 76 4, btab := n 80 6, bstep := 0, tokens := 0, joins := 0, defers := 0, leaves := 0, prefillt := 0
    busyNs := 0, idleNs := 0, seqwaitNs := 0, resv := 0, seqs := [], waiting := [], batch := none, began := 0, admitted := 0
    gathered := false, readyFrom := none, closing := none }

/-- Does a value lie in a range? -/
def within (v lo hi : Nat) : Bool := decide (lo ≤ v) && decide (v ≤ hi)

/-- Does R283 refuse the OPEN? -/
def State.serveBad (s : State) (c : Cmd) : Bool :=
  let scb := c.num 24 6
  let x := s.mem.newSess scb
  let n (o k : Nat) : Nat := s.mem.num (scb + o) k
  !inH scb 256 || decide (3 ≤ n 0 2) || !within x.bmax 1 256 || !(if x.ofmt = 0 then within x.topk 1 64 else decide (x.topk = 0))
    || decide (n 6 2 ≠ 0) || !within x.tokbud x.bmax 65536 || decide (1000000 < x.gather) || decide (x.seqtab % 256 ≠ 0)
    || !within x.nseq 1 4096 || decide (x.pgbase % 65536 ≠ 0) || decide (n 30 2 ≠ 0) || decide (x.pgsize % 65536 ≠ 0)
    || !within x.npg 1 (2 ^ 24) || !within x.pgtok 1 65536 || decide (n 44 4 ≠ 0) || decide (x.ptbase % 256 ≠ 0) || decide (n 54 2 ≠ 0)
    || decide (x.ptstride % 256 ≠ 0) || decide (n 60 4 ≠ 0) || decide (x.outbase % 256 ≠ 0) || decide (n 70 2 ≠ 0)
    || decide (x.ostride % 256 ≠ 0) || !within x.vocab 1 (2 ^ 24) || decide (x.btab % 256 ≠ 0) || decide (n 86 42 ≠ 0)
    || decide (x.ostride < outSize x.ofmt x.topk x.vocab)
    || decide (512 ≤ n 212 2) || decide (2 ≤ n 214 2) || decide (n 216 40 ≠ 0)
    || [x.seqtab, x.pgbase, x.ptbase, x.outbase, x.btab].any (fun a => decide (2 ^ 40 ≤ a))
    || (match s.image c.ctx with | none => true | some i => i.vbody.isNone)
    || (s.session c.ctx).isSome || s.trn.run.any fun r => decide (r.ctx = c.ctx)

/-- The SERVE_STEP with action `a` at the head of the client's queue at the serving loop; none waits out a compute-domain reset. -/
def State.serveCmd (s : State) (ctx : BitVec 6) (a : Nat) : Option Cmd :=
  if s.dev.cdreset then none
  else (s.unitHead ctx .serving).filter fun c => decide (c.opc = 3) && decide (c.num 16 1 = a)

/-- Open the session that a good SCB describes; refuse another (R283). -/
def State.tryOpen (s : State) (c : Cmd) : State :=
  if s.serveBad c then s.complete c.id 0x0020 0
  else
    let x := s.mem.newSess (c.num 24 6)
    s.withSnoops [] [(x.scb + 128, 128), (x.seqtab, 64 * x.nseq)] fun s =>
      let s1 := s.modMem fun m => m.clearRange x.seqtab (64 * x.nseq)
      ((s1.setSession c.ctx (some x)).writeScb x true).complete c.id 0 0
/-- SERVE_OPEN (R282 to R284, R311, R433): the SCB is judged as the host last wrote it; the sequence table is written FREE and the SCB's
device fields are written. -/
def execServeOpen (ctx : BitVec 6) (errs : List MemErr) (s : State) : Out :=
  match s.serveCmd ctx 0 with
  | none => .next s
  | some c =>
    let k := aGet Cmt.reset s.regs.cmt (blkNum .sch)
    if k.agen = 0 || k.state = .refused then .next (s.complete c.id 0x0026 0)
    else if inH (c.num 24 6) 256 then
      .next (s.withSnoops [(c.num 24 6, 256)] [] fun s => (s.tierErrs [(c.num 24 6, 256)] errs).tryOpen c)
    else .next (s.tryOpen c)

/-- The slot that a command names. -/
def Cmd.slot (c : Cmd) : Nat := c.num 18 2
/-- The command's result for its slot. -/
def State.slotDone (s : State) (c : Cmd) (status : Nat) : State :=
  s.complete c.id status (if c.num 16 1 = 4 then slotResult 0 c.slot else slotResult ((s.session c.ctx).elim 0 (·.bstep)) c.slot)

/-- SERVE_CLOSE (R283): closes at once, or at the end of the batch step that runs. Without a session it completes with NO_SESSION. -/
def execServeClose (ctx : BitVec 6) (s : State) : Out :=
  match s.serveCmd ctx 1 with
  | none => .next s
  | some c =>
    match s.session ctx with
    | none => .next (s.complete c.id 0x0021 0)
    | some x =>
      if x.batch.isSome then
        if x.closing.isSome then .next s
        else .next ((s.unqueue ctx c.id).setSession ctx (some { x with closing := some c.id }))
      else .next (s.withSnoops [] [(x.seqtab, 64 * x.nseq), (x.scb + 128, 128)] fun s => s.closeSession ctx x c.id)

/-! ## JOIN, CONT and LEAVE (R285, R288) -/

/-- SERVE_JOIN (R285 to R287). -/
def execServeJoin (ctx : BitVec 6) (s : State) : Out :=
  match s.serveCmd ctx 2 with
  | none => .next s
  | some c =>
    match s.session ctx with
    | none => .next (s.slotDone c 0x0021)
    | some x =>
      let maxtok := c.num 32 4
      let np := c.num 36 4
      let nres := x.pagesFor maxtok
      let e := x.seq c.slot
      if decide (x.nseq ≤ c.slot) || decide (x.ptstride < 4 * nres) || decide (maxtok ≤ np) || np = 0 then .next (s.slotDone c 0x0022)
      else if x.npg < nres then .next (s.slotDone c 0x0030)
      else if e.st ≠ .free && e.st ≠ .leaving then .next (s.slotDone c 0x0023)
      else
        let j : Join := ⟨c.id, c.slot, maxtok, np, c.num 40 6, 0⟩
        let x1 : Sess := ({ x with waiting := x.waiting ++ [j] } : Sess).wake s.dev.time
        let x2 := if e.st = .free then x1.setSeq c.slot { SeqEnt.free with st := .pending, maxtok := maxtok, nres := nres, pleft := np } else x1
        .next (s.withSnoops [] [(x.seqtab + 64 * c.slot, 64)] fun s => (s.unqueue ctx c.id).putSeq ctx x2 c.slot)

/-- SERVE_CONT (R285). -/
def execServeCont (ctx : BitVec 6) (s : State) : Out :=
  match s.serveCmd ctx 3 with
  | none => .next s
  | some c =>
    match s.session ctx with
    | none => .next (s.slotDone c 0x0021)
    | some x =>
      let e := x.seq c.slot
      if decide (x.nseq ≤ c.slot) || e.st = .free then .next (s.slotDone c 0x0022)
      else if e.st ≠ .active || e.tokv then .next (s.slotDone c 0x0023)
      else if e.pos = e.maxtok then .next (s.slotDone c 0x0024)
      else
        let e1 : SeqEnt := { e with tokv := true, token := BitVec.ofNat 32 (c.num 48 4), readyt := s.dev.time, cont := some c.id }
        let x1 := (x.setSeq c.slot e1).wake s.dev.time
        .next (s.withSnoops [] [(x.seqtab + 64 * c.slot, 64)] fun s => (s.unqueue ctx c.id).putSeq ctx x1 c.slot)

/-- SERVE_LEAVE (R285, R288, R289): at once when no batch step runs, else at its end. On a PENDING slot it cancels every join that waits for
the slot (DESIGN CHOICE where there are two, log entry 134). -/
def execServeLeave (ctx : BitVec 6) (s : State) : Out :=
  match s.serveCmd ctx 4 with
  | none => .next s
  | some c =>
    match s.session ctx with
    | none => .next (s.slotDone c 0x0021)
    | some x =>
      let e := x.seq c.slot
      if decide (x.nseq ≤ c.slot) || e.st = .free then .next (s.slotDone c 0x0022)
      else
        .next (s.withSnoops [] [(x.seqtab + 64 * c.slot, 64)] fun s =>
          if e.st = .pending then
            let s1 := (x.waiting.filter fun j => decide (j.slot = c.slot)).foldl
              (fun s j => s.complete j.cmd 0x0025 (slotResult x.bstep c.slot)) s
            let x1 : Sess := { x with waiting := x.waiting.filter fun j => decide (j.slot ≠ c.slot), leaves := x.leaves + 1 }
            (s1.putSeq ctx (x1.setSeq c.slot SeqEnt.free) c.slot).complete c.id 0 (slotResult 0 c.slot)
          else
            let x1 := x.setSeq c.slot { e with st := .leaving, leaves := e.leaves ++ [c.id] }
            let s1 := (s.unqueue ctx c.id).putSeq ctx x1 c.slot
            if x.batch.isSome then s1 else (s1.seqLeft ctx x1 c.slot).1)

/-! ## Batch steps (R290 to R294) -/

/-- The session of the client that runs. -/
def State.liveSession (s : State) : Option (BitVec 6 × Sess) :=
  let c := BitVec.ofNat 6 s.sch.client
  if s.running c then (s.session c).map fun x => (c, x) else none

/-- GATHER_WINDOW_EXPIRY (R290): GATHER_NS has passed since the first sequence became ready in this interval. -/
def execGatherWindowExpiry (s : State) : Out :=
  match s.liveSession with
  | none => .next s
  | some (c, x) =>
    if x.readyFrom.any fun t => decide (t + x.gather ≤ s.dev.time) then .next (s.setSession c (some { x with gathered := true })) else .next s

/-- Positions of the step that are taken before a join is considered (R287, R290). -/
def Sess.taken (x : Sess) : Nat :=
  let r := x.readySeqs
  min (r.filter fun kv => decide (kv.2.st = .active)).length (x.bmax - 1) + (r.filter fun kv => decide (kv.2.st = .prefill)).length
/-- May a join be admitted (R286, R287)? -/
def Sess.admits (x : Sess) (j : Join) : Bool :=
  decide ((x.seq j.slot).st = .pending) && decide (x.resv + x.pagesFor j.maxtok ≤ x.npg) && decide (x.taken < x.bmax)
/-- Admit a join: its reservation and its slot's move to PREFILL are one act (R286). -/
def Sess.admitOne (x : Sess) (j : Join) (now : Nat) : Sess :=
  let e : SeqEnt := { SeqEnt.free with
    st := .prefill, maxtok := j.maxtok, nres := x.pagesFor j.maxtok, readyt := now, pleft := j.nprompt, prompt := j.prompt
    nprompt := j.nprompt, adm := x.admitted, join := some j.cmd, defers := j.defers }
  { x.setSeq j.slot e with resv := x.resv + e.nres, joins := x.joins + 1, admitted := x.admitted + 1 }
/-- A deferral in the slot's entry, where the entry is the join's (R287). -/
def Sess.deferEnt (x : Sess) (slot : Nat) : Sess :=
  let e := x.seq slot
  if e.st = .pending then x.setSeq slot { e with defers := e.defers + 1 } else x
/-- Consider the waiting joins in order; the first that cannot be admitted and every join behind it are deferred (R287). -/
def Sess.admitAll (now : Nat) : List Join → Sess → Sess
  | [], x => { x with waiting := [] }
  | j :: js, x =>
    if x.admits j then Sess.admitAll now js (x.admitOne j now)
    else
      let l := j :: js
      let x1 := l.foldl (fun x k => x.deferEnt k.slot) x
      { x1 with waiting := l.map (fun k => { k with defers := k.defers + 1 }), defers := x.defers + l.length }

/-- Insert into a list sorted by a number. -/
def insertBy {α : Type} (f : α → Nat) (a : α) : List α → List α
  | [] => [a]
  | b :: l => if f a < f b then a :: b :: l else b :: insertBy f a l
def sortBy {α : Type} (f : α → Nat) (l : List α) : List α := l.foldl (fun acc a => insertBy f a acc) []

/-- Prefill entries: each takes what is left of the token budget (R290). -/
def prefills : Nat → Nat → List (Nat × SeqEnt) → List BEnt
  | _, _, [] => []
  | pos, left, (slot, e) :: l =>
    if pos = 0 || left = 0 then []
    else
      let n := min e.pleft left
      ⟨slot, if n = e.pleft then 2 else 1, e.pos, n, 0, e.prompt + 4 * (e.nprompt - e.pleft)⟩ :: prefills (pos - 1) (left - n) l
/-- The work that a step selects: decode entries in ascending slot, then prefill entries in order of admission (R290, R291). -/
def Sess.select (x : Sess) : List BEnt :=
  let r := x.readySeqs
  let pre := sortBy (fun kv => kv.2.adm) (r.filter fun kv => decide (kv.2.st = .prefill))
  let act := sortBy (fun kv => kv.2.readyt) (r.filter fun kv => decide (kv.2.st = .active))
  let dec := sortBy (fun kv => kv.1) (act.take (if pre.isEmpty then x.bmax else x.bmax - 1))
  dec.map (fun kv => ⟨kv.1, 0, kv.2.pos, 1, kv.2.token, 0⟩) ++ prefills (x.bmax - dec.length) (x.tokbud - dec.length) pre

/-- The lowest page of the pool that no sequence holds. -/
def Sess.freePage (x : Sess) : Nat :=
  let held := x.seqs.flatMap fun kv => kv.2.pages
  ((List.range (held.length + 1)).find? fun p => !decide (p ∈ held)).getD 0
/-- Give a slot `n` more pages, each written into its page list (R286). -/
def State.addPages (slot : Nat) : Nat → State × Sess → State × Sess
  | 0, p => p
  | n + 1, (s, x) =>
    let e := x.seq slot
    let pg := x.freePage
    State.addPages slot n
      (s.modMem fun m => m.setBytes (x.ptbase + slot * x.ptstride + 4 * e.pages.length) (toBytes 4 pg),
       x.setSeq slot { e with pages := e.pages ++ [pg] })
/-- The pages that an entry needs. -/
def State.pageEnt (p : State × Sess) (b : BEnt) : State × Sess :=
  State.addPages b.slot (p.2.pagesFor (b.pos0 + b.ntok) - (p.2.seq b.slot).pages.length) p

/-- The batch table (R291). -/
def Sess.table (x : Sess) (l : List BEnt) : List Byte :=
  toBytes 8 x.bstep ++ toBytes 2 l.length ++ toBytes 2 (l.filter fun b => b.kind = 0).length ++ toBytes 4 (l.map (·.ntok)).sum
    ++ toBytes 48 0
    ++ l.flatMap fun b =>
      toBytes 2 b.slot ++ toBytes 1 b.kind ++ toBytes 1 0 ++ toBytes 4 b.pos0 ++ toBytes 4 b.ntok ++ toBytes 4 b.token.toNat
        ++ toBytes 6 b.src ++ toBytes 2 0 ++ toBytes 6 (x.ptbase + b.slot * x.ptstride) ++ toBytes 2 0

/-- Do the conditions of R290 hold for the session of the client that runs? -/
def State.mayAdmit (s : State) (c : BitVec 6) (x : Sess) : Bool :=
  x.batch.isNone && x.closing.isNone && !s.pointTaken c && s.atRest.isSome && !s.dev.cdreset
    && (!x.readySeqs.isEmpty || x.waiting.any (fun j => decide (j.defers = 0)) || (x.waiting.head?.any x.admits))
    && (x.gathered || (x.readyFrom.any fun t => decide (t + x.gather ≤ s.dev.time)) || decide (x.bmax ≤ x.readySeqs.length))

/-- ADMISSION_POINT (R286, R287, R290, R291, R390): joins are admitted, work is selected, pages are assigned, the batch table is written, and
the tiles continue at VBENT. With no work selected, no step begins, and the joins that wait keep the window they have. -/
def execAdmissionPoint (s : State) : Out :=
  match s.liveSession with
  | none => .next s
  | some (c, x) =>
    match s.image c with
    | none => .next s
    | some img =>
      if !s.mayAdmit c x then .next s
      else
        let rest := s.atRest.join
        .next (s.withSnoops [] [(x.btab, 64 + 32 * x.bmax), (x.ptbase, x.ptstride * x.nseq), (x.seqtab, 64 * x.nseq)] fun s =>
          let x1 := Sess.admitAll s.dev.time x.waiting x
          let ents := x1.select
          let (s2, x2) := ents.foldl State.pageEnt (s, x1)
          let touched := (x.waiting.map (·.slot) ++ ents.map (·.slot)).eraseDups
          if ents.isEmpty then
            let x3 : Sess := if x2.waiting.isEmpty then { x2 with gathered := false, readyFrom := none } else x2
            touched.foldl (fun s k => s.writeSeq x3 k) (s2.setSession c (some x3))
          else
            let x3 : Sess := { x2 with batch := some ents, began := s.dev.time, gathered := false, readyFrom := none }
            let s3 := touched.foldl (fun s k => s.writeSeq x3 k) (s2.setSession c (some x3))
            (s3.svcBytes x3.btab 0 (x3.table ents)).enterBody img 12 (rest.getD .module) rest.isSome)

/-- The output header of an entry (R292 item 1, R293). -/
def State.outHeader (s : State) (x : Sess) (b : BEnt) : State :=
  let a := x.outbase + b.slot * x.ostride
  let poison := s.mem.anyPoison (a + 64) (outSize x.ofmt x.topk x.vocab - 64)
  s.svcBytes a 0
    (toBytes 2 b.slot ++ toBytes 2 ((decide ((x.seq b.slot).st = .leaving)).toNat + 2 * poison.toNat) ++ toBytes 4 (b.pos0 + b.ntok)
      ++ toBytes 8 x.bstep ++ toBytes 8 s.dev.time ++ toBytes 40 0)
/-- Does an entry have an output (R292)? -/
def BEnt.outputs (b : BEnt) : Bool := decide (b.kind ≠ 1)

/-- A selected sequence after the step (R292 item 2): a CONT or JOIN that its output completes is taken off it. -/
def Sess.advance (x : Sess) (b : BEnt) : Sess :=
  let e := x.seq b.slot
  let e1 : SeqEnt := { e with
    pos := e.pos + b.ntok, pleft := if b.kind = 0 then e.pleft else e.pleft - b.ntok, tokv := if b.kind = 0 then false else e.tokv
    laststep := x.bstep, st := if decide (b.kind = 2) && decide (e.st = .prefill) then .active else e.st
    cont := if b.kind = 0 then none else e.cont, join := if b.kind = 2 then none else e.join }
  x.setSeq b.slot e1

/-- BATCH_STEP_END (R288, R292 to R294): headers, advances, leaves, the SCB, completions, and the release that lets the tiles wait,
held when a pre-emption or a CTX_SAVE is due at this point (R298). -/
def execBatchStepEnd (s : State) : Out :=
  match s.liveSession with
  | none => .next s
  | some (c, x) =>
    match x.batch, (s.tile 0).ssHdr with
    | some ents, some h =>
      if !h.close || !s.releasable h.scope false then .next s
      else
        .next (s.withSnoops [] [(x.outbase, x.ostride * x.nseq), (x.seqtab, 64 * x.nseq), (x.scb + 128, 128)] fun s =>
          let outs := ents.filter BEnt.outputs
          let s1 := outs.foldl (fun s b => s.outHeader x b) s
          let ids := outs.filterMap fun b => ((if b.kind = 0 then (x.seq b.slot).cont else (x.seq b.slot).join).map fun i => (i, b.slot))
          let x1 := ents.foldl Sess.advance x
          let now := s.dev.time
          let x2 : Sess := { x1 with
            bstep := x.bstep + 1, tokens := x.tokens + outs.length, batch := none, busyNs := x.busyNs + (now - x.began)
            prefillt := x.prefillt + ((ents.filter fun b => decide (b.kind ≠ 0)).map (·.ntok)).sum
            readyFrom := if x1.readySeqs.isEmpty && x1.waiting.isEmpty then none else some now }
          let s2 := ents.foldl (fun s b => s.writeSeq x2 b.slot) (s1.setSession c (some x2))
          let gone := (x2.seqs.filter fun kv => decide (kv.2.st = .leaving)).map (·.1)
          let (s3, x3) := gone.foldl (fun p slot => State.seqLeft p.1 c p.2 slot) (s2, x2)
          let s4 := ids.foldl (fun s i => s.complete i.1 0 (slotResult x.bstep i.2)) (s3.writeScb x3 true)
          let s5 := match x3.closing with
            | some id => s4.closeSession c x3 id
            | none => s4
          let s6 := s5.latchSch
          if s6.pointTaken c then s6 else s6.releaseScope h.scope false fun y => { y with core := { y.core with phase := .parked } })
    | _, _ => .next s

end Sys2Proof.Machine
end

