-- ==== Sys2Proof/Machine/Training.lean ====
section
/-! DEFINITION. The training step sequencer: runs, feeds, steps, verdicts, checkpoints and fingerprints (R257 to R280). -/

namespace Sys2Proof.Machine

/-! ## Feeds (R259, R263, R264) -/

/-- Bytes of a ring entry. -/
def FeedD.size (d : FeedD) : Nat := d.mbr * d.rsize * 256
/-- Where the next micro-batch starts, and whether a new pass begins with it; `none` when the feed has ended (R263). -/
def Feed.start (f : Feed) : Option (Nat × Bool) :=
  if f.pos + f.d.mbr ≤ f.d.nord then some (f.pos, false) else if f.d.wrap then some (0, true) else none
/-- Can the feed never supply `n` micro-batches (R264)? -/
def Feed.lacks (f : Feed) (n : Nat) : Bool := !f.d.wrap && decide (f.full.length + (f.d.nord - f.pos) / f.d.mbr < n)
/-- A feed at the start of a run: its credit is the ring's free space (R229). -/
def FeedD.open (d : FeedD) (pos seq : Nat) : Feed :=
  { d := d, pos := pos, seq := seq, asked := 0, credit := d.nslot * d.size, freed := 0, full := [] }
/-- May the next source read of 256 B be issued? -/
def Feed.canAsk (f : Feed) : Bool := f.start.isSome && decide (f.asked + 256 ≤ f.d.size) && decide (256 ≤ f.credit)
def Feed.ask (f : Feed) : Feed := { f with asked := f.asked + 256, credit := f.credit - 256 }
/-- The first `n` entries are freed (R264, R265). -/
def Feed.free (f : Feed) (n : Nat) : Feed := { f with full := f.full.drop n, freed := f.freed + n * f.d.size }

/-- A feed descriptor in memory, `none` when it is all zero. -/
def Mem.feedD (m : Mem) (a : Nat) : Option FeedD :=
  if m.num a 32 = 0 then none
  else some
    { src := m.num a 6, rsize := m.num (a + 6) 2, ord := m.num (a + 8) 6, mbr := m.num (a + 14) 2, nord := m.num (a + 16) 4
      ring := m.num (a + 20) 6, nslot := m.num (a + 26) 2, wrap := decide (m.num (a + 28) 2 % 2 = 1) }
/-- A feed that RUN_STEPS refuses (R260); `least` is MB or FB. -/
def Mem.badFeed (m : Mem) (a least pos : Nat) : Bool :=
  match m.feedD a with
  | none => false
  | some d =>
    decide (1 < m.num (a + 28) 2) || decide (m.num (a + 30) 2 ≠ 0) || decide (d.src % 256 ≠ 0) || decide (d.ord % 4 ≠ 0)
      || decide (d.ring % 256 ≠ 0) || d.rsize = 0 || d.mbr = 0 || d.nord = 0 || d.nslot = 0 || !inH d.ord 4
      || !inH d.ring 256 || (d.wrap && decide (d.nord < d.mbr)) || decide (d.nslot < least)
      || (!d.wrap && decide (d.nord ≤ pos))

/-! ## The run as memory shows it (R258, R261) -/

/-- The device fields of a TCB, bytes 128 to 255. -/
def TRun.bytes (r : TRun) (t : Trn) : List Byte :=
  toBytes 8 t.tstep ++ toBytes 8 r.tpos ++ cnt8 r.tpass ++ toBytes 8 r.fpos ++ cnt8 t.tseq ++ cnt8 t.fseq ++ cnt8 r.skips
    ++ cnt8 r.feedWait ++ cnt8 r.ckptWait ++ cnt8 r.cknum ++ toBytes 8 r.ckstep ++ toBytes 8 r.fprint.toNat ++ toBytes 8 r.fpstep
    ++ cnt8 r.recopies ++ toBytes 2 (1 + 2 * r.diverged.toNat + 4 * t.ckpt.isSome.toNat)
    ++ toBytes 1 (epochs [t.tseq, t.fseq, r.skips, r.feedWait, r.ckptWait, r.cknum, r.recopies, r.tpass]) ++ toBytes 13 0
/-- Write the TCB's device fields: bytes 192 to 255, then bytes 128 to 191 (R337). -/
def State.writeTcb (s : State) (r : TRun) : State :=
  let bs := r.bytes s.trn
  (s.svcBytes (r.tcb + 192) (r.cmd + 1) (bs.drop 64)).svcBytes (r.tcb + 128) (r.cmd + 1) (bs.take 64)
/-- The step line of the step that begins. -/
def State.stepLine (s : State) (r : TRun) (n : Nat) (fpos0 : Nat) : List Byte :=
  toBytes 8 s.trn.tstep ++ cnt8 s.trn.tseq ++ cnt8 s.trn.fseq ++ toBytes 32 (2 ^ n - 1) ++ toBytes 8 fpos0
    ++ toBytes 1 s.trn.lastv.toNat ++ toBytes 7 0 ++ cnt8 r.skips ++ toBytes 176 0

def State.setRun (s : State) (r : TRun) : State := { s with trn := { s.trn with run := some r } }

/-! ## RUN_STEPS (R257 to R260) -/

/-- The chain address of the neighbour that CKDIR names (R260). -/
def State.neighbourAddr (s : State) (down : Bool) : Option Nat :=
  let own := s.dev.addr.toNat
  let n := s.opv.n
  if !s.opv.chained then none
  else if s.opv.ring then some ((if down then own + n - 1 else own + 1) % n)
  else if down then (if own = 0 then none else some (own - 1))
  else if own + 1 < n then some (own + 1) else none
/-- Blocks of every enabled group. -/
def State.allBlocks (s : State) : List (Nat × Nat) := s.gro.groups.flatMap fun g => (List.range g.nblk).map fun b => (g.k, b)
/-- The bank size (R274). -/
def State.bankSize (s : State) : Nat := 69632 + 4096 * (s.gro.groups.map Group.nblk).sum

/-- Does R260 refuse the run? -/
def State.runBad (s : State) (c : Cmd) : Bool :=
  let tcb := c.num 16 6
  let n (o k : Nat) : Nat := s.mem.num (tcb + o) k
  let flags := n 0 2
  let chain := decide (flags % 2 = 1)
  let ckdir := decide (flags / 8 % 2 = 1)
  let fb := n 4 1
  !inH tcb 256 || decide (16 ≤ flags) || decide (2 ≤ flags / 2 % 4) || (decide (15 < n 2 1) && decide (n 2 1 ≠ 0xFF)) || n 3 1 = 0
    || decide (n 5 1 ≠ 0) || decide (n 12 4 ≠ 0) || decide (n 22 2 ≠ 0) || decide (n 30 2 ≠ 0) || decide (n 104 24 ≠ 0)
    || decide (n 243 13 ≠ 0) || decide (8 ≤ n 240 2)
    || s.mem.badFeed (tcb + 40) (n 3 1) (n 136 8) || s.mem.badFeed (tcb + 72) fb (n 152 8)
    || decide ((fb = 0) ≠ (n 72 32 = 0)) || decide (n 16 6 % 256 ≠ 0) || !inH (n 16 6) 256
    || decide (n 24 6 % 4096 ≠ 0) || decide (n 32 8 % 4096 ≠ 0)
    || (decide (n 8 4 ≠ 0) && ((s.neighbourAddr ckdir).isNone || decide (n 32 8 < s.bankSize)))
    || (chain && !s.opv.chained)
    || (match s.image c.ctx with
        | none => true
        | some i => i.sbody.isNone || decide (i.sscope ≠ if chain then .chain else .module))
    || decide (2 ^ 63 ≤ s.trn.tstep)

/-- The run that a TCB describes. -/
def State.newRun (s : State) (c : Cmd) : TRun :=
  let tcb := c.num 16 6
  let n (o k : Nat) : Nat := s.mem.num (tcb + o) k
  let ep (i : Nat) : Nat := n 242 1 / 2 ^ i % 2 * 2 ^ 64
  let flags := n 0 2
  { ctx := c.ctx, cmd := c.id, tcb := tcb, chain := decide (flags % 2 = 1), recopyPol := decide (flags / 2 % 4 = 1)
    ckdir := decide (flags / 8 % 2 = 1), rset := n 2 1, mb := n 3 1, fb := n 4 1, fpn := n 6 2, ckn := n 8 4, sline := n 16 6
    ckbase := n 24 6, cksize := n 32 8
    tfeed := (s.mem.feedD (tcb + 40)).map fun d => d.open (n 136 8) s.trn.tseq
    ffeed := (s.mem.feedD (tcb + 72)).map fun d => d.open (n 152 8) s.trn.fseq
    left := c.num 24 8, tpos := n 136 8, tpass := n 144 8 + ep 7, fpos := n 152 8, skips := n 176 8 + ep 2
    feedWait := n 184 8 + ep 3, ckptWait := n 192 8 + ep 4, cknum := n 200 8 + ep 5, ckstep := n 208 8
    fprint := BitVec.ofNat 64 (n 216 8), fpstep := n 224 8, recopies := n 232 8 + ep 6
    diverged := decide (n 240 2 / 2 % 2 = 1), phase := .start, slots := [], fills := [], ckDue := false, ckCmds := [], fp := none
    fpOut := none, marked := [], recopyDue := false, recopied := [], halt := false, lined := false, bad := false }

/-- Is a commit of a block BUSY (R427)? -/
def State.busy (s : State) (b : Blk) : Bool := decide ((aGet Cmt.reset s.regs.cmt (blkNum b)).work)

/-- Start the run that a good TCB describes; refuse another (R258, R260). -/
def State.tryRun (s : State) (c : Cmd) : State :=
  if s.runBad c then s.complete c.id 0x0010 (BitVec.ofNat 64 s.trn.tstep)
  else s.withSnoops [] [(c.num 16 6 + 128, 128)] fun s =>
    let r := s.newRun c
    (s.setRun r).writeTcb r
/-- RUN_STEPS (R257 to R260, R311, R430): the command at the head of the sequencer's queue starts a run, or completes with RUN_BAD; it waits
for a run in progress and for a TRG commit. The TCB is judged as the host last wrote it. -/
def execRunSteps (ctx : BitVec 6) (errs : List MemErr) (s : State) : Out :=
  match s.unitHead ctx .trainer with
  | none => .next s
  | some c =>
    if decide (c.opc ≠ 2) || s.trn.run.isSome || s.busy .trg || s.dev.cdreset then .next s
    else if inH (c.num 16 6) 256 then
      .next (s.withSnoops [(c.num 16 6, 256)] [] fun s => (s.tierErrs [(c.num 16 6, 256)] errs).tryRun c)
    else .next (s.tryRun c)

/-! ## The end of a run -/

/-- The scope of the closing barrier. -/
def TRun.scope (r : TRun) : Scope := if r.chain then .chain else .module

/-- End the run (R257, R264): RUNNING is cleared, tiles held at the closing barrier are released to wait, feed streams stop, and the
commands that wait on the run complete. -/
def State.endRun (s : State) (status : Nat) : State :=
  match s.trn.run with
  | none => s
  | some r =>
    let s1 := if r.phase = .wait then s.releaseScope r.scope false fun x => { x with core := { x.core with phase := .parked } } else s
    let s2 := (({ s1 with trn := { s1.trn with run := none }, gro := { s1.gro with opn := none } } : State).clearRunning r.tcb)
    (r.ckCmds.foldl (fun s i => s.complete i 0x0013 0) s2).complete r.cmd status (BitVec.ofNat 64 s2.trn.tstep)

/-- Does the training feed end the run before its next step (R264)? -/
def TRun.starved (r : TRun) : Bool := r.tfeed.any fun f => f.lacks r.mb
/-- The run ends with FEED_END when no step is in progress and its next step cannot be formed. -/
def State.feedEnd (s : State) : State :=
  match s.trn.run with
  | some r => if (r.phase = .start || r.phase = .wait) && r.starved then s.endRun 0x0011 else s
  | none => s

/-! ## Feed streams (R229, R263) -/

/-- The record that order-list position `p` names. -/
def State.record (s : State) (d : FeedD) (p : Nat) : Nat := d.src + s.mem.num (d.ord + 4 * p) 4 * d.rsize * 256

/-- FEED_ENTRY_FILLED (R259, R263): a micro-batch whose reads have all been issued is in its ring entry. -/
def execFeedEntryFilled (fill : Bool) (errs : List MemErr) (s : State) : Out :=
  match s.trn.run with
  | none => .next s
  | some r =>
    match (if fill then r.ffeed else r.tfeed) with
    | none => .next s
    | some f =>
      match f.start with
      | none => .next s
      | some (p, wrapped) =>
        if f.asked < f.d.size then .next s
        else
          let recs := (List.range f.d.mbr).map fun i => s.record f.d (p + i)
          let dst := f.d.ring + f.seq % f.d.nslot * f.d.size
          let len := f.d.rsize * 256
          .next (s.withSnoops ((f.d.ord + 4 * p, 4 * f.d.mbr) :: recs.map fun a => (a, len)) [(dst, f.d.size)] fun s0 =>
            let s := s0.tierErrs ((f.d.ord + 4 * p, 4 * f.d.mbr) :: recs.map fun a => (a, len)) errs
            let ws := recs.flatMap fun a => s.svcRead a (len / 8)
            let f' : Feed := { f with
              pos := p + f.d.mbr, seq := f.seq + 1, asked := 0, full := f.full ++ [⟨f.seq, p, p + f.d.mbr, wrapped⟩] }
            let s := ((f.d.ord + 4 * p, 4 * f.d.mbr) :: recs.map fun a => (a, len)).foldl (fun s x => s.svcSeen s.moverReq x.1 x.2) s
            (((s.svcWrite dst (r.cmd + 1) ws).setRun (if fill then { r with ffeed := some f' } else { r with tfeed := some f' })).feedEnd))

/-! ## Steps (R261 to R268) -/

/-- Does the next step have its training micro-batches (R262 item 5)? -/
def TRun.fed (r : TRun) : Bool := r.tfeed.all fun f => decide (r.mb ≤ f.full.length)

/-- Fill slots take the fill entries that are written, and the step line of the next step is written (R261, R265). -/
def State.writeLine (s : State) (r : TRun) : State :=
  let fills := (r.ffeed.elim [] (·.full)).take r.fb
  let n := fills.length
  (s.svcBytes r.sline (r.cmd + 1) (s.stepLine r n ((fills.head?.map (·.pos0)).getD r.fpos))).setRun
    { r with slots := List.range n, fills := fills, lined := true }
/-- Write the next step's line, once, when no step is in progress. -/
def State.tryLine (s : State) : State :=
  match s.trn.run with
  | some r => if r.phase = .step || r.lined then s else s.withSnoops [] [(r.sline, 256)] fun s => s.writeLine r
  | none => s
/-- Begin the next step (R261, R266, R390): the engines open the step's slots, and the tiles continue at SBENT. -/
def State.beginRunStep (s : State) (r : TRun) (img : Image) (held : Option Scope) : State :=
  let s2 := (s.setRun { r with phase := .step, lined := false, bad := false }).beginStep s.trn.tstep
  let s3 := s2.modScope .module false fun x => { x with core := { x.core with nf := false } }
  s3.enterBody img 10 (held.getD .module) held.isSome

/-- May the run's first step begin, but for its step line and its feed: its client runs and its tiles wait? -/
def State.firstReady (s : State) (r : TRun) : Bool :=
  r.phase = .start && s.running r.ctx && s.atRest.isSome && !s.dev.cdreset && (s.session r.ctx).isNone
/-- The tiles continue at the first step when its line is written and its feed is ready. -/
def State.tryFirst (s : State) : State :=
  match s.trn.run with
  | none => s
  | some r =>
    match s.image r.ctx, s.atRest with
    | some img, some rest => if s.firstReady r && r.lined && r.fed then s.beginRunStep r img rest else s
    | _, _ => s
/-- RUN_FIRST_STEP_START (R261, R264): once the run's client runs and its tiles wait, the first step line is written; the tiles continue
when the feed is ready. -/
def execRunFirstStepStart (s : State) : Out :=
  match s.trn.run with
  | none => .next s
  | some r =>
    if r.phase ≠ .start then .next s
    else if r.starved then .next (s.endRun 0x0011)
    else if s.firstReady r then .next s.tryLine.tryFirst
    else .next s

/-- The closing barrier of the step has been reached by every tile of the module. -/
def State.atClose (s : State) (r : TRun) : Bool :=
  s.running r.ctx && s.gathered r.scope false && (s.tile 0).ssHdr.any (·.close)

/-- STACK_FLAG_REPORT (R267): a stack whose packets of the step have all been added reports its flag once the tiles have arrived. -/
def execStackFlagReport (stack : BitVec 4) (s : State) : Out :=
  match s.stepping with
  | none => .next s
  | some r =>
    if s.gro.reported.getLsbD stack.toNat || !s.atClose r || !(s.packetsAt stack.toNat).isEmpty then .next s
    else
      let s1 : State := { s with gro := { s.gro with reported := s.gro.reported ||| BitVec.ofNat 16 (2 ^ stack.toNat) } }
      .next (if r.chain then s1.tryArrive else s1)

/-- VERDICT_ARRIVAL (R245, R267): the module's flag, or the chain's with the release, reaches the engines as the step's verdict. -/
def execVerdictArrival (s : State) : Out :=
  match s.stepping with
  | none => .next s
  | some r =>
    if s.gro.judged || s.gro.opn ≠ some s.trn.tstep || s.gro.reported ≠ 0xFFFF#16 || !s.atClose r
        || (r.chain && !s.releasable .chain false) then .next s
    else
      let bad := if r.chain then s.opv.relNf else s.moduleFlag
      .next ((s.judge s.trn.tstep (!bad)).setRun { r with bad := bad })

/-- Every apply or discard that must have completed by the end of step `t` has (R247, R262 item 3). -/
def State.appliesDone (s : State) (t : Nat) : Bool :=
  s.gro.groups.all fun g => decide (t < g.d) || (g.recs.find? fun r => decide (r.step = t - g.d)).any (·.complete)
/-- Every read for a checkpoint of an earlier step end has been made, and a fingerprint of one is complete (R262 item 3, R275, R277). -/
def State.readsDone (s : State) (r : TRun) (t : Nat) : Bool :=
  (s.trn.ckpt.all fun c => decide (t ≤ c.c) || c.todo.isEmpty) && r.fp.all fun f => decide (t ≤ f.step)

/-! ## Checkpoints (R269 to R274) -/

/-- One memory write of a line to a neighbour module: request and data flits (R359, R227). -/
def State.nbrWrite (s : State) (m : BitVec 4) (a tag : Nat) (ws : List PWord) : State :=
  let sl := homeOf a
  let dest := edgeDest m sl.die sl.south.toNat sl.col.toNat
  let hdr (last : Bool) (slot drow : Nat) : W64 :=
    FHdr.word { vc := 3, kind := 2, edge := true, dest := dest, last := last, cmb := false, slot := slot, dh := 0, drow := drow, age := 0 }
  let req : Flit := ⟨hdr false 0 0, reqPay true 0 true (edgeDest s.dev.addr true 2 20) [⟨tag % 64, 1, a⟩], 0, 0, 0⟩
  let dat := (fourRows ws).mapIdx fun k row => (⟨hdr (decide (k = 3)) (tag % 64) k, row, 0, 0, 0⟩ : Flit)
  (req :: dat).foldl (fun s f => s.injectEdge (mkTile true 20 0) .edgeW f) s
/-- Write whole lines to a neighbour. -/
def State.nbrLines (s : State) (m : BitVec 4) (a : Nat) (ws : List PWord) : State :=
  (List.range (ws.length / 32)).foldl (fun s k => s.nbrWrite m (a + 256 * k) k ((ws.drop (32 * k)).take 32)) s
/-- The bank header (R273), with STATE, TIME and CRC. -/
def Ckpt.header (c : Ckpt) (own : BitVec 4) (time : Nat) (complete : Bool) : List Byte :=
  let table := c.table.flatMap fun e => toBytes 2 e.1 ++ toBytes 1 e.2.1 ++ toBytes 1 0 ++ toBytes 4 e.2.2.1 ++ cnt8 e.2.2.2
  let full := table ++ List.replicate (65536 - table.length) 0
  let h0 := cnt8 c.k ++ toBytes 8 c.c ++ toBytes 8 c.tpos ++ cnt8 c.tpass ++ toBytes 8 c.fpos ++ cnt8 c.skips
    ++ toBytes 8 (if complete then time else 0) ++ toBytes 2 c.table.length ++ toBytes 1 own.toNat ++ toBytes 1 complete.toNat
  h0 ++ toBytes 4 (if complete then (crc32 (h0 ++ full)).toNat else 0) ++ List.replicate 192 0 ++ full ++ List.replicate 3840 0
/-- Send the bank header. -/
def State.sendHeader (s : State) (c : Ckpt) (complete : Bool) : State :=
  let bs := c.header s.dev.addr s.dev.time complete
  s.nbrLines c.dest c.bank (bytesWords bs (List.replicate (bs.length / 8) false))

/-- A checkpoint falls due at the end of step `t`: its blocks are those dirty for the bank, and its header is written with STATE 0
(R269, R272 to R274). -/
def State.beginCkpt (s : State) (r : TRun) (t : Nat) : State :=
  match s.neighbourAddr r.ckdir with
  | none => s
  | some n =>
    let bank := r.cknum % 2
    let c : Ckpt :=
      { k := r.cknum, c := t, dest := BitVec.ofNat 4 n, bank := r.ckbase + bank * r.cksize
        todo := s.gro.groups.flatMap fun g =>
          ((List.range g.nblk).filter fun b => aGet 0 g.clean b / 2 ^ bank % 2 = 0).map fun b => (g.k, b)
        unacked := 272, tpos := r.tpos, tpass := r.tpass, fpos := r.fpos, skips := r.skips
        table := s.gro.groups.map fun g => (g.k, g.d, g.nblk, g.n), cmds := r.ckCmds, final := false }
    let s1 : State := { s with trn := { s.trn with ckpt := some c, run := some { r with ckDue := false, ckCmds := [] } } }
    s1.sendHeader c false

/-- Number of a block among the blocks of the enabled groups (R273). -/
def State.blkIndex (s : State) (k b : Nat) : Nat := ((s.gro.groups.takeWhile fun g => decide (g.k ≠ k)).map Group.nblk).sum + b

/-- CHECKPOINT_BLOCK_READ (R270 to R272, R275, R276): the engine reads a block once for the checkpoint, the fingerprint or both. The
checkpoint's image has every ACC slot zero and goes to the bank; the block's bit for the bank is cleared. -/
def execCheckpointBlockRead (group : BitVec 12) (blk : W32) (errs : List MemErr) (s0 : State) : Out :=
  let key := (group.toNat, blk.toNat)
  match s0.group? group.toNat with
  | none => .next s0
  | some g =>
    let reads := s0.trn.ckpt.any (fun c => decide (key ∈ c.todo)) || s0.trn.run.any fun r => r.fp.any fun f => decide (key ∈ f.todo)
    let s := if reads then s0.tierErrs [(g.base + 4096 * blk.toNat, 4096)] errs else s0
    let ws := s.mem.words (g.base + 4096 * blk.toNat) 512
    let s1 := match s.trn.ckpt with
      | none => s
      | some c =>
        if decide (key ∈ c.todo) then
          let img := ws.mapIdx fun i w => if 8 * i < g.oW then pw0 else w
          let c' : Ckpt := { c with todo := c.todo.erase key, unacked := c.unacked + 16 }
          let s' : State := { s with trn := { s.trn with ckpt := some c' } }
          (s'.modGroup g.k fun h =>
            let o := aGet 0 h.clean blk.toNat
            { h with clean := aSet 0 h.clean blk.toNat (o ||| 2 ^ (c.k % 2)) }).nbrLines c.dest
              (c.bank + 69632 + 4096 * s.blkIndex g.k blk.toNat) img
        else s
    match s1.trn.run with
    | none => .next s1
    | some r =>
      match r.fp with
      | none => .next s1
      | some f =>
        if decide (key ∈ f.todo) then
          let bs := wordBytes ws
          let n := g.count blk.toNat
          let w := (bs.drop g.oW).take (n * if g.wf then 2 else 4)
          let res := if g.wf then (bs.drop g.oRes).take n else []
          let v := crc64 (BitVec.ofNat 64 (g.k * 2 ^ 40 + blk.toNat)) (w ++ res)
          .next (s1.setRun { r with fp := some { f with todo := f.todo.erase key, acc := f.acc ^^^ v } })
        else .next s1

/-- Write acceptances that have come back to the sequencer's port, and the queue without `n` of them. -/
def isAccept (f : Flit) : Bool := decide ((hdrOf f.hdr).kind = 3)
def dropAccepts : Nat → List Flit → List Flit
  | 0, l => l
  | _, [] => []
  | n + 1, f :: l => if isAccept f then dropAccepts n l else f :: dropAccepts (n + 1) l

/-- CHECKPOINT_COMPLETE (R273, R274, R327): with every block write accepted, the header is written complete; with that accepted too, the
checkpoint counts and its commands complete. -/
def execCheckpointComplete (s : State) : Out :=
  match s.trn.ckpt with
  | none => .next s
  | some c =>
    let key := edgeKey (mkTile true 20 0) .edgeW 3
    if !c.todo.isEmpty || decide (((s.edgeQ key).filter isAccept).length < c.unacked) then .next s
    else
      let s1 := s.setEdgeQ key (dropAccepts c.unacked (s.edgeQ key))
      if !c.final then
        .next (({ s1 with trn := { s1.trn with ckpt := some { c with final := true, unacked := 272 } } } : State).sendHeader c true)
      else
        let s2 : State := { s1 with trn := { s1.trn with
          ckpt := none, run := s1.trn.run.map fun r => { r with cknum := c.k + 1, ckstep := c.c } } }
        .next (c.cmds.foldl (fun s i => s.complete i 0 (BitVec.ofNat 64 c.k)) s2)

/-- CHECKPOINT (R324, R329): the oldest that its client has dispatched acts on the run that was its client's and in progress then. -/
def execCheckpoint (ctx : BitVec 6) (s : State) : Out :=
  match (s.host.acts.filterMap fun a => (s.cmd? a.cmd).map fun c => (a, c)).find? fun p => decide (p.2.opc = 7) && decide (p.2.ctx = ctx) with
  | none => .next s
  | some (a, c) =>
    if s.dev.cdreset then .next s
    else
      match a.run, s.trn.run with
      | some n, some r =>
        if a.off then .next (s.complete c.id 0x0014 0)
        else if r.cmd = n then .next ((s.unqueue ctx c.id).setRun { r with ckCmds := r.ckCmds ++ [c.id] })
        else .next (s.complete c.id 0x0013 0)
      | some _, none => .next (s.complete c.id (if a.off then 0x0014 else 0x0013) 0)
      | none, _ => .next (s.complete c.id 0x0013 0)

/-- FINGERPRINT_COMPLETE (R276, R277): every block of every stack has been read; the value is carried by the next closing arrival. -/
def execFingerprintComplete (s : State) : Out :=
  match s.trn.run with
  | none => .next s
  | some r =>
    match r.fp with
    | none => .next s
    | some f =>
      if !f.todo.isEmpty then .next s
      else .next (s.setRun { r with fp := none, fprint := f.acc, fpstep := f.step, fpOut := if r.chain then some (f.acc, f.step) else none }).tryArrive

/-! ## Step ends (R262, R279) -/

/-- Items 3 and 4 of R262 for step `t`: health records, counts, positions, what falls due, and the TCB. -/
def State.closeStep (s : State) (r : TRun) (t : Nat) : State :=
  let s1 := s.healthRecords t
  let took := (r.tfeed.elim [] (·.full)).take r.mb
  let r1 : TRun := { r with
    tpos := (took.getLast?.map (·.pos1)).getD r.tpos, tpass := r.tpass + (took.filter (·.newPass)).length
    fpos := (r.fills.getLast?.map (·.pos1)).getD r.fpos, skips := r.skips + r.bad.toNat
    tfeed := r.tfeed.map fun f => f.free r.mb, ffeed := r.ffeed.map fun f => f.free r.fills.length
    left := r.left - 1, phase := .wait, lined := false, slots := [], fills := []
    ckDue := r.ckDue || !r.ckCmds.isEmpty || (decide (0 < r.ckn) && decide ((t + 1) % r.ckn = 0))
    fp := if decide (0 < r.fpn) && decide (r.rset ≠ 0xFF) && decide ((t + 1) % r.fpn = 0) then some ⟨t, s1.allBlocks, 0⟩ else r.fp }
  let s2 : State := { s1 with
    trn := { s1.trn with tstep := t + 1, lastv := r.bad, tseq := s1.trn.tseq + took.length, fseq := s1.trn.fseq + r.fills.length, run := some r1 }
    gro := { s1.gro with opn := none } }
  let s3 := if r1.ckDue && s2.trn.ckpt.isNone then s2.beginCkpt r1 t else s2
  match s3.trn.run with
  | some r2 => s3.writeTcb r2
  | none => s3

/-- After a step end: the run ends (R262, R264, R277, R279), is held for a pre-emption, or waits to begin the next step. -/
def State.afterStep (s : State) : State :=
  match s.trn.run with
  | none => s
  | some r =>
    if r.halt then s.endRun 0x1003
    else if r.left = 0 then s.endRun 0
    else if 2 ^ 63 ≤ s.trn.tstep then s.endRun 0x0012
    else if r.starved then s.endRun 0x0011
    else if s.pointTaken r.ctx then s.latchSch.setRun { r with phase := .held }
    else s.latchSch

/-- Begin the next step when nothing holds it. -/
def State.tryBegin (s : State) : State :=
  match s.trn.run with
  | none => s
  | some r =>
    match s.image r.ctx with
    | none => s
    | some img =>
      if r.phase = .wait && r.lined && r.fed && !r.recopyDue && s.atClose r && s.releasable r.scope false then
        s.beginRunStep r img (some r.scope)
      else s

/-- STEP_END (R262): items 3 to 5, and the release into the next step; a later STEP_END begins a step that waited for its feed or for a
recopy. -/
def execStepEnd (s : State) : Out :=
  match s.trn.run with
  | none => .next s
  | some r =>
    let t := s.trn.tstep
    if r.phase = .step then
      if s.gro.judged && s.atClose r && s.releasable r.scope false && s.appliesDone t && s.readsDone r t then
        .next (s.withSnoops [] [(r.tcb + 128, 128), (s.act .trg 0x120, s.act .trg 0x128)] fun s => (s.closeStep r t).afterStep.tryLine.tryBegin)
      else .next s
    else .next s.feedEnd.tryLine.tryBegin

/-- Put the W, RES, M1 and M2 bytes of a received block into a block; its ACC slots keep their words (R277). -/
def State.recopyBlk (s : State) (g : Group) (b : Nat) (ws : List W64) : State :=
  let a := g.base + 4096 * b
  let old := s.mem.words a 512
  let new := old.mapIdx fun i w => if 8 * i < g.oW then w else ⟨ws.getD i 0, false⟩
  let s1 := ((s.modMem fun m => m.setWords a new).retag a).putCopy g b (s.trn.tstep - g.d) new
  s1.modGroup g.k fun h => { h with clean := aSet 0 h.clean b 0 }

/-- RECOPY (R277): a marked module receives every block of every enabled group (`2^32 * group + block` with its 512 words) and writes its
copies again; the next step then begins as a step end lets it. -/
def execRecopy (blocks : List (Nat × List W64)) (s : State) : Out :=
  match s.trn.run with
  | none => .next s
  | some r =>
    if !r.recopyDue || r.phase = .step || r.phase = .start
        || decide (blocks.map (·.1) ≠ s.allBlocks.map fun p => 2 ^ 32 * p.1 + p.2) then .next s
    else
      let s1 := blocks.foldl (fun s b =>
        match s.group? (b.1 / 2 ^ 32) with
        | some g => s.recopyBlk g (b.1 % 2 ^ 32) b.2
        | none => s) s
      .next (s1.setRun { r with recopyDue := false, recopies := r.recopies + 1 }).tryBegin

end Sys2Proof.Machine
end

