-- ==== Sys2Proof/Machine/Scheduling.lean ====
section
/-! DEFINITION. Sharing the module: the scheduler, pre-emption, and context images (R198, R295 to R303, R397 to R399). -/

namespace Sys2Proof.Machine

/-! ## Context images (R388, R397, R398) -/

/-- A geometry descriptor. -/
def geomBytes (chainN chainA : Nat) : List Byte :=
  [1, 9, 1, 2, 32, 32] ++ toBytes 2 64 ++ toBytes 2 160 ++ toBytes 2 160 ++ toBytes 2 64 ++ toBytes 2 48 ++ toBytes 1 chainN
    ++ toBytes 1 chainA ++ List.replicate 46 0
/-- Modules on this module's chain. -/
def State.chainLen (s : State) : Nat := if s.opv.chained then s.opv.n else 1
/-- Does a descriptor match the device (R388)? A context of an image without CHAIN barriers names no chain address to match (R303). -/
def State.geomOk (s : State) (g : List Byte) (ctx : Bool) : Bool :=
  let n := (g.getD 16 0).toNat
  let a := (g.getD 17 0).toNat
  decide (g = geomBytes n a) && (n = 0 || decide (n = s.chainLen)) && (a = 0xFF || decide (a = s.dev.addr.toNat) || (ctx && n = 0))

/-- A plain word. -/
def cw (n : Nat) : PWord := ⟨BitVec.ofNat 64 n, false⟩
/-- Take or pad a list to `n` items. -/
def fit {α : Type} (d : α) (n : Nat) (l : List α) : List α := l.take n ++ List.replicate (n - l.length) d

/-- Fixed part of a tile record: 104 words. The resume address is that of the header of the superstep in which the tile waits. -/
def Tile.fixedWords (x : Tile) : List PWord :=
  (List.range 32).map (fun r => ⟨aGet 0 x.core.regs r, false⟩) ++ (List.range 64).map (fun h => ⟨aGet 0 x.htab h, false⟩)
    ++ [cw (ofBytes (fit 0 8 (x.ftq.map fun k => BitVec.ofNat 8 (128 + k.toNat)))), cw (x.mask.toNat + 2 ^ 32 * x.core.hdr)]
    ++ (List.range 4).map (fun k => ⟨aGet 0 x.seeds k, false⟩) ++ [pw0, pw0]
/-- An accumulator block in the P-store slot layout. -/
def accWords (b : List ACell) : List PWord :=
  (List.range 1024).map fun i =>
    let lo := b.getD (2 * i) ⟨0, false⟩
    let hi := b.getD (2 * i + 1) ⟨0, false⟩
    ⟨hi.v ++ lo.v, lo.z || hi.z⟩
/-- The flits a queue holds, each with its tag. -/
def MsgQ.entries (q : MsgQ) (k : BitVec 2) : List (W64 × List PWord) :=
  q.msgs.flatMap fun m => (List.range (m.flits.length - m.taken)).map fun i => (tagWord m k (m.taken + i), m.flits.getD (m.taken + i) [])
/-- A lane of a combining slot in 64 B, and back: flags, with the poison mark of its result word, the word, and the exact sum in two's
complement (R194, R398; the layout is the model's, log entry 86). -/
def LaneAcc.words (a : LaneAcc) (p : Bool) : List PWord :=
  let v := (a.sum % 2 ^ 384).toNat
  [cw (a.nan.toNat + 2 * a.pinf.toNat + 4 * a.ninf.toNat + 8 * a.negz.toNat + 16 * p.toNat), cw a.w.toNat]
    ++ (List.range 6).map fun k => cw (v / 2 ^ (64 * k) % 2 ^ 64)
def readLane (ws : List PWord) : LaneAcc × Bool :=
  let d (k : Nat) : W64 := (ws.getD k pw0).d
  let v : Nat := ((List.range 6).map fun k => (d (2 + k)).toNat * 2 ^ (64 * k)).sum
  (⟨(d 0).getLsbD 0, (d 0).getLsbD 1, (d 0).getLsbD 2, (d 0).getLsbD 3, if v < 2 ^ 383 then (v : Int) else (v : Int) - 2 ^ 384,
    (d 1).setWidth 32⟩, (d 0).getLsbD 4)
/-- A combining slot in 1 KiB, and its state word: N, OPK and counts (R198, R398). -/
def CSlot.words (c : CSlot) : List PWord :=
  match c.result with
  | some r => fit pw0 128 r
  | none => (List.range 16).flatMap fun e => (c.acc.getD e LaneAcc.zero).words (c.poison.getD (e / 2) false)
def CSlot.state (c : CSlot) : Nat :=
  c.armed.toNat + 2 * c.result.isSome.toNat + 2 ^ 8 * c.opk + 2 ^ 16 * c.n + 2 ^ 32 * c.cnt
def readSlot (st : W64) (ws : List PWord) : CSlot :=
  let lanes := (List.range 16).map fun e => readLane ((ws.drop (8 * e)).take 8)
  let live := decide (fld st 63 32 ≠ 0)
  ⟨st.getLsbD 0, fld st 31 16, fld st 15 8, fld st 63 32, if live then lanes.map (·.1) else [],
    if live then (List.range 8).map fun w => ((lanes.getD (2 * w) (LaneAcc.zero, false)).2) else [],
    if st.getLsbD 1 then some (ws.take 8) else none⟩
/-- Belfry part of a tile record: 1,360 words. -/
def Tile.belfryWords (x : Tile) : List PWord :=
  let qs := (List.range 4).map fun k => fit (0, []) 16 ((x.queue (BitVec.ofNat 2 k)).entries (BitVec.ofNat 2 k))
  let slot (k : Nat) : CSlot := x.cslot (BitVec.ofNat 2 k)
  let queue (k : Nat) : MsgQ := x.queue (BitVec.ofNat 2 k)
  (List.range 256).map (fun o => ⟨x.sigC (BitVec.ofNat 8 o) ++ x.sigP (BitVec.ofNat 8 o), false⟩)
    ++ qs.flatMap (fun l => l.flatMap fun e => fit pw0 8 e.2) ++ qs.flatMap (fun l => l.map fun e => ⟨e.1, false⟩)
    ++ (List.range 4).flatMap (fun k => (slot k).words) ++ (List.range 4).map (fun k => cw (slot k).state)
    ++ (List.range 4).map (fun k => cw ((queue k).spilling.toNat + 2 * (queue k).fullRaised.toNat))
    ++ (List.range 4).map (fun k => cw ((queue k).placed % 2 ^ 32 + (queue k).readBack % 2 ^ 32 * 2 ^ 32))
    ++ [cw (x.bel.ring.head + 2 ^ 32 * x.bel.ring.tail), cw x.bel.ring.seq, pw0, pw0]
/-- Powered segments as (store, segment), W, A, then P. -/
def poweredSegs (m : BitVec 24) : List (Nat × Nat) :=
  ([0, 1, 2].flatMap fun st => (List.range 8).map fun g => (st, g)).filter fun p => segOn m p.1 p.2
/-- The stores of a tile record. -/
def Tile.storeWords (x : Tile) : List PWord :=
  (poweredSegs x.mask).flatMap fun p => (List.range (8 * segRows p.1)).map fun i => x.rdWord p.1 (8 * segRows p.1 * p.2 + i)
/-- A tile record (R398): the accumulator that the next operation uses comes first. -/
def Tile.record (x : Tile) : List PWord :=
  x.fixedWords ++ accWords (x.mxe.accBlock x.mxe.nextAcc) ++ accWords (x.mxe.accBlock (!x.mxe.nextAcc)) ++ x.belfryWords ++ x.storeWords

/-- CRC-32 over the bound objects' identifiers, bases and sizes (R397). -/
def State.bindCrc (s : State) (img : Image) : Nat :=
  (crc32 (img.binds.flatMap fun id =>
    toBytes 2 id ++ toBytes 8 ((s.obj? id).elim 0 (·.base)) ++ toBytes 8 ((s.obj? id).elim 0 (·.size)))).toNat

/-- "EWEYTH9" as bytes. -/
def magic9 : List Byte := [0x45, 0x57, 0x45, 0x59, 0x54, 0x48, 0x39]

/-- RESUME of the running client: 1 parked, 2 at a step-body close, 3 at a serve-body close. -/
def State.resumeOf (s : State) (c : BitVec 6) : Nat :=
  if s.allParked then 1 else if s.trn.run.any fun r => decide (r.ctx = c) then 2 else 3

/-- A context image of the running client (R397). -/
def State.context (s : State) (c : BitVec 6) (img : Image) (kind : Nat) : List PWord :=
  let recs := (scopeTiles .module false).map fun t => (s.tile t).record
  let place (acc : Nat × List (Nat × Nat)) (r : List PWord) : Nat × List (Nat × Nat) :=
    (acc.1 + 8 * r.length, acc.2 ++ [(acc.1, 8 * r.length)])
  let (size, dir) := recs.foldl place (256 + 32768, [])
  let dirB := dir.flatMap fun e => toBytes 8 e.1 ++ toBytes 8 e.2
  let h := magic9 ++ [0x43] ++ toBytes 2 1 ++ toBytes 2 kind ++ toBytes 4 c.toNat
    ++ geomBytes (if img.chain then s.chainLen else 0) s.dev.addr.toNat ++ img.digest ++ toBytes 8 ((s.tile 0).core.ss % 2 ^ 64)
    ++ toBytes 8 size ++ toBytes 8 s.dev.time ++ toBytes 4 (s.bindCrc img) ++ toBytes 4 (s.resumeOf c)
  let full := h ++ toBytes 4 (crc32 (h ++ dirB)).toNat ++ List.replicate 76 0 ++ dirB
  bytesWords full (List.replicate (full.length / 8) false) ++ recs.flatten

/-- Bytes of a full context's header and directory, and the most that a context takes (R397, R398). -/
def ctxHead : Nat := 256 + 32768
def ctxMost : Nat := 862880000
/-- The offset of tile `t`'s record in the context at `a`. -/
def State.recordAt (s : State) (a : Nat) (t : TileId) : Nat := a + s.svcNum (a + 256 + 16 * t.toNat) 8
/-- The status that refuses a restore of the context at `a`, whose command gives it `size` bytes, to client `c`; `none` to restore (R10,
R399). -/
def State.ctxRefused (s : State) (c : BitVec 6) (a size : Nat) : Option Nat :=
  let h := s.svcBytesAt a 256
  let dir := s.svcBytesAt (a + 256) 32768
  let n (o k : Nat) : Nat := ofBytes ((h.drop o).take k)
  if decide (h.take 8 ≠ magic9 ++ [0x43]) || decide (n 8 2 ≠ 1) || decide ((crc32 (h.take 176 ++ dir)).toNat ≠ n 176 4)
      || decide (size < n 152 8) || decide (n 180 76 ≠ 0)
      || (scopeTiles .module false).any (fun t => decide (s.svcNum (s.recordAt a t + 816) 16 ≠ 0)) then
    some 0x0050
  else if !s.geomOk ((h.drop 16).take 64) true then some 0x0051
  else
    match s.image c with
    | none => some 0x0052
    | some img => if decide ((h.drop 80).take 64 ≠ img.digest) || decide (n 168 4 ≠ s.bindCrc img) then some 0x0052 else none

/-! ### Reading a record back -/

/-- Cells of an accumulator block from its words. -/
def wordsAcc (ws : List PWord) : List ACell := ws.flatMap fun w => [⟨w.d.extractLsb' 0 32, w.p⟩, ⟨w.d.extractLsb' 32 32, w.p⟩]
/-- The messages of a queue from its entries, in order. -/
def readMsgs : List (W64 × List PWord) → List QMsg → List QMsg
  | [], acc => acc.reverse
  | (t, row) :: l, acc =>
    if t.getLsbD 63 then
      let len := fld t 56 55 + 1
      let idx := fld t 54 53
      match acc with
      | m :: ms =>
        if m.flits.length < m.len then readMsgs l ({ m with flits := m.flits ++ [row] } :: ms)
        else readMsgs l (⟨t.extractLsb' 0 15, t.getLsbD 61, t.extractLsb' 57 4, len, t.getLsbD 50, t.getLsbD 49,
          List.replicate idx [] ++ [row], idx⟩ :: m :: ms)
      | [] => readMsgs l [⟨t.extractLsb' 0 15, t.getLsbD 61, t.extractLsb' 57 4, len, t.getLsbD 50, t.getLsbD 49,
          List.replicate idx [] ++ [row], idx⟩]
    else readMsgs l acc
/-- The records that a tile's ring holds from `head` to `tail`, read back from tier H (R196). -/
def State.readRing (s : State) (base size tail : Nat) : Nat → Nat → List RingRec
  | 0, _ => []
  | n + 1, o =>
    if o = tail then []
    else
      let w := (s.mem.word (base + o)).d
      let units := fld w 31 16
      let pad := decide (fld w 15 0 = 2)
      ⟨o, units, pad, w.extractLsb' 48 2, w.extractLsb' 32 15, fld w 51 50 + 1, w.getLsbD 55, w.extractLsb' 56 4, units⟩
        :: (if units = 0 then [] else s.readRing base size tail n ((o + 64 * units) % size))

/-- Tile `t` as a record at address `a` gives it, over what the image gives (R63, R64, R398). -/
def State.recordTile (s : State) (c : BitVec 6) (img : Image) (tiles a ss resume : Nat) (t : TileId) : Tile :=
  let x := s.imageTile img.dst tiles t
  let ws (k n : Nat) : List PWord := s.svcRead (a + 8 * k) n
  let w (k : Nat) : PWord := (ws k 1).getD 0 pw0
  let mask : BitVec 24 := (w 97).d.extractLsb' 0 24
  let bo := 104 + 2048
  let ftq := (toBytes 8 (w 96).d.toNat).filterMap fun b => if b.getLsbD 7 then some (b.extractLsb' 0 3) else none
  let queue (k : Nat) : MsgQ :=
    let es := (List.range 16).map fun i => ((w (bo + 256 + 512 + 16 * k + i)).d, ws (bo + 256 + 8 * (16 * k + i)) 8)
    let st := (w (bo + 1348 + k)).d
    let pl := (w (bo + 1352 + k)).d
    ⟨readMsgs es [], none, 0, st.getLsbD 0, st.getLsbD 1, fld pl 31 0, fld pl 63 32⟩
  let slot (k : Nat) : CSlot := readSlot (w (bo + 1344 + k)).d (ws (bo + 832 + 128 * k) 128)
  let hd := fld (w (bo + 1356)).d 31 0
  let tl := fld (w (bo + 1356)).d 63 32
  let size := s.act .bel 0x100
  let base := s.act .bel (0x110 + 8 * c.toNat)
  let y : Tile := { x with
    core := { x.core with
      phase := if resume = 1 then .parked else .arrived, pc := fld (w 97).d 63 32, hdr := fld (w 97).d 63 32, ss := ss
      regs := aSetMany 0 [] 0 ((ws 0 32).map (·.d)), xbegun := true }
    htab := aSetMany 0 [] 0 ((ws 32 64).map fun v => htabMask v.d), ftq := ftq, mask := mask, seeds := aSetMany 0 [] 0 ((ws 98 4).map (·.d))
    mxe := { Mxe.empty with acc0 := wordsAcc (ws 104 1024), acc1 := wordsAcc (ws 1128 1024) }
    bel := { x.bel with
      p := aSetMany 0 [] 0 ((ws bo 256).map fun v => v.d.extractLsb' 0 32), c := aSetMany 0 [] 0 ((ws bo 256).map fun v => v.d.extractLsb' 32 32)
      q := aSetMany MsgQ.empty [] 0 ((List.range 4).map queue), slots := aSetMany CSlot.empty [] 0 ((List.range 4).map slot)
      ring := ⟨hd, tl, (w (bo + 1357)).d.toNat, if base = 0 then [] else s.readRing (base + t.toNat * size) size tl 4096 hd⟩ } }
  ((poweredSegs mask).foldl (fun (p : Tile × Nat) g =>
    let n := 8 * segRows g.1
    (p.1.setStore g.1 (aSetMany pw0 (p.1.store g.1) (n * g.2) (ws p.2 n)), p.2 + n)) (y, bo + 1360)).1

/-- Give the tiles the context at `a` of client `c` (R399). -/
def State.restore (s : State) (c : BitVec 6) (img : Image) (a : Nat) : State :=
  let tiles := s.tilesAt img.dst
  let ss := s.svcNum (a + 144) 8
  let resume := s.svcNum (a + 172) 4
  let s1 := (scopeTiles .module false).foldl (fun u t =>
    u.setTile t (s.recordTile c img tiles (s.recordAt a t) ss resume t)) s
  let s2 := (s1.clearLists .module false)
  let chain : Bool := ((s2.tile 0).ssHdr).any fun h => decide (h.scope = Scope.chain)
  if decide (resume ≠ 1) && chain then
    { s2 with opv := { s2.opv with arrived := true, released := some (BitVec.ofNat 64 ss), relSw := false } }
  else s2

/-! ## Clients (R296, R302) -/

/-- A client's place with the scheduler. -/
def State.client (s : State) (c : Nat) : Client := aGet Client.zero s.sch.clients c
def State.setClient (s : State) (c : Nat) (x : Client) : State :=
  { s with sch := { s.sch with clients := aSet Client.zero s.sch.clients c x } }
/-- Is a client runnable (R296, R447)? -/
def State.runnable (s : State) (c : Nat) : Bool :=
  let b := BitVec.ofNat 6 c
  decide (s.act .sch (0x200 + 0x40 * c) ≠ 0) && (s.image b).isSome
    && ((s.trn.run.any fun r => decide (r.ctx = b)) || (s.session b).any fun x => !x.readySeqs.isEmpty || !x.waiting.isEmpty || x.batch.isSome)
/-- Runnable clients. -/
def State.runnables (s : State) : List Nat := (List.range 64).filter s.runnable
/-- A client that becomes runnable after an idle period starts at no less than the least virtual time of the others (R296). -/
def State.wakeClients (s : State) : State :=
  let rs := s.runnables
  let old := (rs.filter fun c => (s.client c).wasRunnable).map fun c => (s.client c).vtime
  let least := old.foldl min (old.headD 0)
  (List.range 64).foldl (fun s c =>
    let x := s.client c
    let r := decide (c ∈ rs)
    s.setClient c { x with wasRunnable := r, vtime := if r && !x.wasRunnable then max x.vtime least else x.vtime }) s
/-- The runnable client with the least virtual time, ties by lower number. -/
def State.nextClient (s : State) : Option Nat :=
  s.runnables.foldl (fun b c =>
    match b with
    | none => some c
    | some d => if (s.client c).vtime < (s.client d).vtime then some c else b) none
/-- Is another client than the running one runnable? -/
def State.otherRunnable (s : State) : Bool := s.runnables.any fun c => decide (c ≠ s.sch.client)

/-- SLICE_EXPIRY (R296): the running client has run for its slice and another is runnable: a pre-emption is requested. -/
def execSliceExpiry (s : State) : Out :=
  let s1 := s.wakeClients
  if s1.sch.phase = .running && s1.sch.request.isNone && decide (s1.sch.since + s1.sch.slice ≤ s1.dev.time) && s1.otherRunnable then
    .next { s1 with sch := { s1.sch with request := some s1.dev.time, lateRaised := false } }
  else .next s1

/-- Is the running client at a pre-emption point (R297): its step or batch step has ended, or it has no work in progress? -/
def State.atPoint (s : State) : Bool :=
  let c := BitVec.ofNat 6 s.sch.client
  let run := s.trn.run.filter fun r => decide (r.ctx = c)
  s.sch.phase = .running && !s.dev.cdreset
    && match run with
      | some r => r.phase = .held && r.lined
      | none => s.atRest.isSome && (s.session c).all fun x => x.batch.isNone
/-- A run of client `c` that was held for a pre-emption point goes on when nothing takes the point any more. -/
def State.resumeRun (s : State) (c : BitVec 6) : State :=
  match s.trn.run with
  | some r => if r.phase = .held && decide (r.ctx = c) && !s.pointTaken c then s.setRun { r with phase := .wait } else s
  | none => s

/-- A flit offered on this module, and not by the service sequencers. -/
def tileFlit (f : Flit) : Bool := decide (f.src ≠ 0) && decide (f.src ≠ linkKey (mkTile true 20 0) .edgeW 3)
/-- Have the drains of R198 and of R298 item 2 finished: no put, signal, message or ring record is on its way, none waits in a sync port,
and no frame with this module's flits waits for its acknowledgement? -/
def State.drained (s : State) : Bool :=
  let quiet (l : Assoc (List Flit)) : Bool := l.all fun kv => decide (kv.1 % 4 ≠ 1) || kv.2.isEmpty
  let portQuiet (x : OpvPort) : Bool :=
    (x.out.all fun kv => kv.2.all fun f => !tileFlit f)
      && x.replay.all fun f => match f.body with | .data fs => fs.all fun g => !tileFlit g | _ => true
  quiet s.net.links && quiet s.net.ejects && quiet s.net.edges && portQuiet s.opv.p0 && portQuiet s.opv.p1
    && s.tiles.all fun kx => (kx.2.bel.ring.recs.all fun r => r.pad || decide (r.got = r.units))
      && kx.2.bel.syncq.isEmpty && kx.2.bel.q.all fun q => q.2.msgs.all QMsg.complete

/-- Does the scheduler switch the client out at the point it has reached (R296, R298): on a chain, when the release says so; else when another
client is runnable and a pre-emption is requested or the client has no runnable work? -/
def State.switchNow (s : State) : Bool :=
  (s.atChainClose && s.opv.relSw) || (s.otherRunnable && (s.wantSwitch || !s.runnable s.sch.client))
/-- PREEMPTION_POINT (R296 to R298): at a pre-emption point the save starts when the drains are done; a request that no other runnable client
backs any longer is dropped. -/
def execPreemptionPoint (s : State) : Out :=
  let s1 := s.wakeClients
  if !s1.atPoint then .next s1
  else if s1.switchNow then
    .next (if s1.drained then { s1 with sch := { s1.sch with phase := .saving, switchAt := s1.dev.time } } else s1)
  else if s1.sch.request.isSome && !s1.otherRunnable then
    .next (({ s1 with sch := { s1.sch with request := none, lateRaised := false } } : State).resumeRun (BitVec.ofNat 6 s1.sch.client))
  else .next s1

/-- Findings on the store words that a save reads, tile by tile (R58, R398). -/
def State.saveErrs (s : State) (errs : List (TileId × StoreErr)) : State :=
  errs.foldl (fun s e =>
    s.storeErrs e.1 ((poweredSegs (s.tile e.1).mask).flatMap fun p => (List.range (segRows p.1)).map fun r => rowKey p.1 (segRows p.1 * p.2 + r))
      [e.2]) s

/-- CONTEXT_SAVE_COMPLETE (R58, R298, R302, R397): the client's context is in its save area. -/
def execContextSaveComplete (errs : List (TileId × StoreErr)) (s : State) : Out :=
  if s.sch.phase ≠ .saving then .next s
  else
    let c := BitVec.ofNat 6 s.sch.client
    let done (s : State) : State :=
      let s0 := s.wakeClients
      let x := s0.client s0.sch.client
      let s1 := s0.setClient s0.sch.client
        { x with preempts := x.preempts + (s0.runnable s0.sch.client).toNat, saved := (s0.image c).isSome }
      { s1 with
        sch := { s1.sch with phase := .restoring, request := none, lateRaised := false, switchAt := s1.dev.time }
        opv := { s1.opv with arrived := false, relSw := false } }
    match s.image c with
    | none => .next (done s)
    | some img =>
      let a := s.act .sch (0x200 + 0x40 * s.sch.client)
      .next (s.withSnoops [] [(a, ctxMost)] fun s =>
        let s1 := s.saveErrs errs
        done (s1.svcWrite a 0 (s1.context c img 0)))

/-- The client `c` runs from now on. -/
def State.startClient (s : State) (c : BitVec 6) : State :=
  let s2 := (s.setClient c.toNat { s.client c.toNat with started := true, saved := false }).latchSch
  ({ s2 with sch := { s2.sch with phase := .running, client := c.toNat, since := s2.dev.time } } : State).resumeRun c
/-- Restore the context at `a` for client `c`, or refuse it with nothing changed (R303, R399). -/
def State.tryRestore (s : State) (c : BitVec 6) (img : Image) (a : Nat) (errs : List MemErr) (k : State → State) : State :=
  s.withSnoops [(a, ctxMost)] [] fun s =>
    let s1 := (s.tierErrs [(a, ctxMost)] errs)
    if (s1.ctxRefused c a ctxMost).isSome then s1 else k ((s1.restore c img a).svcSeen s1.svcReq a (s1.svcNum (a + 152) 8))
/-- CONTEXT_RESTORE_COMPLETE (R295, R296, R298, R390): the next client's saved context is restored, or its image is given to the tiles, and it
runs. A saved context that no longer checks (R303, R399) is not restored. -/
def execContextRestoreComplete (errs : List MemErr) (s : State) : Out :=
  if (s.sch.phase ≠ .restoring && s.sch.phase ≠ .idle) || s.dev.cdreset then .next s
  else
    let s1 := s.wakeClients
    match s1.nextClient with
    | none => .next s1
    | some n =>
      let c := BitVec.ofNat 6 n
      match s1.image c with
      | none => .next s1
      | some img =>
        if (s1.client n).saved then .next (s1.tryRestore c img (s1.act .sch (0x200 + 0x40 * n)) errs fun s => s.startClient c)
        else .next ((s1.startImage img).startClient c)

/-- PREEMPT_LATE (R299): reported once for a request that has waited SCH_PREEMPT_BOUND before the pre-emption point is reached. -/
def execPreemptLate (s : State) : Out :=
  match s.sch.request with
  | none => .next s
  | some t =>
    if s.sch.phase ≠ .running || s.atPoint || s.sch.lateRaised || s.sch.bound = 0 || decide (s.dev.time < t + s.sch.bound) then .next s
    else
      let missing := ((scopeTiles .module false).filter fun t =>
        (s.tile t).core.phase ≠ .arrived && (s.tile t).core.phase ≠ .parked).length
      let x := s.client s.sch.client
      let s1 := s.setClient s.sch.client { x with late := x.late + 1 }
      .next ((({ s1 with sch := { s1.sch with lateRaised := true } } : State).log 0x1002 .dev 0 s.sch.client missing).alert 2)

/-! ## CTX_SAVE and CTX_RESTORE (R303, R399) -/

/-- CTX_SAVE (R303, R397): at the running client's next pre-emption point its context is written to the named object, and it goes on
running. A context larger than the object completes with CTX_BAD. -/
def execCtxSave (ctx : BitVec 6) (errs : List (TileId × StoreErr)) (s : State) : Out :=
  match s.unitHead ctx .sched, s.image ctx with
  | some c, some img =>
    if decide (c.opc ≠ 0x0A) || !s.running ctx || !s.atPoint || !s.drained then .next s
    else
      let n := 8 * (s.context ctx img 1).length
      let a := c.num 24 6
      if c.num 32 8 < n then .next ((s.complete c.id 0x0050 0).resumeRun ctx)
      else .next (s.withSnoops [] [(a, n)] fun s =>
        let s1 := s.saveErrs errs
        ((s1.svcWrite a (c.id + 1) (s1.context ctx img 1)).complete c.id 0 (BitVec.ofNat 64 n)).resumeRun ctx)
  | _, _ => .next s

/-- Where a context that CTX_RESTORE has found good goes: into the tiles, when its client holds them, else into the client's save area. -/
def State.putContext (s : State) (c : Cmd) (img : Image) (a n : Nat) : State :=
  if s.sch.client = c.ctx.toNat && s.sch.phase ≠ .idle then
    if s.running c.ctx && s.atPoint && s.drained then (s.restore c.ctx img a).complete c.id 0 0 else s
  else
    let dst := s.act .sch (0x200 + 0x40 * c.ctx.toNat)
    if dst = 0 then s.complete c.id 0x0050 0
    else s.withSnoops [] [(dst, n)] fun s =>
      let s1 := s.svcWrite dst (c.id + 1) (s.svcRead a (n / 8))
      (s1.setClient c.ctx.toNat { s1.client c.ctx.toNat with saved := true }).complete c.id 0 0
/-- CTX_RESTORE (R8, R303, R311, R399): a context that passes the checks, as the host last wrote it, becomes the client's: at once when its
client holds the tiles at a pre-emption point, else as the context its save area holds. -/
def execCtxRestore (ctx : BitVec 6) (errs : List MemErr) (s : State) : Out :=
  match s.unitHead ctx .sched with
  | none => .next s
  | some c =>
    if decide (c.opc ≠ 0x0B) || s.dev.cdreset then .next s
    else
      let a := c.num 24 6
      .next (s.withSnoops [(a, min (c.num 32 8) ctxMost)] [] fun s =>
        let s := s.tierErrs [(a, min (c.num 32 8) ctxMost)] errs
        match s.ctxRefused ctx a (c.num 32 8), s.image ctx with
        | some st, _ => (s.complete c.id st 0).svcSeen s.svcReq a ctxHead
        | none, none => s.complete c.id 0x0052 0
        | none, some img => (s.putContext c img a (s.svcNum (a + 152) 8)).svcSeen s.svcReq a (s.svcNum (a + 152) 8))

end Sys2Proof.Machine
end

