-- ==== Sys2Proof/Machine/Regs.lean ====
section
/-! DEFINITION. What reads of BAR0 return: registers, counters with their epoch bits, mirrors, the error log and the tile windows
(R422 to R425, R434 to R451, R454, R455, R461). -/

namespace Sys2Proof.Machine

/-- The RWC registers of a block, ascending. -/
def rwcOffs (b : Blk) : List Nat := ((List.range 0x7E0).map fun k => 0x100 + 8 * k).filter fun o => (rwcMask b o).isSome
/-- The block at a BAR0 offset. -/
def blkAt (a : Nat) : Option Blk :=
  match a / 0x10000 with
  | 0 => some .dev | 1 => some .hst | 2 => some .kep | 3 => some .pwr | 4 => some .trh | 5 => some .trg | 6 => some .trc | 7 => some .gal
  | 8 => some .bel | 9 => some .opv | 10 => some .lan | 11 => some .sch | 12 => some .err | _ => none

/-! ## Counters -/

/-- A tile's counters in the order of its window, then the three busy counters (R448, R461). -/
def TCtr.list (c : TCtr) : List Nat :=
  [c.tally, c.sEcc, c.sLan, c.sMem, c.sXchg, c.sPower, c.sFtq, c.sQueue, c.sSync, c.mxeBusy, c.vxeBusy, c.nOvf, c.nNan, c.poisonIn,
   c.masked, c.rngBlocks, c.fp6Pad, c.hMiss, c.dbgSig, c.bankConf, c.rduBusy, c.strBusy, c.syncBusy]
/-- The five counters of R302. -/
def Client.list (c : Client) : List Nat := [c.runNs, c.qwaitNs, c.preempts, c.late, c.switchNs]

/-- Counters of an output with their offsets. -/
def LanOut.counters (o : LanOut) (n : Nat) : List (Nat × Nat) :=
  let b := 0x0A4000 + 0x100 * n
  [(b + 0x10, o.frame), (b + 0x30, o.underrun), (b + 0x40, o.poison), (b + 0x50, o.deferC)]
/-- Every counter that QUERY reads, by BAR0 offset, ascending (R462). -/
def State.devCounters (s : State) : List (Nat × Nat) :=
  [(0x034030, s.pwr.throtNs), (0x034040, s.pwr.tcnt), (0x034050, s.pwr.pcnt), (0x034070, s.pool0.waited), (0x034080, s.pool1.waited),
   (0x044040, s.mem.refresh), (0x044050, s.mem.rfm), (0x044060, s.mem.scrubs), (0x044070, s.mem.hit), (0x044080, s.mem.miss),
   (0x054010, s.gro.applyWait), (0x054020, s.gro.drop), (0x054030, s.mem.gRefresh), (0x064010, s.mem.tierCio), (0x074000, s.net.corr),
   (0x084000, s.belc.spills), (0x084010, s.belc.ringFull), (0x094020, s.opv.pulses),
   (0x094040, s.opv.p0.retry), (0x094050, s.opv.p0.fecCorr), (0x094060, s.opv.p0.crcErr),
   (0x094070, s.opv.p1.retry), (0x094080, s.opv.p1.fecCorr), (0x094090, s.opv.p1.crcErr)]
  ++ s.lan0.counters 0 ++ s.lan1.counters 1
  ++ [(0x0C4010, s.err.drop), (0x0C4040, s.err.ce), (0x0C4050, s.err.ue), (0x0C4060, s.err.faults)]
/-- Every counter with an epoch register (R425). -/
def State.counterAt (s : State) (o : Nat) : Option Nat :=
  if o = 0x004020 then some s.dev.time
  else if 0x0B4100 ≤ o && o < 0x0B5900 && (o - 0x0B4100) % 0x60 % 0x10 = 0 && (o - 0x0B4100) % 0x60 < 0x50 then
    (s.client ((o - 0x0B4100) / 0x60)).list[(o - 0x0B4100) % 0x60 / 0x10]?
  else (s.devCounters.find? fun c => decide (c.1 = o)).map (·.2)
/-- A counter's epoch bit (R278). -/
def epochBit (n : Nat) : Bool := decide (n / 2 ^ 64 % 2 = 1)

/-! ## Live registers -/

def CmtState.num : CmtState → Nat
  | .never => 0 | .busy => 1 | .done => 2 | .refused => 3
def PortSt.num : PortSt → Nat
  | .training => 0 | .up => 1 | .untrained => 2 | .down => 3
def LanSt.num : LanSt → Nat
  | .off => 0 | .start => 1 | .run => 2
/-- blk_CSTAT (R427). -/
def Cmt.word (c : Cmt) : Nat :=
  c.detail.toNat * 2 ^ 48 + c.cause.toNat * 2 ^ 40 + c.state.num * 2 ^ 38 + c.held.isSome.toNat * 2 ^ 37 + c.agen.toNat
/-- A sensor's reading, which nothing in the state gives. -/
def State.sensor (s : State) (k n : Nat) : Nat := Config.freeNat (s.dev.free + k) % n
/-- HST_CTX_STAT, HST_CTX_CNT and HST_CTX_DB (R435). -/
def State.ctxRegs (s : State) (n : Nat) : List Nat :=
  let c := BitVec.ofNat 6 n
  let x := s.ctx c
  [s.inFlight c * 2 ^ 32 + x.stopc.toNat * 2 ^ 8 + x.stopped.toNat * 2 + s.act .hst (0x140 + 0x80 * n) % 2,
   x.ct.toNat * 2 ^ 32 + x.sh.toNat, x.cqh.toNat * 2 ^ 32 + x.sqt.toNat]
/-- OPV_PORT_STATp (R444). -/
def State.portStat (s : State) (p : Bool) : Nat :=
  let x := s.oport p
  let d := s.portDir p
  x.pepoch.toNat * 2 ^ 32 + x.stale.toNat * 2 ^ 12 + x.paddr.toNat * 2 ^ 4 + d.isSome.toNat * 8 + (d.getD false).toNat * 4 + x.st.num
/-- PWR_TOKd (R438). -/
def State.tokReg (s : State) (die : Bool) : Nat :=
  let p := if die then s.pool1 else s.pool0
  let held := ((scopeTiles .die die).filter fun t => (s.tile t).mxe.token).length
  p.wait.length * 2 ^ 22 + held * 2 ^ 11 + p.size
/-- The public identity key (R400). -/
def identityPub : List Byte :=
  edPublic ((sha512 ("Eweyth E9 identity".toList.map (fun c => BitVec.ofNat 8 c.toNat) ++ toBytes 32 Config.deviceSecret.toNat)).take 32)

/-- A live register other than counters, by block and offset; zero where none lies (R422). -/
def State.liveReg (s : State) (b : Blk) (o : Nat) : Nat :=
  match b with
  | .dev =>
    match o with
    | 0x0008 => s.regs.gdetail.toNat * 2 ^ 48 + s.regs.gcause.toNat * 2 ^ 40 + s.regs.gstate.num * 2 ^ 38 + s.regs.gmask.toNat
    | 0x0010 => ((List.range 64).map fun n =>
        (s.ctx (BitVec.ofNat 6 n)).live.toNat * 2 ^ n).sum
    | 0x4000 => (if Config.stepB0 then 0xB0 else 0xA1) * 2 ^ 32 + 0x0109E902
    | 0x4008 => 64 * 2 ^ 40 + 2 * 2 ^ 36 + 2 * 2 ^ 32 + 16 * 2 ^ 24 + 8 * 2 ^ 20 + 2 * 2 ^ 16 + 2048
    | 0x4010 => Config.serial.toNat
    | 0x4018 => s.dev.cdreset.toNat * 32 + (s.pwr.linkUp && !s.pwr.flit256).toNat * 16 + s.opv.final.toNat * 8 + s.keep.idReady.toNat * 4
        + s.pwr.memact.toNat * 2 + s.pwr.ready.toNat
    | _ => 0
  | .hst => if 0x4000 ≤ o && o < 0x4800 && o % 0x20 < 0x18 then (s.ctxRegs ((o - 0x4000) / 0x20)).getD (o % 0x20 / 8) 0 else 0
  | .kep =>
    if 0x4000 ≤ o && o < 0x4020 then (if s.keep.idReady then ofBytes ((identityPub.drop (o - 0x4000)).take 8) else 0)
    else if o = 0x4020 then s.keep.spdmErr.toNat * 2 ^ 8 + s.keep.sessions.length * 2 + s.act .kep 0x240 % 2
    else 0
  | .pwr =>
    match o with
    | 0x4000 => s.pwr.straps.toNat
    | 0x4008 => s.pwr.tj1.toNat * 2 ^ 32 + s.pwr.tj0.toNat * 2 ^ 16 + (BitVec.ofInt 16 s.pwr.tj).toNat
    | 0x4010 => s.pwr.rate0 % 2 ^ 16
    | 0x4018 => s.pwr.rate1 % 2 ^ 16
    | 0x4020 => s.pwr.watts % 2 ^ 11
    | 0x4028 => s.pwr.cause.toNat * 2 ^ 6 + s.effPoint * 2 ^ 3 + s.pwr.ceil
    | 0x4060 => s.tokReg false
    | 0x4068 => s.tokReg true
    | _ => 0
  | .trh =>
    if 0x4000 ≤ o && o < 0x4040 then
      2 ^ s.sensor o 3 * 2 ^ 12 + s.sensor (o + 1) 256 * 2 ^ 4 + s.mem.hCleared.toNat * 2 + s.mem.hTrained.toNat
    else 0
  | .trg =>
    if o = 0x4000 then s.gro.head
    else if o = 0x4008 then s.gro.tail
    else if 0x4040 ≤ o && o < 0x40C0 then s.sensor o 256 * 2 ^ 4 + s.mem.tagsZero.toNat * 2 + s.mem.hTrained.toNat
    else 0
  | .trc =>
    match o with
    | 0x4000 => (s.act .trc 0x100 % 2 = 1 && !s.tierCOn).toNat * 2 + s.tierCOn.toNat
    | 0x4008 => (s.mem.slices.map fun kv => kv.2.uio.length).sum
    | _ => 0
  | .gal => if o = 0x4010 then s.net.bridgeUp.toNat else 0
  | .bel => 0
  | .opv =>
    match o with
    | 0x4000 => s.opv.members.toNat * 2 ^ 16 + s.opv.final.toNat * 2 ^ 10 + s.opv.ring.toNat * 2 ^ 9 + s.opv.n * 2 ^ 4 + s.dev.addr.toNat
    | 0x4008 => s.portStat false
    | 0x4010 => s.portStat true
    | 0x4030 => s.opv.pulseTime
    | _ => 0
  | .lan =>
    let out (x : LanOut) (k : Nat) : Nat :=
      match k with
      | 0x00 => x.hpd.toNat * 2 ^ 16 + x.cause.toNat * 2 ^ 8 + x.st.num
      | 0x20 => x.frameTime
      | _ => 0
    let aux (x : LanOut) (k : Nat) : Nat :=
      match k with
      | 0x08 => x.data0.toNat
      | 0x10 => x.data1.toNat
      | 0x18 => x.irq.toNat * 16 + x.reply.toNat * 2 + x.busy.isSome.toNat
      | _ => 0
    if 0x4000 ≤ o && o < 0x4100 then out s.lan0 (o - 0x4000)
    else if 0x4100 ≤ o && o < 0x4200 then out s.lan1 (o - 0x4100)
    else if 0x4200 ≤ o && o < 0x4240 then aux s.lan0 (o - 0x4200)
    else if 0x4240 ≤ o && o < 0x4280 then aux s.lan1 (o - 0x4240)
    else 0
  | .sch =>
    match o with
    | 0x4000 => 862880000
    | 0x4008 => (s.sch.phase = .running : Bool).toNat * 64 + s.sch.client
    | _ => 0
  | .err =>
    match o with
    | 0x4000 => s.err.head
    | 0x4008 => s.err.tail
    | 0x4020 => s.err.alert.toNat
    | 0x4030 => s.err.firstCode.toNat * 2 ^ 32 + s.err.firstLoc.toNat
    | _ => 0

/-- The bytes of a log entry (R454). -/
def LogEnt.bytes (e : LogEnt) : List Byte :=
  toBytes 8 e.time ++ toBytes 2 e.code.toNat ++ [e.lkind, e.flags] ++ toBytes 4 e.loc.toNat ++ toBytes 8 e.d0.toNat ++ toBytes 8 e.d1.toNat

/-! ## Tile windows (R448 to R450) -/

/-- TIL_STATE. -/
def Tile.stateWord (x : Tile) : Nat :=
  let w := x.core.held
  (w.elim 0 fun h => h.n.toNat) * 2 ^ 32 + (w.elim 0 fun h => h.obj.toNat) * 2 ^ 8 + x.core.faulted.toNat * 16
    + (x.core.phase = .ended || x.core.phase = .arrived : Bool).toNat * 8 + x.core.hnd.isSome.toNat * 4 + w.isSome.toNat * 2
    + (x.core.phase = .arrived : Bool).toNat
/-- TIL_PC. -/
def Tile.pcWord (x : Tile) : Nat := x.str.la % 2 ^ 13 * 2 ^ 16 + x.core.pc % 2 ^ 13

/-- What DATA0 and DATA1 show for a selection (R450). -/
def Tile.debug (x : Tile) (sel : W64) : W64 × W64 :=
  let space := sel.toNat % 8
  let idx := sel.toNat / 2 ^ 8 % 256
  let sub := sel.toNat / 2 ^ 16 % 256
  match space with
  | 0 => (BitVec.ofNat 64 ((x.sigC (BitVec.ofNat 8 idx)).toNat * 2 ^ 32 + (x.sigP (BitVec.ofNat 8 idx)).toNat), 0)
  | 1 =>
    if 4 ≤ idx then (0, 0)
    else
      let q := x.queue (BitVec.ofNat 2 idx)
      let d1 : W64 :=
        match q.msgs with
        | [] => 0
        | m :: _ =>
          if m.flits.length ≤ m.taken then 0
          else if sub = 8 then tagWord m (BitVec.ofNat 2 idx) m.taken
          else if sub < 8 then ((m.flits.getD m.taken []).getD sub pw0).d else 0
      (BitVec.ofNat 64 (q.spilling.toNat * 2 ^ 10 + (q.used - q.occ) * 2 ^ 5 + q.occ), d1)
  | 2 =>
    if 4 ≤ idx then (0, 0)
    else
      let c := x.cslot (BitVec.ofNat 2 idx)
      let row := match c.result with | some r => r | none => if c.cnt = 0 then [] else c.row
      (BitVec.ofNat 64 (c.armed.toNat * 2 ^ 34 + c.opk % 4 * 2 ^ 32 + c.cnt % 2 ^ 16 * 2 ^ 16 + c.n % 2 ^ 16),
       if sub < 8 then (row.getD sub pw0).d else 0)
  | 3 =>
    if 64 ≤ idx then (0, 0)
    else (aGet 0 x.htab idx, BitVec.ofNat 64 (aGet 0 x.expct idx * 2 ^ 32 + aGet 0 x.land idx))
  | 4 => if 32 ≤ idx then (0, 0) else (x.reg (BitVec.ofNat 5 idx), 0)
  | 5 => if 4 ≤ idx then (0, 0) else (BitVec.ofNat 64 (x.bel.ring.tail * 2 ^ 32 + x.bel.ring.head), BitVec.ofNat 64 x.bel.ring.seq)
  | _ => (0, 0)

/-- A tile window's register. -/
def Tile.window (x : Tile) (o : Nat) : Nat :=
  if o = 0x08 then ((x.dbg.snap.take 20).mapIdx fun k n => (epochBit n).toNat * 2 ^ k).sum
  else if 0x10 ≤ o && o < 0xB0 then x.dbg.snap.getD ((o - 0x10) / 8) 0 % 2 ^ 64
  else
    match o with
    | 0xB0 => x.stateWord
    | 0xB8 => x.pcWord
    | 0xC0 => x.dbg.sel.toNat
    | 0xC8 => (x.debug x.dbg.sel).1.toNat
    | 0xD0 => x.dbg.d1.toNat
    | 0xE0 => x.dbg.sigRes.toNat
    | _ => 0

/-! ## Reads -/

/-- What a 64-bit read of BAR0 at an aligned offset returns (R422 to R426). -/
def State.readReg (s : State) (a : Nat) : W64 :=
  let v : Nat :=
    if 0x100000 ≤ a && a < 0x180000 then (s.tile (BitVec.ofNat 11 ((a - 0x100000) / 0x100))).window (a % 0x100)
    else
      match blkAt a with
      | none => 0
      | some b =>
        let o := a % 0x10000
        if (rwcMask b o).isSome then (s.regs.shadowAt b o).toNat
        else if 0x8100 ≤ o && o < 0xC000 && (rwcMask b (o - 0x8000)).isSome then s.act b (o - 0x8000)
        else if Blk.setup b && o = 8 then (aGet Cmt.reset s.regs.cmt (blkNum b)).word
        else if b = .err && 0xC000 ≤ o then
          ofBytes ((((aGet none s.err.log ((o - 0xC000) / 32)).elim [] LogEnt.bytes).drop (o % 32)).take 8)
        else
          match s.counterAt a with
          | some n => n
          | none => if (s.counterAt (a - 8)).isSome && decide (8 ≤ a) then (aGet false s.regs.epoch (a - 8)).toNat else s.liveReg b o
  BitVec.ofNat 64 v

/-- COUNTER_READ (R425): a read of a counter latches its epoch bit for the register behind it. -/
def execCounterRead (off : BitVec 26) (s : State) : Out :=
  match s.counterAt off.toNat with
  | none => .next s
  | some n => .next { s with regs := { s.regs with epoch := aSet false s.regs.epoch off.toNat (epochBit n) } }

/-- TIL_SNAP (R449): the twenty counters are latched in one instant. -/
def State.snapTile (s : State) (t : TileId) : State :=
  s.modTile t fun x => { x with dbg := { x.dbg with snap := x.ctr.list.take 20 } }
def execTilSnap (t : TileId) (s : State) : Out := .next (s.snapTile t)

/-- TIL_DBG_DATA0_READ (R450): both data words are taken from one instant. -/
def execTilDbgData0Read (t : TileId) (s : State) : Out :=
  .next (s.modTile t fun x => { x with dbg := { x.dbg with d0 := (x.debug x.dbg.sel).1, d1 := (x.debug x.dbg.sel).2 } })

/-- A hand change of P of an object (R173, R174, R200, R451): applied, counted and logged, or refused where it would break the window. A
held WAIT sees it in its tile's next step. -/
def State.sigOp (s : State) (t : TileId) (obj : BitVec 8) (add : Bool) (value : W32) : State :=
  let x := s.tile t
  let old := x.sigP obj
  let new := if add then old + value else value
  if 2 ^ 31 ≤ (new - x.sigC obj).toNat then
    s.setTile t { x with dbg := { x.dbg with sigVal := value.setWidth 64, sigRes := (x.dbg.sigRes.extractLsb' 32 32).setWidth 64 <<< 32 ||| 3#64 } }
  else
    let y := { x.setP obj new with dbg := { x.dbg with sigVal := value.setWidth 64, sigRes := new.setWidth 64 <<< 32 ||| 1#64 } }
    ((s.setTile t (y.count fun c => { c with dbgSig := c.dbgSig + 1 })).log 0x1009 .tile (s.gta t).toNat obj.toNat
      (old.toNat * 2 ^ 32 + new.toNat))
/-- SIG_OP_SET (R200, R451). -/
def execSigOpSet (t : TileId) (obj : BitVec 8) (value : W32) (s : State) : Out :=
  .next (if s.pwr.perst then s.sigOp t obj false value else s)
/-- SIG_OP_ADD (R200, R451). -/
def execSigOpAdd (t : TileId) (obj : BitVec 8) (value : W32) (s : State) : Out :=
  .next (if s.pwr.perst then s.sigOp t obj true value else s)

end Sys2Proof.Machine
end

