-- ==== Sys2Proof/Machine/Commit.lean ====
section
/-! DEFINITION. Set-up registers and the commit protocol: the checks of each block, what an accepted commit does, global commits and the
work that ends a commit (R313, R370, R415, R426 to R447). -/

namespace Sys2Proof.Machine

/-- Settings under which a commit is checked: the register of a block at an offset. -/
abbrev View := Blk → Nat → Nat
/-- A block that a set commits: its generation and its snapshot (R428). -/
structure CItem where
  b : Blk
  gen : BitVec 31
  snap : Assoc (Option W64)
deriving DecidableEq, Repr

/-- The shadow of one block. -/
def Regs.snapOf (r : Regs) (b : Blk) : Assoc (Option W64) := r.shadow.filter fun kv => decide (kv.1 % rsvAt / 0x10000 = blkNum b)
/-- A register of a snapshot. -/
def snapAt (snap : Assoc (Option W64)) (b : Blk) (o : Nat) : W64 := (aGet none snap (blkBase b + o)).getD (BitVec.ofNat 64 (rwcReset b o))
/-- CRC-32 of a block's RWC registers (R429). -/
def crcOf (b : Blk) (f : Nat → W64) : W32 := crc32 ((rwcOffs b).flatMap fun o => toBytes 8 (f o).toNat)
/-- The new settings of every block of a set and the active settings of every other. -/
def State.view (s : State) (l : List CItem) : View := fun b o =>
  match l.find? fun i => decide (i.b = b) with
  | some i => (snapAt i.snap b o).toNat
  | none => s.act b o

/-! ## Pinned room -/

/-- Does one pinned object of a tier, of one client where one is named, hold a range (R440, R442, R447)? -/
def State.inPinned (s : State) (tier : Nat) (owner : Option Nat) (a n : Nat) : Bool :=
  s.obj.objs.any fun o => decide (o.tier = tier) && o.pin && (owner.all fun c => decide (o.owner.toNat = c)) && decide (o.base ≤ a)
    && decide (a + n ≤ o.base + o.size)
/-- Do pinned objects together hold a range (R240, R443)? The first number bounds the objects it crosses. -/
def State.allPinned (s : State) (tier : Nat) (owner : Option Nat) : Nat → Nat → Nat → Bool
  | 0, _, n => decide (n = 0)
  | k + 1, a, n =>
    if n = 0 then true
    else
      match s.obj.objs.find? fun o => decide (o.tier = tier) && o.pin && (owner.all fun c => decide (o.owner.toNat = c)) && decide (o.base ≤ a)
          && decide (a < o.base + o.size) with
      | none => false
      | some o => s.allPinned tier owner k (o.base + o.size) (n - (o.base + o.size - a))

/-! ## Checks -/

/-- A power of two. -/
def pow2 (n : Nat) : Bool := decide (0 < n) && decide (2 ^ Nat.log2 n = n)
/-- Cause and DETAIL of a failed check: CHECK. -/
def failed (detail : Nat) : Option (Nat × Nat) := some (4, detail)
/-- The first index below `n` that fails. -/
def firstBad (n : Nat) (bad : Nat → Bool) : Option (Nat × Nat) := ((List.range n).find? bad).bind failed

/-- Offset of a context's registers (R435). -/
def ctxBase (n : Nat) : Nat := 0x100 + 0x80 * n
/-- Is a context's set-up illegal, or a change of it (R313, R436)? -/
def State.hstBad (s : State) (v : View) (n : Nat) : Bool :=
  let r (k : Nat) : Nat := v .hst (ctxBase n + k)
  let was := decide (s.act .hst (ctxBase n + 0x40) % 2 = 1)
  let en := decide (r 0x40 % 2 = 1)
  (was && [0x00, 0x08, 0x10, 0x18, 0x20, 0x28, 0x30].any fun k => decide (r k ≠ s.act .hst (ctxBase n + k)))
    || (en && (!pow2 (r 0x10) || decide (r 0x10 < 16) || decide (4096 < r 0x10) || !pow2 (r 0x20) || decide (r 0x20 < 16) || decide (4096 < r 0x20)
      || decide (r 0x08 % (64 * r 0x10) ≠ 0) || decide (r 0x18 % (16 * r 0x20) ≠ 0) || decide (r 0x28 % 64 ≠ 0)
      || decide (r 0x30 < 1) || decide (8192 < r 0x30)))
    || (en && (List.range n).any fun m => decide (v .hst (ctxBase m + 0x40) % 2 = 1) && decide (v .hst (ctxBase m) = r 0))
    || (en && !was && (s.ctx (BitVec.ofNat 6 n)).live)
def State.hstCheck (s : State) (v : View) : Option (Nat × Nat) :=
  match firstBad 64 (s.hstBad v) with
  | some e => some e
  | none =>
    let sum := (((List.range 64).filter fun n => decide (v .hst (ctxBase n + 0x40) % 2 = 1)).map fun n => v .hst (ctxBase n + 0x30)).sum
    if 8192 < sum then failed 0xFFFF else none

/-- Limits of R410, R413 and R415. -/
def State.pwrCheck (s : State) (v : View) : Option (Nat × Nat) :=
  let b := decide (v .pwr 0x108 % 2 = 1)
  if (!b && s.pwr.straps.getLsbD 2) || decide ((if b then 2 else 4) < v .pwr 0x100) || decide (v .pwr 0x110 < 600)
      || decide (s.pwr.strapLimit < v .pwr 0x110) || decide (v .pwr 0x118 < 70) || decide (100 < v .pwr 0x118) then failed 0xFFFF
  else none

/-! ### The update table (R236, R237, R240) -/

/-- Entry `k` of the update table at `a`, as a group. -/
def Mem.entry (m : Mem) (a k : Nat) : Group :=
  let e := a + 128 * k
  let f (o : Nat) : W32 := BitVec.ofNat 32 (m.num (e + o) 4)
  let mode := m.num (e + 6) 2
  { k := k, base := m.num e 6, rule := mode / 2 % 4, wf := decide (mode / 8 % 2 = 1), d := mode / 16 % 8, efmt := mode / 128 % 8
    nelem := m.num (e + 8) 4, lr := f 12, b1 := f 16, b2 := f 20, eps := f 24, wd := f 28, gs := f 32, slen := m.num (e + 36) 4
    out := m.num (e + 40) 6, ostr := m.num (e + 48) 8, sched := m.num (e + 56) 6, n0 := m.num (e + 64) 8, n := m.num (e + 64) 8, lasts := 0
    applying := false, torn := false, lastskip := false, finites := 0, recs := [], inlet := .clear, clean := [] }
/-- V of an entry. -/
def Mem.entryOn (m : Mem) (a k : Nat) : Bool := decide (m.num (a + 128 * k + 6) 2 % 2 = 1)
/-- The enabled groups of a table. -/
def Mem.groups (m : Mem) (a n : Nat) : List Group := ((List.range n).filter (m.entryOn a)).map (m.entry a)
/-- Is an FP32 value in [0, 1)? -/
def inUnit (v : W32) : Bool := decide (v.toNat < 0x3F800000) || decide (v.toNat = 0x80000000)
/-- Reserved fields and codes of an enabled entry. -/
def Mem.entryOk (m : Mem) (a k : Nat) : Bool :=
  let e := a + 128 * k
  let g := m.entry a k
  let z (o n : Nat) : Bool := decide (m.num (e + o) n = 0)
  z 46 2 && z 62 2 && z 84 44 && decide (m.num (e + 6) 2 < 1024) && decide (m.num (e + 80) 4 < 8)
    && decide (g.base % 4096 = 0) && decide (g.out % 256 = 0) && decide (g.ostr % 256 = 0) && decide (g.sched % 4 = 0)
    && decide (g.rule ≤ 2) && decide (g.efmt ≤ 3) && decide (g.d ≤ 4) && decide (g.nelem ≠ 0)
    && ([g.lr, g.b1, g.b2, g.eps, g.wd, g.gs].all fun v => isFin v)
    && (decide (g.rule = 0) || inUnit g.b1) && (decide (g.rule ≠ 2) || (inUnit g.b2 && (!g.eps.getLsbD 31 || decide (g.eps.toNat = 0x80000000))))
/-- The copy buffers of a group, as ranges. -/
def Group.bufs (g : Group) : List (Nat × Nat) := if g.efmt = 0 then [] else (List.range (g.d + 1)).map fun j => (g.out + j * g.ostr, g.copySize)
/-- Do two ranges overlap? -/
def meet2 (x y : Nat × Nat) : Bool := decide (x.1 < y.1 + y.2) && decide (y.1 < x.1 + x.2)
/-- Is enabled group `g` illegal beside the enabled groups before it, under an update region? -/
def badGroup (m : Mem) (a : Nat) (region : Nat × Nat) (before : List Group) (g : Group) : Bool :=
  let blocks (h : Group) : Nat × Nat := (h.base, 4096 * h.nblk)
  !m.entryOk a g.k
    || decide ((blocks g).1 < region.1 + 2 ^ 20) || decide (region.1 + region.2 < (blocks g).1 + (blocks g).2)
    || (before.any fun h => meet2 (blocks h) (blocks g))
    || (g.bufs.any fun b => !(inH b.1 b.2 || (decide (2 ^ 40 ≤ b.1) && inHG b.1 b.2)) || meet2 b region || decide (g.ostr < b.2)
        || before.any fun h => h.bufs.any (meet2 b))
    || (decide (0 < g.slen) && !inH g.sched (4 * g.slen))
/-- The first illegal group. -/
def firstGroup (m : Mem) (a : Nat) (region : Nat × Nat) : List Group → List Group → Option Nat
  | _, [] => none
  | before, g :: gs => if badGroup m a region before g then some g.k else firstGroup m a region (before ++ [g]) gs
/-- R236, R237, R240, R440. -/
def State.trgCheck (s : State) (v : View) : Option (Nat × Nat) :=
  let a := v .trg 0x100
  let n := v .trg 0x108
  let region := (v .trg 0x110, v .trg 0x118)
  if s.trn.run.isSome then some (3, 0xFFFF)
  else if decide (4096 < n) || (decide (0 < n) && (decide (a % 256 ≠ 0) || !inH a (128 * n))) then failed 0xFFFF
  else
    let gs := s.mem.groups a n
    if gs.isEmpty then none
    else if decide (region.1 % 4096 ≠ 0) || decide (region.1 < 2 ^ 40) || !inHG region.1 region.2 || decide (region.2 < 2 ^ 20)
        || !s.allPinned 1 none (s.obj.objs.length + 1) region.1 region.2
        || !inH (v .trg 0x120) (v .trg 0x128) || decide (v .trg 0x128 % 64 ≠ 0) || decide (v .trg 0x128 < 4096) then failed 0xFFFF
    else (firstGroup s.mem a region [] gs).bind failed

/-- R209, R442. -/
def State.trcCheck (s : State) (v : View) : Option (Nat × Nat) :=
  let seg (k : Nat) : Nat := v .trc (0x118 + 8 * k)
  let valid := (List.range 8).filter fun k => decide (seg k % 2 = 1)
  let size (k : Nat) : Nat := seg k / 2 ^ 13 % 2 ^ 7
  let w := v .trc 0x108
  let tag := v .trc 0x110
  let changes := ([0x100, 0x108, 0x110] ++ (List.range 8).map fun k => 0x118 + 8 * k).any fun o => decide (v .trc o ≠ s.act .trc o)
  if (s.obj.objs.any fun o => decide (o.tier = 2)) && changes then failed 0xFFFF
  else if v .trc 0x100 % 2 = 0 then none
  else
    match (List.range 8).find? fun k => (decide (k < valid.length) && (decide (seg k % 2 = 0) || decide (size k < 1) || decide (16 < size k))) with
    | some k => failed k
    | none =>
      if decide ((valid.map size).sum * 2 ^ 38 ≠ w) || decide (w % 2 ^ 40 ≠ 0) || decide (w < 2 ^ 40) || decide (2 ^ 42 < w) || decide (tag % 4096 ≠ 0)
          || !s.inPinned 0 none tag (w / 2048) then failed 0xFFFF
      else none

/-- R195, R443. -/
def State.belCheck (s : State) (v : View) : Option (Nat × Nat) :=
  let size := v .bel 0x100
  if !pow2 size || decide (size < 4096) || decide (2 ^ 20 < size) then failed 0xFFFF
  else firstBad 64 fun n =>
    let a := v .bel (0x110 + 8 * n)
    (decide (a ≠ 0) && (decide (a % size ≠ 0) || !s.allPinned 0 (some n) (s.obj.objs.length + 1) a (2048 * size)))
      || ((aGet none s.imgs n).isSome && (decide (size ≠ s.act .bel 0x100) || decide (a ≠ s.act .bel (0x110 + 8 * n))))

/-- Registers of an enabled output under a view, and its first failed check (R370). -/
def lanBad (v : View) (n : Bool) : Option Nat := lanCause (v .lan) (fun c => decide (v .hst (ctxBase c + 0x40) % 2 = 1)) n
def lanCheck (v : View) : Option (Nat × Nat) :=
  if (lanBad v false).isSome then failed 0 else if (lanBad v true).isSome then failed 1 else none

/-- R233, R447. -/
def State.schCheck (s : State) (v : View) : Option (Nat × Nat) :=
  let r (n k : Nat) : Nat := v .sch (0x200 + 0x40 * n + k)
  match firstBad 64 fun n =>
      decide (r n 8 = 0) || (decide (r n 0 ≠ 0) && !s.inPinned 0 (some n) (r n 0) 862880000)
        || [0x10, 0x18, 0x20].any fun k => decide (r n k % 65536 ≠ 0) with
  | some e => some e
  | none =>
    let sum (k : Nat) : Nat := ((List.range 64).map fun n => r n k).sum
    let capC := if v .trc 0x100 % 2 = 1 then v .trc 0x108 else 0
    if decide (2 ^ 40 < sum 0x10) || decide (2 ^ 41 < sum 0x18) || decide (capC < sum 0x20) then failed 0xFFFF else none

/-- The checks of a block: cause and DETAIL of the refusal. -/
def State.check (s : State) (v : View) (b : Blk) : Option (Nat × Nat) :=
  match b with
  | .hst => s.hstCheck v
  | .kep => if s.act .kep 0x240 % 2 = 1 then some (6, 0xFFFF) else none
  | .pwr => s.pwrCheck v
  | .trh => if v .trh 0x100 / 256 % 65536 = 0 then failed 0xFFFF else none
  | .trg => s.trgCheck v
  | .trc => s.trcCheck v
  | .bel => s.belCheck v
  | .lan => lanCheck v
  | .sch => s.schCheck v
  | _ => none

/-! ## Accepting and refusing -/

def State.cmt (s : State) (b : Blk) : Cmt := aGet Cmt.reset s.regs.cmt (blkNum b)
def State.setCmt (s : State) (b : Blk) (c : Cmt) : State := { s with regs := { s.regs with cmt := aSet Cmt.reset s.regs.cmt (blkNum b) c } }

/-- A refused LAN commit shows at its outputs (R371, R372): COMMIT_CRC at both, a failed check at the output that fails it. -/
def State.lanRefused (s : State) (cause : Nat) (v : View) : State :=
  let set (n : Bool) (c : Nat) (s : State) : State := s.modLan n fun o => { o with cause := BitVec.ofNat 8 c }
  if cause = 1 then set true 2 (set false 2 s)
  else if cause = 4 then [false, true].foldl (fun s n => match lanBad v n with | some c => set n c s | none => s) s
  else s
/-- Refuse a commit of a block, with what its outputs show. -/
def State.refuseIn (s : State) (v : View) (b : Blk) (cause detail : Nat) : State :=
  let s1 := s.refuse b cause detail
  if b = .lan then s1.lanRefused cause v else s1

/-- Contexts that a commit of HST enables or disables (R316, R317, R319, R375). -/
def State.hstAccept (s : State) (old : Nat → Bool) : State :=
  (List.range 64).foldl (fun s n =>
    let c := BitVec.ofNat 6 n
    let en := decide (s.act .hst (ctxBase n + 0x40) % 2 = 1)
    if en = old n then s
    else if en then s.setCtx c { HCtx.reset with en := true, live := true, dbRead := true, dbFirst := true, recs := (s.ctx c).recs }
    else (s.modCtx c fun x => { x with en := false, dbFirst := false, bursts := [] }).ownerLost c) s
/-- The lines of enabled groups' blocks and health inlets leave the tier caches (R240). -/
def State.dropGroups (s : State) (gs : List Group) : State :=
  let rs := gs.flatMap fun g => [(g.base, 4096 * g.nblk), (s.act .trg 0x110 + 256 * g.k, 256)]
  let drop (x : Slice) : Slice := rs.foldl (fun x r => x.forget r.1 r.2) x
  s.modMem fun m =>
    { m with slices := (m.slices.map fun kv => (kv.1, drop kv.2)).filter fun kv => decide (kv.2 ≠ Slice.empty) }
/-- The groups of an accepted TRG commit (R236, R238, R258, R441). Packets that still wait meet no open slot (R242). -/
def State.trgAccept (s0 : State) (ring : Nat × Nat) : State :=
  let gs := s0.mem.groups (s0.act .trg 0x100) (s0.act .trg 0x108)
  let s := (s0.gro.packets.flatMap fun kv => kv.2.map fun p => (kv.1, p.addr)).foldl (fun s p => s.updLate p.1 p.2) (s0.dropGroups gs)
  let same := decide (ring = (s.act .trg 0x120, s.act .trg 0x128))
  { s with
    gro := { s.gro with
      groups := gs, packets := [], opn := none, step := 0, nf := 0, reported := 0, judged := false
      head := if same then s.gro.head else 0, tail := if same then s.gro.tail else 0 }
    trn := { s.trn with tstep := 0, tseq := 0, fseq := 0, lastv := false } }
/-- What a block does in the instant in which its new settings become active; `old` is the state before. -/
def State.accept (s old : State) (b : Blk) : State :=
  match b with
  | .hst => s.hstAccept fun n => decide (old.act .hst (ctxBase n + 0x40) % 2 = 1)
  | .pwr => s.thermPin
  | .trg => s.trgAccept (old.act .trg 0x120, old.act .trg 0x128)
  | .lan => (s.lanAccept false).lanAccept true
  | _ => s

/-- Make the snapshots active (R428). -/
def State.activate (s : State) (l : List CItem) : State :=
  l.foldl (fun s i =>
    let rest := s.regs.active.filter fun kv => decide (kv.1 % rsvAt / 0x10000 ≠ blkNum i.b)
    let act := i.snap.foldl (fun a kv => aSet none a kv.1 kv.2) rest
    ({ s with regs := { s.regs with active := act } } : State).setCmt i.b
      { s.cmt i.b with state := .busy, work := true, agen := i.gen, held := none }) s

/-- apply_set (R428). -/
def State.applySet (s : State) (l : List CItem) (glob : Bool) : State :=
  let v := s.view l
  let fails := l.filterMap fun i => (s.check v i.b).map fun e => (i.b, e)
  match fails with
  | f :: _ =>
    let s1 := l.foldl (fun s i =>
      match fails.find? fun e => decide (e.1 = i.b) with
      | some e => s.refuseIn v i.b e.2.1 e.2.2
      | none => s.refuseIn v i.b 5 0xFFFF) s
    if glob then
      { s1 with regs := { s1.regs with
        gstate := .refused, gcause := BitVec.ofNat 8 f.2.1, gdetail := BitVec.ofNat 16 (blkNum f.1), gwait := 0 } }
    else s1
  | [] =>
    let s1 := l.foldl (fun u i => u.accept s i.b) (s.activate l)
    if glob then
      { s1 with regs := { s1.regs with
        gstate := if l.isEmpty then .done else .busy, gwait := BitVec.ofNat 16 (l.map fun i => 2 ^ blkNum i.b).sum } }
    else s1

/-- A 64-bit write of blk_COMMIT (R427, R428, R437, R440). -/
def State.commitWrite (s : State) (b : Blk) (crc : W32) (hold : Bool) (gen : BitVec 31) : State :=
  let c := s.cmt b
  let v := s.view []
  let next : BitVec 31 := if c.agen = 0x7FFFFFFF then 1 else c.agen + 1
  let snap := s.regs.snapOf b
  if !s.pwr.perst || !Blk.setup b then s
  else if b = .kep && decide (s.act .kep 0x240 % 2 = 1) then s.refuseIn v b 6 0xFFFF
  else if c.state = .busy || (b = .trg && s.trn.run.isSome) then s.refuseIn v b 3 0xFFFF
  else if gen ≠ next then s.refuseIn v b 2 0xFFFF
  else if crcOf b (s.regs.shadowAt b) ≠ crc then s.refuseIn v b 1 0xFFFF
  else if hold then s.setCmt b { c with held := some (gen, snap) }
  else (s.setCmt b { c with held := none }).applySet [⟨b, gen, snap⟩] false

/-- The set-up blocks. -/
def setupBlks : List Blk := [.hst, .kep, .pwr, .trh, .trg, .trc, .bel, .lan, .sch]
/-- A write of DEV_GCOMMIT (R431). -/
def State.gcommit (s : State) (mask : W16) : State :=
  let named := setupBlks.filter fun b => mask.getLsbD (blkNum b)
  let stray := (List.range 16).filter fun k => mask.getLsbD k && !(setupBlks.any fun b => decide (blkNum b = k))
  let bad := stray ++ (named.filter fun b => (s.cmt b).held.isNone || (s.cmt b).state = .busy).map blkNum
  let s1 : State := { s with regs := { s.regs with gmask := mask } }
  if !s.pwr.perst then s
  else if !bad.isEmpty then
    { s1 with regs := { s1.regs with gstate := .refused, gcause := 5, gdetail := BitVec.ofNat 16 (bad.foldl min 15) } }
  else s1.applySet (named.filterMap fun b => (s.cmt b).held.map fun h => ⟨b, h.1, h.2⟩) true

/-- BLOCK_COMMIT (R428). -/
def execBlockCommit (b : Blk) (crc : W32) (gen : BitVec 31) (s : State) : Out := .next (s.commitWrite b crc false gen)
/-- BLOCK_COMMIT_HOLD (R428, R431). -/
def execBlockCommitHold (b : Blk) (crc : W32) (gen : BitVec 31) (s : State) : Out := .next (s.commitWrite b crc true gen)
/-- GLOBAL_COMMIT (R431). -/
def execGlobalCommit (mask : W16) (s : State) : Out := .next (s.gcommit mask)

/-! ## Commit work (R430) -/

/-- Clear one group's slots and write version 0 of its copy (R238). -/
def State.openGroup (s : State) (g : Group) : State :=
  let one (s : State) (b : Nat) : State :=
    let a := g.base + 4096 * b
    let ws := (List.range (g.d + 1)).foldl (fun ws j => g.clearSlot j ws) (s.mem.words a 512)
    ((s.modMem fun m => m.setWords a ws).retag a).putCopy g b 0 ws
  ((List.range g.nblk).foldl one s).writeEntry g
/-- Has a block all it waits for before its commit is DONE? -/
def State.workReady (s : State) (b : Blk) : Bool :=
  match b with
  | .hst => (List.range 64).all fun n => !(s.ctx (BitVec.ofNat 6 n)).dbFirst
  | _ => true
/-- The memory that a block's commit work writes. -/
def State.workRanges (s : State) (b : Blk) : List (Nat × Nat) :=
  match b with
  | .trg => s.gro.groups.flatMap fun g =>
      (s.act .trg 0x100 + 128 * g.k + 64, 20) :: (List.range g.nblk).flatMap fun b => g.copyRanges b 0
  | .trc => if s.act .trc 0x100 % 2 = 1 then [(s.act .trc 0x110, s.act .trc 0x108 / 2048)] else []
  | _ => []
/-- Do it. -/
def State.doWork (s : State) (b : Blk) : State :=
  match b with
  | .trg => s.gro.groups.foldl (fun s g => s.openGroup g) s
  | .trc =>
    if s.act .trc 0x100 % 2 = 1 then
      s.modMem fun m => (m.clearRange (s.act .trc 0x110) (s.act .trc 0x108 / 2048)).clearRange (4 * 2 ^ 40) (s.act .trc 0x108)
    else s
  | _ => s
/-- COMMIT_WORK_DONE (R238, R319, R428, R430, R431): the work of an accepted commit ends, and its state becomes DONE. -/
def execCommitWorkDone (b : Blk) (s : State) : Out :=
  if !(s.cmt b).work || !s.workReady b then .next s
  else .next (s.withSnoops [] (s.workRanges b) fun s =>
    let s1 := s.doWork b
    let s2 := s1.setCmt b { s1.cmt b with state := .done, work := false }
    if s2.regs.gwait.getLsbD (blkNum b) then
      let w := s2.regs.gwait &&& ~~~(BitVec.ofNat 16 (2 ^ blkNum b))
      { s2 with regs := { s2.regs with gwait := w, gstate := if w = 0 then .done else s2.regs.gstate } }
    else s2)

end Sys2Proof.Machine
end

