-- ==== Sys2Proof/Machine/XchgCheck.lean ====
section
/-! DEFINITION. The loader's check of one superstep's exchange tables (R21, R163, R165 to R167, R169, R360, R389): a dry run in which every
item is passed whole shows which items meet on which link; then no item may, link by link, be held behind itself. -/

namespace Sys2Proof.Machine

/-- The exchange tables of a tile's superstep. -/
structure XTab where
  send : List SendEnt
  /-- Order lists, by output code 0 to 5. -/
  lists : List (List Nat)
  /-- Expected items by handle. -/
  expct : Assoc Nat
deriving DecidableEq, Repr

/-- An item in the dry run, with the numbers of the injected items that have been added into it; an item from another module, of which this
module's image says nothing, has no entry. -/
structure XItem where
  ent : Option SendEnt
  row : BitVec 3
  ids : List Nat
deriving DecidableEq, Repr

/-- The dry run: items that wait at inputs and lists that remain, by `ioKey`; items written by `64 * tile + handle`, and items of other
modules that reached a tile; whether an entry and an item have disagreed; what each output has passed, in order, what has left the network,
and the items of other modules so far. -/
structure XRun where
  q : Assoc (List XItem)
  ls : Assoc (List Nat)
  done : Assoc Nat
  wild : Assoc Nat
  bad : Bool
  log : Assoc (List (List Nat))
  gone : List (List Nat)
  next : Nat
deriving DecidableEq, Repr

/-- The operands of the entry that a list is at: those with ADD = 1 and the one that closes them. -/
def xGroup : List Nat → List Nat
  | [] => []
  | e :: es => if olAdd e then e :: xGroup es else [e]
/-- Is a list well formed: no reserved bit or input, groups of at most four, and no ADD on the last entry (R165, R167, R169)? -/
def xListOk (l : List Nat) : Bool :=
  (l.all fun e => decide (e % 16 = 0) && decide (olSrc e < 6)) && !(l.getLast?.any olAdd)
    && (List.range l.length).all fun i => decide ((xGroup (l.drop i)).length ≤ 4)

/-- The flit whose route an item takes. -/
def XItem.flit (x : XItem) : Option Flit :=
  x.ent.map fun e =>
    { hdr := FHdr.word { vc := 2, kind := 0, edge := false, dest := e.dest, last := true, cmb := e.cmb, slot := 0, dh := e.dh.toNat
                         drow := e.drow, age := 0 }
      pay := [], row := x.row }
/-- Does an item at router `r` leave through output code `o`? -/
def State.xGoes (s : State) (r : TileId) (o : Nat) (x : XItem) : Bool :=
  match x.flit with
  | none => true
  | some f => (s.route r f).any fun sd => decide (sideOl sd = o)
/-- Does input 5 of a router come from an Opver port? -/
def fromOpver (r : TileId) : Bool := decide (tX r = 0) && decide (tY r < 8)
/-- The item at the head of an input: at an Opver port in a CHAIN superstep another module's items come as they are asked for. -/
def XRun.head (x : XRun) (chain : Bool) (r : TileId) (i : Nat) : Option XItem :=
  match aGet [] x.q (ioKey r i) with
  | it :: _ => some it
  | [] => if chain && decide (i = 5) && fromOpver r then some ⟨none, 0, [2 ^ 32 + x.next]⟩ else none
def XRun.pop (x : XRun) (r : TileId) (i : Nat) : XRun :=
  { x with q := aSet [] x.q (ioKey r i) (aGet [] x.q (ioKey r i)).tail, next := x.next + 1 }
/-- Pass an item out of a router. -/
def XRun.out (x0 : XRun) (r : TileId) (o : Nat) (it : XItem) : XRun :=
  let x : XRun := { x0 with log := aSet [] x0.log (ioKey r o) (aGet [] x0.log (ioKey r o) ++ [it.ids]) }
  let left : List (List Nat) := x.gone ++ [it.ids]
  let go (sd : Side) : XRun :=
    match neighbour r sd with
    | some (r', sd') => { x with q := aSet [] x.q (ioKey r' (sideOl sd')) (aGet [] x.q (ioKey r' (sideOl sd')) ++ [it]) }
    | none => { x with bad := true }
  match o with
  | 0 => go .north | 1 => go .east | 2 => go .south | 3 => go .west
  | 4 =>
    match it.ent with
    | some e => { x with gone := left, done := aSet 0 x.done (64 * r.toNat + e.dh.toNat) (aGet 0 x.done (64 * r.toNat + e.dh.toNat) + 1) }
    | none => { x with gone := left, wild := aSet 0 x.wild r.toNat (aGet 0 x.wild r.toNat + 1) }
  | _ => if tX r = 31 then go .bridge else { x with gone := left }
/-- Do two operands of a sum group agree? -/
def xSame (a b : XItem) : Bool :=
  match a.ent, b.ent with
  | some e, some f => e.cmb && f.cmb && decide (e.dest = f.dest) && decide (e.dh = f.dh) && decide (e.drow = f.drow) && decide (e.nrows = f.nrows)
  | _, _ => true
/-- Serve the entry or group that an output is at, if its items are there and leave through it; an item that leaves
through another output waits for that output's list (R166). -/
def State.xServe (s : State) (chain : Bool) (x : XRun) (r : TileId) (o : Nat) : XRun :=
  let l := aGet [] x.ls (ioKey r o)
  let g := (xGroup l).map olSrc
  let hs := g.map fun i => x.head chain r i
  if g.isEmpty || x.bad || hs.any (·.isNone) || !decide g.Nodup then x
  else
    let its := hs.filterMap id
    if its.any fun it => !s.xGoes r o it then x
    else if decide (1 < its.length) && its.any fun a => its.any fun b => !xSame a b then { x with bad := true }
    else
      let x1 := g.foldl (fun x i => x.pop r i) x
      let x2 : XRun := { x1 with ls := aSet [] x1.ls (ioKey r o) (l.drop g.length) }
      match its with
      | it :: _ => x2.out r o { it with ids := its.flatMap (·.ids) }
      | [] => x2
/-- One pass over every output of every router. -/
def State.xSweep (s : State) (chain : Bool) (x : XRun) : XRun :=
  (List.range 2048).foldl (fun x t => (List.range 6).foldl (fun x o => s.xServe chain x (BitVec.ofNat 11 t) o) x) x
/-- Passes until nothing moves, `n` at most. -/
def State.xLoop (s : State) (chain : Bool) : Nat → XRun → XRun
  | 0, x => x
  | n + 1, x =>
    let y := s.xSweep chain x
    if y = x then x else State.xLoop s chain n y

/-- Can lists of items, one a link in the order it passes them, all be served together: again and again some item is first wherever it stands,
and passes over its whole path (R169)? A list whose items only wait for each other in a circle is never served. -/
def unwind : Nat → List (List Nat) → Bool
  | 0, l => l.all (·.isEmpty)
  | n + 1, l =>
    if l.all (·.isEmpty) then true
    else
      match (l.filterMap (·.head?)).find? fun u => l.all fun q => decide (q.head? = some u) || !decide (u ∈ q) with
      | none => false
      | some u => unwind n (l.map fun q => q.filter fun v => decide (v ≠ u))
/-- The order in which every link and every send list passes what has left the network, each by its place there: what a sum has gathered
counts as one (R167). -/
def XRun.orders (x : XRun) (sends : List (List Nat)) : List (List Nat) :=
  let unit (i : Nat) : Nat := x.gone.findIdx fun l => decide (i ∈ l)
  sends.map (fun l => l.map unit) ++ x.log.map fun kv => kv.2.map fun ids => unit (ids.headD 0)

/-- The number of entry `k` of tile `t`'s send list. -/
def sendId (t : TileId) (k : Nat) : Nat := 2 ^ 16 * t.toNat + k
/-- Do the exchange tables of a superstep, one per tile that has any, agree, and can its lists all be served (R21, R169)? -/
def State.xchgOk (s : State) (chain : Bool) (tabs : List (TileId × XTab)) : Bool :=
  let start : XRun :=
    { q := tabs.foldl (fun q p => aSet [] q (ioKey p.1 4) (p.2.send.mapIdx fun k e => ⟨some e, BitVec.ofNat 3 (tY p.1), [sendId p.1 k]⟩)) []
      ls := tabs.foldl (fun l p => (List.range 6).foldl (fun l o => aSet [] l (ioKey p.1 o) (p.2.lists.getD o [])) l) []
      done := [], wild := [], bad := false, log := [], gone := [], next := 0 }
  let total := (tabs.map fun p => (p.2.lists.map (·.length)).sum).sum
  let fin := s.xLoop chain (total + 1) start
  let counts (p : TileId × XTab) : Bool :=
    let known := (List.range 64).map fun h => aGet 0 fin.done (64 * p.1.toNat + h)
    let want := (List.range 64).map fun h => aGet 0 p.2.expct h
    ((List.range 64).all fun h => decide (known.getD h 0 ≤ want.getD h 0)) && decide (known.sum + aGet 0 fin.wild p.1.toNat = want.sum)
  (tabs.all fun p => (p.2.lists.all xListOk) && decide ((p.2.lists.map (·.length)).sum ≤ 4096))
    && !fin.bad && fin.q.isEmpty && fin.ls.isEmpty && tabs.all counts
    && unwind fin.gone.length (fin.orders (tabs.map fun p => p.2.send.mapIdx fun k _ => sendId p.1 k))
    && (fin.done.all fun kv => tabs.any fun p => decide (p.1.toNat = kv.1 / 64)) && fin.wild.all fun kv => tabs.any fun p => decide (p.1.toNat = kv.1)

end Sys2Proof.Machine
end

