-- ==== Sys2Proof/Machine/Image.lean ====
section
/-! DEFINITION. The structure checks of LOAD_IMAGE on the image object at `b` (R385 to R395). Numbers are read from the copy in tier H. -/

namespace Sys2Proof.Machine

/-- Are all bytes of a range zero? -/
def Mem.zeros (m : Mem) (a n : Nat) : Bool := decide (m.num a n = 0)

/-! ## Header and sections (R385, R386, R393) -/

/-- A section. -/
structure Sect where
  typ : Nat
  off : Nat
  size : Nat
deriving DecidableEq, Repr

def Mem.nsect (m : Mem) (b : Nat) : Nat := m.num (b + 12) 4
def Mem.slen (m : Mem) (b : Nat) : Nat := m.num (b + 16) 8
def Mem.nss (m : Mem) (b : Nat) : Nat := m.num (b + 24) 4
def Mem.nobj (m : Mem) (b : Nat) : Nat := m.num (b + 36) 2
/-- A body's first and last superstep, or none. -/
def bodyOf (v : Nat) : Option (Nat × Nat) := if v = 0xFFFFFFFF then none else some (v % 65536, v / 65536)
def Mem.sbody (m : Mem) (b : Nat) : Option (Nat × Nat) := bodyOf (m.num (b + 28) 4)
def Mem.vbody (m : Mem) (b : Nat) : Option (Nat × Nat) := bodyOf (m.num (b + 32) 4)
/-- The sections. -/
def Mem.sects (m : Mem) (b : Nat) : List Sect :=
  (List.range (m.nsect b)).map fun k =>
    let e := b + 256 + 32 * k
    ⟨m.num e 2, m.num (e + 8) 8, m.num (e + 16) 8⟩

/-- Header fields are in range and its reserved fields zero. -/
def Mem.headerOk (m : Mem) (b : Nat) : Bool :=
  let body (v : Option (Nat × Nat)) : Bool := v.all fun r => decide (r.1 ≤ r.2) && decide (r.2 < m.nss b)
  m.zeros (b + 10) 2 && m.zeros (b + 39) 9 && m.zeros (b + 128) 128 && decide (1 ≤ m.nsect b) && decide (m.nsect b ≤ 4096)
    && decide (1 ≤ m.nss b) && decide (m.nss b ≤ 65535) && body (m.sbody b) && body (m.vbody b) && decide (m.nobj b ≤ 255)
    && decide (256 + 32 * m.nsect b ≤ m.slen b)
/-- The size that a section's type fixes. -/
def Sect.sizeOk (x : Sect) (nobj : Nat) : Bool :=
  match x.typ with
  | 1 => decide (x.size = 131072) | 2 => decide (x.size = 49408) | 3 => decide (x.size = 512) | 4 => decide (x.size = 16 * nobj)
  | 5 => decide (x.size % 16 = 0) | 6 => true | _ => false
/-- Do two sections overlap? -/
def Sect.meets (x y : Sect) : Bool := decide (x.off < y.off + y.size) && decide (y.off < x.off + x.size)
/-- The section table (R386). -/
def Mem.sectsOk (m : Mem) (b : Nat) : Bool :=
  let ss := m.sects b
  (List.range ss.length).all (fun k => m.zeros (b + 256 + 32 * k + 2) 6 && m.zeros (b + 256 + 32 * k + 24) 8)
    && (ss.all fun x => x.sizeOk (m.nobj b) && decide (x.off % 256 = 0) && decide (256 + 32 * m.nsect b ≤ x.off)
        && decide (x.off + x.size ≤ m.slen b))
    && decide (ss.Pairwise fun x y => x.meets y = false)
    && decide ((ss.filter fun x => decide (x.typ = 1)).length = 1)
    && (if m.nobj b = 0 then decide ((ss.filter fun x => decide (x.typ = 4)).length ≤ 1)
        else decide ((ss.filter fun x => decide (x.typ = 4)).length = 1))
/-- Address of the first section of a type. -/
def Mem.firstOf (m : Mem) (b typ : Nat) : Nat := b + (((m.sects b).find? fun x => decide (x.typ = typ)).elim 0 (·.off))
/-- An object reference: MINSIZE and TIER. -/
def Mem.objRef (m : Mem) (b r : Nat) : Nat × Nat := let e := m.firstOf b 4 + 16 * r; (m.num e 8, m.num (e + 8) 1)
def Mem.refsOk (m : Mem) (b : Nat) : Bool :=
  (List.range (m.nobj b)).all fun r => decide ((m.objRef b r).2 ≤ 2) && m.zeros (m.firstOf b 4 + 16 * r + 9) 7

/-! ## Code sections (R387) -/

/-- A region: first and last word, and kind (0 code, 1 chain table, 2 exchange tables). -/
structure Region where
  lo : Nat
  hi : Nat
  kind : Nat
deriving DecidableEq, Repr

/-- The regions of the code section at `c`. -/
def Mem.regions (m : Mem) (c : Nat) : List Region :=
  (List.range (m.num (c + 32) 2)).map fun k =>
    let v := m.num (c + 64 + 4 * k) 4
    ⟨v % 2 ^ 13, v / 2 ^ 13 % 2 ^ 13, v / 2 ^ 26 % 4⟩
/-- Do words lo to hi lie in one region of a kind? -/
def inRegion (rs : List Region) (kind lo hi : Nat) : Bool := rs.any fun r => decide (r.kind = kind) && decide (r.lo ≤ lo) && decide (hi ≤ r.hi)
/-- An instruction word of a code section. -/
def Mem.codeWord (m : Mem) (c a : Nat) : W64 := (m.word (c + 256 + 8 * a)).d
/-- The code descriptor and region map. -/
def Mem.codeOk (m : Mem) (c : Nat) : Bool :=
  let n := m.num (c + 32) 2
  let rs := m.regions c
  let hs := (List.range 16).map fun i => m.num (c + 2 * i) 2
  decide (1 ≤ n) && decide (n ≤ 48) && m.zeros (c + 34) 30 && m.zeros (c + 64 + 4 * n) (192 - 4 * n)
    && ((List.range n).all fun k => decide (m.num (c + 64 + 4 * k) 4 < 2 ^ 28))
    && (rs.all fun r => decide (r.kind ≠ 3) && decide (r.lo ≤ r.hi) && decide (r.hi < 6144))
    && decide (rs.Pairwise fun x y => x.hi < y.lo ∨ y.hi < x.lo)
    && (hs.all fun h => decide (h / 2 ^ 13 % 4 = 0) && (decide (h < 2 ^ 15) || inRegion rs 0 (h % 2 ^ 13) (h % 2 ^ 13)))
    && (List.range 6144).all fun a => (rs.any fun r => decide (r.lo ≤ a) && decide (a ≤ r.hi)) || decide (m.codeWord c a = 0)

/-- Is word `a` of a code region legal (R93, R97, R118)? -/
def Mem.wordOk (m : Mem) (c a : Nat) : Bool :=
  match decodeWord 0 .ok (m.codeWord c a) with
  | none => false
  | some i =>
    !badTarget a i &&
      match i with
      | .vch _ _ f =>
        let lo := f.caddr.toNat
        let n := f.nst.toNat
        inRegion (m.regions c) 1 lo (lo + n) && (decodeChain f.wb 0 ((List.range (n + 1)).map fun k => m.codeWord c (lo + k))).isSome
      | _ => true

/-! ## Tiles (R387) -/

/-- A tile's entry: code and handle sections (addresses), mask, ENTRY, SBENT, VBENT. -/
structure TEnt where
  code : Nat
  htab : Nat
  mask : BitVec 24
  entry : Nat
  sbent : Nat
  vbent : Nat
deriving DecidableEq, Repr

/-- The entry of tile `t`, with its reserved fields checked and its section indices naming sections of the right type. -/
def Mem.tent (m : Mem) (b t : Nat) : Option TEnt :=
  let e := m.firstOf b 1 + 64 * t
  let ss := m.sects b
  match ss[m.num e 2]?, ss[m.num (e + 2) 2]? with
  | some c, some h =>
    if c.typ = 2 && h.typ = 3 && m.zeros (e + 7) 1 && m.zeros (e + 14) 2 && m.zeros (e + 48) 16 then
      some ⟨b + c.off, b + h.off, BitVec.ofNat 24 (m.num (e + 4) 3), m.num (e + 8) 2, m.num (e + 10) 2, m.num (e + 12) 2⟩
    else none
  | _, _ => none
/-- A handle table against a segment mask (R60, R61, R64). -/
def Mem.htabOk (m : Mem) (h : Nat) (mask : BitVec 24) : Bool :=
  (List.range 64).all fun k =>
    let w := (m.word (h + 8 * k)).d
    (hdOf w).legal mask && (!(hdOf w).v || decide (fld w 13 0 = 0))

/-! ## Supersteps (R389, R390) -/

/-- A superstep found in the code: the word address of its header, the header, and whether MXE instructions follow it. -/
structure SsAt where
  at_ : Nat
  h : SsHdr
  mxe : Bool
deriving DecidableEq, Repr

/-- From word `a`, the address of the next END, and whether an MXE instruction comes before it; `none` where the code region ends. -/
def Mem.findEnd (m : Mem) (c : Nat) : Nat → Nat → Bool → Option (Nat × Bool)
  | 0, _, _ => none
  | n + 1, a, mxe =>
    if !inRegion (m.regions c) 0 a a then none
    else
      match decodeWord 0 .ok (m.codeWord c a) with
      | some (.endC ..) => some (a, mxe)
      | some (.mmaF4 ..) | some (.mmaF8 ..) | some (.mmaB16 ..) | some (.mmsF4 ..) => m.findEnd c n (a + 1) true
      | _ => m.findEnd c n (a + 1) mxe
/-- The supersteps from the header at `a`, up to the first that `stop` names; `none` where the code is not as R389 says. -/
def Mem.walk (m : Mem) (c : Nat) (stop : SsHdr → Bool) : Nat → Nat → Option (List SsAt)
  | 0, _ => none
  | n + 1, a =>
    if !((List.range 4).all fun k => inRegion (m.regions c) 0 (a + k) (a + k)) then none
    else
      match decodeHdr (m.codeWord c a) (m.codeWord c (a + 1)) (m.codeWord c (a + 2)) (m.codeWord c (a + 3)) with
      | none => none
      | some h =>
        match m.findEnd c 6144 (a + 4) false with
        | none => none
        | some (e, x) =>
          if stop h then some [⟨a, h, x⟩] else (m.walk c stop n (e + 1)).map fun l => ⟨a, h, x⟩ :: l

/-- What must agree across tiles of a superstep (R392). -/
def ssKey (h : SsHdr) : Scope × Bool × Bool × Bool × Nat × Nat × Nat := (h.scope, h.nfs, h.close, h.park, h.res0, h.res1, h.ssnum)
/-- Do the numbers of a walk run from `first` by ones? -/
def countsFrom (l : List SsAt) (first : Nat) : Bool :=
  (List.range l.length).all fun i => l[i]?.any fun x => decide (x.h.ssnum = first + i)

/-- The prologue of a tile: to the first PARK, or, in an image that names no body, to superstep NSS − 1. -/
def Mem.prologue (m : Mem) (b : Nat) (e : TEnt) : Option (List SsAt) :=
  let named := (m.sbody b).isSome || (m.vbody b).isSome
  let stop (h : SsHdr) : Bool := h.park || (!named && decide (h.ssnum + 1 = m.nss b))
  (m.walk e.code stop 1300 e.entry).filter fun l =>
    countsFrom l 0 && (l.all fun x => !x.h.close)
      && (!named || l.getLast?.any fun x => x.h.park && ([m.sbody b, m.vbody b].all fun o => o.all fun r => decide (x.h.ssnum < r.1)))
/-- A body of a tile: to the first CLOSE, with the numbers that the header names; an empty list for no body. -/
def Mem.body (m : Mem) (e : TEnt) (ent : Nat) (r : Option (Nat × Nat)) : Option (List SsAt) :=
  match r with
  | none => if ent = 0xFFFF then some [] else none
  | some (lo, hi) =>
    if ent = 0xFFFF then none
    else
      (m.walk e.code (·.close) 1300 ent).filter fun l =>
        countsFrom l lo && (l.all fun x => !x.h.park) && l.getLast?.any fun x => x.h.close && decide (x.h.ssnum = hi)
/-- Prologue, step body and serve body of a tile. -/
def Mem.tileSs (m : Mem) (b : Nat) (e : TEnt) : Option (List (List SsAt)) :=
  match m.prologue b e, m.body e e.sbent (m.sbody b), m.body e e.vbent (m.vbody b) with
  | some p, some s, some v => some [p, s, v]
  | _, _, _ => none

/-! ## Exchange tables -/

/-- The exchange tables of a superstep (R163, R389): in exchange-table regions, reserved fields zero. -/
def Mem.xtab (m : Mem) (c : Nat) (h : SsHdr) : Option XTab :=
  let rs := m.regions c
  let area (lo n : Nat) : Bool := decide (n = 0) || (List.range n).all fun k => inRegion rs 2 (lo + k) (lo + k)
  let w (k : Nat) : W64 := m.codeWord c k
  let w0 := w h.olist
  let w1 := w (h.olist + 1)
  let lens := if h.owords = 0 then [0, 0, 0, 0, 0, 0]
    else [fld w0 12 0, fld w0 25 13, fld w0 38 26, fld w0 51 39, fld w1 12 0, fld w1 25 13]
  let starts := (List.range 6).map fun o => (lens.take o).sum
  let entry (n : Nat) : Nat := fld (w (h.olist + 2 + n / 8)) (8 * (n % 8) + 7) (8 * (n % 8))
  let sends := (List.range h.nsend).map fun k => w (h.slist + k)
  let ecs := (List.range h.necnt).map fun k => fld (w (h.ecnt + k / 4)) (16 * (k % 4) + 15) (16 * (k % 4))
  if area h.slist h.nsend && area h.ecnt ((h.necnt + 3) / 4) && area h.olist h.owords
      && (decide (h.owords = 0) || (decide (2 + (lens.sum + 7) / 8 ≤ h.owords) && decide (fld w0 63 52 = 0) && decide (fld w1 63 26 = 0)))
      && sends.all fun e => decide (fld e 5 0 = 0) then
    some
      { send := sends.map sendEnt
        lists := (List.range 6).map fun o => (List.range (lens.getD o 0)).map fun i => entry (starts.getD o 0 + i)
        expct := ecs.foldl (fun l e => aSet 0 l (e / 1024) (aGet 0 l (e / 1024) + e % 1024)) [] }
  else none
def XTab.any (x : XTab) : Bool := !x.send.isEmpty || !x.expct.isEmpty || x.lists.any fun l => !l.isEmpty

/-- Does an item of a send list fit its destination buffer in the receiver's initial handle table (R164)? Another module's tables are not in
this image; an item for another module needs a CHAIN superstep (R360). -/
def State.sendOk (s : State) (ents : List TEnt) (chain : Bool) (e : SendEnt) : Bool :=
  if gtaMod e.dest ≠ s.dev.addr then chain
  else
    match ents[(gtaTile e.dest).toNat]? with
    | none => false
    | some t =>
      let hd := hdOf (s.mem.word (t.htab + 8 * e.dh.toNat)).d
      hd.v && decide (hd.base + e.drow + e.nrows ≤ hd.last)

/-- The checks of one superstep of one walk over all tiles: `l` holds each tile's superstep. -/
def State.ssOk (s : State) (ents : List TEnt) (nss : Nat) (l : List (TileId × TEnt × SsAt)) : Bool :=
  match l with
  | [] => true
  | x0 :: _ =>
    let h := x0.2.2.h
    let chain := decide (h.scope = .chain)
    let tabs := l.map fun x => (x.1, s.mem.xtab x.2.1.code x.2.2.h)
    let some' := tabs.filterMap fun p => p.2.map fun x => (p.1, x)
    (l.all fun x => decide (ssKey x.2.2.h = ssKey h) && (!x.2.2.mxe || decide ((if x.1.getLsbD 10 then h.res1 else h.res0) ≠ 0)))
      && decide (h.ssnum < nss) && (tabs.all fun p => p.2.isSome)
      && (some'.all fun p => p.2.send.all fun e => s.sendOk ents chain e)
      && s.xchgOk chain (some'.filter fun p => p.2.any)

/-- Words of the headers that some tile's walk meets in the code section at `c`. -/
def hdrWords (ws : List (TEnt × List (List SsAt))) (c : Nat) : List Nat :=
  (ws.filter fun p => decide (p.1.code = c)).flatMap fun p => p.2.flatMap fun l => l.flatMap fun x => (List.range 4).map fun k => x.at_ + k

/-- Step 7 of R391: every structure check of R392. -/
def State.imageOk (s : State) (b : Nat) : Bool :=
  let m := s.mem
  if !(m.headerOk b && m.sectsOk b && m.refsOk b) then false
  else
    let codes := ((m.sects b).filter fun x => decide (x.typ = 2)).map fun x => b + x.off
    let ents := (List.range 2048).filterMap fun t => m.tent b t
    if !(codes.all m.codeOk) || decide (ents.length ≠ 2048) then false
    else
      let ws := ents.filterMap fun e => (m.tileSs b e).map fun l => (e, l)
      if ws.length ≠ 2048 then false
      else
        let n (k : Nat) : Nat := ((ws[0]?.map fun p => (p.2.getD k []).length).getD 0)
        let step (k i : Nat) : List (TileId × TEnt × SsAt) :=
          (ws.mapIdx fun t p => (p.2.getD k [])[i]?.map fun x => (BitVec.ofNat 11 t, p.1, x)).filterMap id
        (ents.all fun e => m.htabOk e.htab e.mask)
          && (codes.all fun c =>
            let hw := hdrWords ws c
            (List.range 6144).all fun a => !inRegion (m.regions c) 0 a a || decide (a ∈ hw) || m.wordOk c a)
          && (ws.all fun p => (List.range 3).all fun k => decide ((p.2.getD k []).length = n k))
          && (List.range 3).all fun k => (List.range (n k)).all fun i => s.ssOk ents (m.nss b) (step k i)

/-! ## Binding and patches (R393 to R395) -/

/-- The objects that the binding table names; `none` where step 8 fails. -/
def State.bindings (s : State) (ctx : BitVec 6) (b size : Nat) : Option (List Nat) :=
  let ids := (List.range (s.mem.nobj b)).map fun r => s.mem.num (b + size - 4096 + 16 * r) 2
  let ok := (List.range (s.mem.nobj b)).all fun r =>
    let e := b + size - 4096 + 16 * r
    s.mem.zeros (e + 2) 14 && (s.obj? (s.mem.num e 2)).any fun o =>
      decide (o.owner = ctx) && decide (o.tier = (s.mem.objRef b r).2) && decide ((s.mem.objRef b r).1 ≤ o.size)
  if ok && decide ids.Nodup then some ids else none

/-- Apply the patch at `e`; `none` where it is not as R395 says. -/
def State.patch (s : State) (b : Nat) (ids : List Nat) (e : Nat) : Option State :=
  let m := s.mem
  let word := m.num (e + 2) 2
  let kind := m.num (e + 4) 1
  let obj := m.num (e + 5) 1
  let add := m.num (e + 8) 8
  let base : Option (Nat × Nat) :=
    if obj = 0xFF then some (b, m.slen b)
    else (ids[obj]?.bind s.obj?).map fun o => (o.base, (m.objRef b obj).1)
  match (m.sects b)[m.num e 2]?, base with
  | some x, some (bs, lim) =>
    if !m.zeros (e + 6) 2 || decide (lim ≤ add) then none
    else
      let v := bs + add
      let c := b + x.off
      match kind, x.typ with
      | 0, 2 =>
        if 6143 < word + 1 then none
        else
          match decodeWord 0 .ok (m.codeWord c word), decodeWord 0 .ok (m.codeWord c (word + 1)) with
          | some (.li _ _ rd imm), some (.lih _ _ rd' ra imm') =>
            if rd = rd' && rd = ra && imm = 0 && imm' = 0 then
              let put (m : Mem) (k n : Nat) : Mem := m.setWord (c + 256 + 8 * k) ⟨m.codeWord c k ||| BitVec.ofNat 64 n, false⟩
              some (s.modMem fun m => put (put m word (v % 2 ^ 42)) (word + 1) (v / 2 ^ 42 % 64))
            else none
          | _, _ => none
      | 1, 6 => if x.size < 8 * word + 8 then none else some (s.modMem fun m => m.setWord (c + 8 * word) ⟨BitVec.ofNat 64 v, false⟩)
      | _, _ => none
  | _, _ => none
/-- Apply every patch in entry order. -/
def State.patches (s : State) (b : Nat) (ids : List Nat) : Option State :=
  let es := (s.mem.sects b).flatMap fun x => if x.typ = 5 then (List.range (x.size / 16)).map fun k => b + x.off + 16 * k else []
  es.foldl (fun o e => o.bind fun u => u.patch b ids e) (some s)

/-- What the model keeps of a loaded image. -/
def State.imageRec (s : State) (b size obj : Nat) (d : List Byte) (ids : List Nat) : Image :=
  let m := s.mem
  let ss := ((m.tent b 0).bind fun e => m.tileSs b e).getD []
  { digest := d, obj := obj, dst := b, size := size, slen := m.slen b, nss := m.nss b, sbody := m.sbody b, vbody := m.vbody b, binds := ids
    chain := ss.any fun l => l.any fun x => decide (x.h.scope = .chain)
    sscope := ((ss.getD 1 []).getLast?.map (·.h.scope)).getD .module }

end Sys2Proof.Machine
end

