-- ==== Sys2Proof/Machine/Loader.lean ====
section
/-! DEFINITION. The image loader: LOAD_IMAGE (R391 to R396, R400 to R402). -/

namespace Sys2Proof.Machine

/-- The tiles leave the image they run: their state is cleared, and their counters and debug settings go on. -/
def State.stopTiles (s : State) : State :=
  let s1 := s.clearCompute
  let f (kv : Nat × Tile) : Nat × Tile := (kv.1, { Tile.empty with ctr := kv.2.ctr, dbg := kv.2.dbg })
  { s1 with tiles := (s.tiles.map f).filter fun kv => decide (kv.2 ≠ Tile.empty)
            sch := { s1.sch with phase := .idle, request := none, lateRaised := false } }

/-- The LOAD_IMAGE that the loader executes for `ctx`: the oldest dispatched, at the head of its client's queue. -/
def State.loadHead (s : State) (ctx : BitVec 6) : Option Cmd :=
  (s.unitHead ctx .loader).filter fun c => decide (c.opc = 1) && decide (s.host.loads.head? = some c.id) && !s.dev.cdreset

/-- The image object that a LOAD_IMAGE names (step 1 of R391). -/
def State.loadObj (s : State) (c : Cmd) : Option Obj :=
  s.obj.objs.find? fun o =>
    decide (o.base = c.num 40 6) && decide (o.size = c.num 48 8) && decide (o.owner = c.ctx) && decide (o.tier = 0)
      && (s.imgs.all fun kv => kv.2.all fun i => decide (i.obj ≠ o.id)) && decide (c.num 32 8 + 4096 ≤ o.size)

/-- The public key of a signer slot, and whether it is enabled (R401, R402). -/
def State.signer (s : State) (k : Nat) : List Byte × Bool :=
  ((List.range 4).flatMap fun i => toBytes 8 (s.act .kep (0x100 + 0x28 * k + 8 * i)), decide (s.act .kep (0x120 + 0x28 * k) % 2 = 1))

/-- Does the trailer verify (R401)? -/
def State.sigOk (s : State) (b : Nat) (d : List Byte) : Bool :=
  let k := s.signer (s.mem.num (b + 38) 1)
  decide (s.mem.num (b + 38) 1 < 8) && k.2 && edVerify k.1 d (s.mem.rdBytes (b + s.mem.slen b) 64)

/-- End of a LOAD_IMAGE: out of the loader's queue of every client, and complete. -/
def State.endLoad (s : State) (id status : Nat) (result : W64) : State :=
  let s1 := s.complete id status result
  { s1 with host := { s1.host with loads := s1.host.loads.filter fun i => decide (i ≠ id) } }

/-- Steps 5 to 9 of R391 on the copy at `b`: the status of the first that fails, or the state with the patches made and the bindings. -/
def State.checkImage (s : State) (ctx : BitVec 6) (b size : Nat) (d : List Byte) : Nat ⊕ (State × List Nat) :=
  if s.act .kep 0x240 % 2 = 0 then .inl 0x0047
  else if !s.sigOk b d then .inl 0x0043
  else if !s.geomOk (s.mem.rdBytes (b + 48) 64) false then .inl 0x0044
  else if !s.imageOk b then .inl 0x0045
  else
    match s.bindings ctx b size with
    | none => .inl 0x0046
    | some ids =>
      match s.patches b ids with
      | none => .inl 0x0045
      | some u => .inr (u, ids)

/-- Step 10 of R391: seal, replace the client's image, discard its saved context. -/
def State.installImage (s : State) (ctx : BitVec 6) (o : Obj) (d : List Byte) (ids : List Nat) : State :=
  let s1 := match s.image ctx with
    | some old => s.modObj old.obj fun x => { x with sealed := false }
    | none => s
  let s2 := s1.modObj o.id fun x => { x with sealed := true }
  let s3 : State := { s2 with imgs := aSet none s2.imgs ctx.toNat (some (s2.imageRec o.base o.size o.id d ids)) }
  let s4 := s3.setClient ctx.toNat { s3.client ctx.toNat with started := false, saved := false }
  if s4.sch.client = ctx.toNat && s4.sch.phase ≠ .idle && s4.sch.phase ≠ .restoring then s4.stopTiles else s4

/-- Words of `n` bytes: the last word keeps the bytes past the end that stand at the destination. -/
def State.imageWords (s : State) (b n : Nat) (ws : List PWord) : List PWord :=
  if n % 8 = 0 then ws
  else
    match ws.getLast? with
    | none => ws
    | some w =>
      let old := (s.mem.word (b + n / 8 * 8)).d.toNat
      let m := 2 ^ (8 * (n % 8))
      ws.dropLast ++ [⟨BitVec.ofNat 64 (w.d.toNat % m + old / m * m), w.p⟩]

/-- Steps 4 to 10 of R391. -/
def State.copyImage (s : State) (ctx : BitVec 6) (c : Cmd) (o : Obj) (ws : List PWord) : State :=
  let len := c.num 32 8
  let d := sha512 ((ws.flatMap fun w => toBytes 8 w.d.toNat).take (len - 64))
  let s1 := s.svcWrite o.base (c.id + 1) (s.imageWords o.base len ws)
  match s1.checkImage ctx o.base o.size d with
  | .inl e => s1.endLoad c.id e 0
  | .inr (u, ids) => (u.installImage ctx o d ids).endLoad c.id 0 (BitVec.ofNat 64 (ofBytes (d.take 8)))

/-- LOAD_IMAGE (R391): `src` is what the host's memory holds when the source is there; `errs` are the findings on a source in a tier and on
the bindings in the object. -/
def execLoadImage (ctx : BitVec 6) (src : List W64) (errs : List MemErr) (s : State) : Out :=
  match s.loadHead ctx with
  | none => .next s
  | some c =>
    let len := c.num 32 8
    let n := (len + 7) / 8
    let host := decide (c.num 16 1 % 2 = 1)
    match s.loadObj c with
    | none => .next (s.endLoad c.id 0x0040 0)
    | some o =>
      if s.trn.run.any (fun r => decide (r.ctx = ctx)) || (s.session ctx).isSome then .next (s.endLoad c.id 0x0041 0)
      else if host && decide (src.length ≠ n) then .next s
      else
        let bnd := o.base + o.size - 4096
        let rd := (if host then [] else [(c.num 24 8, 8 * n)]) ++ [(bnd, 4096)]
        .next (s.withSnoops rd [(o.base, 8 * n)] fun s0 =>
          let s1 := s0.tierErrs rd errs
          let ws : List PWord := if host then src.map fun w => ⟨w, false⟩ else s1.svcRead (c.num 24 8) n
          let s := if host then s1 else s1.svcSeen s1.svcReq (c.num 24 8) (8 * n)
          let hd := ws.take 3 |>.flatMap fun w => toBytes 8 w.d.toNat
          if decide (hd.take 10 ≠ magic9 ++ [0x49, 1, 0]) || decide (len ≠ ofBytes (hd.drop 16) + 64) then s.endLoad c.id 0x0042 0
          else s.copyImage ctx c o ws)

end Sys2Proof.Machine
end

