-- ==== Sys2Proof/Machine/RegWrite.lean ====
section
/-! DEFINITION. Writes of BAR0 (R422, R426, R427, R441, R446, R448 to R451, R456, R457) and the end of a compute-domain reset (R458). -/

namespace Sys2Proof.Machine

/-- A 64-bit register after a write of all of it, or of one half (R422): `half` is false for bits [31:0]. -/
def mergeHalf (old : W64) (half : Option Bool) (v : W64) : W64 :=
  match half with
  | none => v
  | some false => old.extractLsb' 32 32 ++ v.setWidth 32
  | some true => v.setWidth 32 ++ old.setWidth 32

/-- A write of TRG_HEALTH_HEAD (R441). -/
def State.healthHead (s : State) (v : Nat) : State :=
  if !s.pwr.perst || decide (v % 64 ≠ 0) || decide (s.act .trg 0x128 ≤ v) then s else { s with gro := { s.gro with head := v } }
/-- A write of ERR_LOG_HEAD (R456). -/
def State.logHead (s : State) (v : Nat) : State :=
  if !s.pwr.perst || decide (512 ≤ v) then s else { s with err := { s.err with head := v } }
/-- A W1C write of ERR_ALERT (R457). -/
def State.clearAlert (s : State) (mask : BitVec 9) : State :=
  if !s.pwr.perst then s else { s with err := { s.err with alert := s.err.alert &&& ~~~mask } }
/-- A write of LAN_AUXn_CMD (R446): reserved operations are discarded. -/
def State.auxWrite (s : State) (n : Bool) (v : Nat) : State :=
  let op := v % 16
  if op = 0 || op = 1 || op = 4 || op = 5 || op = 6 || op = 7 then
    s.auxCmd n op (BitVec.ofNat 4 (v / 2 ^ 24)) (BitVec.ofNat 20 (v / 2 ^ 4))
  else s

/-- A write in a tile's window (R448). -/
def State.tileWrite (s : State) (t : TileId) (o : Nat) (half : Option Bool) (v : W64) : State :=
  let w := mergeHalf 0 half v
  match o with
  | 0x00 => if w.getLsbD 0 then s.snapTile t else s
  | 0xC0 => s.modTile t fun x => { x with dbg := { x.dbg with sel := mergeHalf x.dbg.sel half v &&& 0xFFFF07#64 } }
  | 0xD8 => s.sigOp t (w.extractLsb' 32 8) (w.getLsbD 40) (w.setWidth 32)
  | _ => s
/-- A write of a live register of LAN. -/
def State.lanWrite (s : State) (n : Bool) (o : Nat) (half : Option Bool) (v : W64) : State :=
  let w := mergeHalf 0 half v
  match o with
  | 0x00 => if half = some true then s else s.auxWrite n w.toNat
  | 0x08 => s.modLan n fun x => { x with data0 := mergeHalf x.data0 half v }
  | 0x10 => s.modLan n fun x => { x with data1 := mergeHalf x.data1 half v }
  | 0x18 => if w.getLsbD 4 then s.modLan n fun x => { x with irq := false } else s
  | _ => s
/-- A write of a live register. -/
def State.liveWrite (s : State) (b : Blk) (o : Nat) (half : Option Bool) (v : W64) : State :=
  let low := half ≠ some true
  match b with
  | .dev => if o = 0 && low then s.gcommit (v.setWidth 16) else s
  | .trg => if o = 0x4000 && low then s.healthHead (v.toNat % 2 ^ 32) else s
  | .err =>
    if o = 0x4000 && low then s.logHead (v.toNat % 2 ^ 32)
    else if o = 0x4020 && low then s.clearAlert (v.setWidth 9)
    else s
  | .lan => if 0x4200 ≤ o && o < 0x4280 then s.lanWrite (decide (0x4240 ≤ o)) ((o - 0x4200) % 0x40) half v else s
  | _ => s
/-- The reserved bits of a written LAN register, for the check of its commit (R370). -/
def State.keepReserved (s : State) (a : Nat) (half : Option Bool) (v : W64) (m : Nat) : State :=
  let old := (aGet none s.regs.shadow (a + rsvAt)).getD 0
  let r := mergeHalf old half v &&& ~~~(BitVec.ofNat 64 m)
  { s with regs := { s.regs with shadow := aSet none s.regs.shadow (a + rsvAt) (if r = 0 then none else some r) } }
/-- A write of BAR0 at the offset of a 64-bit register (R422). -/
def State.writeReg (s : State) (a : Nat) (half : Option Bool) (v : W64) : State :=
  if !s.pwr.perst || decide (a % 8 ≠ 0) then s
  else if 0x100000 ≤ a && a < 0x180000 then s.tileWrite (BitVec.ofNat 11 ((a - 0x100000) / 0x100)) (a % 0x100) half v
  else
    match blkAt a with
    | none => s
    | some b =>
      let o := a % 0x10000
      match rwcMask b o with
      | some m =>
        let w := mergeHalf (s.regs.shadowAt b o) half v &&& BitVec.ofNat 64 m
        let s1 : State := { s with regs := { s.regs with shadow := aSet none s.regs.shadow a (some w) } }
        if b = .lan then s1.keepReserved a half v m else s1
      | none =>
        if Blk.setup b && decide (o = 0) then
          (if half.isNone then s.commitWrite b (v.extractLsb' 32 32) (v.getLsbD 31) (v.setWidth 31) else s)
        else s.liveWrite b o half v

/-- REGISTER_WRITE (R422, R426). -/
def execRegisterWrite (off : BitVec 26) (half : Option Bool) (value : W64) (s : State) : Out := .next (s.writeReg off.toNat half value)
/-- TRG_HEALTH_HEAD_WRITE (R441). -/
def execTrgHealthHeadWrite (value : W32) (s : State) : Out := .next (s.healthHead value.toNat)
/-- ERR_LOG_HEAD_WRITE (R456). -/
def execErrLogHeadWrite (value : W32) (s : State) : Out := .next (s.logHead value.toNat)
/-- ERR_ALERT_CLEAR (R457). -/
def execErrAlertClear (mask : BitVec 9) (s : State) : Out := .next (s.clearAlert mask)

/-- ALERT_N (R408, R457): low while any alert is set. -/
def State.alertN (s : State) : Bool := decide (s.err.alert = 0)

/-- CDRESET_CLEAR (R448, R458): the compute-domain reset ends. -/
def execCdresetClear (s : State) : Out :=
  if !s.dev.cdreset then .next s
  else
    let f (kv : Nat × Tile) : Nat × Tile := (kv.1, { kv.2 with core := { kv.2.core with faulted := false } })
    .next { s with
      dev := { s.dev with cdreset := false }
      tiles := (s.tiles.map f).filter fun kv => decide (kv.2 ≠ Tile.empty) }

end Sys2Proof.Machine
end

