-- ==== Sys2Proof/Machine/HostLink.lean ====
section
/-! DEFINITION. The host link: doorbells, descriptor fetch, dispatch, completion records and vectors, context stops and disables, fences,
and host accesses of tier H (R309 to R336, R419). -/

namespace Sys2Proof.Machine

/-- A register of a context in use (R435). -/
def State.ctxReg (s : State) (c : BitVec 6) (k : Nat) : Nat := s.act .hst (ctxBase c.toNat + k)
/-- Does a context fetch: enabled and not stopped (R314, R317)? -/
def HCtx.fetches (x : HCtx) : Bool := x.en && !x.stopped

/-- A context stops (R314, R321, R336, R375): it fetches nothing more, and its outputs lose their owner. -/
def State.stopCtx (s : State) (c : BitVec 6) (why : Byte) (code d0 : Nat) : State :=
  let s1 := s.modCtx c fun x => { x with stopped := true, stopc := why, bursts := [], dbRead := false, dbFirst := false }
  (((s1.log code .ctx c.toNat d0 0).alert 5).errVector).ownerLost c

/-! ## Doorbells -/

/-- DOORBELL_INVALIDATION (R317, R319, R334): the device's copy is gone, and the device reads the line again, for as long as the context is
live: the records of a disabled context still wait for CQH. -/
def execDoorbellInvalidation (ctx : BitVec 6) (s : State) : Out :=
  .next (if (s.ctx ctx).live then s.modCtx ctx fun x => { x with dbValid := false, dbRead := true } else s)

/-- SQT and CQH of a doorbell line (R318): bytes 0 to 3 and 4 to 7; the device ignores the rest. -/
def dbSqt (line : List W64) : W32 := (line.getD 0 0).extractLsb' 0 32
def dbCqh (line : List W64) : W32 := (line.getD 0 0).extractLsb' 32 32

/-- Does a doorbell value break R321? -/
def HCtx.overrun (x : HCtx) (n m : Nat) (sqt cqh : W32) : Bool :=
  decide (n < (sqt - x.sh).toNat) || decide (m < (x.ct - cqh).toNat) || decide ((x.ct - x.cqh).toNat < (x.ct - cqh).toNat)
/-- DOORBELL_READ_RETURN (R317 to R319, R321): the line that the read returned. A context that has stopped already does not stop again. -/
def execDoorbellReadReturn (ctx : BitVec 6) (line : List W64) (s : State) : Out :=
  let x := s.ctx ctx
  let sqt := dbSqt line
  let cqh := dbCqh line
  if !x.live || !x.dbRead then .next s
  else
    let s1 := s.setCtx ctx { x with dbRead := false, dbFirst := false, dbValid := true, sqt := sqt, cqh := cqh }
    if !x.stopped && x.overrun (s.ctxReg ctx 0x10) (s.ctxReg ctx 0x20) sqt cqh then
      .next (s1.stopCtx ctx 2 0x1021 (cqh.toNat * 2 ^ 32 + sqt.toNat))
    else .next s1

/-! ## Fetch (R322, R323) -/

/-- Descriptor reads outstanding on every context. -/
def State.allBursts (s : State) : Nat := (s.host.ctxs.map fun kv => (kv.2.bursts.map (·.n)).sum).sum
/-- CXL.cache reads outstanding: descriptors and doorbells (R308). -/
def State.cacheReads (s : State) : Nat := s.allBursts + (s.host.ctxs.filter fun kv => kv.2.dbRead).length
/-- Length of the next burst of a context; 0 where it fetches nothing. -/
def State.burstLen (s : State) (c : BitVec 6) : Nat :=
  let x := s.ctx c
  let n := s.ctxReg c 0x10
  let out := (x.bursts.map (·.n)).sum
  if !x.fetches || !s.pwr.ready || decide (n = 0) then 0
  else
    let left := (x.sqt - x.sh).toNat - out
    let edge := n - (x.sh.toNat + out) % n
    let quota := s.ctxReg c 0x30 - (s.inFlight c + out)
    let room := min (8192 - (s.host.cmds.length + s.allBursts)) (512 - s.cacheReads)
    min (min 16 left) (min (min edge quota) room)
/-- Host address of the submission entry at count `a` (R316). -/
def State.entryAddr (s : State) (c : BitVec 6) (a : Nat) : Nat := (s.ctxReg c 0x08 + 64 * (a % s.ctxReg c 0x10)) % 2 ^ 64
/-- DESCRIPTOR_FETCH: the next burst, of the next context in rotation that has one. -/
def execDescriptorFetch (s : State) : Out :=
  let order := (List.range 64).map fun k => BitVec.ofNat 6 (s.host.turn + k)
  match order.find? fun c => decide (0 < s.burstLen c) with
  | none => .next s
  | some c =>
    let n := s.burstLen c
    let a := (s.ctx c).sh.toNat + ((s.ctx c).bursts.map (·.n)).sum
    let s1 := s.modCtx c fun x => { x with bursts := x.bursts ++ [⟨s.entryAddr c a, n⟩] }
    .next { s1 with host := { s1.host with turn := (c.toNat + 1) % 64 } }
/-- DESCRIPTOR_BURST_RETURN: the oldest burst of a context returns; its commands are in flight and SH advances. -/
def execDescriptorBurstReturn (ctx : BitVec 6) (descs : List (List W64)) (s : State) : Out :=
  let x := s.ctx ctx
  match x.bursts with
  | [] => .next s
  | ⟨_, n⟩ :: rest =>
    if decide (descs.length ≠ n) || descs.any fun d => decide (d.length ≠ 8) then .next s
    else
      let ids := (List.range n).map fun k => s.host.nextId + k
      let new := (ids.zip descs).map fun p => (⟨p.1, ctx, p.2⟩ : Cmd)
      let s1 := s.setCtx ctx { x with
        bursts := rest, sh := x.sh + BitVec.ofNat 32 n, ring := x.ring ++ ids, unfinished := x.unfinished ++ ids }
      .next { s1 with host := { s1.host with cmds := s1.host.cmds ++ new, nextId := s1.host.nextId + n } }

/-! ## Dispatch (R324 to R328) -/

/-- Is a descriptor legal: known opcode, zero in every byte that its opcode does not use, operands in range (R326 to R328)? -/
def Cmd.legal (c : Cmd) : Bool :=
  let z (o n : Nat) : Bool := decide (c.num o n = 0)
  let addr (host : Bool) (o : Nat) : Bool := decide (c.num o 8 % 256 = 0) && (host || decide (c.num o 8 < 2 ^ 48))
  let b16 := c.num 16 1
  decide (c.num 1 1 < 4) && z 2 2 && z 8 8 &&
    match c.opc with
    | 0x01 => decide (b16 < 2) && z 17 7 && addr (decide (b16 % 2 = 1)) 24 && z 46 2 && z 56 8
    | 0x02 => z 22 2 && decide (1 ≤ c.num 24 8) && decide (c.num 24 8 < 2 ^ 63) && z 32 32 && z 16 0
    | 0x03 => decide (b16 ≤ 4) && z 17 1 && z 20 4 && z 30 2 && decide (c.num 40 6 < 2 ^ 40) && z 46 2 && z 52 12
    | 0x04 => decide (b16 < 12) && z 17 7 && addr (decide (b16 % 2 = 1)) 24 && addr (decide (b16 / 2 % 2 = 1)) 32
        && decide (c.num 40 8 % 256 = 0) && decide (c.num 40 8 ≤ 2 ^ 40) && z 48 16
    | 0x05 => decide (b16 ≤ 2) && decide (c.num 17 1 ≤ 3) && decide (c.num 18 1 < 2) && z 19 5 && decide (c.num 24 8 % 65536 = 0)
        && decide (c.num 24 8 ≠ 0) && z 32 32
    | 0x06 => decide (c.num 18 1 ≤ 3) && z 19 45
    | 0x07 => z 16 48
    | 0x08 => z 16 48
    | 0x09 => decide (b16 ≤ 5) && z 17 1 && z 20 4 && decide (c.num 24 8 % 256 = 0) && z 36 28
        && decide (b16 ≠ 1 ∨ c.num 18 2 < 2048) && decide (b16 ≠ 2 ∨ c.num 18 2 < 64) && decide (b16 ≠ 4 ∨ c.num 18 2 ≤ 2)
    | 0x0A => z 16 8 && z 30 2 && z 40 24
    | 0x0B => z 16 8 && z 30 2 && z 40 24
    | 0x0C => decide (b16 < 2) && z 17 7 && z 30 2 && z 40 24
    | _ => false

/-- The unit that executes an opcode (R324). -/
def unitOf (opc : Nat) : HUnit :=
  match opc with
  | 0x01 => .loader | 0x02 => .trainer | 0x07 => .trainer | 0x03 => .serving | 0x04 => .mover | 0x05 => .mover | 0x06 => .mover
  | 0x0A => .sched | 0x0B => .sched | 0x0C => .lantern | _ => .host
/-- A FENCE of a context that has been dispatched and has not completed. -/
def State.openFence (s : State) (c : BitVec 6) : Option Cmd := ((s.unitQ c .host).filterMap s.cmd?).find? fun k => decide (k.opc = 8)

/-- A QUERY or CHECKPOINT as it is dispatched (R324, R329). -/
def State.actOf (s : State) (c : Cmd) : Act :=
  match s.trn.run with
  | some r => if decide (c.opc = 7) && decide (r.ctx = c.ctx) then ⟨c.id, some r.cmd, decide (r.ckn = 0)⟩ else ⟨c.id, none, false⟩
  | none => ⟨c.id, none, false⟩
/-- COMMAND_DISPATCH (R324 to R327): the command at the head of a context's ring goes to its unit, or completes with DESC_BAD. -/
def execCommandDispatch (ctx : BitVec 6) (s : State) : Out :=
  let x := s.ctx ctx
  match x.ring.head?.bind s.cmd? with
  | none => .next s
  | some c =>
    let u := unitOf c.opc
    if (s.openFence ctx).isSome then .next s
    else if !c.legal then .next (s.complete c.id 0x0001 0)
    else if 64 ≤ (s.unitQ ctx u).length then .next s
    else
      let s1 := s.setCtx ctx { x with ring := x.ring.tail }
      let s2 : State :=
        if c.opc = 7 || c.opc = 9 then { s1 with host := { s1.host with acts := s1.host.acts ++ [s.actOf c] } }
        else s1.setUnitQ ctx u (s1.unitQ ctx u ++ [c.id])
      .next (if c.opc = 1 then { s2 with host := { s2.host with loads := s2.host.loads ++ [c.id] } } else s2)

/-- A dispatched FENCE completes once every command ahead of it in its ring has (R325). -/
def State.endFence (s : State) (c : BitVec 6) : State :=
  match s.openFence c with
  | none => s
  | some k => if (s.ctx c).unfinished.any fun i => decide (i < k.id) then s else s.complete k.id 0 0
/-- FENCE (R325): with no command ahead of it, it completes; else dispatch of the ring holds. -/
def execFence (ctx : BitVec 6) (s : State) : Out := .next (s.endFence ctx)
/-- FENCE_COMPLETE (R325): the last command ahead of it has completed. -/
def execFenceComplete (ctx : BitVec 6) (s : State) : Out := .next (s.endFence ctx)

/-! ## Completion records (R330 to R336) -/

/-- Does an EVICTED record that command `id` caused wait on any ring (R332, R334)? -/
def State.evictedWaits (s : State) (id : Nat) : Bool := s.host.ctxs.any fun kv => kv.2.recs.any fun r => decide (r.cause = some id)
/-- The two words of a record at completion count `ct` of a ring of `m` entries (R330, R331). -/
def Rec.words (r : Rec) (ct m : Nat) : List PWord :=
  [⟨BitVec.ofNat 64 (r.tag.toNat + r.status.toNat * 2 ^ 32 + r.opc.toNat * 2 ^ 48 + (ct / m + 1) % 2 * 2 ^ 56), false⟩, ⟨r.result, false⟩]
/-- The command of a record leaves flight. -/
def State.leaveRec (s : State) (r : Rec) : State := r.cmd.elim s s.leave

/-- COMPLETION_RECORD_WRITE (R331, R333, R334, R336): the oldest waiting record of a ring is written, and its vector is signalled where
something triggers it. -/
def execCompletionRecordWrite (ctx : BitVec 6) (s : State) : Out :=
  let x := s.ctx ctx
  let m := s.ctxReg ctx 0x20
  match x.recs with
  | [] => .next s
  | r :: rest =>
    if decide (m ≤ (x.ct - x.cqh).toNat) || r.cmd.any s.evictedWaits then .next s
    else
      let mod := s.ctxReg ctx 0x38
      let since := x.since + 1
      let vec := r.irq || (decide (mod % 65536 ≠ 0) && decide (mod % 65536 ≤ since))
      let y : HCtx := { x with
        recs := rest, ct := x.ct + 1, since := if vec then 0 else since
        first := if vec then none else some (x.first.getD s.dev.time) }
      let s1 := (s.setCtx ctx y).send (.mem ctx ((s.ctxReg ctx 0x18 + 16 * (x.ct.toNat % m)) % 2 ^ 64) (r.words x.ct.toNat m))
      let s2 := s1.leaveRec r
      .next (if vec then s2.signalVec ctx.toNat else s2)

/-- MODERATION_TIMER_EXPIRY (R336): the time since the first unsignalled record has passed. -/
def execModerationTimerExpiry (ctx : BitVec 6) (s : State) : Out :=
  let x := s.ctx ctx
  let t := s.ctxReg ctx 0x38 / 65536
  if t ≠ 0 && x.first.any (fun f => decide (f + t ≤ s.dev.time)) then
    .next ((s.setCtx ctx { x with since := 0, first := none }).signalVec ctx.toNat)
  else .next s

/-! ## Stops and disables -/

/-- Does the next completion record go to host address `addr`? -/
def State.recAt (s : State) (c : BitVec 6) (addr : Nat) : Bool :=
  let x := s.ctx c
  let m := s.ctxReg c 0x20
  !x.recs.isEmpty && decide (m ≠ 0) && decide (addr = (s.ctxReg c 0x18 + 16 * (x.ct.toNat % m)) % 2 ^ 64)
/-- A record whose own write fails is lost, and its command leaves flight (R335). -/
def State.dropRec (s : State) (c : BitVec 6) : State :=
  match (s.ctx c).recs with
  | [] => s
  | r :: rest => (s.modCtx c fun x => { x with recs := rest }).leaveRec r
/-- The host ranges that a LOAD_IMAGE, COPY or QUERY reads or writes (R328). -/
def Cmd.hostRanges (c : Cmd) : List (Nat × Nat) :=
  let sp := c.num 16 1
  match c.opc with
  | 0x01 => if sp % 2 = 1 then [(c.num 24 8, c.num 32 8)] else []
  | 0x04 => (if sp % 2 = 1 then [(c.num 24 8, c.num 40 8)] else []) ++ (if sp / 2 % 2 = 1 then [(c.num 32 8, c.num 40 8)] else [])
  | 0x09 => [(c.num 24 8, c.num 32 4)]
  | _ => []
/-- The command in execution for a client that reads or writes host address `addr`. -/
def State.xlateCmd (s : State) (ctx : BitVec 6) (addr : Nat) : Option Cmd :=
  ((s.loadHead ctx).toList ++ (s.unitHead ctx .mover).toList ++ s.host.acts.filterMap fun a => s.cmd? a.cmd).find? fun c =>
    decide (c.ctx = ctx) && c.hostRanges.any fun r => decide (r.1 ≤ addr) && decide (addr < r.1 + r.2)
/-- CTX_XLATE (R314, R335): a translation or a CXL.cache access at `addr` has failed. A command whose own access it was
completes with this code (DEDUCED, log entry 88). -/
def execCtxXlate (ctx : BitVec 6) (addr : W64) (s : State) : Out :=
  let x := s.ctx ctx
  if !x.live then .next s
  else
    let s1 :=
      if s.recAt ctx addr.toNat then s.dropRec ctx
      else
        match s.xlateCmd ctx addr.toNat with
        | some c => (s.dropStream (.copy c.id)).endLoad c.id 0x1020 0
        | none => s
    .next (if x.stopped then s1 else s1.stopCtx ctx 1 0x1020 addr.toNat)

/-- HOST_LINK (R315, R336, R404): an integrity failure on an IDE stream is a fault; the Keep's sessions close. -/
def execHostLink (stream : BitVec 2) (s : State) : Out :=
  if !s.pwr.linkUp then .next s
  else
    let s1 := (s.raise 0x8020 .dev 0 stream.toNat 0).errVector
    .next { s1 with keep := { s1.keep with sessions := [], ideStreams := s1.keep.ideStreams.filter fun i => decide (i ≠ stream) } }

/-- CONTEXT_DISABLE_COMPLETE (R317): no command of a disabled context is in flight. -/
def execContextDisableComplete (ctx : BitVec 6) (s : State) : Out :=
  let x := s.ctx ctx
  if x.en || !x.live || decide (0 < s.inFlight ctx) then .next s
  else .next (s.setCtx ctx { x with live := false, dbRead := false, since := 0, first := none })

/-! ## Host accesses of tier H (R309 to R311, R419) -/

/-- The requester of host accesses: the west edge port of die 0 at row 20. -/
def State.hostReq (s : State) : Nat := 2 ^ 15 + (edgeDest s.dev.addr false 2 20).toNat
/-- An access before Memory_Active is logged (R419, R336). -/
def State.hdmEarly (s : State) (hpa : W64) : State := (s.log 0x1023 .dev 0 hpa.toNat 0).errVector
/-- The tier H address of a host address that an HDM decoder maps: the same offset from TBASE (R309). -/
def State.hdmAddr (s : State) (hpa : W64) : Option Nat :=
  (s.host.cfg.hdm.find? fun d => decide (d.base ≤ hpa.toNat) && decide (hpa.toNat < d.base + d.size)).map fun d => d.tbase + (hpa.toNat - d.base)
/-- Does the link carry CXL.mem: up, and in 256 B flit mode (R307)? -/
def State.memLink (s : State) : Bool := s.pwr.linkUp && s.pwr.flit256
/-- Most lines that the snoop filter records (R308, R310). -/
def snoopCap : Nat := 1048576
/-- A cache hit or miss at a line's home (R203, R439). -/
def State.countHost (s : State) (a : Nat) : State :=
  if (s.slice (homeOf (a - a % 256))).has (a - a % 256) then s.countHit else s.countMiss

/-- A host read of 64-byte line `l` is answered, and the snoop filter becomes `snoop`. -/
def State.hostAnswer (s : State) (hpa : W64) (l : Nat) (snoop : List SnoopEnt) (errs : List MemErr) : State :=
  let s1 := s.tierErrs [(64 * l, 64)] errs
  ((s1.modMem fun m => { m with snoop := snoop }).countHost (64 * l)).send (.answer hpa (s1.mem.words (64 * l) 8))

/-- HOST_MEM_READ (R204, R307, R309, R310, R337, R419): the host reads a line and holds it, for ownership where `own`. -/
def execHostMemRead (hpa : W64) (own : Bool) (errs : List MemErr) (s : State) : Out :=
  match s.hdmAddr hpa with
  | none => .next s
  | some a =>
    let l := a / 64
    if !s.memLink then .next s
    else if !s.pwr.memact then
      let s1 : State := { s with dev := { s.dev with free := s.dev.free + 8 } }
      .next ((s1.hdmEarly hpa).send (.answer hpa ((List.range 8).map fun k => ⟨Config.freeWord (s.dev.free + k), true⟩)))
    else if decide (l ∈ s.mem.snooping) || s.homeBusy [] [(64 * l, 64)] then .next s
    else
      let known := s.mem.snoop.any fun e => decide (e.line = l)
      match s.mem.snoop with
      | old :: _ =>
        if !known && decide (snoopCap ≤ s.mem.snoop.length) then .next (s.sendSnoops [old.line])
        else
          let snoop := if known then s.mem.snoop.map fun e => if e.line = l then { e with mod := e.mod || own } else e else s.mem.snoop ++ [⟨l, own⟩]
          .next (s.hostAnswer hpa l snoop errs)
      | [] => .next (s.hostAnswer hpa l [⟨l, own⟩] errs)

/-- HOST_MEM_WRITE (R204, R307, R309, R311, R419): the host writes a line, which it then no longer holds. -/
def execHostMemWrite (hpa : W64) (data : List W64) (s : State) : Out :=
  match s.hdmAddr hpa with
  | none => .next s
  | some a =>
    let l := a / 64
    if !s.memLink then .next s
    else if !s.pwr.memact then .next ((s.hdmEarly hpa).send (.answer hpa []))
    else if decide (l ∈ s.mem.snooping) || s.homeBusy [] [(64 * l, 64)] then .next s
    else
      let ws : List PWord := (List.range 8).map fun k => ⟨data.getD k 0, false⟩
      let s1 := (s.countHost (64 * l)).svcWords s.hostReq 0 0 2 (64 * l) ws
      .next ((s1.modMem fun m => { m with snoop := m.snoop.filter fun e => decide (e.line ≠ l) }).send (.answer hpa []))

end Sys2Proof.Machine
end

