-- ==== Sys2Proof/Machine/Query.lean ====
section
/-! DEFINITION. QUERY: what each form writes to the host (R328, R329, R462). -/

namespace Sys2Proof.Machine

/-- A 64-bit count and its epoch bit, in 16 B. -/
def count16 (n : Nat) : List Byte := cnt8 n ++ toBytes 8 (epochBit n).toNat
/-- The oldest QUERY of one form that a client has dispatched. -/
def State.queryCmd (s : State) (ctx : BitVec 6) (what : Nat) : Option Cmd :=
  (s.host.acts.filterMap fun a => s.cmd? a.cmd).find? fun c => decide (c.opc = 9) && decide (c.ctx = ctx) && decide (c.num 16 1 = what)
/-- Write a result of `n` entries, cut at LEN, and complete. -/
def State.answerQuery (s : State) (c : Cmd) (n : Nat) (body : List Byte) : State :=
  let all := cnt8 s.dev.time ++ toBytes 4 n ++ toBytes 4 0 ++ body
  let out := all.take (c.num 32 4)
  (s.send (.bytes c.ctx (c.num 24 8) out)).complete c.id (if c.num 32 4 < all.length then 2 else 0) (BitVec.ofNat 64 out.length)
/-- Answer a QUERY of one form. -/
def State.query (s : State) (ctx : BitVec 6) (what : Nat) (f : Cmd → Nat × List Byte) : State :=
  match s.queryCmd ctx what with
  | none => s
  | some c => s.answerQuery c (f c).1 (f c).2

/-- QUERY_DEVICE: every counter of the device. -/
def execQueryDevice (ctx : BitVec 6) (s : State) : Out :=
  .next (s.query ctx 0 fun _ => (s.devCounters.length, s.devCounters.flatMap fun c => count16 c.2))
/-- QUERY_TILE: a tile's counters, TIL_STATE and TIL_PC. -/
def execQueryTile (ctx : BitVec 6) (s : State) : Out :=
  .next (s.query ctx 1 fun c =>
    let x := s.tile (BitVec.ofNat 11 (c.num 18 2))
    (x.ctr.list.length + 2, x.ctr.list.flatMap count16 ++ toBytes 8 x.stateWord ++ toBytes 8 x.pcWord))
/-- QUERY_CLIENT: a client's counters and context registers. -/
def execQueryClient (ctx : BitVec 6) (s : State) : Out :=
  .next (s.query ctx 2 fun c =>
    (8, (s.client (c.num 18 2)).list.flatMap count16 ++ (s.ctxRegs (c.num 18 2)).flatMap fun n => toBytes 8 n))

def Spill.num : Spill → Nat
  | .none => 0 | .g => 1 | .c => 2 | .drop => 3
/-- How often an object is bound (R230, R376): by images, commands in flight but QUERY number `but` itself, set-up settings and
Lantern buffers. -/
def State.bindCount (s : State) (o : Obj) (but : Nat) : Nat :=
  (s.imgs.filter fun kv => kv.2.any fun i => decide (o.id ∈ i.binds) || decide (i.obj = o.id)).length
    + (s.host.cmds.filter fun c => decide (c.id ≠ but) && c.names o).length + ((s.setupRanges ++ s.lanRanges).filter fun r => rangeMeets r.1 r.2 o).length
/-- QUERY_OBJECT: one entry of the object table; OBJ_BAD for an identifier that is free or another client's (R329). -/
def execQueryObject (ctx : BitVec 6) (s : State) : Out :=
  match s.queryCmd ctx 3 with
  | none => .next s
  | some c =>
    match (s.obj? (c.num 18 2)).filter fun o => decide (o.owner = ctx) with
    | none => .next (s.complete c.id 0x0034 0)
    | some o =>
      .next (s.answerQuery c 1 (toBytes 2 o.id ++ toBytes 1 o.owner.toNat ++ toBytes 1 o.tier ++ toBytes 1 o.spill.num ++ toBytes 1 o.pin.toNat
        ++ toBytes 2 0 ++ toBytes 8 (s.bindCount o c.id) ++ toBytes 8 o.base ++ toBytes 8 o.size ++ cnt8 o.touch ++ toBytes 8 0))

/-- Largest free range of a tier. -/
def State.largestFree (s : State) (t : Nat) : Nat :=
  let tr := s.tierRange t
  let mine := s.obj.objs.filter fun o => decide (o.tier = t)
  let gap (a : Nat) : Nat := (mine.filterMap fun o => if a ≤ o.base then some (o.base - a) else none).foldl min (tr.1 + tr.2 - a)
  ((tr.1 :: mine.map fun o => o.base + o.size).filter fun a => mine.all fun o => decide (a < o.base) || decide (o.base + o.size ≤ a)).foldl
    (fun b a => max b (gap a)) 0
/-- QUERY_TIER_POOL: a tier's room, objects and usage by client. -/
def execQueryTierPool (ctx : BitVec 6) (s : State) : Out :=
  .next (s.query ctx 4 fun c =>
    let t := c.num 18 2
    let mine := s.obj.objs.filter fun o => decide (o.tier = t)
    let sum (l : List Obj) : Nat := (l.map (·.size)).sum
    (71, ([(s.tierRange t).2, s.freeBytes t, s.largestFree t, mine.length, sum (mine.filter (·.pin)),
        sum (mine.filter fun o => decide (0 < s.bindCount o c.id) || o.sealed)].flatMap fun n => toBytes 8 n)
      ++ count16 (s.obj.evictions.getD t 0)
      ++ (List.range 64).flatMap fun k => toBytes 8 (usage s.obj.objs t (BitVec.ofNat 6 k))))
/-- QUERY_ERROR_LOG: the entries from HEAD to TAIL, in ring order. -/
def execQueryErrorLog (ctx : BitVec 6) (s : State) : Out :=
  .next (s.query ctx 5 fun _ =>
    let n := (s.err.tail + 512 - s.err.head) % 512
    (n, (List.range n).flatMap fun k => (aGet none s.err.log ((s.err.head + k) % 512)).elim (toBytes 32 0) LogEnt.bytes))

end Sys2Proof.Machine
end

