-- ==== Sys2Proof/Machine/KeepSpdm.lean ====
section
/-! DEFINITION. The Keep: the identity key and the SPDM responder on the DOE mailbox (R400, R403, R404, R437). Request and error codes,
and the order in which SPDM lets a requester send its requests, are those of the SPDM versions that R403 names (PRESUMED, log entry 25). -/

namespace Sys2Proof.Machine

/-- IDENTITY_KEY_READY (R400, R418): after the strap window the Keep has derived the identity key. -/
def execIdentityKeyReady (s : State) : Out :=
  .next (if s.pwr.strapped then { s with keep := { s.keep with idReady := true } } else s)

def State.setKeep (s : State) (k : Keep) : State := { s with keep := k }
/-- A response: its code and the content that the spec gives it. -/
def Keep.answer (k : Keep) (code : Byte) (payload : List Byte) : Keep := { k with sent := k.sent ++ [(code, payload)] }
/-- An ERROR response (R437). -/
def Keep.error (k : Keep) (err : Byte) (payload : List Byte) : Keep := { (k.answer 0x7F (err :: payload)) with spdmErr := err }
/-- A signature, or other data that the spec does not give: 64 bytes. -/
def freeSig (n : Nat) : List Byte := (List.range 8).flatMap fun k => toBytes 8 (Config.freeWord (n + k)).toNat
/-- A signed response; it needs the identity key (R400, R403). -/
def State.signed (s : State) (code : Byte) (payload : List Byte) (f : Keep → Keep) : State :=
  if s.keep.idReady then
    let s1 : State := { s with dev := { s.dev with free := s.dev.free + 8 } }
    s1.setKeep ((f s.keep).answer code (payload ++ freeSig s.dev.free))
  else s.setKeep (s.keep.error 0x03 [])

/-- Versions 1.2 and 1.3 (R403). -/
def spdmVersion (v : Byte) : Bool := decide (v = 0x12) || decide (v = 0x13)
/-- Run a request that needs the connection to have come `n` stages: in the version agreed, else ERROR VersionMismatch; out of order,
ERROR UnexpectedRequest. The mailbox is reached through the link (R306). -/
def State.spdm (s : State) (ver : Byte) (n : Nat) (f : State → State) : Out :=
  let k := s.keep
  .next (
    if !s.pwr.linkUp then s
    else if !spdmVersion ver || (decide (2 ≤ k.conn) && decide (k.ver ≠ ver)) then s.setKeep (k.error 0x41 [])
    else if k.conn < n then s.setKeep (k.error 0x04 [])
    else f s)

/-- GET_VERSION: the connection begins again. -/
def execGetVersion (s : State) : Out :=
  .next (if s.pwr.linkUp then s.setKeep ({ s.keep with conn := 1, ver := 0 }.answer 0x04 [0x12, 0x13]) else s)
/-- GET_CAPABILITIES: the version of the connection is this request's. -/
def execGetCapabilities (ver : Byte) (s : State) : Out :=
  s.spdm ver 1 fun s => s.setKeep ({ s.keep with conn := max s.keep.conn 2, ver := ver }.answer 0x61 [])
/-- NEGOTIATE_ALGORITHMS: the one choice of each kind that the Keep supports. -/
def execNegotiateAlgorithms (ver : Byte) (ed25519 sha512 secp384r1 aesGcm : Bool) (s : State) : Out :=
  s.spdm ver 2 fun s =>
    if ed25519 && sha512 && secp384r1 && aesGcm then s.setKeep ({ s.keep with conn := 3 }.answer 0x63 [])
    else s.setKeep (s.keep.error 0x01 [])
/-- GET_DIGESTS: slot 0 only. -/
def execGetDigests (ver : Byte) (s : State) : Out := s.spdm ver 3 fun s => s.setKeep (s.keep.answer 0x01 (sha512 Config.certChain))
/-- GET_CERTIFICATE: a part of the chain of slot 0, and how much is left behind it. -/
def execGetCertificate (ver : Byte) (slot : BitVec 4) (offset length : W16) (s : State) : Out :=
  s.spdm ver 3 fun s =>
    let n := Config.certChain.length
    if slot ≠ 0 || decide (n ≤ offset.toNat) then s.setKeep (s.keep.error 0x01 [])
    else
      let part := (Config.certChain.drop offset.toNat).take length.toNat
      s.setKeep (s.keep.answer 0x02 (toBytes 2 part.length ++ toBytes 2 (n - offset.toNat - part.length) ++ part))
/-- CHALLENGE: signed with the identity key. -/
def execChallenge (ver : Byte) (slot : BitVec 4) (s : State) : Out :=
  s.spdm ver 3 fun s =>
    if slot ≠ 0 then s.setKeep (s.keep.error 0x01 []) else s.signed 0x03 (sha512 Config.certChain) id

/-- The value of a measurement block (R404). -/
def State.measurement (s : State) (i : Nat) : List Byte :=
  if i = 1 then toBytes 2 0xE902 ++ [9, 1, if Config.stepB0 then 0xB0 else 0xA1]
  else if i = 2 then
    sha512 (((List.range 8).flatMap fun k => (s.signer k).1 ++ toBytes 1 (s.signer k).2.toNat) ++ toBytes 1 (s.act .kep 0x240 % 2))
  else (s.image (BitVec.ofNat 6 (i - 3))).elim (List.replicate 64 0) (·.digest)
/-- GET_MEASUREMENTS: the number of blocks for index 0, one block, or all of them at once, which a message of 4,096 B cannot hold. -/
def execGetMeasurements (ver : Byte) (index : Byte) (sign : Bool) (s : State) : Out :=
  s.spdm ver 3 fun s =>
    let i := index.toNat
    let payload := if i = 0 then [66] else index :: s.measurement i
    if i = 0xFF then s.setKeep (s.keep.error 0x0D [])
    else if 66 < i then s.setKeep (s.keep.error 0x01 [])
    else if sign then s.signed 0x60 payload id
    else s.setKeep (s.keep.answer 0x60 payload)

/-- A session of the Keep. -/
def Keep.session (k : Keep) (id : W32) : Option SesSt := (k.sessions.find? fun x => decide (x.1 = id)).map (·.2)
/-- KEY_EXCHANGE: a third session is refused. -/
def execKeyExchange (ver : Byte) (slot : BitVec 4) (reqSession : W16) (s : State) : Out :=
  s.spdm ver 3 fun s =>
    let rsp : W16 := BitVec.ofNat 16 s.keep.nextSession
    if slot ≠ 0 then s.setKeep (s.keep.error 0x01 [])
    else if 2 ≤ s.keep.sessions.length then s.setKeep (s.keep.error 0x0A [])
    else
      s.signed 0x64 (toBytes 2 rsp.toNat) fun k =>
        { k with sessions := k.sessions ++ [(rsp ++ reqSession, .handshake)], nextSession := k.nextSession + 1 }
/-- FINISH: the session is established where the requester's proof verifies; else it ends. -/
def execFinish (ver : Byte) (session : W32) (verify : Bool) (s : State) : Out :=
  s.spdm ver 3 fun s =>
    let k := s.keep
    if k.session session ≠ some .handshake then s.setKeep (k.error 0x02 [])
    else if verify then
      let up (x : W32 × SesSt) : W32 × SesSt := if x.1 = session then (x.1, .established) else x
      s.setKeep ({ k with sessions := k.sessions.map up }.answer 0x65 [])
    else s.setKeep ({ k with sessions := k.sessions.filter fun x => decide (x.1 ≠ session) }.error 0x06 [])
/-- A request inside an established session. -/
def State.inSession (s : State) (session : W32) (f : State → State) : State :=
  if s.keep.session session = some .established then f s else s.setKeep (s.keep.error 0x02 [])
/-- HEARTBEAT. -/
def execHeartbeat (ver : Byte) (session : W32) (s : State) : Out :=
  s.spdm ver 3 fun s => s.inSession session fun s => s.setKeep (s.keep.answer 0x68 [])
/-- KEY_UPDATE: the session's keys change; the model holds none. -/
def execKeyUpdate (ver : Byte) (session : W32) (s : State) : Out :=
  s.spdm ver 3 fun s => s.inSession session fun s => s.setKeep (s.keep.answer 0x69 [])
/-- END_SESSION. -/
def execEndSession (ver : Byte) (session : W32) (s : State) : Out :=
  s.spdm ver 3 fun s => s.inSession session fun s =>
    s.setKeep ({ s.keep with sessions := s.keep.sessions.filter fun x => decide (x.1 ≠ session) }.answer 0x6C [])
/-- VENDOR_DEFINED_REQUEST: IDE_KM inside a session programs an IDE stream; every other one is unsupported. -/
def execVendorDefinedRequest (ver : Byte) (session : Option W32) (stream : BitVec 2) (ideKm : Bool) (s : State) : Out :=
  s.spdm ver 3 fun s =>
    let k := s.keep
    if !ideKm then s.setKeep (k.error 0x07 [])
    else
      match session with
      | none => s.setKeep (k.error 0x0B [])
      | some id => s.inSession id fun s =>
        s.setKeep ({ k with ideStreams := (k.ideStreams.filter fun i => decide (i ≠ stream)) ++ [stream] }.answer 0x7E [])
/-- SPDM_UNSUPPORTED_REQUEST: ERROR UnsupportedRequest, naming the request. -/
def execSpdmUnsupportedRequest (ver code : Byte) (s : State) : Out :=
  s.spdm ver 0 fun s => s.setKeep (s.keep.error 0x07 [code])

end Sys2Proof.Machine
end

