-- ==== Sys2Proof/Machine/Mover.lean ====
section
/-! DEFINITION. The tier movers: source reads and credit of their streams (R229, R263, R264). The mover of die 0 serves COPY, EVICT and the
moves of eviction sets, that of die 1 the feed streams (log entry 131). -/

namespace Sys2Proof.Machine

/-- The next source read of 256 B of a feed stream, training feed first, where its credit covers it. -/
def State.readFeed (s : State) : State :=
  match s.trn.run with
  | none => s
  | some r =>
    if r.tfeed.any Feed.canAsk then s.setRun { r with tfeed := r.tfeed.map Feed.ask }
    else if r.ffeed.any Feed.canAsk then s.setRun { r with ffeed := r.ffeed.map Feed.ask }
    else s
/-- MOVER_READ_ISSUE (R229): a mover issues the next source read of the oldest stream whose credit covers it; `src` is what the host's
memory holds there, for a source in host memory. -/
def execMoverReadIssue (die : Bool) (src : List W64) (errs : List MemErr) (s : State) : Out :=
  if die then .next s.readFeed
  else
    match s.obj.streams.find? MvStream.canAsk with
    | none => .next s
    | some m => .next (s.readStream m src errs)

/-- Freed ring entries of the feeds return as credit. -/
def State.creditFeeds (s : State) : State :=
  match s.trn.run with
  | none => s
  | some r =>
    let f (x : Feed) : Feed := { x with credit := x.credit + x.freed, freed := 0 }
    (s.setRun { r with tfeed := r.tfeed.map f, ffeed := r.ffeed.map f }).feedEnd
/-- MOVER_CREDIT_RETURN (R229, R264): a destination write of the oldest stream that has one is accepted, or freed ring entries return. -/
def execMoverCreditReturn (die : Bool) (s : State) : Out :=
  if die then .next s.creditFeeds
  else
    match s.obj.streams.find? fun m => !m.staged.isEmpty with
    | none => .next s
    | some m => .next (s.writeStream m)

end Sys2Proof.Machine
end

