-- ==== Sys2Proof/Machine/Random.lean ====
section
/-! DEFINITION. The random word of one element: ChaCha8 in Bernstein's original form (R139, R140). -/

namespace Sys2Proof.Machine

/-- The quarter round of R139 on words `a b c d`. -/
def qr (a b c d : W32) : W32 × W32 × W32 × W32 :=
  let a := a + b; let d := (d ^^^ a).rotateLeft 16
  let c := c + d; let b := (b ^^^ c).rotateLeft 12
  let a := a + b; let d := (d ^^^ a).rotateLeft 8
  let c := c + d; let b := (b ^^^ c).rotateLeft 7
  (a, b, c, d)

/-- The quarter round on the words of a state numbered `i j k l`. -/
def qrAt (x : List W32) (i j k l : Nat) : List W32 :=
  let (a, b, c, d) := qr (x.getD i 0) (x.getD j 0) (x.getD k 0) (x.getD l 0)
  (((x.set i a).set j b).set k c).set l d

/-- One double round: four columns, then four diagonals. -/
def doubleRound (y : List W32) : List W32 :=
  let y := qrAt (qrAt (qrAt (qrAt y 0 4 8 12) 1 5 9 13) 2 6 10 14) 3 7 11 15
  qrAt (qrAt (qrAt (qrAt y 0 5 10 15) 1 6 11 12) 2 7 8 13) 3 4 9 14

/-- The input state: constant, 64 bits of key, counter and nonce (R139). -/
def chachaInput (seed : W64) (tid : W32) (ctr : W64) : List W32 :=
  [0x61707865#32, 0x3320646E#32, 0x79622D32#32, 0x6B206574#32,
   seed.setWidth 32, (seed >>> 32).setWidth 32, 0, 0, 0, 0, 0, 0,
   ctr.setWidth 32, (ctr >>> 32).setWidth 32, tid, 0]

/-- `chacha8_block` of R139: four double rounds and the final addition. -/
def chacha8Block (seed : W64) (tid : W32) (ctr : W64) : List W32 :=
  let x := chachaInput seed tid ctr
  List.zipWith (· + ·) (doubleRound (doubleRound (doubleRound (doubleRound x)))) x

/-- `rand32` of R139. -/
def rand32 (seed : W64) (tid : W32) (coord : W64) : W32 :=
  (chacha8Block seed tid (coord >>> 4)).getD (coord.toNat % 16) 0

/-- `rand16` of R139: the low 16 bits. -/
def rand16 (seed : W64) (tid : W32) (coord : W64) : W16 := (rand32 seed tid coord).setWidth 16

end Sys2Proof.Machine
end

