-- ==== Sys2Proof/Machine/Vxe.lean ====
section
/-! DEFINITION. Vector chains, lane reductions and the finished-tile queue (R44, R45, R114 to R138). -/

namespace Sys2Proof.Machine

/-! ## Groups (R114, R115) -/

/-- Rows in a group of an FP32 chain; a BF16 chain never packs rows. -/
def rpgOf (wb : Bool) (vlen : Nat) : Nat := if wb then 1 else if vlen ≤ 16 then 4 else if vlen ≤ 32 then 2 else 1
/-- Lanes of a group. -/
def lanesOf (wb : Bool) : Nat := if wb then 128 else 64
/-- Groups of a row when rows are not packed. -/
def gprOf (wb : Bool) (vlen : Nat) : Nat := (vlen + lanesOf wb - 1) / lanesOf wb
/-- Number of groups. -/
def groupCount (wb : Bool) (nr vlen : Nat) : Nat :=
  if vlen = 0 then 0 else if rpgOf wb vlen = 1 then nr * gprOf wb vlen else (nr + rpgOf wb vlen - 1) / rpgOf wb vlen

/-- An active lane: its number, its row and its element. -/
structure LaneId where
  lane : Nat
  r : Nat
  e : Nat
deriving DecidableEq, Repr

/-- The active lanes of group `g`, in lane order. -/
def groupLanes (wb : Bool) (nr vlen g : Nat) : List LaneId :=
  let k := rpgOf wb vlen
  let all :=
    if k = 1 then
      let gpr := gprOf wb vlen
      (List.range (lanesOf wb)).map fun l => ⟨l, g / gpr, g % gpr * lanesOf wb + l⟩
    else
      let w := 64 / k
      (List.range 64).map fun l => ⟨l, k * g + l / w, l % w⟩
  all.filter fun l => decide (l.r < nr) && decide (l.e < vlen)

/-! ## Operand addressing (R121, R122) -/

/-- Bits of one stored element of a format code (R73, R119). -/
def fmtBits (fmt : Nat) : Nat := if fmt = 0 then 32 else if fmt = 1 then 16 else if fmt = 4 then 4 else 8
/-- The narrow format of a code. -/
def fmtNf (fmt : Nat) : Nf :=
  if fmt = 2 then .e4m3 else if fmt = 3 then .e5m2 else if fmt = 4 then .e2m1 else if fmt = 5 then .e3m2 else .e2m3

def offOf (so : W64) : Nat := fld so 15 0
def rsOf (so : W64) : Nat := fld so 31 16
def col0Of (so : W64) : Nat := fld so 47 32
def tidhOf (so : W64) : Nat := fld so 63 48

/-- The buffer an FQ load reads: 128 logical rows of 16 FP32 elements (R122). -/
def fqHandle (slot : Slot) : Hd := ⟨true, 2, 128 * slot.toNat, 127, 31, 1⟩

/-- The normal mapping of R121. -/
def mapNormal (h : Hd) (b : Nat) (so : W64) (r e : Nat) : Nat × Nat :=
  let f := col0Of so + e
  (offOf so + r * rsOf so + f / h.epr b, f % h.epr b)
/-- Row broadcast, and the result element of an RDX (R121, R132). -/
def mapRow (h : Hd) (b : Nat) (so : W64) (r : Nat) : Nat × Nat :=
  let f := offOf so * h.epr b + col0Of so + r * rsOf so
  (f / h.epr b, f % h.epr b)
/-- A transposed store's element (R125). -/
def mapTransposed (so : W64) (r e : Nat) : Nat × Nat := (offOf so + e, col0Of so + r * rsOf so)

/-- The handle a stage accesses. -/
def stageHd (g : Stage) (v : StageVals) (slot : Slot) : Hd := if g.fq then fqHandle slot else hdOf v.h0

/-- Element of a load or store stage for (row, element). -/
def stageElem (g : Stage) (v : StageVals) (h : Hd) (r e : Nat) : Nat × Nat :=
  if g.op = .st && g.md then mapTransposed v.so r e
  else if g.op = .ld && g.md then mapRow h (fmtBits g.fmt) v.so r
  else mapNormal h (fmtBits g.fmt) v.so r e

/-- Byte number of the scale of element (i, c), and of its record (R123, R124). R123 writes the blocks of a row as epr / 32; where a
row ends in a partial block the quotient is not whole, and the partial block counts, as R73 gives it a scale and R102 counts blocks
per row (DEDUCED, log entry 119). -/
def scaleIdx (h : Hd) (b i c : Nat) : Nat := i * h.bpr b + c / 32

/-- All (row, element) pairs of a VCH. -/
def vchElems (nr vlen : Nat) : List (Nat × Nat) := (List.range nr).flatMap fun r => (List.range vlen).map fun e => (r, e)

/-- The range checks of one stage over every element it reaches (R122, R125); FQ loads lie in their slot's buffer. A handle that the
stage names is checked even where the chain has no element (DEDUCED, log entry 120). -/
def stageFault (g : Stage) (v : StageVals) (m : BitVec 24) (nr vlen : Nat) : Option (Hdl × Nat) :=
  if g.op ≠ .ld && g.op ≠ .st then none
  else
    let h := stageHd g v 0
    let b := fmtBits g.fmt
    let nar := narrowFmt g.fmt
    let st := decide (g.op = .st)
    let h1 := hdOf v.h1
    let h2 := hdOf v.h2
    let run := st && nar && decide (g.pol = 2)
    if st && g.md && (decide (32 < vlen) || decide (g.fmt = 0)) then some (g.h, 0)
    else if st && nar && decide (col0Of v.so % 32 ≠ 0) then some (g.h, 0)
    else if !g.fq && !(h.v && h.legal m) then some (g.h, h.base)
    else if nar && !(h1.v && h1.legal m) then some (g.h + 1, h1.base)
    else if run && !(h2.v && h2.legal m && decide (2 ≤ h2.cols + 1)) then some (g.h + 2, h2.base)
    else
      match (vchElems nr vlen).find? fun re =>
        let (i, c) := stageElem g v h re.1 re.2
        !(h.inside b i c) || (nar && !(h1.inside 8 (scaleIdx h b i c / h1.epr 8) (scaleIdx h b i c % h1.epr 8)))
          || (run && !(decide (scaleIdx h b i c / h2.recs ≤ h2.rows))) with
      | some re => some (g.h, (h.place b (stageElem g v h re.1 re.2).1 (stageElem g v h re.1 re.2).2).row)
      | none => none

/-- Row keys of the elements, scale bytes and records of a stage, but for the FTQ head's slot. -/
structure StageKeys where
  elems : List Nat
  scales : List Nat
  recs : List Nat
deriving DecidableEq, Repr

def stageKeys (g : Stage) (v : StageVals) (nr vlen : Nat) : StageKeys :=
  if g.op ≠ .ld && g.op ≠ .st then ⟨[], [], []⟩
  else
    let h := stageHd g v 0
    let b := fmtBits g.fmt
    let els := (vchElems nr vlen).map fun re => stageElem g v h re.1 re.2
    { elems := if g.fq then [] else (els.map fun ic => rowKey h.store (h.place b ic.1 ic.2).row).dedup
      scales := if narrowFmt g.fmt then (els.map fun ic => rowKey (hdOf v.h1).store ((hdOf v.h1).sbyteAt (scaleIdx h b ic.1 ic.2)).row).dedup else []
      recs := if narrowFmt g.fmt && g.op = .st && g.pol = 2 then
        (els.map fun ic => rowKey (hdOf v.h2).store ((hdOf v.h2).recAt (scaleIdx h b ic.1 ic.2)).row).dedup else [] }
/-- Row keys that a stage reads and writes, but for the FTQ head's slot. -/
def stageRows (g : Stage) (v : StageVals) (nr vlen : Nat) : List Nat × List Nat :=
  let k := stageKeys g v nr vlen
  if g.op = .ld then (k.elems ++ k.scales, []) else (k.scales ++ k.recs, k.elems ++ k.scales ++ k.recs)

/-! ## Lanes and stage results -/

/-- A lane's value and poison mark. -/
structure Lane where
  v : W32
  q : Bool
deriving DecidableEq, Repr

/-- What the execution of a chain carries from access to access. -/
structure Run where
  x : Tile
  /-- Rows that an NRM lane flagged (R137). -/
  masked : List Nat
  /-- Generator blocks computed, once each: group, generator, identifier, block counter (R144). -/
  blocks : List (Nat × Nat × Nat × Nat)
  /-- Values waiting in transpose buffers: stage number, row, element, value (R125). -/
  tbuf : List (Nat × LaneId × Lane)
  /-- Narrow block stores of the group that wait to be performed together: stage, and element, value and lane (R85). -/
  blk : List ((Stage × StageVals) × List (Nat × Nat × Lane × LaneId))
deriving DecidableEq, Repr

/-- Rounding mode of a field (R76). -/
def rmOf (c : Nat) : Rm := if c = 0 then .rne else if c = 1 then .rtz else .sr

/-- The coordinate of element (r, e) (R127). -/
def coordOf (sc : W64) (r e : Nat) : W64 := sc + BitVec.ofNat 64 (r * 2 ^ 32) + BitVec.ofNat 64 e

/-- The 16-bit random word of a lane (R127, R139). -/
def laneRand (o : VchOp) (tid : Nat) (l : LaneId) : Nat :=
  (rand16 o.seed (BitVec.ofNat 32 tid) (coordOf o.sc l.r l.e)).toNat
/-- The generator block a lane's word comes from (R144). -/
def laneBlock (o : VchOp) (grp tid : Nat) (l : LaneId) : Nat × Nat × Nat × Nat :=
  (grp, l.lane / (lanesOf o.f.wb / 4), tid, (coordOf o.sc l.r l.e).toNat / 16)
/-- Note the blocks of the lanes that need a word. -/
def Run.draw (u : Run) (bs : List (Nat × Nat × Nat × Nat)) : Run :=
  { u with blocks := bs.foldl (fun acc b => if b ∈ acc then acc else acc ++ [b]) u.blocks }

/-- The group of an element. -/
def groupOf (o : VchOp) (l : LaneId) : Nat :=
  let k := rpgOf o.f.wb o.vlen
  if k = 1 then l.r * gprOf o.f.wb o.vlen + l.e / lanesOf o.f.wb else l.r / k

/-! ## Narrow block stores (R124) -/

/-- The present value of a place. -/
def Tile.val (x : Tile) (st b : Nat) (p : Place) : Nat := (x.rdAt st b p).1

/-- Write one destination block: `es` gives the block's positions that lanes supply, with value, poison and lane. Where two lanes
supply one element the first counts (DESIGN CHOICE, log entry 121). A scale byte or record whose own word is poisoned is used as it
reads (DESIGN CHOICE, log entry 122). A poisoned lane overrides the marks, the scale byte and the record, and nothing else: the codes
and the counts are those of the values (DEDUCED, log entry 36). -/
def writeBlock (o : VchOp) (g : Stage) (v : StageVals) (u : Run) (i blk : Nat) (es : List (Nat × Lane × LaneId)) : Run :=
  let h := hdOf v.h0
  let h1 := hdOf v.h1
  let h2 := hdOf v.h2
  let b := fmtBits g.fmt
  let nf := fmtNf g.fmt
  let pos := (List.range 32).filter fun p => decide (32 * blk + p < h.epr b)
  let idx := i * h.bpr b + blk
  let sp := h1.sbyteAt idx
  let bad := es.any fun e => e.2.1.q
  let scaleWr (sv : Nat) (p : Bool) : LaneWr := ⟨h1.store, sp, 8, sv, p⟩
  let elemWr (code : Nat → Nat) : List LaneWr := pos.map fun k => ⟨h.store, h.place b i (32 * blk + k), b, code k, bad⟩
  let at' (p : Nat) : Option (Nat × Lane × LaneId) := es.find? fun e => decide (e.1 = p)
  let vs := (List.range 32).map fun p => match at' p with | some e => flush e.2.1.v | none => 0
  let mode := rmOf g.rm
  let tid := tidhOf v.so * 65536 + g.tidl.toNat
  let us := (List.range 32).map fun p => match at' p with
    | some e => if mode = .sr then laneRand o tid e.2.2 else 0
    | none => 0
  let ra := h2.recAt idx
  let rec0 := ScaleRec.ofWord (BitVec.ofNat 32 (u.x.val h2.store 32 ra))
  let rep := if g.pol = 2 then some (runUse rec0 vs us nf mode g.imm8) else none
  let oldScale := u.x.val h1.store 8 sp
  let q : QBlock :=
    if blockNonFinite vs then nanBlock vs
    else match rep with
      | some r => r.1
      | none =>
        if g.pol = 0 then (if oldScale = 255 then nanBlock vs else quantBlock vs us oldScale nf mode)
        else quantBlock vs us (fitScale (maxAbs vs) nf) nf mode
  let need := if mode = .sr && !q.nan then
      es.filter fun e => !quantExact (flush e.2.1.v) q.scale nf
    else []
  let u := u.draw (need.map fun e => laneBlock o (groupOf o e.2.2) tid e.2.2)
  let x := u.x.wrLanes (elemWr fun k => q.codes.getD k 0)
  let x := if bad then x.wrLanes [scaleWr oldScale true]
    else if g.pol = 0 && !blockNonFinite vs then x
    else x.wrLanes [scaleWr q.scale false]
  let x := match bad, rep with
    | false, some r => x.wrLanes [⟨h2.store, ra, 32, r.2.toWord.toNat, false⟩]
    | _, _ => x
  { u with x := x.count fun c => { c with nNan := c.nNan + (if q.nan then 1 else 0), nOvf := c.nOvf + (if q.ovf then 1 else 0) } }

/-- The destination blocks that some values of some stages reach: every (i, block, stage), each once, in ascending (i, block) order, a
block of two stages in stage order. -/
def blockKeys (l : List ((Stage × StageVals) × List (Nat × Nat × Lane × LaneId))) : List (Nat × Nat × Nat) :=
  let keys : Assoc Unit := (l.mapIdx fun n p => p.2.map fun e => (e.1 * 2 ^ 32 + e.2.1 / 32) * 8 + n).flatten.foldl (fun acc k => aInsert acc k ()) []
  keys.map fun k => (k.1 / 8 / 2 ^ 32, k.1 / 8 % 2 ^ 32, k.1 % 8)
/-- Write every destination block that the values of some narrow stores reach, in ascending (i, block) order whatever stage a block
belongs to: so the uses of a record that two stages share are applied (R85, R124). -/
def writeBlocks (o : VchOp) (u : Run) (l : List ((Stage × StageVals) × List (Nat × Nat × Lane × LaneId))) : Run :=
  (blockKeys l).foldl (fun u k =>
    match l[k.2.2]? with
    | some ((g, v), vals) =>
      let es := (vals.filter fun e => decide (e.1 = k.1) && decide (e.2.1 / 32 = k.2.1)).map fun e => (e.2.1 % 32, e.2.2)
      writeBlock o g v u k.1 k.2.1 es
    | none => u) u
/-- Perform the narrow block stores that wait. -/
def Run.flush (o : VchOp) (u : Run) : Run := { writeBlocks o u u.blk with blk := [] }
/-- Must narrow block stores that wait be performed before stage `g` accesses the stores? Before every load and every wide store, and
before a narrow store that shares a row with them other than a row of records (R85, R126; DEDUCED, log entry 123). -/
def Run.mustFlush (o : VchOp) (u : Run) (g : Stage) (v : StageVals) : Bool :=
  !(decide (g.op = .st) && narrowFmt g.fmt) ||
    let k := stageKeys g v o.nr o.vlen
    u.blk.any fun p =>
      let q := stageKeys p.1.1 p.1.2 o.nr o.vlen
      meets (q.elems ++ q.scales) (k.elems ++ k.scales ++ k.recs) || meets q.recs (k.elems ++ k.scales)

/-! ## Stages (R123 to R129) -/

/-- A value that enters a lane of a BF16 chain is rounded to BF16 (R128). -/
def toLane (wb : Bool) (v : W32) : W32 := if wb then ofBf16 (toBf16 v .rne 0) else v

/-- Source `sel` for lane number `k` of the group (R120). -/
def vsrcOf (o : VchOp) (outs : List (List Lane)) (sel k : Nat) (l : LaneId) : Lane :=
  if sel < 8 then (outs.getD sel []).getD k ⟨0, false⟩
  else if sel < 12 then ⟨toLane o.f.wb (o.b.getD (sel - 8) 0), false⟩
  else if sel = 12 then ⟨0, false⟩
  else if sel = 13 then ⟨0x3F800000#32, false⟩
  else if sel = 14 then ⟨inf32 true, false⟩
  else ⟨toLane o.f.wb (ofNat32 l.e), false⟩

/-- A comparison of R128. -/
def cmpHolds (code : Nat) (a b : W32) : Bool :=
  match fcmp a b with
  | none => decide (code = 1)
  | some c =>
    match code with
    | 0 => decide (c = .eq) | 1 => decide (c ≠ .eq) | 2 => decide (c = .lt)
    | 3 => decide (c ≠ .gt) | 4 => decide (c = .gt) | _ => decide (c ≠ .lt)

/-- Is a word neither zero nor NaN? -/
def truthy (a : W32) : Bool := match f32 a with | .nan => false | .inf _ => true | .fin _ m _ => decide (m ≠ 0)

/-- The value of an arithmetic stage in an FP32 chain or, rounded once to BF16, in a BF16 chain (R128). -/
def arith (op : StageOp) (wb : Bool) (mode : Rm) (imm : Nat) (a b c : W32) : W32 :=
  let a := flush a
  let b := flush b
  let c := flush c
  let rnd (x : Ex) : W32 := if wb then x.bf16 else x.f32 mode
  let canon (w : W32) : W32 := if isNan w then nan32 else w
  match op with
  | .add => rnd ((ex a).add (ex b))
  | .sub => rnd ((ex a).add (ex (b ^^^ 0x80000000#32)))
  | .mul => rnd ((ex a).mul (ex b))
  | .fma => rnd (((ex a).mul (ex b)).add (ex c))
  | .max => fmaxR a b
  | .min => fminR a b
  | .abs => fabs a
  | .neg => fneg a
  | .cmp => if cmpHolds (imm % 8) a b then 0x3F800000#32 else 0
  | _ => canon (if truthy a then b else c)

/-- The value of a function stage (R129), and whether the lane flags its row (R137). -/
def func (op : StageOp) (a b : W32) : W32 × Bool :=
  let a := flush a
  let b := flush b
  match op with
  | .rcp => (frcp a, false)
  | .rsq => (frsq a, false)
  | .exp2 => (fexp2 a, false)
  | .log2 => (flog2W a, false)
  | .exp => (fexp a, false)
  | .expd => (fexpd a b, false)
  | .tanh => (ftanh a, false)
  | .sigm => (fsigm a, false)
  | _ => fnrm a b

/-- A load of one lane (R123). -/
def loadLane (o : VchOp) (g : Stage) (v : StageVals) (x : Tile) (slot : Slot) (l : LaneId) : Lane :=
  let h := stageHd g v slot
  let b := fmtBits g.fmt
  let (i, c) := stageElem g v h l.r l.e
  let (raw, q) := x.rdElem h b i c
  if g.fmt = 0 then ⟨toLane o.f.wb (flush (BitVec.ofNat 32 raw)), q⟩
  else if g.fmt = 1 then ⟨toLane o.f.wb (ofBf16 (BitVec.ofNat 16 raw)), q⟩
  else
    let (sx, qs) := x.sbyte (hdOf v.h1) (scaleIdx h b i c)
    ⟨toLane o.f.wb (decodeNarrow (fmtNf g.fmt) (codeOf' (fmtNf g.fmt) raw) sx), q || qs⟩
where
  codeOf' (f : Nf) (raw : Nat) : Nat := if f = .e3m2 || f = .e2m3 then raw % 64 else raw

/-- A store stage over the lanes of a group (R123 to R125). `idx` is the stage's number. Of two lanes that supply one element of a wide store
the last counts (DESIGN CHOICE, log entry 121). -/
def storeGroup (o : VchOp) (idx : Nat) (g : Stage) (v : StageVals) (u : Run) (ls : List (LaneId × Lane)) : Run :=
  let h := hdOf v.h0
  let b := fmtBits g.fmt
  let mode := rmOf g.rm
  let tid := tidhOf v.so * 65536 + g.tidl.toNat
  if narrowFmt g.fmt then
    if g.md then { u with tbuf := u.tbuf ++ ls.map fun l => (idx, l.1, l.2) }
    else { u with blk := u.blk ++ [((g, v), ls.map fun l => let (i, c) := stageElem g v h l.1.r l.1.e; (i, c, l.2, l.1))] }
  else
    let lane (l : LaneId × Lane) : LaneWr :=
      let (i, c) := stageElem g v h l.1.r l.1.e
      let val := if g.fmt = 0 then l.2.v.toNat
        else (toBf16 l.2.v mode (if mode = .sr then laneRand o tid l.1 else 0)).toNat
      ⟨h.store, h.place b i c, b, val, l.2.q⟩
    let need := if g.fmt = 1 && mode = .sr then ls.filter fun l => !bf16Exact l.2.v else []
    let u := u.draw (need.map fun l => laneBlock o (groupOf o l.1) tid l.1)
    if g.md then
      let rows := (ls.map fun l => l.1.r).dedup
      { u with x := rows.foldl (fun x r => x.wrLanes ((ls.filter fun l => decide (l.1.r = r)).map lane)) u.x }
    else { u with x := u.x.wrLanes (ls.map lane) }

/-- One stage over a group: the new run and the stage's output. -/
def runStage (o : VchOp) (slot : Slot) (idx : Nat) (g : Stage) (v : StageVals) (ids : List LaneId) (outs : List (List Lane))
    (u : Run) : Run × List Lane :=
  let u := if (decide (g.op = .ld) || decide (g.op = .st)) && u.mustFlush o g v then u.flush o else u
  let kids := (List.range ids.length).zip ids
  let src (sel : Nat) (kl : Nat × LaneId) : Lane := vsrcOf o outs sel kl.1 kl.2
  match g.op with
  | .ld => (u, ids.map (loadLane o g v u.x slot))
  | .st =>
    let vs := kids.map (src g.xa)
    (storeGroup o idx g v u (ids.zip vs), vs)
  | .rndb =>
    let mode := rmOf g.rm
    let vs := kids.map fun kl =>
      let a := src g.xa kl
      ((⟨(ex a.v).bf16 mode (if mode = .sr then laneRand o g.tidl.toNat kl.2 else 0), a.q⟩ : Lane))
    let need := if mode = .sr then kids.filter fun kl => !bf16Exact (src g.xa kl).v else []
    (u.draw (need.map fun kl => laneBlock o (groupOf o kl.2) g.tidl.toNat kl.2), vs)
  | op =>
    if op.bf16Ok then
      (u, kids.map fun kl =>
        let a := src g.xa kl
        let b := src g.xb kl
        let c := src g.xc kl
        let q := match op with
          | .sel => a.q || (if truthy (flush a.v) then b.q else c.q)
          | _ => (decide (1 ≤ op.arity) && a.q) || (decide (2 ≤ op.arity) && b.q) || (decide (3 ≤ op.arity) && c.q)
        ⟨arith op o.f.wb (rmOf g.rm) g.imm8 a.v b.v c.v, q⟩)
    else
      let rs := kids.map fun kl =>
        let a := src g.xa kl
        let b := src g.xb kl
        let r := func op a.v b.v
        (((⟨r.1, a.q || (decide (op.arity = 2) && b.q)⟩ : Lane)), r.2, kl.2.r)
      let fl := (rs.filter fun z => z.2.1).map fun z => z.2.2
      ({ u with masked := fl.foldl (fun m r => if r ∈ m then m else m ++ [r]) u.masked }, rs.map (·.1))

/-- The stages of a chain over one group, from stage `idx`; answers the outputs of every stage. -/
def runStages (o : VchOp) (slot : Slot) (ids : List LaneId) : List (Stage × StageVals) → Nat → List (List Lane) → Run →
    Run × List (List Lane)
  | [], _, outs, u => (u, outs)
  | (g, v) :: rest, idx, outs, u =>
    let (u', out) := runStage o slot idx g v ids outs u
    runStages o slot ids rest (idx + 1) (outs ++ [out]) u'

/-- Flush the transpose buffers of every transposed narrow store, their blocks in ascending order (R85, R125). -/
def flushTbuf (o : VchOp) (u : Run) : Run :=
  let l := ((List.range o.stages.length).zip o.stages).map fun ks =>
    (ks.2, (u.tbuf.filter fun e => decide (e.1 = ks.1)).map fun e =>
      let (i, c) := mapTransposed ks.2.2.so e.2.1.r e.2.1.e
      (i, c, e.2.2, e.2.1))
  { writeBlocks o u l with tbuf := [] }

/-- The groups of a chain from group `g`; answers the last stage's output, lane by lane, group by group. -/
def runGroups (o : VchOp) (slot : Slot) : Nat → Nat → Run → List (List (LaneId × Lane)) →
    Run × List (List (LaneId × Lane))
  | 0, _, u, acc => (flushTbuf o u, acc)
  | n + 1, g, u, acc =>
    let ids := groupLanes o.f.wb o.nr o.vlen g
    let (u, outs) := runStages o slot ids o.stages 0 [] u
    let u := u.flush o
    let lastRow : Nat := (ids.getLast?.map (·.r)).getD 0
    let u := if (lastRow + 1) % 32 = 0 then flushTbuf o u else u
    runGroups o slot n (g + 1) u (acc ++ [ids.zip (outs.getLastD [])])

/-! ## Reductions (R134) -/

/-- One level of the tree: neighbours are added. -/
def pairSums : List W32 → List W32
  | a :: b :: rest => fadd a b :: pairSums rest
  | l => l
/-- `tree` of R134 over a power of two of lanes. -/
def treeSum : Nat → List W32 → W32
  | 0, l => l.headD 0
  | n + 1, l => treeSum n (pairSums l)

/-- Negative zero. -/
def negZero : W32 := 0x80000000#32

/-- The row's lanes in one group as values, inactive lanes as -0.0. -/
def laneValues (width : Nat) (ls : List (LaneId × Lane)) (sq : Bool) : List W32 :=
  (List.range width).map fun k =>
    match ls.find? fun l => decide (l.1.lane % width = k) with
    | some l => if sq then fmul l.2.v l.2.v else l.2.v
    | none => negZero

/-- SUM or SSQ of a row. -/
def rowSum (width : Nat) (groups : List (List (LaneId × Lane))) (sq : Bool) : W32 :=
  groups.foldl (fun acc ls => fadd acc (treeSum 6 (laneValues width ls sq))) negZero
/-- MAX of a row: -∞ when it has no active lane. -/
def rowMax (ls : List (LaneId × Lane)) : W32 := ls.foldl (fun a l => fmaxR a l.2.v) (inf32 true)
/-- AMAX of a row. -/
def rowAmax (ls : List (LaneId × Lane)) : W32 :=
  match ls.find? fun l => isNan l.2.v with
  | some l => BitVec.ofNat 32 l.1.e
  | none =>
    match ls.find? fun l => decide (flush l.2.v = rowMax ls) with
    | some l => BitVec.ofNat 32 l.1.e
    | none => 0xFFFFFFFF#32

/-- The result of row `r`, with its poison mark (R134). -/
def rowResult (o : VchOp) (op : RdxOp) (groups : List (List (LaneId × Lane))) (r : Nat) : W32 × Bool :=
  let gs := (groups.map fun ls => ls.filter fun l => decide (l.1.r = r)).filter fun ls => !ls.isEmpty
  let all := gs.flatten
  let width := 64 / rpgOf o.f.wb o.vlen
  let v := match op with
    | .sum => rowSum width gs false
    | .ssq => rowSum width gs true
    | .max => rowMax all
    | .amax => rowAmax all
  (v, all.any fun l => l.2.q)

/-! ## Instructions -/

/-- VLEN := min(s[RA] + IMM, 65,535) for every VCH issued after it (R116). -/
def execVlen (t : TileId) (ecc : Ecc) (ra : Reg) (imm : W16) (s : State) : Out :=
  issue s t ecc (.vlen t ecc ra imm) fun s => s.modTile t fun x =>
    ({ x with vxe := { x.vxe with vlen := min ((x.reg ra).toNat + imm.toNat) 65535 } } : Tile).next

/-- The NF-sense bit of the superstep in progress (R266, R389). -/
def Tile.nfs (x : Tile) : Bool := (aGet 0 x.imem x.core.hdr).getLsbD 61

/-- The values a stage takes at issue. -/
def stageVals (x : Tile) (g : Stage) : StageVals := ⟨x.reg g.so, x.hword g.h, x.hword (g.h + 1), x.hword (g.h + 2)⟩

/-- Rows that the result writes of an RDX touch. -/
def rdxRows (e : RdxEnt) (nr : Nat) : List Nat :=
  if e.f.toh then
    ((List.range nr).map fun r => let h := hdOf e.he; let ic := mapRow h 32 e.off r; rowKey h.store (h.place 32 ic.1 ic.2).row).dedup
  else []
/-- The first row result of an RDX that lies outside its buffer. -/
def rdxFault (e : RdxEnt) (nr : Nat) : Option (Hdl × Nat) :=
  let h := hdOf e.he
  if e.f.toh then
    match (List.range nr).find? fun r => let ic := mapRow h 32 e.off r; !h.inside 32 ic.1 ic.2 with
    | some r => some (e.f.h, (h.place 32 (mapRow h 32 e.off r).1 (mapRow h 32 e.off r).2).row)
    | none => none
  else none

/-- Rows that the result writes of an RDX may touch, whatever NR its VCH will have (R45, R55). -/
def rdxMayRows (e : RdxEnt) : List Nat :=
  let h := hdOf e.he
  let start := offOf e.off * h.epr 32 + col0Of e.off
  let room := (h.rows + 1) * h.epr 32 - start
  rdxRows e (if rsOf e.off = 0 then 1 else min 65535 ((room + rsOf e.off - 1) / rsOf e.off))

/-- Issue a VCH: legality, range checks, and a place in the VXE queue with every value it names (R117, R122). A VCH with RDT = 1 needs
exactly one RDX that waits: none, or more than one, is ILLEGAL_INSTR (R133; DEDUCED for more than one, log entry 124). -/
def vchIssue (t : TileId) (f : VchF) (s : State) : State :=
  let x := s.tile t
  if 6143 < f.caddr.toNat + f.nst.toNat then s.illegal t
  else
    match x.chain f with
    | none => s.illegal t
    | some ss =>
      if f.rdt && decide (x.rdu.unpaired.length ≠ 1) then s.illegal t
      else
        let gs := ss.map fun g => (g, stageVals x g)
        let nr := fld (x.reg f.sn) 15 0
        let vlen := x.vxe.vlen
        let rdx := if f.rdt then x.rdu.unpaired.head? else none
        let bad := (gs.findSome? fun gv => stageFault gv.1 gv.2 x.mask nr vlen).or (rdx.bind fun e => rdxFault e nr)
        match bad with
        | some (h, r) => s.storeRange t h r
        | none =>
          let rows := gs.map fun gv => stageRows gv.1 gv.2 nr vlen
          let b := [x.reg f.sb0, x.reg f.sb1, x.reg f.sb2, x.reg f.sb3].map fun w => w.setWidth 32
          let o : VchOp :=
            { seq := x.seq, pc := x.core.pc, f := f, stages := gs, b := b, nr := nr, vlen := vlen
              groups := groupCount f.wb nr vlen, sc := x.reg f.sc, seed := aGet 0 x.seeds 0, rdx := rdx, nfs := x.nfs }
          let x := (x.step 1).addAccess (rows.flatMap (·.1)).dedup (rows.flatMap (·.2)).dedup
          let x := match rdx with
            | some e => { x.setWrites e.seq (rdxRows e nr) with rdu := { x.rdu with unpaired := [] } }
            | none => x
          let vx : Vxe := { x.vxe with
            ops := x.vxe.ops ++ [o], busy0 := if x.vxe.ops.isEmpty then x.ctr.vxeBusy else x.vxe.busy0 }
          s.setTile t ({ x with vxe := vx } : Tile).nextWord

/-- VCH (R117). -/
def execVch (t : TileId) (ecc : Ecc) (f : VchF) (s : State) : Out := issue s t ecc (.vch t ecc f) (vchIssue t f)

/-- Issue an RDX: it waits in the RDU for its VCH; the rows it may write take its place in program order, and s[RD] has a write
pending (R45, R132, R133). -/
def rdxIssue (t : TileId) (op : RdxOp) (f : RdxF) (s : State) : State :=
  let x := s.tile t
  let h := hdOf (x.hword f.h)
  if f.toh && !(h.v && h.legal x.mask) then s.storeRange t f.h h.base
  else
    let e : RdxEnt := { seq := x.seq, op := op, f := f, he := x.hword f.h, off := x.reg f.so }
    let x := { (x.step 1).addAccess [] (rdxMayRows e) with rdu := { x.rdu with unpaired := x.rdu.unpaired ++ [e] } }
    s.setTile t (if f.tos then x.setPend f.rd true else x).nextWord

/-- RDX SUM (R132). -/
def execRdxSum (t : TileId) (ecc : Ecc) (f : RdxF) (s : State) : Out := issue s t ecc (.rdxSum t ecc f) (rdxIssue t .sum f)
/-- RDX SSQ (R132). -/
def execRdxSsq (t : TileId) (ecc : Ecc) (f : RdxF) (s : State) : Out := issue s t ecc (.rdxSsq t ecc f) (rdxIssue t .ssq f)
/-- RDX MAX (R132). -/
def execRdxMax (t : TileId) (ecc : Ecc) (f : RdxF) (s : State) : Out := issue s t ecc (.rdxMax t ecc f) (rdxIssue t .max f)
/-- RDX AMAX (R132). -/
def execRdxAmax (t : TileId) (ecc : Ecc) (f : RdxF) (s : State) : Out := issue s t ecc (.rdxAmax t ecc f) (rdxIssue t .amax f)

/-- The results an RDX forms from its chain's last stage (R134): one for each row below NR. -/
def rduResults (o : VchOp) (groups : List (List (LaneId × Lane))) : List RduRes :=
  match o.rdx with
  | none => []
  | some e => (List.range o.nr).map fun r =>
    let (v, p) := rowResult o e.op groups r
    { ent := e, row := r, last := decide (r + 1 = o.nr), v := v, poison := p, nfs := o.nfs }

/-- The chain of the oldest VCH over all its groups: its writes land, its reduction results are formed (R126, R131, R134). -/
def runVch (o : VchOp) (slot : Slot) (s : State) (t : TileId) : State :=
  let x := s.tile t
  let u0 : Run := { x := x, masked := [], blocks := [], tbuf := [], blk := [] }
  let (u, groups) := runGroups o slot (groupCount o.f.wb o.nr o.vlen) 0 u0 []
  let res := rduResults o groups
  let x := u.x.dropAccess o.seq
  let x := match o.rdx with
    | some e => if o.nr = 0 then ((if e.f.tos then x.setPend e.f.rd false else x).dropAccess e.seq) else x
    | none => x
  let x := { x with
    vxe := { x.vxe with ops := x.vxe.ops.tail, relDue := x.vxe.relDue || o.f.rel, busy0 := x.ctr.vxeBusy }
    rdu := { x.rdu with results := x.rdu.results ++ res } }
  s.setTile t (x.count fun c => { c with masked := c.masked + u.masked.length, rngBlocks := c.rngBlocks + u.blocks.length })

/-- Steps in which the VXE has worked on its oldest VCH: VXE_BUSY counts them as they pass (R138). -/
def Tile.chainSteps (x : Tile) : Nat := x.ctr.vxeBusy - x.vxe.busy0
/-- The oldest VCH finishes in the VXE: every row it reads holds what program order gives it, the FTQ head it reads or releases is
there (R55, R131), and `steps` steps of its work have passed, one at the least for each group (R11, R114, R138). -/
def execVchLastGroupComplete (t : TileId) (steps : Nat) (errs : List StoreErr) (s : State) : Out :=
  let x := s.tile t
  match x.vxe.ops with
  | [] => .next s
  | o :: _ =>
    if x.vchFree o && (o.groups = 0 || decide (max steps o.groups ≤ x.chainSteps)) then
      let r := x.vchRows o
      .next (runVch o (x.ftq.headD 0) (s.storeErrs t (r.1 ++ r.2) errs) t)
    else .next s

/-- The FTQ head is freed once the releasing VCH has made its last access (R44, R131). -/
def execFtqRelease (t : TileId) (s : State) : Out :=
  let x := s.tile t
  if x.vxe.relDue then .next (s.setTile t { x with ftq := x.ftq.tail, vxe := { x.vxe with relDue := false } }) else .next s

/-- The value a scalar register takes: a poisoned result has a value of its own (R134). -/
def rduScalar (r : RduRes) : W64 :=
  (if r.poison then (if r.ent.op = .amax then 0xFFFFFFFF#32 else nan32) else r.v).setWidth 64

/-- Is a SUM or SSQ result non-finite or poisoned (R266)? -/
def rduNonFinite (r : RduRes) : Bool :=
  (decide (r.ent.op = .sum) || decide (r.ent.op = .ssq)) && (r.poison || !isFin r.v)

/-- The oldest row result is written to the handle, and the last row's to the scalar register (R134, R135); a result that is written
and is non-finite sets the tile's bit (R266). The rest of the word that the handle's element lies in is read, so it is checked (R58). -/
def execRduResultWrite (t : TileId) (errs : List StoreErr) (s : State) : Out :=
  match (s.tile t).rdu.results with
  | [] => .next s
  | r :: rs =>
    let h := hdOf r.ent.he
    let ic := mapRow h 32 r.ent.off r.row
    let pl := h.place 32 ic.1 ic.2
    let key := rowKey h.store pl.row
    if r.ent.f.toh && !(s.tile t).rowsFree r.ent.seq [] [key] then .next s
    else
      let s := if r.ent.f.toh then s.storeErrs t [key] errs else s
      let x := s.tile t
      let x := if r.ent.f.toh then x.wrLanes [⟨h.store, pl, 32, r.v.toNat, r.poison⟩] else x
      let toS := r.last && r.ent.f.tos
      let x := if toS then (x.setReg r.ent.f.rd (rduScalar r)).setPend r.ent.f.rd false else x
      let x := x.count fun c => { c with poisonIn := c.poisonIn + (if toS && r.poison then 1 else 0) }
      let x := { x with
        rdu := { x.rdu with results := rs }
        core := { x.core with nf := x.core.nf || (r.nfs && (r.ent.f.toh || toS) && rduNonFinite r) } }
      .next (s.setTile t (if r.last then x.dropAccess r.ent.seq else x))

end Sys2Proof.Machine
end

