-- ==== Sys2Proof/Machine/Rng.lean ====
section
/-! DEFINITION. The random-bit generators (R139 to R149). -/

namespace Sys2Proof.Machine

/-- Bits of one written element. -/
def rngBitsOf (fmt : Bool) : Nat := if fmt then 16 else 32

/-- The value of one element (R147). -/
def rngValue (o : RngOp) (r e : Nat) : Nat :=
  let w := rand32 o.seed (o.st.setWidth 32) (coordOf o.sc r e)
  match o.fn with
  | .bits => if o.fmt then w.toNat % 65536 else w.toNat
  | .uni =>
    let u := packQ ⟨false, w.toNat / 256, 1, -24⟩
    if o.fmt then (toBf16 u .rtz 0).toNat else u.toNat
  | .mask =>
    let m := if w.toNat < (o.st >>> 32).toNat then flush o.keep else 0
    if o.fmt then (toBf16 m .rne 0).toNat else m.toNat

/-- Row keys an RNG instruction writes, and the first element outside its buffer. -/
def rngRows (o : RngOp) : List Nat :=
  let h := hdOf o.he
  ((vchElems o.nr o.ne).map fun re =>
    let ic := mapNormal h (rngBitsOf o.fmt) o.off re.1 re.2
    rowKey h.store (h.place (rngBitsOf o.fmt) ic.1 ic.2).row).dedup
def rngFault (m : BitVec 24) (o : RngOp) : Option Nat :=
  let h := hdOf o.he
  let b := rngBitsOf o.fmt
  if !(h.v && h.legal m) then some h.base
  else
    match (vchElems o.nr o.ne).find? fun re => let ic := mapNormal h b o.off re.1 re.2; !h.inside b ic.1 ic.2 with
    | some re => let ic := mapNormal h b o.off re.1 re.2; some (h.place b ic.1 ic.2).row
    | none => none

/-- Issue BITS, UNI or MASK: every register and the seed are copied (R38, R142, R146). -/
def rngIssue (t : TileId) (fn : RngFn) (f : RngF) (s : State) : State :=
  let x := s.tile t
  let sn := x.reg f.sn
  let o : RngOp :=
    { seq := x.seq, pc := x.core.pc, fn := fn, fmt := f.fmt, he := x.hword f.h, off := x.reg f.so, st := x.reg f.st
      sc := x.reg f.sc, nr := fld sn 15 0, ne := fld sn 31 16, keep := (x.reg f.rv).setWidth 32
      seed := aGet 0 x.seeds f.sel.toNat }
  match rngFault x.mask o with
  | some r => s.storeRange t f.h r
  | none =>
    let x := (x.step 1).addAccess [] (rngRows o)
    s.setTile t ({ x with rng := x.rng ++ [o] } : Tile).nextWord

/-- RNG BITS (R146, R147). -/
def execRngBits (t : TileId) (ecc : Ecc) (f : RngF) (s : State) : Out := issue s t ecc (.rngBits t ecc f) (rngIssue t .bits f)
/-- RNG UNI (R146, R147). -/
def execRngUni (t : TileId) (ecc : Ecc) (f : RngF) (s : State) : Out := issue s t ecc (.rngUni t ecc f) (rngIssue t .uni f)
/-- RNG MASK (R146, R147). -/
def execRngMask (t : TileId) (ecc : Ecc) (f : RngF) (s : State) : Out := issue s t ecc (.rngMask t ecc f) (rngIssue t .mask f)

/-- RNG SEEDSET: effective for instructions issued after it (R142, R147). -/
def execSeedset (t : TileId) (ecc : Ecc) (sel : BitVec 2) (rv : Reg) (s : State) : Out :=
  issue s t ecc (.seedset t ecc sel rv) fun s => s.modTile t fun x =>
    ({ x with seeds := aSet 0 x.seeds sel.toNat (x.reg rv) } : Tile).next

/-- RNG SEEDGET (R147). -/
def execSeedget (t : TileId) (ecc : Ecc) (sel : BitVec 2) (rv : Reg) (s : State) : Out :=
  issue s t ecc (.seedget t ecc sel rv) fun s => s.aluWrite t rv (aGet 0 (s.tile t).seeds sel.toNat)

/-- Elements that the generators fill in one step: 64 of 32 bits, 128 of 16 bits (R148). -/
def rngWidth (fmt : Bool) : Nat := if fmt then 128 else 64

/-- The writes of row `r`, group by group. -/
def rngRow (o : RngOp) (r : Nat) (x : Tile) : Tile :=
  let h := hdOf o.he
  let b := rngBitsOf o.fmt
  (List.range ((o.ne + rngWidth o.fmt - 1) / rngWidth o.fmt)).foldl (fun x g =>
    let es := ((List.range (rngWidth o.fmt)).map fun k => g * rngWidth o.fmt + k).filter fun e => decide (e < o.ne)
    x.wrLanes (es.map fun e =>
      let ic := mapNormal h b o.off r e
      ⟨h.store, h.place b ic.1 ic.2, b, rngValue o r e, false⟩)) x

/-- Generator blocks that row `r` takes: distinct ones in each group and generator (R144). -/
def rngBlocksRow (o : RngOp) (r : Nat) : Nat :=
  ((List.range o.ne).map fun e =>
    (e / rngWidth o.fmt, e % rngWidth o.fmt / (rngWidth o.fmt / 4), (coordOf o.sc r e).toNat / 16)).dedup.length

/-- The oldest RNG instruction's writes land, and it finishes (R148); words that it writes in part are read, so they are checked
(R58). -/
def execRngLastWriteLands (t : TileId) (errs : List StoreErr) (s : State) : Out :=
  match (s.tile t).rng with
  | [] => .next s
  | o :: os =>
    if (s.tile t).rowsFree o.seq [] (rngRows o) then
      let s := s.storeErrs t (rngRows o) errs
      let x := s.tile t
      let x := (List.range o.nr).foldl (fun x r => rngRow o r x) x
      let n := (List.range o.nr).foldl (fun n r => n + rngBlocksRow o r) 0
      let x := x.count fun c => { c with rngBlocks := c.rngBlocks + n }
      .next (s.setTile t ({ x with rng := os } : Tile) |>.modTile t fun x => x.dropAccess o.seq)
    else .next s

end Sys2Proof.Machine
end

