-- ==== Sys2Proof/Machine/Dispatch.lean ====
section
/-! DEFINITION. One arm per command: each calls the meaning of that command. -/

namespace Sys2Proof.Machine

/-- The effect of a command on everything but the queue. -/
def exec (i : Instr) (s : State) : Host.Outcome State Fault Refusal :=
  match i with
  | .add t ecc rd ra rb => Sys2Proof.Machine.execAdd t ecc rd ra rb s
  | .sub t ecc rd ra rb => Sys2Proof.Machine.execSub t ecc rd ra rb s
  | .andR t ecc rd ra rb => Sys2Proof.Machine.execAndR t ecc rd ra rb s
  | .orR t ecc rd ra rb => Sys2Proof.Machine.execOrR t ecc rd ra rb s
  | .xorR t ecc rd ra rb => Sys2Proof.Machine.execXorR t ecc rd ra rb s
  | .sll t ecc rd ra rb => Sys2Proof.Machine.execSll t ecc rd ra rb s
  | .srl t ecc rd ra rb => Sys2Proof.Machine.execSrl t ecc rd ra rb s
  | .sra t ecc rd ra rb => Sys2Proof.Machine.execSra t ecc rd ra rb s
  | .slt t ecc rd ra rb => Sys2Proof.Machine.execSlt t ecc rd ra rb s
  | .sltu t ecc rd ra rb => Sys2Proof.Machine.execSltu t ecc rd ra rb s
  | .mul t ecc rd ra rb => Sys2Proof.Machine.execMul t ecc rd ra rb s
  | .mulhu t ecc rd ra rb => Sys2Proof.Machine.execMulhu t ecc rd ra rb s
  | .minR t ecc rd ra rb => Sys2Proof.Machine.execMinR t ecc rd ra rb s
  | .maxR t ecc rd ra rb => Sys2Proof.Machine.execMaxR t ecc rd ra rb s
  | .popc t ecc rd ra => Sys2Proof.Machine.execPopc t ecc rd ra s
  | .ctz t ecc rd ra => Sys2Proof.Machine.execCtz t ecc rd ra s
  | .addi t ecc rd ra imm => Sys2Proof.Machine.execAddi t ecc rd ra imm s
  | .andi t ecc rd ra imm => Sys2Proof.Machine.execAndi t ecc rd ra imm s
  | .ori t ecc rd ra imm => Sys2Proof.Machine.execOri t ecc rd ra imm s
  | .xori t ecc rd ra imm => Sys2Proof.Machine.execXori t ecc rd ra imm s
  | .slli t ecc rd ra sh => Sys2Proof.Machine.execSlli t ecc rd ra sh s
  | .srli t ecc rd ra sh => Sys2Proof.Machine.execSrli t ecc rd ra sh s
  | .srai t ecc rd ra sh => Sys2Proof.Machine.execSrai t ecc rd ra sh s
  | .slti t ecc rd ra imm => Sys2Proof.Machine.execSlti t ecc rd ra imm s
  | .sltiu t ecc rd ra imm => Sys2Proof.Machine.execSltiu t ecc rd ra imm s
  | .li t ecc rd imm => Sys2Proof.Machine.execLi t ecc rd imm s
  | .lih t ecc rd ra imm => Sys2Proof.Machine.execLih t ecc rd ra imm s
  | .ext t ecc rd ra lo len => Sys2Proof.Machine.execExt t ecc rd ra lo len s
  | .beq t ecc ra rb off => Sys2Proof.Machine.execBeq t ecc ra rb off s
  | .bne t ecc ra rb off => Sys2Proof.Machine.execBne t ecc ra rb off s
  | .blt t ecc ra rb off => Sys2Proof.Machine.execBlt t ecc ra rb off s
  | .bge t ecc ra rb off => Sys2Proof.Machine.execBge t ecc ra rb off s
  | .bltu t ecc ra rb off => Sys2Proof.Machine.execBltu t ecc ra rb off s
  | .bgeu t ecc ra rb off => Sys2Proof.Machine.execBgeu t ecc ra rb off s
  | .j t ecc off => Sys2Proof.Machine.execJ t ecc off s
  | .dbnz t ecc ra off => Sys2Proof.Machine.execDbnz t ecc ra off s
  | .nop t ecc => Sys2Proof.Machine.execNop t ecc s
  | .endC t ecc => Sys2Proof.Machine.execEndC t ecc s
  | .hset t ecc ra h => Sys2Proof.Machine.execHset t ecc ra h s
  | .hget t ecc rd h => Sys2Proof.Machine.execHget t ecc rd h s
  | .rdtally t ecc rd => Sys2Proof.Machine.execRdtally t ecc rd s
  | .rdid t ecc rd => Sys2Proof.Machine.execRdid t ecc rd s
  | .rdss t ecc rd => Sys2Proof.Machine.execRdss t ecc rd s
  | .mmaF4 t ecc f => Sys2Proof.Machine.execMmaF4 t ecc f s
  | .mmaF8 t ecc f => Sys2Proof.Machine.execMmaF8 t ecc f s
  | .mmaB16 t ecc f => Sys2Proof.Machine.execMmaB16 t ecc f s
  | .mmsF4 t ecc f => Sys2Proof.Machine.execMmsF4 t ecc f s
  | .tokenGrant die => Sys2Proof.Machine.execTokenGrant die s
  | .tokenIdleRelease t => Sys2Proof.Machine.execTokenIdleRelease t s
  | .mxeOperationStart t errs => Sys2Proof.Machine.execMxeOperationStart t errs s
  | .initialLoadComplete t errs => Sys2Proof.Machine.execInitialLoadComplete t errs s
  | .drainComplete t => Sys2Proof.Machine.execDrainComplete t s
  | .vch t ecc f => Sys2Proof.Machine.execVch t ecc f s
  | .ftqRelease t => Sys2Proof.Machine.execFtqRelease t s
  | .vlen t ecc ra imm => Sys2Proof.Machine.execVlen t ecc ra imm s
  | .rdxSum t ecc f => Sys2Proof.Machine.execRdxSum t ecc f s
  | .rdxSsq t ecc f => Sys2Proof.Machine.execRdxSsq t ecc f s
  | .rdxMax t ecc f => Sys2Proof.Machine.execRdxMax t ecc f s
  | .rdxAmax t ecc f => Sys2Proof.Machine.execRdxAmax t ecc f s
  | .rduResultWrite t errs => Sys2Proof.Machine.execRduResultWrite t errs s
  | .strGet t ecc f => Sys2Proof.Machine.execStrGet t ecc f s
  | .strPut t ecc f => Sys2Proof.Machine.execStrPut t ecc f s
  | .lookaheadPass t => Sys2Proof.Machine.execLookaheadPass t s
  | .lineLanding t => Sys2Proof.Machine.execLineLanding t s
  | .putRowTake t errs => Sys2Proof.Machine.execPutRowTake t errs s
  | .putLineAccepted t => Sys2Proof.Machine.execPutLineAccepted t s
  | .storePoisonWriteback t => Sys2Proof.Machine.execStorePoisonWriteback t s
  | .rngBits t ecc f => Sys2Proof.Machine.execRngBits t ecc f s
  | .rngUni t ecc f => Sys2Proof.Machine.execRngUni t ecc f s
  | .rngMask t ecc f => Sys2Proof.Machine.execRngMask t ecc f s
  | .seedset t ecc sel rv => Sys2Proof.Machine.execSeedset t ecc sel rv s
  | .seedget t ecc sel rv => Sys2Proof.Machine.execSeedget t ecc sel rv s
  | .exchangeBegin t errs => Sys2Proof.Machine.execExchangeBegin t errs s
  | .flitRouterArrival r inp vc errs => Sys2Proof.Machine.execFlitRouterArrival r inp vc errs s
  | .sumGroupForm r out errs => Sys2Proof.Machine.execSumGroupForm r out errs s
  | .exchangeFlitWrite t => Sys2Proof.Machine.execExchangeFlitWrite t s
  | .barrierArrival t => Sys2Proof.Machine.execBarrierArrival t s
  | .barrierRelease scope die => Sys2Proof.Machine.execBarrierRelease scope die s
  | .sigSignal t ecc rt obj inc => Sys2Proof.Machine.execSigSignal t ecc rt obj inc s
  | .sigPut t ecc f errs => Sys2Proof.Machine.execSigPut t ecc f errs s
  | .sigPuth t ecc f errs => Sys2Proof.Machine.execSigPuth t ecc f errs s
  | .waitConsume t ecc f => Sys2Proof.Machine.execWaitConsume t ecc f s
  | .waitPeek t ecc f => Sys2Proof.Machine.execWaitPeek t ecc f s
  | .waitGe t ecc f => Sys2Proof.Machine.execWaitGe t ecc f s
  | .signalArrival t => Sys2Proof.Machine.execSignalArrival t s
  | .putDataArrival t => Sys2Proof.Machine.execPutDataArrival t s
  | .send t ecc f errs => Sys2Proof.Machine.execSend t ecc f errs s
  | .asend t ecc f errs => Sys2Proof.Machine.execAsend t ecc f errs s
  | .cadd t ecc f errs => Sys2Proof.Machine.execCadd t ecc f errs s
  | .recv t ecc rt q so => Sys2Proof.Machine.execRecv t ecc rt q so s
  | .poll t ecc => Sys2Proof.Machine.execPoll t ecc s
  | .hret t ecc => Sys2Proof.Machine.execHret t ecc s
  | .reservationArrival t => Sys2Proof.Machine.execReservationArrival t s
  | .reservationAnswer t => Sys2Proof.Machine.execReservationAnswer t s
  | .busyRetry t => Sys2Proof.Machine.execBusyRetry t s
  | .queueSpillStart t q => Sys2Proof.Machine.execQueueSpillStart t q s
  | .messageFlitArrival t => Sys2Proof.Machine.execMessageFlitArrival t s
  | .ringRefill t q errs => Sys2Proof.Machine.execRingRefill t q errs s
  | .contributionArrival t => Sys2Proof.Machine.execContributionArrival t s
  | .combinedResultPlace t slot => Sys2Proof.Machine.execCombinedResultPlace t slot s
  | .handlerEntry t => Sys2Proof.Machine.execHandlerEntry t s
  | .memoryRequestArrival sl errs => Sys2Proof.Machine.execMemoryRequestArrival sl errs s
  | .tierReadResponse sl errs lmark => Sys2Proof.Machine.execTierReadResponse sl errs lmark s
  | .blockFetchComplete sl errs tagUe => Sys2Proof.Machine.execBlockFetchComplete sl errs tagUe s
  | .blockWriteDownComplete sl errs tagUe => Sys2Proof.Machine.execBlockWriteDownComplete sl errs tagUe s
  | .correctedWordWriteback sl => Sys2Proof.Machine.execCorrectedWordWriteback sl s
  | .poisonWriteback sl => Sys2Proof.Machine.execPoisonWriteback sl s
  | .hbmRefresh stack => Sys2Proof.Machine.execHbmRefresh stack s
  | .refreshManagement stack => Sys2Proof.Machine.execRefreshManagement stack s
  | .grottoRefresh stack => Sys2Proof.Machine.execGrottoRefresh stack s
  | .patrolScrubRead a ecc => Sys2Proof.Machine.execPatrolScrubRead a ecc s
  | .uioCompletion sl n status => Sys2Proof.Machine.execUioCompletion sl n status s
  | .uioTimeout sl n => Sys2Proof.Machine.execUioTimeout sl n s
  | .moverReadIssue die src errs => Sys2Proof.Machine.execMoverReadIssue die src errs s
  | .moverCreditReturn die => Sys2Proof.Machine.execMoverCreditReturn die s
  | .updatePacketArrival stack errs => Sys2Proof.Machine.execUpdatePacketArrival stack errs s
  | .healthInletWrite stack => Sys2Proof.Machine.execHealthInletWrite stack s
  | .stackFlagReport stack => Sys2Proof.Machine.execStackFlagReport stack s
  | .verdictArrival => Sys2Proof.Machine.execVerdictArrival s
  | .blockApply group blk errs => Sys2Proof.Machine.execBlockApply group blk errs s
  | .blockDiscard group blk errs => Sys2Proof.Machine.execBlockDiscard group blk errs s
  | .hostMemRead hpa own errs => Sys2Proof.Machine.execHostMemRead hpa own errs s
  | .hostMemWrite hpa data => Sys2Proof.Machine.execHostMemWrite hpa data s
  | .backInvalidateResponse a dirty data => Sys2Proof.Machine.execBackInvalidateResponse a dirty data s
  | .doorbellInvalidation ctx => Sys2Proof.Machine.execDoorbellInvalidation ctx s
  | .doorbellReadReturn ctx line => Sys2Proof.Machine.execDoorbellReadReturn ctx line s
  | .descriptorFetch => Sys2Proof.Machine.execDescriptorFetch s
  | .descriptorBurstReturn ctx descs => Sys2Proof.Machine.execDescriptorBurstReturn ctx descs s
  | .commandDispatch ctx => Sys2Proof.Machine.execCommandDispatch ctx s
  | .completionRecordWrite ctx => Sys2Proof.Machine.execCompletionRecordWrite ctx s
  | .moderationTimerExpiry ctx => Sys2Proof.Machine.execModerationTimerExpiry ctx s
  | .ctxXlate ctx addr => Sys2Proof.Machine.execCtxXlate ctx addr s
  | .hostLink stream => Sys2Proof.Machine.execHostLink stream s
  | .contextDisableComplete ctx => Sys2Proof.Machine.execContextDisableComplete ctx s
  | .loadImage ctx src errs => Sys2Proof.Machine.execLoadImage ctx src errs s
  | .runSteps ctx errs => Sys2Proof.Machine.execRunSteps ctx errs s
  | .serveOpen ctx errs => Sys2Proof.Machine.execServeOpen ctx errs s
  | .serveClose ctx => Sys2Proof.Machine.execServeClose ctx s
  | .serveJoin ctx => Sys2Proof.Machine.execServeJoin ctx s
  | .serveCont ctx => Sys2Proof.Machine.execServeCont ctx s
  | .serveLeave ctx => Sys2Proof.Machine.execServeLeave ctx s
  | .copy ctx => Sys2Proof.Machine.execCopy ctx s
  | .place ctx => Sys2Proof.Machine.execPlace ctx s
  | .objectSpillComplete obj => Sys2Proof.Machine.execObjectSpillComplete obj s
  | .evict ctx => Sys2Proof.Machine.execEvict ctx s
  | .checkpoint ctx => Sys2Proof.Machine.execCheckpoint ctx s
  | .fence ctx => Sys2Proof.Machine.execFence ctx s
  | .fenceComplete ctx => Sys2Proof.Machine.execFenceComplete ctx s
  | .queryDevice ctx => Sys2Proof.Machine.execQueryDevice ctx s
  | .queryTile ctx => Sys2Proof.Machine.execQueryTile ctx s
  | .queryClient ctx => Sys2Proof.Machine.execQueryClient ctx s
  | .queryObject ctx => Sys2Proof.Machine.execQueryObject ctx s
  | .queryTierPool ctx => Sys2Proof.Machine.execQueryTierPool ctx s
  | .queryErrorLog ctx => Sys2Proof.Machine.execQueryErrorLog ctx s
  | .ctxSave ctx errs => Sys2Proof.Machine.execCtxSave ctx errs s
  | .ctxRestore ctx errs => Sys2Proof.Machine.execCtxRestore ctx errs s
  | .frameSubmit ctx => Sys2Proof.Machine.execFrameSubmit ctx s
  | .runFirstStepStart => Sys2Proof.Machine.execRunFirstStepStart s
  | .stepEnd => Sys2Proof.Machine.execStepEnd s
  | .feedEntryFilled fill errs => Sys2Proof.Machine.execFeedEntryFilled fill errs s
  | .checkpointBlockRead group blk errs => Sys2Proof.Machine.execCheckpointBlockRead group blk errs s
  | .checkpointComplete => Sys2Proof.Machine.execCheckpointComplete s
  | .fingerprintComplete => Sys2Proof.Machine.execFingerprintComplete s
  | .recopy blocks => Sys2Proof.Machine.execRecopy blocks s
  | .gatherWindowExpiry => Sys2Proof.Machine.execGatherWindowExpiry s
  | .admissionPoint => Sys2Proof.Machine.execAdmissionPoint s
  | .batchStepEnd => Sys2Proof.Machine.execBatchStepEnd s
  | .sliceExpiry => Sys2Proof.Machine.execSliceExpiry s
  | .preemptionPoint => Sys2Proof.Machine.execPreemptionPoint s
  | .contextSaveComplete errs => Sys2Proof.Machine.execContextSaveComplete errs s
  | .contextRestoreComplete errs => Sys2Proof.Machine.execContextRestoreComplete errs s
  | .preemptLate => Sys2Proof.Machine.execPreemptLate s
  | .barrierSlow scope die => Sys2Proof.Machine.execBarrierSlow scope die s
  | .cdresetClear => Sys2Proof.Machine.execCdresetClear s
  | .linkTrainingComplete port => Sys2Proof.Machine.execLinkTrainingComplete port s
  | .trainingTimeout port => Sys2Proof.Machine.execTrainingTimeout port s
  | .frameReceive port block fix => Sys2Proof.Machine.execFrameReceive port block fix s
  | .nakReceive port => Sys2Proof.Machine.execNakReceive port s
  | .linkRetrain port ok => Sys2Proof.Machine.execLinkRetrain port ok s
  | .linkTrainingRetry port => Sys2Proof.Machine.execLinkTrainingRetry port s
  | .identReceive port => Sys2Proof.Machine.execIdentReceive port s
  | .helloReceive port => Sys2Proof.Machine.execHelloReceive port s
  | .chainFormation => Sys2Proof.Machine.execChainFormation s
  | .chainUpReceive port => Sys2Proof.Machine.execChainUpReceive port s
  | .chainFormDeadline => Sys2Proof.Machine.execChainFormDeadline s
  | .tokenSend => Sys2Proof.Machine.execTokenSend s
  | .tokenReceive cells => Sys2Proof.Machine.execTokenReceive cells s
  | .arriveReceive port => Sys2Proof.Machine.execArriveReceive port s
  | .releaseReceive port => Sys2Proof.Machine.execReleaseReceive port s
  | .chainDownReceive port => Sys2Proof.Machine.execChainDownReceive port s
  | .chainPulseReceive => Sys2Proof.Machine.execChainPulseReceive s
  | .latchPoint out => Sys2Proof.Machine.execLatchPoint out s
  | .firstActivePixel out => Sys2Proof.Machine.execFirstActivePixel out s
  | .lineStart out => Sys2Proof.Machine.execLineStart out s
  | .lineUnderrun out => Sys2Proof.Machine.execLineUnderrun out s
  | .outputStartComplete out res => Sys2Proof.Machine.execOutputStartComplete out res s
  | .hpdLost out => Sys2Proof.Machine.execHpdLost out s
  | .linkLost out => Sys2Proof.Machine.execLinkLost out s
  | .auxNativeWrite out len addr => Sys2Proof.Machine.execAuxNativeWrite out len addr s
  | .auxNativeRead out len addr => Sys2Proof.Machine.execAuxNativeRead out len addr s
  | .auxI2cWrite out len addr => Sys2Proof.Machine.execAuxI2cWrite out len addr s
  | .auxI2cRead out len addr => Sys2Proof.Machine.execAuxI2cRead out len addr s
  | .auxI2cWriteStopWithheld out len addr => Sys2Proof.Machine.execAuxI2cWriteStopWithheld out len addr s
  | .auxI2cReadStopWithheld out len addr => Sys2Proof.Machine.execAuxI2cReadStopWithheld out len addr s
  | .auxReply out ans data0 data1 => Sys2Proof.Machine.execAuxReply out ans data0 data1 s
  | .auxTimeout out => Sys2Proof.Machine.execAuxTimeout out s
  | .vin48Rise decivolt => Sys2Proof.Machine.execVin48Rise decivolt s
  | .strapWindowEnd straps => Sys2Proof.Machine.execStrapWindowEnd straps s
  | .throttleEvaluation tj0 tj1 watts coolFor rate0 rate1 => Sys2Proof.Machine.execThrottleEvaluation tj0 tj1 watts coolFor rate0 rate1 s
  | .blockCommit b crc gen => Sys2Proof.Machine.execBlockCommit b crc gen s
  | .blockCommitHold b crc gen => Sys2Proof.Machine.execBlockCommitHold b crc gen s
  | .globalCommit mask => Sys2Proof.Machine.execGlobalCommit mask s
  | .commitWorkDone b => Sys2Proof.Machine.execCommitWorkDone b s
  | .tilSnap t => Sys2Proof.Machine.execTilSnap t s
  | .tilDbgData0Read t => Sys2Proof.Machine.execTilDbgData0Read t s
  | .sigOpSet t obj value => Sys2Proof.Machine.execSigOpSet t obj value s
  | .sigOpAdd t obj value => Sys2Proof.Machine.execSigOpAdd t obj value s
  | .counterRead off => Sys2Proof.Machine.execCounterRead off s
  | .trgHealthHeadWrite value => Sys2Proof.Machine.execTrgHealthHeadWrite value s
  | .errLogHeadWrite value => Sys2Proof.Machine.execErrLogHeadWrite value s
  | .errAlertClear mask => Sys2Proof.Machine.execErrAlertClear mask s
  | .registerWrite off half value => Sys2Proof.Machine.execRegisterWrite off half value s
  | .getCapabilities ver => Sys2Proof.Machine.execGetCapabilities ver s
  | .negotiateAlgorithms ver ed25519 sha512 secp384r1 aesGcm => Sys2Proof.Machine.execNegotiateAlgorithms ver ed25519 sha512 secp384r1 aesGcm s
  | .getDigests ver => Sys2Proof.Machine.execGetDigests ver s
  | .getCertificate ver slot offset length => Sys2Proof.Machine.execGetCertificate ver slot offset length s
  | .challenge ver slot => Sys2Proof.Machine.execChallenge ver slot s
  | .getMeasurements ver index sign => Sys2Proof.Machine.execGetMeasurements ver index sign s
  | .keyExchange ver slot reqSession => Sys2Proof.Machine.execKeyExchange ver slot reqSession s
  | .finish ver session verify => Sys2Proof.Machine.execFinish ver session verify s
  | .heartbeat ver session => Sys2Proof.Machine.execHeartbeat ver session s
  | .keyUpdate ver session => Sys2Proof.Machine.execKeyUpdate ver session s
  | .endSession ver session => Sys2Proof.Machine.execEndSession ver session s
  | .vendorDefinedRequest ver session stream ideKm => Sys2Proof.Machine.execVendorDefinedRequest ver session stream ideKm s
  | .spdmUnsupportedRequest ver code => Sys2Proof.Machine.execSpdmUnsupportedRequest ver code s
  | .arrayWorkComplete t steps => Sys2Proof.Machine.execArrayWorkComplete t steps s
  | .vchLastGroupComplete t steps errs => Sys2Proof.Machine.execVchLastGroupComplete t steps errs s
  | .rngLastWriteLands t errs => Sys2Proof.Machine.execRngLastWriteLands t errs s
  | .cxlLinkUp flit256 cfg => Sys2Proof.Machine.execCxlLinkUp flit256 cfg s
  | .opverLaneFailure port => Sys2Proof.Machine.execOpverLaneFailure port s
  | .hpdIrqPulse out => Sys2Proof.Machine.execHpdIrqPulse out s
  | .hpdLevelChange out level => Sys2Proof.Machine.execHpdLevelChange out level s
  | .powerGood => Sys2Proof.Machine.execPowerGood s
  | .memoryPhyTrained => Sys2Proof.Machine.execMemoryPhyTrained s
  | .memoryClearComplete => Sys2Proof.Machine.execMemoryClearComplete s
  | .identityKeyReady => Sys2Proof.Machine.execIdentityKeyReady s
  | .deviceReady => Sys2Proof.Machine.execDeviceReady s
  | .vin48Loss => Sys2Proof.Machine.execVin48Loss s
  | .thermalTrip => Sys2Proof.Machine.execThermalTrip s
  | .perstAssert => Sys2Proof.Machine.execPerstAssert s
  | .perstDeassert => Sys2Proof.Machine.execPerstDeassert s
  | .getVersion => Sys2Proof.Machine.execGetVersion s

end Sys2Proof.Machine
end

