-- ==== Sys2Proof/Machine/Tick.lean ====
section
/-! DEFINITION. The passing of time: what 10 ns change when no command waits. DEV_TIME_NS and the counters of time advance by
10 (R13, R247, R257, R283, R302, R420), and every tile of a running compute domain makes some steps of its own, each charged
as R27 to R30 say (R12, R53, R461). Everything else that happens in the device is a command. -/

namespace Sys2Proof.Machine

/-! ## Tile steps -/

/-- The cause that a tile's held steps have while nothing changes, if its steps are held (R27, R29). After END they are held once every
engine has finished and every item has been offered, the last flit perhaps not yet accepted. -/
def State.heldBy (s : State) (t : TileId) (x : Tile) : Option Stall :=
  match x.core.phase with
  | .arrived => some .sync
  | .ended =>
    if x.core.xbegun && x.enginesIdle && decide ((s.offered t 2).length ≤ 1) then
      (if !x.linesBack then some .mem else if !(s.offered t 2).isEmpty || !x.expct.isEmpty then some .xchg else some .sync)
    else none
  | .issue =>
    if x.core.held.isSome then some .sync
    else
      let w := aGet 0 x.imem x.core.pc
      if queueFull x w then none
      else
        match decodeWord t .ok w with
        | some i => holdCause s t x i
        | none => none
  | _ => none

/-- A held WAIT is evaluated at the first step of its tile after the counts changed, and completes in that step when it is satisfied
(R173, R178): the tile, and the steps that are left of `n`. -/
def Tile.waitStep (x : Tile) (n : Nat) : Tile × Nat :=
  match x.core.held with
  | some w => if decide (n ≠ 0) && x.satisfied w.kind w.obj w.n then (x.evalHeld, n - 1) else (x, n)
  | none => (x, n)
/-- `n` steps pass in a tile: its sync port goes on, a held WAIT is evaluated, and the other steps are charged (R27 to R30, R53). -/
def State.tileSteps (s : State) (t : TileId) (n : Nat) : State :=
  let s1 := if n = 0 then s else s.drain t
  let (x, k) := (s1.tile t).waitStep n
  let s2 := s1.setTile t x
  s2.modTile t fun x =>
    let y := match s2.heldBy t x with
      | some c => x.held c k
      | none => x.step k
    y.count fun c => { c with bankConf := c.bankConf + min k (Config.bankDenied s.dev.ticks t.toNat) }

/-- Does the compute domain run? -/
def State.domainRuns (s : State) : Bool := s.pwr.strapped && s.pwr.perst && !s.dev.cdreset
/-- Every tile of a running compute domain makes its steps of the tick. -/
def State.allSteps (s : State) : State :=
  if s.domainRuns then
    (scopeTiles .module false).foldl (fun u t => u.tileSteps t (Config.tallySteps s.dev.ticks t.toNat)) s
  else s

/-! ## Counters of time -/

/-- PWR_THROT_NS: the effective point lies below PWR_VSET (R420). -/
def State.timePower (s : State) : State :=
  if s.effPoint < s.act .pwr 0x100 then { s with pwr := { s.pwr with throtNs := s.pwr.throtNs + 10 } } else s

/-- What a training step's end waits for, after item 2 of R262: reads of blocks only, and not an apply. -/
def State.onlyReads (s : State) (t : Nat) : Bool :=
  s.gro.groups.all fun g =>
    decide (t < g.d) ||
      match g.recs.find? fun r => decide (r.step = t - g.d) with
      | none => false
      | some r => r.complete || ((List.range g.nblk).all fun b => aGet false r.blks b || s.readHolds g b r.step)

/-- FEED_WAIT_NS, CKPT_WAIT_NS and TRG_APPLY_WAIT_NS (R247, R257, R262). -/
def State.timeTraining (s : State) : State :=
  match s.trn.run with
  | none => s
  | some r =>
    match r.phase with
    | .start => if s.running r.ctx && s.atRest.isSome && r.lined && !r.fed then s.setRun { r with feedWait := r.feedWait + 10 } else s
    | .wait => if r.fed || !r.lined then s else s.setRun { r with feedWait := r.feedWait + 10 }
    | .held => s
    | .step =>
      if !s.atClose r || !s.gro.judged then s
      else if s.appliesDone s.trn.tstep then
        (if s.readsDone r s.trn.tstep then s else s.setRun { r with ckptWait := r.ckptWait + 10 })
      else if s.onlyReads s.trn.tstep then s.setRun { r with ckptWait := r.ckptWait + 10 }
      else { s with gro := { s.gro with applyWait := s.gro.applyWait + 10 } }

/-- IDLE_NS and SEQWAIT_NS of a session (R283). -/
def Sess.tick (x : Sess) (run : Bool) : Sess :=
  let inBatch (slot : Nat) : Bool := x.batch.any fun b => b.any fun e => decide (e.slot = slot)
  let unselected := (x.readySeqs.filter fun kv => !inBatch kv.1).length
  { x with
    idleNs := if run && x.batch.isNone && x.readySeqs.isEmpty then x.idleNs + 10 else x.idleNs
    seqwaitNs := x.seqwaitNs + 10 * unselected }
/-- The sessions' counters of time. -/
def State.timeServing (s : State) : State :=
  (List.range 64).foldl (fun u c =>
    match s.session (BitVec.ofNat 6 c) with
    | some x => u.setSession (BitVec.ofNat 6 c) (some (x.tick (s.running (BitVec.ofNat 6 c))))
    | none => u) s

/-- Is client `c` the one that a switch saves, or restores? -/
def State.switching (s : State) (c : Nat) : Bool :=
  match s.sch.phase with
  | .saving => decide (s.sch.client = c)
  | .restoring => decide (s.nextClient = some c)
  | _ => false
/-- RUN_NS, QWAIT_NS and SWITCH_NS of a client, and its virtual time (R296, R302). -/
def State.clientTick (s : State) (c : Nat) (x : Client) : Client :=
  if s.running (BitVec.ofNat 6 c) then
    { x with runNs := x.runNs + 10, vtime := x.vtime + 10 * 2 ^ 16 / s.act .sch (0x200 + 0x40 * c + 8) }
  else
    { x with
      qwaitNs := if s.runnable c then x.qwaitNs + 10 else x.qwaitNs
      switchNs := if s.switching c then x.switchNs + 10 else x.switchNs }
/-- The clients' counters of time; a client that has become runnable is woken first (R296). -/
def State.timeClients (s : State) : State :=
  let s := s.wakeClients
  (List.range 64).foldl (fun u c => u.setClient c (s.clientTick c (s.client c))) s

/-- DEV_TIME_NS advances (R13). -/
def State.timeDevice (s : State) : State := { s with dev := { s.dev with time := s.dev.time + 10 } }
/-- The model's count of ticks. -/
def State.countTick (s : State) : State := { s with dev := { s.dev with ticks := s.dev.ticks + 1 } }

/-- The Opver ports send what only IDLE frames tell: a link sends a frame every 0.68 ns (R341, R343). -/
def State.tellPorts (s : State) : State := (s.modOport false OpvPort.tell).modOport true OpvPort.tell

/-- 10 ns pass. -/
def State.tick (s : State) : State :=
  let s1 := s.allSteps.tellPorts.countTick
  if s.pwr.perst then s1.timePower.timeTraining.timeServing.timeClients.timeDevice else s1

end Sys2Proof.Machine
end

