-- ==== Sys2Proof/WellFormed.lean ====
section
/-! DEFINITION. Well-formed commands: what the operands that the row's fields do not bound by their width must satisfy. A command
that is not well formed stands for no event of the device; nothing is claimed of it. -/

namespace Sys2Proof

/-- Does no number occur twice in a list? -/
def noTwice : List Nat → Bool
  | [] => true
  | a :: l => !(l.any fun b => decide (b = a)) && noTwice l

/-- The rows of a store: 2,560 in W and A, 1,024 in P (R50). -/
def StoreSel.rows : StoreSel → Nat
  | .w => 2560
  | .a => 2560
  | .p => 1024
def StoreSel.num : StoreSel → Nat
  | .w => 0
  | .a => 1
  | .p => 2
/-- A finding names a word of a row that exists (R50, R58). -/
def StoreErr.wf (e : StoreErr) : Bool := decide (e.row < e.store.rows) && decide (e.word < 8)
/-- Findings of one command: each names a word, and no word twice. -/
def storeErrsWf (l : List StoreErr) : Bool :=
  l.all StoreErr.wf && noTwice (l.map fun e => 8 * (4096 * e.store.num + e.row) + e.word)
/-- Findings on the stores of several tiles (R58, R398). -/
def tileErrsWf (l : List (TileId × StoreErr)) : Bool :=
  (l.all fun p => p.2.wf) && noTwice (l.map fun p => 2 ^ 20 * p.1.toNat + 8 * (4096 * p.2.store.num + p.2.row) + p.2.word)
/-- A finding names an aligned word of the device address space (R7, R216). -/
def MemErr.wf (e : MemErr) : Bool := decide (e.addr % 8 = 0) && decide (e.addr < 2 ^ 43)
/-- Findings of one memory command: each names a word, and no word twice. -/
def memErrsWf (l : List MemErr) : Bool := l.all MemErr.wf && noTwice (l.map (·.addr))
/-- A finding names one of a flit's eight payload words or its header (R153, R162). -/
def FlitErr.wf : FlitErr → Bool
  | .corrected w => decide (w ≤ 8)
  | .payload w => decide (w < 8)
  | .header _ => true
/-- Findings on one flit: each names a word, and no word twice. -/
def flitErrsWf (l : List FlitErr) : Bool := l.all FlitErr.wf && noTwice (l.map FlitErr.word)
/-- The address of a line of tier H (R309). -/
def lineWf (a : DevAddr) : Bool := decide (a.toNat % 64 = 0) && decide (a.toNat < 2 ^ 40)
/-- The set-up of a link (R306, R308, R309): two HDM decoders at most, on 256 MiB boundaries, into tier H, of 1 TiB in all, and at most one
MSI-X entry for each of the 65 vectors. -/
def LinkCfg.wf (c : LinkCfg) : Bool :=
  decide (c.hdm.length ≤ 2) && decide ((c.hdm.map (·.size)).sum ≤ 2 ^ 40) && decide (c.msix.length ≤ 65)
    && c.hdm.all fun d => decide (d.base % 2 ^ 28 = 0) && decide (d.tbase % 2 ^ 28 = 0) && decide (d.size % 2 ^ 28 = 0)
      && decide (d.base + d.size ≤ 2 ^ 64) && decide (d.tbase + d.size ≤ 2 ^ 40)
/-- Blocks of a recopy (R277): 512 words each, group and block numbers in range, no block twice. -/
def blocksWf (l : List (Nat × List W64)) : Bool :=
  (l.all fun b => decide (b.1 < 2 ^ 44) && decide (b.2.length = 512)) && noTwice (l.map (·.1))

/-- Is a command well formed? -/
def Instr.wf : Instr → Bool
  | .add _ _ _ _ _ => true
  | .sub _ _ _ _ _ => true
  | .andR _ _ _ _ _ => true
  | .orR _ _ _ _ _ => true
  | .xorR _ _ _ _ _ => true
  | .sll _ _ _ _ _ => true
  | .srl _ _ _ _ _ => true
  | .sra _ _ _ _ _ => true
  | .slt _ _ _ _ _ => true
  | .sltu _ _ _ _ _ => true
  | .mul _ _ _ _ _ => true
  | .mulhu _ _ _ _ _ => true
  | .minR _ _ _ _ _ => true
  | .maxR _ _ _ _ _ => true
  | .popc _ _ _ _ => true
  | .ctz _ _ _ _ => true
  | .addi _ _ _ _ _ => true
  | .andi _ _ _ _ _ => true
  | .ori _ _ _ _ _ => true
  | .xori _ _ _ _ _ => true
  | .slli _ _ _ _ _ => true
  | .srli _ _ _ _ _ => true
  | .srai _ _ _ _ _ => true
  | .slti _ _ _ _ _ => true
  | .sltiu _ _ _ _ _ => true
  | .li _ _ _ _ => true
  | .lih _ _ _ _ _ => true
  | .ext _ _ _ _ _ _ => true
  | .beq _ _ _ _ _ => true
  | .bne _ _ _ _ _ => true
  | .blt _ _ _ _ _ => true
  | .bge _ _ _ _ _ => true
  | .bltu _ _ _ _ _ => true
  | .bgeu _ _ _ _ _ => true
  | .j _ _ _ => true
  | .dbnz _ _ _ _ => true
  | .nop _ _ => true
  | .endC _ _ => true
  | .hset _ _ _ _ => true
  | .hget _ _ _ _ => true
  | .rdtally _ _ _ => true
  | .rdid _ _ _ => true
  | .rdss _ _ _ => true
  | .mmaF4 _ _ _ => true
  | .mmaF8 _ _ _ => true
  | .mmaB16 _ _ _ => true
  | .mmsF4 _ _ _ => true
  | .tokenGrant _ => true
  | .tokenIdleRelease _ => true
  | .mxeOperationStart _ e => storeErrsWf e
  | .initialLoadComplete _ e => storeErrsWf e
  | .drainComplete _ => true
  | .vch _ _ _ => true
  | .ftqRelease _ => true
  | .vlen _ _ _ _ => true
  | .rdxSum _ _ _ => true
  | .rdxSsq _ _ _ => true
  | .rdxMax _ _ _ => true
  | .rdxAmax _ _ _ => true
  | .rduResultWrite _ e => storeErrsWf e
  | .strGet _ _ _ => true
  | .strPut _ _ _ => true
  | .lookaheadPass _ => true
  | .lineLanding _ => true
  | .putRowTake _ e => storeErrsWf e
  | .putLineAccepted _ => true
  | .storePoisonWriteback _ => true
  | .rngBits _ _ _ => true
  | .rngUni _ _ _ => true
  | .rngMask _ _ _ => true
  | .seedset _ _ _ _ => true
  | .seedget _ _ _ _ => true
  | .exchangeBegin _ e => storeErrsWf e
  | .flitRouterArrival _ _ _ e => flitErrsWf e
  | .sumGroupForm _ _ e => decide (e.length ≤ 4) && e.all flitErrsWf
  | .exchangeFlitWrite _ => true
  | .barrierArrival _ => true
  | .barrierRelease _ _ => true
  | .sigSignal _ _ _ _ _ => true
  | .sigPut _ _ _ e => storeErrsWf e
  | .sigPuth _ _ _ e => storeErrsWf e
  | .waitConsume _ _ _ => true
  | .waitPeek _ _ _ => true
  | .waitGe _ _ _ => true
  | .signalArrival _ => true
  | .putDataArrival _ => true
  | .send _ _ _ e => storeErrsWf e
  | .asend _ _ _ e => storeErrsWf e
  | .cadd _ _ _ e => storeErrsWf e
  | .recv _ _ _ _ _ => true
  | .poll _ _ => true
  | .hret _ _ => true
  | .reservationArrival _ => true
  | .reservationAnswer _ => true
  | .busyRetry _ => true
  | .queueSpillStart _ _ => true
  | .messageFlitArrival _ => true
  | .ringRefill _ _ e => memErrsWf e
  | .contributionArrival _ => true
  | .combinedResultPlace _ _ => true
  | .handlerEntry _ => true
  | .memoryRequestArrival _ e => memErrsWf e
  | .tierReadResponse _ e _ => memErrsWf e
  | .blockFetchComplete _ e _ => memErrsWf e
  | .blockWriteDownComplete _ e _ => memErrsWf e
  | .correctedWordWriteback _ => true
  | .poisonWriteback _ => true
  | .hbmRefresh _ => true
  | .refreshManagement _ => true
  | .grottoRefresh _ => true
  | .patrolScrubRead a _ => decide (a.toNat < 2 ^ 40) && decide (a.toNat % 8 = 0)
  | .uioCompletion _ _ _ => true
  | .uioTimeout _ _ => true
  | .moverReadIssue _ l e => (l.isEmpty || decide (l.length = 32)) && memErrsWf e
  | .moverCreditReturn _ => true
  | .updatePacketArrival _ e => memErrsWf e
  | .healthInletWrite _ => true
  | .stackFlagReport _ => true
  | .verdictArrival => true
  | .blockApply _ _ e => memErrsWf e
  | .blockDiscard _ _ e => memErrsWf e
  | .hostMemRead h _ e => decide (h.toNat % 64 = 0) && memErrsWf e
  | .hostMemWrite h d => decide (h.toNat % 64 = 0) && decide (d.length = 8)
  | .backInvalidateResponse a m d => lineWf a && decide (d.length = if m then 8 else 0)
  | .doorbellInvalidation _ => true
  | .doorbellReadReturn _ l => decide (l.length = 8)
  | .descriptorFetch => true
  | .descriptorBurstReturn _ l => decide (l.length ≤ 16) && l.all fun d => decide (d.length = 8)
  | .commandDispatch _ => true
  | .completionRecordWrite _ => true
  | .moderationTimerExpiry _ => true
  | .ctxXlate _ _ => true
  | .hostLink _ => true
  | .contextDisableComplete _ => true
  | .loadImage _ _ e => memErrsWf e
  | .runSteps _ e => memErrsWf e
  | .serveOpen _ e => memErrsWf e
  | .serveClose _ => true
  | .serveJoin _ => true
  | .serveCont _ => true
  | .serveLeave _ => true
  | .copy _ => true
  | .place _ => true
  | .objectSpillComplete _ => true
  | .evict _ => true
  | .checkpoint _ => true
  | .fence _ => true
  | .fenceComplete _ => true
  | .queryDevice _ => true
  | .queryTile _ => true
  | .queryClient _ => true
  | .queryObject _ => true
  | .queryTierPool _ => true
  | .queryErrorLog _ => true
  | .ctxSave _ e => tileErrsWf e
  | .ctxRestore _ e => memErrsWf e
  | .frameSubmit _ => true
  | .runFirstStepStart => true
  | .stepEnd => true
  | .feedEntryFilled _ e => memErrsWf e
  | .checkpointBlockRead _ _ e => memErrsWf e
  | .checkpointComplete => true
  | .fingerprintComplete => true
  | .recopy l => blocksWf l
  | .gatherWindowExpiry => true
  | .admissionPoint => true
  | .batchStepEnd => true
  | .sliceExpiry => true
  | .preemptionPoint => true
  | .contextSaveComplete e => tileErrsWf e
  | .contextRestoreComplete e => memErrsWf e
  | .preemptLate => true
  | .barrierSlow _ _ => true
  | .cdresetClear => true
  | .linkTrainingComplete _ => true
  | .trainingTimeout _ => true
  | .frameReceive _ b fix =>
    decide (b.length = 272) && fix.all (fun p => decide (p.1 < 272)) && noTwice (fix.map (·.1))
      && decide ((fix.filter fun p => decide (p.1 % 2 = 0)).length ≤ 4) && decide ((fix.filter fun p => decide (p.1 % 2 = 1)).length ≤ 4)
  | .nakReceive _ => true
  | .linkRetrain _ _ => true
  | .linkTrainingRetry _ => true
  | .identReceive _ => true
  | .helloReceive _ => true
  | .chainFormation => true
  | .chainUpReceive _ => true
  | .chainFormDeadline => true
  | .tokenSend => true
  | .tokenReceive c => decide (c.length = 8)
  | .arriveReceive _ => true
  | .releaseReceive _ => true
  | .chainDownReceive _ => true
  | .chainPulseReceive => true
  | .latchPoint _ => true
  | .firstActivePixel _ => true
  | .lineStart _ => true
  | .lineUnderrun _ => true
  | .outputStartComplete _ _ => true
  | .hpdLost _ => true
  | .linkLost _ => true
  | .auxNativeWrite _ _ _ => true
  | .auxNativeRead _ _ _ => true
  | .auxI2cWrite _ _ _ => true
  | .auxI2cRead _ _ _ => true
  | .auxI2cWriteStopWithheld _ _ _ => true
  | .auxI2cReadStopWithheld _ _ _ => true
  | .auxReply _ _ _ _ => true
  | .auxTimeout _ => true
  | .vin48Rise _ => true
  | .powerGood => true
  | .strapWindowEnd _ => true
  | .memoryPhyTrained => true
  | .memoryClearComplete => true
  | .identityKeyReady => true
  | .deviceReady => true
  | .vin48Loss => true
  | .thermalTrip => true
  | .throttleEvaluation a b w _ r q =>
    decide (a.natAbs < 2 ^ 15) && decide (b.natAbs < 2 ^ 15) && decide (w < 2 ^ 11) && decide (r < 2 ^ 16) && decide (q < 2 ^ 16)
  | .perstAssert => true
  | .perstDeassert => true
  | .blockCommit _ _ _ => true
  | .blockCommitHold _ _ _ => true
  | .globalCommit _ => true
  | .commitWorkDone _ => true
  | .tilSnap _ => true
  | .tilDbgData0Read _ => true
  | .sigOpSet _ _ _ => true
  | .sigOpAdd _ _ _ => true
  | .counterRead off => decide (off.toNat % 16 = 0)
  | .trgHealthHeadWrite _ => true
  | .errLogHeadWrite _ => true
  | .errAlertClear _ => true
  | .registerWrite off _ _ => decide (off.toNat % 8 = 0)
  | .getVersion => true
  | .getCapabilities _ => true
  | .negotiateAlgorithms _ _ _ _ _ => true
  | .getDigests _ => true
  | .getCertificate _ _ _ _ => true
  | .challenge _ _ => true
  | .getMeasurements _ _ _ => true
  | .keyExchange _ _ _ => true
  | .finish _ _ _ => true
  | .heartbeat _ _ => true
  | .keyUpdate _ _ => true
  | .endSession _ _ => true
  | .vendorDefinedRequest _ _ _ _ => true
  | .spdmUnsupportedRequest _ _ => true
  | .arrayWorkComplete _ n => decide (1 ≤ n)
  | .vchLastGroupComplete _ n e => decide (1 ≤ n) && storeErrsWf e
  | .rngLastWriteLands _ e => storeErrsWf e
  | .cxlLinkUp _ c => c.wf
  | .opverLaneFailure _ => true
  | .hpdIrqPulse _ => true
  | .hpdLevelChange _ _ => true

end Sys2Proof
end

