-- ==== Sys2Proof/Safety.lean ====
section
/-! DEFINITION. The terms that claims use: that a command completes, what an issue stage must find for an instruction to issue
(R40, R93, R94, R97), what may change and what may not, and the machine's invariants. -/

namespace Sys2Proof.Machine

/-- Command `c` runs in state `s` to a next state with property `P`. -/
def Completes (c : Instr) (s : State) (P : State → Prop) : Prop := ∃ s', exec c s = .next s' ∧ P s'

/-- The state after commands `cs`, one after the other, where each runs to a next state. -/
def runs : List Instr → State → Option State
  | [], s => some s
  | c :: cs, s => match exec c s with
    | .next s' => runs cs s'
    | _ => none

/-- Tile `t` is the only part of the state that differs. -/
def OnlyTile (t : TileId) (s s' : State) : Prop := ∃ x, s' = s.setTile t x

/-- What the issue stage must find for command `i` of tile `t` to issue (R40): the core issues, its word decodes to `i` (R93)
and no uncorrectable error was found in it (R94), a branch stays in the instruction store (R97), the engine's queue has
room (R38), and neither a cause of R29 nor a pending scalar write holds it. -/
structure Ready (s : State) (t : TileId) (e : Ecc) (i : Instr) : Prop where
  issuing : (s.tile t).core.phase = .issue
  running : s.dev.cdreset = false
  inside : (s.tile t).core.pc ≤ 6143
  sound : ∀ syn, e ≠ .ue syn
  word : decodeWord t e (aGet 0 (s.tile t).imem (s.tile t).core.pc) = some i
  target : badTarget (s.tile t).core.pc i = false
  room : queueFull (s.tile t) (aGet 0 (s.tile t).imem (s.tile t).core.pc) = false
  unheld : holdCause s t (s.tile t) i = none
  settled : scalarPending (s.tile t) i = false

/-- The core of `x` has gone on to word `pc'` in `n` steps as `x'`, which the tally and the busy counters count (R12, R138), with
`rd` written where one is named (a write of s0 is discarded, R36); every other scalar register, and all else of the tile but its
look-ahead state, is as before. -/
def CoreWent (x x' : Tile) (pc' n : Nat) (d : Option (Reg × W64)) : Prop :=
  x'.core.pc = pc' ∧ x'.core.fixed = false ∧ x'.ctr = x.stepCtr n ∧
  (∀ r, x'.reg r = match d with
    | some (rd, v) => if r = rd ∧ r ≠ 0 then v else x.reg r
    | none => x.reg r) ∧
  x' = { x with core := { x.core with pc := x'.core.pc, regs := x'.core.regs, fixed := false }, str := x'.str, ctr := x'.ctr } ∧
  x'.str = { x.str with la := x'.str.la, path := x'.str.path, ents := x'.str.ents } ∧
  (∀ en ∈ x.str.ents, en.seq ≠ none → en ∈ x'.str.ents)

/-- Instruction `i` of tile `t` issues and completes in the core, in `n` steps. -/
def CoreStep (s : State) (t : TileId) (e : Ecc) (i : Instr) (pc' n : Nat) (d : Option (Reg × W64)) : Prop :=
  Completes i s fun s' => ∃ x', s' = (s.issueEcc t e).setTile t x' ∧ CoreWent ((s.issueEcc t e).tile t) x' pc' n d

/-- The counters count one step of `x` (R12, R138), and nothing else of them changes. -/
def StepCounted (x x' : Tile) : Prop := x'.ctr = x.stepCtr 1

/-- An engine's instruction has issued in tile `x` as `x'`: the core goes on with the next word in one step; scalar registers,
stores, the handle table and every signal object are as before (R38, R39). -/
def EngineIssued (x x' : Tile) : Prop :=
  x'.core = { x.core with pc := x.core.pc + 1, pend := x'.core.pend, fixed := false } ∧ StepCounted x x' ∧
  x'.imem = x.imem ∧ x'.w = x.w ∧ x'.a = x.a ∧ x'.p = x.p ∧ x'.htab = x.htab ∧ x'.bel = x.bel ∧ x'.mask = x.mask

/-- Instruction `i` of tile `t` issues to an engine with effect `P` on the tile (from, and as it becomes). -/
def IssuesWith (s : State) (t : TileId) (e : Ecc) (i : Instr) (P : Tile → Tile → Prop) : Prop :=
  Completes i s fun s' =>
    ∃ x', s' = (s.issueEcc t e).setTile t x' ∧ EngineIssued ((s.issueEcc t e).tile t) x' ∧ P ((s.issueEcc t e).tile t) x'

/-- The three stores, their marks and their access records are as before. -/
def StoresKept (x x' : Tile) : Prop := x'.w = x.w ∧ x'.a = x.a ∧ x'.p = x.p ∧ x'.ue = x.ue

/-- Bytes of memory outside `n` bytes from `lo` are as before; and so are the poison marks of their words. -/
def BytesKept (s s' : State) (lo n : Nat) : Prop := ∀ a, a < lo ∨ lo + n ≤ a → s'.mem.byte a = s.mem.byte a
def WordsKept (s s' : State) (lo n : Nat) : Prop :=
  ∀ a, a < lo ∨ lo + n ≤ a → s'.mem.byte a = s.mem.byte a ∧ aGet false s'.mem.poison (a / 8) = aGet false s.mem.poison (a / 8)

/-- Slice `sl` offers, after what waits at its port on VC3, flits with payloads `ps` in order, each of KIND 3 with RKIND `rkind`, to
the requester of `r` and under its tag (R227, R228). -/
def Responds (s s' : State) (sl : SliceId) (r : LineReq) (rkind : Nat) (ps : List (List PWord)) : Prop :=
  ∃ fls, s'.link (linkKey (sliceRouter sl) (sliceSide sl) 3) = s.link (linkKey (sliceRouter sl) (sliceSide sl) 3) ++ fls ∧
    fls.map (·.pay) = ps ∧ ∀ f ∈ fls, (hdrOf f.hdr).kind = 3 ∧ (hdrOf f.hdr).dest = r.req ∧ (hdrOf f.hdr).edge = r.edge ∧
      (hdrOf f.hdr).slot = r.tag % 64 ∧ (hdrOf f.hdr).dh = 8 * rkind

/-- Neither a line of the host nor an access that waits at its home stands in the way of reading the ranges `rd` and writing the ranges
`wr` (R204, R205, R310). -/
def HomesFree (s : State) (rd wr : List (Nat × Nat)) : Prop :=
  (∀ r ∈ rd, s.snoopNeed r.1 r.2 false = []) ∧ (∀ r ∈ wr, s.snoopNeed r.1 r.2 true = []) ∧ s.homeBusy rd wr = false
/-- The sync port of a tile has nothing to do before a new instruction, or what it waits for is not there (R191). -/
def SyncWaits (s : State) (t : TileId) : Prop := (s.tile t).bel.syncq = [] ∨ s.syncStep t = none

/-- The host has been sent what it has been sent in `u`, and the same vectors are pending (R306, R336). -/
def SentAs (s' u : State) : Prop := s'.host.out = u.host.out ∧ s'.host.pba = u.host.pba

/-- No finding on a word of the line at `a` is uncorrectable. -/
def NoUe (errs : List MemErr) (a : Nat) : Prop :=
  ∀ e ∈ errs, a ≤ e.addr → e.addr < a + 256 → ∀ syn, e.ecc ≠ .ue syn

/-- Command `c` completes with `status` and `result` (R323, R326, R330): its record is the last that waits on its context's ring,
or, with NOCQ and status OK, it is no longer in flight. Where the spec states no result for the status, none is claimed. -/
def Posts (s s' : State) (c : Cmd) (status : Nat) (result : W64) : Prop :=
  if c.nocq = true ∧ status = 0 then s'.cmd? c.id = none
  else ∃ r, (s'.ctx c.ctx).recs = (s.ctx c.ctx).recs ++ [r] ∧ r.tag = c.tag ∧ r.status = BitVec.ofNat 16 status ∧
    r.opc = BitVec.ofNat 8 c.opc ∧ r.irq = c.irq ∧ r.cmd = some c.id ∧ (openResult c.opc status = false → r.result = result)

/-- Each of the submissions `l` that is in flight has completed with `status` and `result`: its record waits behind those that waited. -/
def Ended (s s' : State) (l : List Submit) (status : Nat) (result : W64) : Prop :=
  ∀ p ∈ l, ∀ c, s.cmd? p.cmd = some c → ∃ new r, (s'.ctx c.ctx).recs = (s.ctx c.ctx).recs ++ new ∧ r ∈ new ∧ r.cmd = some c.id ∧
    r.tag = c.tag ∧ r.status = BitVec.ofNat 16 status ∧ (openResult c.opc status = false → r.result = result)

/-- The output has failed (R371, R372, R384): it is OFF with a cause, without a buffer, its submissions have ended with LAN_OFF, its
frame count is kept and the alert is set; the tiles and memory are as before. -/
def LanDark (s s' : State) (n : Bool) (cause : Nat) : Prop :=
  (s'.lan n).st = .off ∧ (s'.lan n).cause = BitVec.ofNat 8 cause ∧ (s'.lan n).cur = none ∧ (s'.lan n).pend = [] ∧
    (s'.lan n).frame = (s.lan n).frame ∧ Ended s s' ((s.lan n).latched.toList.map (·.1) ++ (s.lan n).pend) 0x64 0 ∧
    s'.err.alert.getLsbD 4 = true ∧ s'.lan (!n) = s.lan (!n) ∧ s'.tiles = s.tiles ∧ s'.mem = s.mem

/-- No flit waits at the four edge rows of an output. -/
def LanQuiet (s : State) (n : Bool) : Prop := ∀ row ∈ [16, 17, 18, 19], s.edgeQ (edgeKey (mkTile n row 0) .edgeW 0) = []

/-- Lines of the range `[a, a + n)` that a service writes as it is told: in a tier, in no sealed object and no update block or inlet
(R8, R240, R396). -/
def PlainRange (s : State) (a n : Nat) : Prop :=
  ∀ x, a ≤ x → x < a + n → s.tierOf (x - x % 256) ≠ .none ∧ s.sealedAt (x - x % 256) = false ∧ s.updAt (x - x % 256) = .none

/-! ## Invariants -/

/-- The tiers' memory in its canonical form: addresses strictly rising, no byte listed that an unlisted address reads as. -/
def Mem.wf (m : Mem) : Bool := aWf 0 m.bytes && aWf false m.poison
/-- No tile's stall counters exceed its tally (R30). -/
def State.tallied (s : State) : Prop := ∀ kx ∈ s.tiles, kx.2.ctr.stalls ≤ kx.2.ctr.tally

/-- The tables of the state are in canonical form (no key twice, no entry equal to what an unlisted key reads as), and every undefined
bit of a shadow register is zero (R422, R426). -/
structure Inv (s : State) : Prop where
  mem : s.mem.wf = true
  tiles : aWf Tile.empty s.tiles = true
  shadow : aWf none s.regs.shadow = true
  active : aWf none s.regs.active = true
  reserved : ∀ b o m, o < 0x10000 → rwcMask b o = some m → s.regs.shadowAt b o &&& ~~~(BitVec.ofNat 64 m) = 0#64

/-- A fault of tile `t` has been raised (R458): the compute-domain reset holds, the fault is counted and signalled, its entry names
the tile and has `d0`, where the log has room; and the tiles have stopped, where no reset held before. -/
def FaultRaised (s s' : State) (t : TileId) (code d0 : Nat) : Prop :=
  s'.dev.cdreset = true ∧ s'.err.faults = s.err.faults + 1 ∧ s'.err.alert.getLsbD 0 = true ∧ (s'.tile t).core.faulted = true ∧
    (s.dev.cdreset = false → ∀ u, s'.tile u = { Tile.empty with core := { Tile.empty.core with faulted := decide (u = t) } }) ∧
    ((s.err.tail + 1) % 512 ≠ s.err.head → ∃ e, aGet none s'.err.log s.err.tail = some e ∧ e.code = BitVec.ofNat 16 code ∧
      e.lkind = 0 ∧ e.loc = BitVec.ofNat 32 (s.gta t).toNat ∧ e.d0 = BitVec.ofNat 64 d0)

end Sys2Proof.Machine
end

