-- ==== Sys2Proof/Certificates/Slice0/Obligations.lean ====
section
/-! DEFINITION. The statements for the provers. Each docstring names the rules of spec/ that the statement formalises or rests on. -/

open Sys2Proof Sys2Proof.Machine

/-- For each SCA instruction, in every state where it may issue: it completes; RD takes the value R96 gives of the two source registers as they stand at issue; a write of s0 is discarded; the next word follows after one tally step; no other register and nothing else of the device changes. For each SCI instruction, in every state where it may issue: it completes; RD takes the value R96 gives of the source register and the immediate (sign-extended from 42 bits, or a shift amount, or the fields of LIH and EXT); the next word follows after one tally step; nothing else changes. (R36, R96, R95) -/
def Obligations.ScalarArithmeticResults : Prop :=
  (∀ (s : State) (t : TileId) (e : Ecc) (rd ra rb : Reg) (i : Instr) (v : W64 → W64 → W64),
    (i, v) ∈
      [ (Instr.add t e rd ra rb, fun (a b : W64) => a + b), (.sub t e rd ra rb, fun (a b : W64) => a - b), (.andR t e rd ra rb, fun (a b : W64) => a &&& b)
      , (.orR t e rd ra rb, fun (a b : W64) => a ||| b), (.xorR t e rd ra rb, fun (a b : W64) => a ^^^ b)
      , (.sll t e rd ra rb, fun (a b : W64) => a <<< (b.toNat % 64)), (.srl t e rd ra rb, fun (a b : W64) => a >>> (b.toNat % 64))
      , (.sra t e rd ra rb, fun (a b : W64) => a.sshiftRight (b.toNat % 64))
      , (.slt t e rd ra rb, fun (a b : W64) => if a.toInt < b.toInt then 1 else 0)
      , (.sltu t e rd ra rb, fun (a b : W64) => if a.toNat < b.toNat then 1 else 0), (.mul t e rd ra rb, fun (a b : W64) => a * b)
      , (.mulhu t e rd ra rb, fun (a b : W64) => BitVec.ofNat 64 (a.toNat * b.toNat / 2 ^ 64))
      , (.minR t e rd ra rb, fun (a b : W64) => if a.toInt < b.toInt then a else b)
      , (.maxR t e rd ra rb, fun (a b : W64) => if a.toInt < b.toInt then b else a)
      , (.popc t e rd ra, fun (a _ : W64) => BitVec.ofNat 64 ((List.range 64).countP fun k => a.getLsbD k))
      , (.ctz t e rd ra, fun (a _ : W64) => BitVec.ofNat 64 (((List.range 64).find? fun k => a.getLsbD k).getD 64)) ] →
    Ready s t e i →
    CoreStep s t e i ((s.tile t).core.pc + 1) 1 (some (rd, v ((s.tile t).reg ra) ((s.tile t).reg rb)))) ∧
  (∀ (s : State) (t : TileId) (e : Ecc) (rd ra : Reg) (imm : BitVec 42) (sh lo len : BitVec 6) (top : BitVec 22) (i : Instr) (v : W64 → W64),
    (i, v) ∈
      [ (Instr.addi t e rd ra imm, fun (a : W64) => a + imm.signExtend 64), (.andi t e rd ra imm, fun (a : W64) => a &&& imm.signExtend 64)
      , (.ori t e rd ra imm, fun (a : W64) => a ||| imm.signExtend 64), (.xori t e rd ra imm, fun (a : W64) => a ^^^ imm.signExtend 64)
      , (.slti t e rd ra imm, fun (a : W64) => if a.toInt < imm.toInt then 1 else 0)
      , (.sltiu t e rd ra imm, fun (a : W64) => if a.toNat < (imm.signExtend 64).toNat then 1 else 0)
      , (.slli t e rd ra sh, fun (a : W64) => a <<< sh.toNat), (.srli t e rd ra sh, fun (a : W64) => a >>> sh.toNat)
      , (.srai t e rd ra sh, fun (a : W64) => a.sshiftRight sh.toNat), (.li t e rd imm, fun (_ : W64) => imm.signExtend 64)
      , (.lih t e rd ra top, fun (a : W64) => BitVec.ofNat 64 (top.toNat * 2 ^ 42 + a.toNat % 2 ^ 42))
      , (.ext t e rd ra lo len, fun (a : W64) => BitVec.ofNat 64 (a.toNat / 2 ^ lo.toNat % 2 ^ (len.toNat + 1))) ] →
    Ready s t e i → CoreStep s t e i ((s.tile t).core.pc + 1) 1 (some (rd, v ((s.tile t).reg ra))))

/-- For each branch, in every state where it may issue: when its condition holds the core goes on at the word OFF words from the branch after 2 tally steps, else at the next word after 1; no register changes, but that DBNZ first subtracts 1 from its register (s0 stays zero) and branches when the register then reads nonzero. (R96, R97) -/
def Obligations.BranchResults : Prop :=
  ∀ (s : State) (t : TileId) (e : Ecc) (ra rb : Reg) (off : W16) (i : Instr) (c : Bool) (d : Option (Reg × W64)),
    let a := (s.tile t).reg ra
    let b := (s.tile t).reg rb
    (i, c, d) ∈
      [ (Instr.beq t e ra rb off, decide (a = b), none), (.bne t e ra rb off, decide (a ≠ b), none)
      , (.blt t e ra rb off, decide (a.toInt < b.toInt), none), (.bge t e ra rb off, decide (b.toInt ≤ a.toInt), none)
      , (.bltu t e ra rb off, decide (a.toNat < b.toNat), none), (.bgeu t e ra rb off, decide (b.toNat ≤ a.toNat), none)
      , (.j t e off, true, none), (.dbnz t e ra off, decide (ra ≠ 0 ∧ a ≠ 1), some (ra, a - 1)) ] →
    Ready s t e i →
    CoreStep s t e i (if c then ((s.tile t).core.pc + off.toInt).toNat else (s.tile t).core.pc + 1) (if c then 2 else 1) d

/-- In every state where it may issue: NOP changes nothing but the word and the tally; HGET, RDTALLY, RDID and RDSS write the handle-table entry, the tally, the global tile address and the count of releases to RD; END outside a handler leaves the core in the ended phase, its registers, stores and handle table as before; HSET of an entry that R61 allows writes it with bits [13:0] zero and leaves every other entry. (R59, R61, R96, R98) -/
def Obligations.ControlResults : Prop :=
  ∀ (s : State) (t : TileId) (e : Ecc) (r : Reg) (h : Hdl),
    let x := (s.issueEcc t e).tile t
    let n := (s.tile t).core.pc + 1
    (Ready s t e (.nop t e) → CoreStep s t e (.nop t e) n 1 none) ∧
    (Ready s t e (.hget t e r h) → CoreStep s t e (.hget t e r h) n 1 (some (r, x.hword h))) ∧
    (Ready s t e (.rdtally t e r) → CoreStep s t e (.rdtally t e r) n 1 (some (r, BitVec.ofNat 64 x.ctr.tally))) ∧
    (Ready s t e (.rdid t e r) → CoreStep s t e (.rdid t e r) n 1 (some (r, BitVec.ofNat 64 (s.dev.addr.toNat * 2 ^ 11 + t.toNat)))) ∧
    (Ready s t e (.rdss t e r) → CoreStep s t e (.rdss t e r) n 1 (some (r, BitVec.ofNat 64 x.core.ss))) ∧
    (Ready s t e (.endC t e) → x.core.hnd = none → Completes (.endC t e) s fun s' => ∃ x', s' = (s.issueEcc t e).setTile t x' ∧
      x'.core = { x.core with pc := n, phase := .ended, fixed := false } ∧ StoresKept x x' ∧ x'.htab = x.htab ∧ x'.bel = x.bel) ∧
    (Ready s t e (.hset t e r h) → (hdOf (x.reg r)).legal x.mask = true → Completes (.hset t e r h) s fun s' =>
      ∃ x', s' = (s.issueEcc t e).setTile t x' ∧ x'.core = { x.core with pc := n, fixed := false } ∧ StoresKept x x' ∧
        x'.hword h = BitVec.ofNat 64 ((x.reg r).toNat / 2 ^ 14 * 2 ^ 14) ∧ (∀ k, k ≠ h → x'.hword k = x.hword k))

/-- When the next instruction of a tile is held by a cause of R29, its command completes: after the two steps of STALL_ECC that a newly corrected word takes first, the tally and the busy counters count one step and the stall counter of that cause grows by 1, no other stall counter changes, no register or store changes, and the only other effect on tiles, memory, network, registers or token pools is the request for a heavy-unit token of a matrix instruction that has none (R66). When the word at a tile that issues is illegal, was read without an uncorrectable error and its engine's queue has room, any tile instruction command for the tile raises ILLEGAL_INSTR (0x8001): the error log gets the entry with the tile as place, the word address in D0 and the word in D1 unless it is full, and the compute-domain reset begins. (Rests in part on the model's readings in log entries 14 and 27.) (R27, R29, R39, R66, R93, R94, R458) -/
def Obligations.HeldStepsAndIllegalWords : Prop :=
  (∀ (s u : State) (t : TileId) (e : Ecc) (dep : Bool) (i : Instr) (w : W64) (k : Stall),
    encodeWord dep i = some (t, e, w) → issueCheck s t e i = .stall k → u = s.issueEcc t e →
    (((s.tile t).core.fixed = true ∨ ∀ syn, e ≠ .ce syn) → u = s) ∧
    (∀ syn, e = .ce syn → (s.tile t).core.fixed = false →
      (u.tile t).ctr = TCtr.charge ((s.tile t).stepCtr 2) .ecc 2 ∧ (u.tile t).core = { (s.tile t).core with fixed := true } ∧
      u.err.ce = s.err.ce + 1 ∧ (∀ v, v ≠ t → u.tile v = s.tile v)) ∧
    Completes i s fun s' =>
      (s'.tile t).ctr = TCtr.charge ((u.tile t).stepCtr 1) k 1 ∧
      (s'.tile t).core = (u.tile t).core ∧ StoresKept (s.tile t) (s'.tile t) ∧ (s'.tile t).bel = (s.tile t).bel ∧
      (∀ v, v ≠ t → s'.tile v = s.tile v) ∧ s'.mem = s.mem ∧ s'.net = s.net ∧ s'.err = u.err ∧ s'.regs = s.regs ∧
      (mmaOf i = none → s'.pool0 = s.pool0 ∧ s'.pool1 = s.pool1 ∧ (s'.tile t).mxe = (s.tile t).mxe) ∧
      ((mmaOf i).isSome = true → (s'.tile t).mxe.requested = true ∨ (s.tile t).mxe.token = true)) ∧
  (∀ (s : State) (t : TileId) (e : Ecc) (dep : Bool) (i : Instr) (v w : W64),
    encodeWord dep i = some (t, e, v) → (s.tile t).core.phase = .issue → s.dev.cdreset = false → (s.tile t).core.pc ≤ 6143 →
    (∀ syn, e ≠ .ue syn) → w = aGet 0 (s.tile t).imem (s.tile t).core.pc → queueFull (s.tile t) w = false → decodeWord t e w = none →
    Completes i s fun s' =>
      FaultRaised (s.issueEcc t e) s' t 0x8001 (s.tile t).core.pc ∧
      s' = (s.issueEcc t e).raiseTile t 0x8001 (s.tile t).core.pc w.toNat)

/-- In every state where a matrix instruction may issue and the checks of R103 pass: it completes; one operation with the values of its registers and handle entries at issue is added at the end of the MXE queue; the accumulators alternate; nothing is computed yet: stores, scalar registers and both accumulator blocks are as before. (R38, R99, R103) -/
def Obligations.MatrixInstructionsIssue : Prop :=
  ∀ (s : State) (t : TileId) (e : Ecc) (f : MmaF) (i : Instr) (k : MmaKind),
    (i, k) ∈ [(Instr.mmaF4 t e f, MmaKind.f4), (.mmaF8 t e f, .f8), (.mmaB16 t e f, .b16), (.mmsF4 t e f, .s4)] →
    Ready s t e i → mmaCheck (s.tile t).mask (mmaOp ((s.issueEcc t e).tile t) k f) = none →
    IssuesWith s t e i fun x x' =>
      (∃ o, x'.mxe.ops = x.mxe.ops ++ [o] ∧ o.kind = k ∧ o.f = f ∧ o.acc = x.mxe.nextAcc ∧ o.stage = .queued ∧
        o.hA = x.hword f.ha ∧ o.hW = x.hword f.hw ∧ o.hA1 = x.hword (f.ha + 1) ∧ o.hW1 = x.hword (f.hw + 1) ∧
        o.aoff = (x.reg f.sx).toNat % 2 ^ 16 ∧ o.woff = (x.reg f.sx).toNat / 2 ^ 16 % 2 ^ 16 ∧
        o.mv = (if f.rte then min ((x.reg f.sx).toNat / 2 ^ 32 % 128) 64 else 64) ∧
        o.msk = (if f.bsk then x.reg f.sm else BitVec.allOnes 64)) ∧
      x'.mxe.nextAcc = !x.mxe.nextAcc ∧ x'.mxe.acc0 = x.mxe.acc0 ∧ x'.mxe.acc1 = x.mxe.acc1 ∧ x'.ftq = x.ftq

/-- When a die has fewer tokens held than its pool and a tile waits, TOKEN_GRANT gives the token to the tile at the head of the list and takes it off the list, and the 32 idle steps of the tile count from then; when an MXE that holds a token has been idle for at least 32 tally steps, TOKEN_IDLE_RELEASE takes it away; nothing else of the device changes by either. A grant never lets the tokens held on a die exceed its pool. (That the idle steps count from the grant is the model's choice, log entry 118.) (R65, R66, R67) -/
def Obligations.HeavyUnitTokens : Prop :=
  (∀ (s : State) (die : Bool) (t : TileId) (ts : List TileId),
    (s.pool die).wait = t :: ts → s.tokensHeld die < (s.pool die).size →
    exec (.tokenGrant die) s = .next ((s.setPool die { s.pool die with wait := ts }).setTile t
      { s.tile t with mxe := { (s.tile t).mxe with token := true, requested := false, idleFrom := (s.tile t).ctr.tally } })) ∧
  (∀ (s : State) (t : TileId), (s.tile t).mxe.token = true → (s.tile t).mxe.ops = [] →
    (s.tile t).mxe.idleFrom + 32 ≤ (s.tile t).ctr.tally →
    exec (.tokenIdleRelease t) s = .next (s.setTile t { s.tile t with mxe := { (s.tile t).mxe with token := false } })) ∧
  (∀ (s s' : State) (die : Bool), s.tokensHeld die ≤ (s.pool die).size → exec (.tokenGrant die) s = .next s' →
    s'.tokensHeld die ≤ (s'.pool die).size)

/-- When an operation may be loaded, started, finished or drained (R113, R55), the command completes: the load puts the slot into the accumulator; the start forms every cell of the block by the model of R104; the end of array work, once MXE_BUSY has counted the steps named and no fewer than the occupancy, lets the drain begin; the drain writes the block to the slot cell by cell, counts one POISON_IN if a cell is poisoned, pushes the slot on the FTQ under FINISH, and removes the operation. (R104, R107, R108, R112, R113, R138) -/
def Obligations.MatrixOperationRuns : Prop :=
  (∀ (s : State) (t : TileId) (errs : List StoreErr) (ahead : List MxeOp) (o : MxeOp),
    firstOp (fun o => o.f.init && decide (o.stage = .queued)) [] (s.tile t).mxe.ops = some (ahead, o) →
    (∀ a ∈ ahead, a.acc ≠ o.acc) → (s.tile t).rowsFree o.seq (slotRows o.f.islot) [] = true →
    Completes (.initialLoadComplete t errs) s fun s' =>
      let x := (s.storeErrs t (slotRows o.f.islot) errs).tile t
      (s'.tile t).mxe.accBlock o.acc = blockOf (x.pcell o.f.islot) ∧ StoresKept x (s'.tile t) ∧ (s'.tile t).core = x.core ∧
      (∀ q ∈ (s'.tile t).mxe.ops, q.seq = o.seq → q.stage = .loaded)) ∧
  (∀ (s : State) (t : TileId) (errs : List StoreErr) (ahead : List MxeOp) (o : MxeOp),
    firstOp (fun o => !o.started) [] (s.tile t).mxe.ops = some (ahead, o) →
    (∀ a ∈ ahead, a.stage = .draining ∧ a.acc ≠ o.acc) → (o.f.init = true → o.stage = .loaded) →
    (s.tile t).rowsFree o.seq o.readRows [] = true →
    Completes (.mxeOperationStart t errs) s fun s' =>
      let x := (s.storeErrs t o.readRows errs).tile t
      (s'.tile t).mxe.accBlock o.acc = blockOf (fun m n =>
        o.cell x m n (if o.f.init then (x.mxe.accBlock o.acc).getD (32 * m + n) ⟨0, false⟩ else ⟨0, false⟩)) ∧
      (s'.tile t).mxe.accBlock (!o.acc) = x.mxe.accBlock (!o.acc) ∧ StoresKept x (s'.tile t) ∧ (s'.tile t).core = x.core) ∧
  (∀ (s : State) (t : TileId) (steps : Nat) (ahead : List MxeOp) (o : MxeOp),
    firstOp (fun o => decide (o.stage = .running)) [] (s.tile t).mxe.ops = some (ahead, o) →
    (o.occ = 0 ∨ max steps o.occ ≤ (s.tile t).ctr.mxeBusy - (s.tile t).mxe.busy0) →
    Completes (.arrayWorkComplete t steps) s fun s' =>
      (∀ q ∈ (s'.tile t).mxe.ops, q.seq = o.seq → q.stage = .draining) ∧ StoresKept (s.tile t) (s'.tile t) ∧
      (s'.tile t).ctr = (s.tile t).ctr ∧ (s'.tile t).core = (s.tile t).core ∧ OnlyTile t s s') ∧
  (∀ (s : State) (t : TileId) (o : MxeOp) (os : List MxeOp),
    (s.tile t).mxe.ops = o :: os → o.stage = .draining → (s.tile t).rowsFree o.seq [] (slotRows o.f.dslot) = true →
    Completes (.drainComplete t) s fun s' =>
      let blk := (s.tile t).mxe.accBlock o.acc
      (∀ m n, m < 64 → n < 32 → ((s'.tile t).pcell o.f.dslot m n).v = (blk.getD (32 * m + n) ⟨0, false⟩).v) ∧
      (s'.tile t).mxe.ops = os ∧ (s'.tile t).ftq = (if o.f.finish then (s.tile t).ftq ++ [o.f.dslot] else (s.tile t).ftq) ∧
      (s'.tile t).ctr.poisonIn = (s.tile t).ctr.poisonIn + (if blk.any (·.z) then 1 else 0) ∧
      (s'.tile t).w = (s.tile t).w ∧ (s'.tile t).a = (s.tile t).a ∧ (s'.tile t).core = (s.tile t).core)

/-- In every state where it may issue: VLEN sets min(s[RA] + IMM, 65,535); a VCH whose chain is legal, for which exactly one RDX waits where RDT asks for one, and whose stages touch no row outside their buffers is added at the end of the VXE queue with NR, VLEN, constants, coordinate and seed of that moment; an RDX that waits is paired with it; an RDX waits unpaired, and under TOS its register has a write pending. (R38, R116, R117, R132, R133) -/
def Obligations.VectorInstructionsIssue : Prop :=
  (∀ (s : State) (t : TileId) (e : Ecc) (ra : Reg) (imm : W16), Ready s t e (.vlen t e ra imm) →
    IssuesWith s t e (.vlen t e ra imm) fun x x' =>
      x'.vxe = { x.vxe with vlen := min ((x.reg ra).toNat + imm.toNat) 65535 } ∧ x'.core.pend = x.core.pend) ∧
  (∀ (s : State) (t : TileId) (e : Ecc) (f : VchF) (ss : List Stage), Ready s t e (.vch t e f) →
    f.caddr.toNat + f.nst.toNat ≤ 6143 → (s.tile t).chain f = some ss → (f.rdt = true → (s.tile t).rdu.unpaired.length = 1) →
    (∀ g ∈ ss, stageFault g (stageVals (s.tile t) g) (s.tile t).mask (((s.tile t).reg f.sn).toNat % 2 ^ 16) (s.tile t).vxe.vlen = none) →
    (f.rdt = true → ∀ r ∈ (s.tile t).rdu.unpaired, rdxFault r (((s.tile t).reg f.sn).toNat % 2 ^ 16) = none) →
    IssuesWith s t e (.vch t e f) fun x x' =>
      (∃ o, x'.vxe.ops = x.vxe.ops ++ [o] ∧ o.f = f ∧ o.stages.map (·.1) = ss ∧ o.nr = (x.reg f.sn).toNat % 2 ^ 16 ∧
        o.vlen = x.vxe.vlen ∧ o.sc = x.reg f.sc ∧ o.seed = aGet 0 x.seeds 0 ∧ o.rdx.isSome = f.rdt ∧
        o.b = [(x.reg f.sb0).setWidth 32, (x.reg f.sb1).setWidth 32, (x.reg f.sb2).setWidth 32, (x.reg f.sb3).setWidth 32]) ∧
      x'.vxe.vlen = x.vxe.vlen ∧ x'.rdu.unpaired = (if f.rdt then [] else x.rdu.unpaired) ∧
      x'.core.pend = x.core.pend) ∧
  (∀ (s : State) (t : TileId) (e : Ecc) (f : RdxF) (i : Instr) (op : RdxOp),
    (i, op) ∈ [(Instr.rdxSum t e f, RdxOp.sum), (.rdxSsq t e f, .ssq), (.rdxMax t e f, .max), (.rdxAmax t e f, .amax)] →
    Ready s t e i →
    (f.toh = true → (hdOf ((s.tile t).hword f.h)).v = true ∧ (hdOf ((s.tile t).hword f.h)).legal (s.tile t).mask = true) →
    IssuesWith s t e i fun x x' =>
      (∃ r, x'.rdu.unpaired = x.rdu.unpaired ++ [r] ∧ r.op = op ∧ r.f = f ∧ r.he = x.hword f.h ∧ r.off = x.reg f.so) ∧
      x'.rdu.results = x.rdu.results ∧
      (∀ r, x'.isPend r = (x.isPend r || (f.tos && decide (r = f.rd) && decide (r ≠ 0)))))

/-- When the oldest VCH may finish (its rows are free, the FTQ head it needs is there, and VXE_BUSY has counted the steps named and no fewer than its groups), its groups run in order, the chain leaves the VXE queue, and an RDX result for each row below NR waits. The oldest result is written to its buffer and, with the last row, to its scalar register, which then pends no more. A due release takes the FTQ head off. (R114, R126, R131, R134, R135, R138) -/
def Obligations.VectorWorkCompletes : Prop :=
  (∀ (s : State) (t : TileId) (steps : Nat) (errs : List StoreErr) (o : VchOp) (os : List VchOp),
    (s.tile t).vxe.ops = o :: os → (s.tile t).vchFree o = true →
    (o.groups = 0 ∨ max steps o.groups ≤ (s.tile t).ctr.vxeBusy - (s.tile t).vxe.busy0) →
    Completes (.vchLastGroupComplete t steps errs) s fun s' =>
      let s1 := s.storeErrs t (((s.tile t).vchRows o).1 ++ ((s.tile t).vchRows o).2) errs
      let run := runGroups o ((s.tile t).ftq.headD 0) (groupCount o.f.wb o.nr o.vlen) 0 ⟨s1.tile t, [], [], [], []⟩ []
      (s'.tile t).vxe.ops = run.1.x.vxe.ops.tail ∧ (s'.tile t).w = run.1.x.w ∧ (s'.tile t).a = run.1.x.a ∧ (s'.tile t).p = run.1.x.p ∧
      (s'.tile t).rdu.results = run.1.x.rdu.results ++ rduResults o run.2 ∧
      (s'.tile t).vxe.relDue = (run.1.x.vxe.relDue || o.f.rel) ∧ (s'.tile t).ctr.vxeBusy = run.1.x.ctr.vxeBusy) ∧
  (∀ (s : State) (t : TileId), (s.tile t).vxe.relDue = true →
    exec (.ftqRelease t) s = .next (s.setTile t
      { s.tile t with ftq := (s.tile t).ftq.tail, vxe := { (s.tile t).vxe with relDue := false } })) ∧
  (∀ (s : State) (t : TileId) (r : RduRes) (rs : List RduRes) (er : List StoreErr), (s.tile t).rdu.results = r :: rs →
    (r.ent.f.toh = true → (s.tile t).rowsFree r.ent.seq []
      [rowKey (hdOf r.ent.he).store ((hdOf r.ent.he).place 32 (mapRow (hdOf r.ent.he) 32 r.ent.off r.row).1
        (mapRow (hdOf r.ent.he) 32 r.ent.off r.row).2).row] = true) →
    Completes (.rduResultWrite t er) s fun s' =>
      (∀ u, u ≠ t → s'.tile u = s.tile u) ∧ s'.mem = s.mem ∧ s'.net = s.net ∧ (s'.tile t).rdu.results = rs ∧ (s'.tile t).rdu.unpaired = (s.tile t).rdu.unpaired ∧
      (r.ent.f.toh = false → StoresKept (s.tile t) (s'.tile t)) ∧
      (∀ hd pl, r.ent.f.toh = true → hd = hdOf r.ent.he →
        pl = hd.place 32 (mapRow hd 32 r.ent.off r.row).1 (mapRow hd 32 r.ent.off r.row).2 →
        StoresKept (((s.storeErrs t [rowKey hd.store pl.row] er).tile t).wrLanes [⟨hd.store, pl, 32, r.v.toNat, r.poison⟩]) (s'.tile t)) ∧
      (∀ q, (s'.tile t).reg q = (if r.last = true ∧ r.ent.f.tos = true ∧ q = r.ent.f.rd ∧ q ≠ 0 then rduScalar r else (s.tile t).reg q)) ∧
      (r.last = true → r.ent.f.tos = true → (s'.tile t).isPend r.ent.f.rd = (decide (r.ent.f.rd = 0) && (s.tile t).isPend 0)))

/-- In every state where it may issue: SEEDSET writes the named seed and no other; SEEDGET reads it; BITS, UNI and MASK inside their buffer are queued with the registers and the seed of that moment. When the rows of the oldest one are free, its values are written row by row and it leaves the queue. (R142, R146, R147, R148) -/
def Obligations.RandomBitsResults : Prop :=
  (∀ (s : State) (t : TileId) (e : Ecc) (sel : BitVec 2) (rv : Reg), Ready s t e (.seedset t e sel rv) →
    IssuesWith s t e (.seedset t e sel rv) fun x x' =>
      (∀ k : BitVec 2, aGet 0 x'.seeds k.toNat = if k = sel then x.reg rv else aGet 0 x.seeds k.toNat) ∧ x'.rng = x.rng) ∧
  (∀ (s : State) (t : TileId) (e : Ecc) (sel : BitVec 2) (rv : Reg), Ready s t e (.seedget t e sel rv) →
    CoreStep s t e (.seedget t e sel rv) ((s.tile t).core.pc + 1) 1 (some (rv, aGet 0 (s.tile t).seeds sel.toNat))) ∧
  (∀ (s : State) (t : TileId) (e : Ecc) (f : RngF) (i : Instr) (fn : RngFn),
    (i, fn) ∈ [(Instr.rngBits t e f, RngFn.bits), (.rngUni t e f, .uni), (.rngMask t e f, .mask)] → Ready s t e i →
    ∀ o : RngOp, o = ⟨(s.tile t).seq, (s.tile t).core.pc, fn, f.fmt, (s.tile t).hword f.h, (s.tile t).reg f.so, (s.tile t).reg f.st,
      (s.tile t).reg f.sc, ((s.tile t).reg f.sn).toNat % 2 ^ 16, ((s.tile t).reg f.sn).toNat / 2 ^ 16 % 2 ^ 16,
      ((s.tile t).reg f.rv).setWidth 32, aGet 0 (s.tile t).seeds f.sel.toNat⟩ →
    rngFault (s.tile t).mask o = none → IssuesWith s t e i fun x x' => x'.rng = x.rng ++ [o] ∧ x'.seeds = x.seeds) ∧
  (∀ (s : State) (t : TileId) (er : List StoreErr) (o : RngOp) (os : List RngOp), (s.tile t).rng = o :: os →
    (s.tile t).rowsFree o.seq [] (rngRows o) = true →
    Completes (.rngLastWriteLands t er) s fun s' =>
      let x := (List.range o.nr).foldl (fun x r => rngRow o r x) ((s.storeErrs t (rngRows o) er).tile t)
      (s'.tile t).rng = os ∧ (s'.tile t).w = x.w ∧ (s'.tile t).a = x.a ∧ (s'.tile t).p = x.p ∧
      (s'.tile t).seeds = (s.tile t).seeds ∧ (s'.tile t).core = (s.tile t).core ∧ (∀ u, u ≠ t → s'.tile u = s.tile u))

/-- When the next lane-slot of an output serves a VC and, on VC0, VC1 and VC3, the input whose turn it is, the flit at the head of that input, its header sound, leaves it and stands at the end of the next buffer, with its tile, or with its Opver port, its payload as corrected and its header as before; a VC2 flit does so when the output list names its input without ADD and its SLOT is the number of items taken, and its SLOT becomes the number of items the output has sent. Only at the end of a window do flits that waited on VC3 change, in AGE alone. A slot that serves another VC waits. When an output is at a sum group and its next lane-slot serves VC2, every operand flit is present with a sound header and the SLOT its input has come to, all are routed to that output and agree in DEST, destination handle, row, CMB and LAST: the operands leave their inputs and one flit whose payload is the sum in entry order of what the checks leave of them, with the SLOT of the output, stands at the end of the next buffer or with the tile. (Rests in part on the model's readings in log entry 38.) (R154, R158, R159, R161, R162, R166, R167) -/
def Obligations.FlitsPassOnAndSum : Prop :=
  (∀ (s : State) (r : TileId) (inp : Side) (vc : BitVec 2) (errs : List FlitErr) (fl fl' : Flit) (rest : List Flit) (o : Side),
    s.heldRx r inp = false → s.link (linkKey r inp vc.toNat) = fl :: rest →
    checkFlit s.dev.free fl errs = some fl' → s.route r fl = some o → s.slotVc r o = some vc.toNat →
    (vc ≠ 2 → s.vcPick r o vc.toNat = some inp) →
    (vc = 2 → ∃ en, s.olNow r (sideOl o) = some en ∧ olSrc en = sideOl inp ∧ olAdd en = false ∧
      (hdrOf fl.hdr).slot = s.takenAt r (sideOl inp)) →
    (o = .loc → s.dev.cdreset = false) →
    let out : Flit := if vc = 2 then { fl' with hdr := setField fl'.hdr 25 16 (s.sentAt r (sideOl o)) } else fl'
    fl'.hdr = fl.hdr ∧ Completes (.flitRouterArrival r inp vc errs) s fun s' =>
      (¬ (o = .edgeW ∧ tY r < 8) →
        s'.tiles = s.tiles ∧ s'.mem = s.mem ∧ (o = .loc → s'.eject r vc.toNat = s.eject r vc.toNat ++ [out]) ∧
        ((vc ≠ 3 ∨ (s.win r o).used < 15) →
          s'.link (linkKey r inp vc.toNat) = rest ∧
          ∀ r' sd, neighbour r o = some (r', sd) → s'.link (linkKey r' sd vc.toNat) = s.link (linkKey r' sd vc.toNat) ++ [out]) ∧
        (s'.link (linkKey r inp vc.toNat)).map (fun f => (f.pay, f.hdr.toNat / 2 ^ 7)) = rest.map (fun f => (f.pay, f.hdr.toNat / 2 ^ 7)) ∧
        (vc = 2 → (hdrOf fl.hdr).last = true →
          s'.takenAt r (sideOl inp) = s.takenAt r (sideOl inp) + 1 ∧ s'.sentAt r (sideOl o) = s.sentAt r (sideOl o) + 1 ∧
          s'.olAt r (sideOl o) = s.olAt r (sideOl o) + 1)) ∧
      (o = .edgeW → tY r < 8 → vc ≠ 2 → ∃ s1 : State, s1.link (linkKey r inp vc.toNat) = rest ∧ s1.tiles = s.tiles ∧ s1.mem = s.mem ∧
        s' = (s1.portAccept (tDie r) vc.toNat (tY r) out).slotGone r o (some (vc.toNat, inp)))) ∧
  (∀ (s : State) (r : TileId) (inp : Side) (vc : BitVec 2) (errs : List FlitErr) (fl : Flit) (rest : List Flit) (o : Side) (v : Nat),
    s.heldRx r inp = false → s.link (linkKey r inp vc.toNat) = fl :: rest → (checkFlit s.dev.free fl errs).isSome = true →
    s.route r fl = some o → (vc = 2 → s.itemBad r inp o fl = false) → s.slotVc r o = some v → v ≠ vc.toNat →
    exec (.flitRouterArrival r inp vc errs) s = .next s) ∧
  (∀ (s : State) (r : TileId) (out : Side) (errs : List (List FlitErr)) (srcs : List Nat) (f0 : Flit) (fs : List Flit)
      (found : List (Flit × List FlitErr)),
    s.group r (sideOl out) = some srcs → srcs.Nodup → (∀ i ∈ srcs, i ≤ 5) →
    srcs.map (fun i => (s.link (linkKey r (inputSide r i) 2)).head?) = (f0 :: fs).map some →
    found = (f0 :: fs).mapIdx (fun k f => (f, errs.getD k [])) → (∀ p ∈ found, (checkFlit 0 p.1 p.2).isSome = true) →
    (∀ p ∈ srcs.zip (f0 :: fs), (hdrOf p.2.hdr).slot = s.takenAt r p.1 ∧ s.route r p.2 = some out) →
    (∀ f ∈ f0 :: fs, sameItem f0 f = true) → s.slotVc r out = some 2 → (out = .loc → s.dev.cdreset = false) →
    (errs = [] → (s.checkOps found).2 = f0 :: fs) ∧
    Completes (.sumGroupForm r out errs) s fun s' =>
      let fl : Flit :=
        { f0 with pay := sumPay ((s.checkOps found).2.map (·.pay)), hdr := setField f0.hdr 25 16 (s.sentAt r (sideOl out)) }
      ¬ (out = .edgeW ∧ tY r < 8) →
      (∀ i ∈ srcs, s'.link (linkKey r (inputSide r i) 2) = (s.link (linkKey r (inputSide r i) 2)).tail) ∧
      (∀ r' sd, neighbour r out = some (r', sd) → s'.link (linkKey r' sd 2) = s.link (linkKey r' sd 2) ++ [fl]) ∧
      (out = .loc → s'.eject r 2 = s.eject r 2 ++ [fl]) ∧ s'.tiles = s.tiles ∧ s'.mem = s.mem ∧ (errs = [] → s'.err = s.err))

/-- A tile past END, whose send-list rows are written and inside their handles, offers every item of its send list to its router in list order and has begun its exchange. An arriving exchange flit with the expected SLOT and a row inside its handle is written whole to that row and no other; the last flit of an item lowers the expected-item count of its handle by one. (R16, R57, R163, R164) -/
def Obligations.ExchangeRowsMove : Prop :=
  (∀ (s : State) (t : TileId) (errs : List StoreErr) (h : SsHdr),
    (s.tile t).core.phase = .ended → (s.tile t).core.xbegun = false → (s.tile t).ssHdr = some h →
    (∀ a ∈ (s.tile t).acc, meets a.wr ((s.tile t).sendRows ((s.tile t).sendList h)) = false) →
    (s.tile t).badSend ((s.tile t).sendList h) = none →
    Completes (.exchangeBegin t errs) s fun s' =>
      let s1 := s.storeErrs t ((s.tile t).sendRows ((s.tile t).sendList h)) errs
      s'.net = (s1.injectAll t (((s.tile t).sendList h).mapIdx fun i e => (s1.tile t).itemFlits i e).flatten).net ∧
      (s'.tile t).core = { (s1.tile t).core with xbegun := true } ∧ StoresKept (s1.tile t) (s'.tile t) ∧ s'.mem = s1.mem) ∧
  (∀ (s : State) (t : TileId) (fl : Flit) (rest : List Flit) (dh : Hdl),
    s.eject t 2 = fl :: rest → (hdrOf fl.hdr).slot = s.takenAt t 9 → dh = BitVec.ofNat 6 (hdrOf fl.hdr).dh → fl.pay.length = 8 →
    (s.tile t).offsetOk dh (hdrOf fl.hdr).drow = true →
    Completes (.exchangeFlitWrite t) s fun s' =>
      let hd := hdOf ((s.tile t).hword dh)
      s'.eject t 2 = rest ∧ (s'.tile t).rdRow hd.store (hd.base + (hdrOf fl.hdr).drow) = fl.pay ∧
      (∀ st key, (st, key / 8) ≠ (hd.store, hd.base + (hdrOf fl.hdr).drow) → st < 3 → (s'.tile t).rdWord st key = (s.tile t).rdWord st key) ∧
      (s'.tile t).expected dh = (if (hdrOf fl.hdr).last then (s.tile t).expected dh - 1 else (s.tile t).expected dh) ∧
      (s'.tile t).core = (s.tile t).core ∧ (∀ u, u ≠ t → s'.tile u = s.tile u) ∧ s'.mem = s.mem)

/-- When the conditions of R17 hold for a tile, BARRIER_ARRIVAL completes: the tile has arrived, holds no heavy-unit token and no request for one, and its stores and registers are as before; for a DIE or MODULE barrier the wait of the scope has started unless every tile of it has now arrived; for a CHAIN barrier the same holds while another tile of the module has not arrived. (R17, R33, R67) -/
def Obligations.BarrierArrives : Prop :=
  ∀ (s : State) (t : TileId) (h : SsHdr), s.mayArrive t = true → (s.tile t).ssHdr = some h →
    (h.scope = .chain → ∃ u ∈ scopeTiles .chain false, u ≠ t ∧ s.atBarrier .chain u = false) →
    Completes (.barrierArrival t) s fun s' =>
      (s'.tile t).core = { (s.tile t).core with phase := .arrived } ∧ (s'.tile t).mxe.token = false ∧
      (s'.tile t).mxe.requested = false ∧ StoresKept (s.tile t) (s'.tile t) ∧ (∀ u, u ≠ t → s'.tile u = s.tile u) ∧
      s'.mem = s.mem ∧ s'.net = s.net ∧
      (s'.gathered h.scope (t.getLsbD 10) = false → (aGet none s'.waits (waitKey h.scope (t.getLsbD 10))).isSome = true)

/-- When every tile of the scope has arrived (and, for CHAIN, the RELEASE has come) and the barrier is no closing barrier: every tile of the scope counts one release and issues from the word after the next header, or with PARK waits without issuing; tiles outside the scope are as before. When a wait has lasted SCH_WDOG_BOUND and has not been reported, BARRIER_SLOW sets its alert bit and marks the wait; a second command for the same wait changes nothing. (Rests in part on the model's readings in log entries 63 and 64.) (R18, R390, R33) -/
def Obligations.BarrierReleases : Prop :=
  (∀ (s : State) (scope : Scope) (die : Bool) (h : SsHdr), s.releasable scope die = true →
    (s.tile (scopeHead scope die)).ssHdr = some h → h.close = false →
    Completes (.barrierRelease scope die) s fun s' =>
      (∀ t ∈ scopeTiles scope die, (s'.tile t).core.ss = (s.tile t).core.ss + 1 ∧
        (if h.park then (s'.tile t).core.phase = .parked
         else (s'.tile t).core.phase = .issue ∧ (s'.tile t).core.hdr = (s.tile t).core.pc ∧ (s'.tile t).core.pc = (s.tile t).core.pc + 4) ∧
        StoresKept (s.tile t) (s'.tile t) ∧ (∀ r, (s'.tile t).reg r = (s.tile t).reg r)) ∧
      (∀ t, t ∉ scopeTiles scope die → s'.tile t = s.tile t) ∧ s'.mem = s.mem ∧ aGet none s'.waits (waitKey scope die) = none) ∧
  (∀ (s : State) (scope : Scope) (die : Bool) (w : BarWait), aGet none s.waits (waitKey scope die) = some w → w.raised = false →
    s.act .sch 0x110 ≠ 0 → w.start + s.act .sch 0x110 ≤ s.dev.time →
    Completes (.barrierSlow scope die) s fun s' =>
      s'.err.alert.getLsbD 1 = true ∧ aGet none s'.waits (waitKey scope die) = some ⟨w.start, true⟩ ∧ s'.tiles = s.tiles ∧
      s'.mem = s.mem ∧ exec (.barrierSlow scope die) s' = .next s')

/-- In every state where it may issue and the sync port has nothing it could still do: SIGNAL offers one signal flit; PUT and PUTH, whose source rows are inside their handle, offer their rows as the H72 check leaves them, PUT then a separate signal and PUTH with the signal of 1 on the last row. Each is performed at once when the sync port is idle and no earlier instruction has still to write its source rows, and waits in the sync port else. The core goes on with the next word in one step; stores but for that check and the signal objects of the sender are as before. (Rests in part on the model's readings in log entries 35 and 126.) (R55, R58, R176, R178, R191) -/
def Obligations.SignalInstructions : Prop :=
  (∀ (s : State) (t : TileId) (e : Ecc) (rt : Reg) (obj : BitVec 8) (inc : W16), Ready s t e (.sigSignal t e rt obj inc) → SyncWaits s t →
    Completes (.sigSignal t e rt obj inc) s fun s' =>
      let x := (s.issueEcc t e).tile t
      let fl := signalFlit ((x.reg rt).setWidth 15) obj inc.toNat
      (x.bel.syncq = [] → s'.net = (s.inject t fl).net ∧ (s'.tile t).bel = x.bel) ∧
      (x.bel.syncq ≠ [] → s'.net = s.net ∧ (s'.tile t).bel = { x.bel with syncq := x.bel.syncq ++ [.send fl] }) ∧
      (s'.tile t).core = { x.core with pc := x.core.pc + 1, fixed := false } ∧ (s'.tile t).ctr = x.stepCtr 1 ∧
      StoresKept x (s'.tile t) ∧ (∀ u, u ≠ t → s'.tile u = s.tile u)) ∧
  (∀ (s : State) (t : TileId) (e : Ecc) (f : PutF) (er : List StoreErr) (i j : Instr) (last : Bool),
    (i, j, last) ∈ [(Instr.sigPut t e f er, .sigPut t e f [], false), (.sigPuth t e f er, .sigPuth t e f [], true)] → Ready s t e j →
    SyncWaits s t →
    ∀ (lo n drow : Nat) (keys : List Nat) (dst : Gta), lo = ((s.tile t).reg f.so).toNat % 2 ^ 12 →
    drow = ((s.tile t).reg f.so).toNat / 2 ^ 16 % 2 ^ 12 → n = ((s.tile t).reg f.so).toNat / 2 ^ 28 % 2 ^ 6 + 1 →
    (s.tile t).offsetOk f.sh lo = true → (s.tile t).offsetOk f.sh (lo + n - 1) = true →
    keys = (s.tile t).srcKeys f.sh lo n → dst = ((s.tile t).reg f.rt).setWidth 15 →
    ∀ (x : Tile) (u : State), x = (s.issueEcc t e).tile t → u = (s.issueEcc t e).storeErrs t keys er →
    Completes i s fun s' =>
      (x.bel.syncq = [] → x.rowsFree x.seq keys [] = true →
        s'.net = (s.injectAll t (putFlits dst f drow ((u.tile t).rowsAt keys) last)).net ∧ (s'.tile t).bel = x.bel ∧
        StoresKept (u.tile t) (s'.tile t)) ∧
      ((x.bel.syncq ≠ [] ∨ x.rowsFree x.seq keys [] = false) → s'.net = s.net ∧
        (s'.tile t).bel = { x.bel with syncq := x.bel.syncq ++ [.put x.seq last f dst drow keys er] } ∧ StoresKept x (s'.tile t)) ∧
      (s'.tile t).core = { x.core with pc := x.core.pc + 1, fixed := false } ∧ (s'.tile t).ctr = x.stepCtr 1 ∧
      (∀ v, v ≠ t → s'.tile v = s.tile v))

/-- In every state where it may issue outside a handler: a WAIT whose condition holds completes, CONSUME adds n to C of its object and PEEK and GE change no object, RD takes what is then available, and the core goes on; one whose condition does not hold leaves the objects alone and holds the core, charged to STALL_SYNC. Behind a RECV that waits in the sync port it takes a place there (R191). (R29, R174, R177, R178, R191) -/
def Obligations.WaitInstructions : Prop :=
  ∀ (s : State) (t : TileId) (e : Ecc) (f : WaitF) (i : Instr) (k : WaitKind),
    (i, k) ∈ [(Instr.waitConsume t e f, WaitKind.consume), (.waitPeek t e f, .peek), (.waitGe t e f, .ge)] → Ready s t e i →
    ∀ x : Tile, x = (s.issueEcc t e).tile t → x.core.hnd = none → (k = .consume → (x.waitN f).toNat < 2 ^ 31) →
    Completes i s fun s' => ∃ x', s' = (s.issueEcc t e).setTile t x' ∧ StoresKept x x' ∧ x'.bel.p = x.bel.p ∧
      x'.bel.syncq = x.bel.syncq ++ (if 0 < x.syncQueued then [SyncOp.place] else []) ∧
      (x.satisfied k f.obj (x.waitN f) = true →
        (∀ o, x'.sigC o = if k = .consume ∧ o = f.obj then x.sigC o + x.waitN f else x.sigC o) ∧
        (∀ r, x'.reg r = if r = f.rd ∧ r ≠ 0 then (x'.avail f.obj).setWidth 64 else x.reg r) ∧
        x'.core.pc = x.core.pc + 1 ∧ x'.core.held = none ∧ x'.ctr = x.stepCtr 1) ∧
      (x.satisfied k f.obj (x.waitN f) = false →
        x'.core = { x.core with held := some ⟨k, f.obj, x.waitN f, f.rd⟩ } ∧ x'.bel.c = x.bel.c ∧
        x'.ctr = TCtr.charge (x.stepCtr 1) .sync 1)

/-- A signal flit at the head of VC1 adds INC to P of OBJ modulo 2^32, to no other object and to no C, and nothing else of the tile changes: a held WAIT is evaluated at a step of its tile, after every signal that came before it. A put data flit inside its handle is written whole to its row, and a PUTH flit then adds 1 to its object. (R172, R173, R178, R180) -/
def Obligations.SignalsArrive : Prop :=
  (∀ (s : State) (t : TileId) (f : Flit) (rest : List Flit) (o : BitVec 8) (inc : Nat), s.eject t 1 = f :: rest → subOf f = 1 →
    o = BitVec.ofNat 8 ((f.pay.getD 0 pw0).d.toNat) → inc = (f.pay.getD 0 pw0).d.toNat / 2 ^ 8 % 2 ^ 16 →
    ((s.tile t).availWith o inc).toNat < 2 ^ 31 →
    Completes (.signalArrival t) s fun s' =>
      s'.eject t 1 = rest ∧
      (∀ o', (s'.tile t).sigP o' = if o' = o then (s.tile t).sigP o + BitVec.ofNat 32 inc else (s.tile t).sigP o') ∧
      s'.tile t = { s.tile t with bel := { (s.tile t).bel with p := (s'.tile t).bel.p } } ∧ (∀ u, u ≠ t → s'.tile u = s.tile u)) ∧
  (∀ (s : State) (t : TileId) (f : Flit) (rest : List Flit) (dh : Hdl), s.eject t 1 = f :: rest → subOf f = 0 → f.pay.length = 8 →
    dh = BitVec.ofNat 6 (hdrOf f.hdr).dh → (s.tile t).offsetOk dh (hdrOf f.hdr).drow = true →
    (tagOf f / 2 ^ 13 = 1 → ((s.tile t).availWith (BitVec.ofNat 8 (tagOf f)) 1).toNat < 2 ^ 31) →
    Completes (.putDataArrival t) s fun s' =>
      let hd := hdOf ((s.tile t).hword dh)
      s'.eject t 1 = rest ∧ (s'.tile t).rdRow hd.store (hd.base + (hdrOf f.hdr).drow) = f.pay ∧
      (∀ o', (s'.tile t).sigP o' =
        if tagOf f / 2 ^ 13 = 1 ∧ o' = BitVec.ofNat 8 (tagOf f) then (s.tile t).sigP o' + 1 else (s.tile t).sigP o'))

/-- In every state where it may issue and its source rows are inside their handle, a MSG instruction records its reservation with the register values of that moment and the places of its rows, offers one request flit, and is held: the word does not advance, and one step is charged to STALL_QUEUE; the rows are read, and take their place in program order, from then until its flits are sent. (Rests in part on the model's readings in log entry 35.) (R55, R188, R189, R194) -/
def Obligations.MessageInstructionsReserve : Prop :=
  ∀ (s : State) (t : TileId) (e : Ecc) (rt : Reg) (q : BitVec 2) (hx : BitVec 4) (len : BitVec 2) (h : Hdl) (so : Reg) (sl op : BitVec 2)
    (er : List StoreErr) (i j : Instr) (kd : MsgKind) (hx' : BitVec 4) (q' : BitVec 2) (n : Nat),
    (i, j, kd, hx', q', n) ∈
      [ (Instr.send t e ⟨rt, q, hx, len, h, so⟩ er, Instr.send t e ⟨rt, q, hx, len, h, so⟩ [], MsgKind.send, 0, q, len.toNat + 1)
      , (.asend t e ⟨rt, q, hx, len, h, so⟩ er, .asend t e ⟨rt, q, hx, len, h, so⟩ [], .asend, hx, q, len.toNat + 1)
      , (.cadd t e ⟨rt, sl, op, h, so⟩ er, .cadd t e ⟨rt, sl, op, h, so⟩ [], .cadd, sl ++ op, 3, 1) ] →
    Ready s t e j → ∀ (lo : Nat) (x : Tile), lo = ((s.tile t).reg so).toNat % 2 ^ 12 → x = (s.issueEcc t e).tile t →
    (s.tile t).offsetOk h lo = true → (s.tile t).offsetOk h (lo + n - 1) = true →
    Completes i s fun s' => ∃ r : Resv,
      r.kind = kd ∧ r.dst = (x.reg rt).setWidth 15 ∧ r.q = q' ∧ r.hx = hx' ∧ r.len = n ∧ r.seq = x.seq ∧
      r.n = max 1 ((x.reg rt).toNat / 2 ^ 16 % 2 ^ 16) ∧ r.keys = x.srcKeys h lo n ∧ r.errs = er ∧ r.retryAt = none ∧
      s'.net = (s.inject t (requestFlit (s.gta t) r)).net ∧ (s'.tile t).bel = { x.bel with resv := some r } ∧
      (s'.tile t).core = x.core ∧ StoresKept x (s'.tile t) ∧ (s'.tile t).acc = x.acc ++ [⟨x.seq, r.keys, []⟩] ∧
      (s'.tile t).ctr = TCtr.charge (x.stepCtr 1) .queue 1 ∧ (∀ u, u ≠ t → s'.tile u = s.tile u)

/-- A reservation request at the head of VC1 is answered at once. For a queue that does not spill: with room for the message it is recorded in the queue and GRANT is sent; without, the refusal is counted and BUSY is sent. For a combining slot that is not armed, the request arms it with N and the operation and GRANT is sent. An answer at the head of VC1 for the reservation held: GRANT lets the sync port send the message flits and RING the ring record to the home of its address, behind what waits there and once no earlier instruction has still to write the source rows; the reservation ends and the core goes on with the next word, and after a ring record the sync port waits for its acceptances; BUSY sets the retry for 64 tally steps later. When that time has come, BUSY_RETRY offers the request flit again. (Rests in part on the model's readings in log entries 35, 42 and 126.) (R55, R181, R189, R190, R194, R195, R196) -/
def Obligations.Reservations : Prop :=
  (∀ (s : State) (t : TileId) (f : Flit) (rest : List Flit) (w : W64), s.eject t 1 = f :: rest → subOf f = 3 → tagOf f / 2 ^ 13 = 0 →
    w = (f.pay.getD 0 pw0).d →
    ∀ (q : BitVec 2) (hx : BitVec 4) (len : Nat), q = w.extractLsb' 2 2 → hx = w.extractLsb' 4 4 → len = w.toNat / 2 ^ 8 % 4 + 1 →
    (w.toNat % 4 ≠ 2 → ((s.tile t).queue q).spilling = false → ((s.tile t).queue q).used + len ≤ 16 →
      Completes (.reservationArrival t) s fun s' =>
        ((s'.tile t).queue q).msgs =
          ((s.tile t).queue q).msgs ++ [⟨srcOf f, decide (w.toNat % 4 = 1), hx, len, false, false, [], 0⟩] ∧
        s'.net = ((s.setEject t 1 rest).inject t (answerFlit (srcOf f) (s.gta t) 0 0 0)).net ∧
        (∀ q', q' ≠ q → (s'.tile t).queue q' = (s.tile t).queue q') ∧ (s'.tile t).core = (s.tile t).core) ∧
    (w.toNat % 4 ≠ 2 → ((s.tile t).queue q).spilling = false → 16 < ((s.tile t).queue q).used + len →
      Completes (.reservationArrival t) s fun s' =>
        ((s'.tile t).queue q).msgs = ((s.tile t).queue q).msgs ∧ ((s'.tile t).queue q).refused = ((s.tile t).queue q).refused + 1 ∧
        ((s'.tile t).queue q).busyFrom.isSome = true ∧
        s'.net = ((s.setEject t 1 rest).inject t (answerFlit (srcOf f) (s.gta t) 2 0 0)).net) ∧
    (w.toNat % 4 = 2 → ((s.tile t).cslot (hx.extractLsb' 2 2)).result = none → ((s.tile t).cslot (hx.extractLsb' 2 2)).armed = false →
      Completes (.reservationArrival t) s fun s' =>
        (s'.tile t).cslot (hx.extractLsb' 2 2) =
          { (s.tile t).cslot (hx.extractLsb' 2 2) with armed := true, n := w.toNat / 2 ^ 10 % 2 ^ 16, opk := hx.toNat % 4, cnt := 0, acc := [], poison := [] } ∧
        s'.net = ((s.setEject t 1 rest).inject t (answerFlit (srcOf f) (s.gta t) 0 0 0)).net)) ∧
  (∀ (s : State) (t : TileId) (f : Flit) (rest : List Flit) (r : Resv), s.eject t 1 = f :: rest → subOf f = 3 → tagOf f / 2 ^ 13 = 1 →
    (s.tile t).bel.resv = some r → SyncWaits s t →
    ∀ (a : W64) (ring : Option (Nat × Nat)) (u : State), a = (f.pay.getD 0 pw0).d →
    ring = (if a = 0 then none else some ((f.pay.getD 1 pw0).d.toNat, (f.pay.getD 2 pw0).d.toNat)) →
    u = (s.setEject t 1 rest).storeErrs t r.keys r.errs →
    Completes (.reservationAnswer t) s fun s' =>
      (a = 2 → (s'.tile t).bel.resv = some { r with retryAt := some ((s.tile t).ctr.tally + 64) } ∧
        s'.net = (s.setEject t 1 rest).net ∧ (s'.tile t).core = (s.tile t).core) ∧
      (a ≠ 2 → (s'.tile t).bel.resv = none ∧ (s'.tile t).core = { (s.tile t).core with pc := (s.tile t).core.pc + 1, fixed := false } ∧
        ((s.tile t).bel.syncq = [] → (s.tile t).rowsFree r.seq r.keys [] = true →
          (∀ k, aGet none (s.tile t).str.tags k = none) → StoresKept (u.tile t) (s'.tile t) ∧
          (a = 0 → (s'.tile t).bel.syncq = [] ∧ s'.net = (u.injectAll t (messageFlits (s.gta t) r ((u.tile t).rowsAt r.keys))).net) ∧
          (∀ ad sq, ring = some (ad, sq) → (s'.tile t).bel.syncq = [.acks (s.tile t).str.nextId] ∧
            s'.net = (u.sendRecord t (gtaMod r.dst) (s.tile t).str.nextId
              (recordLines (s.gta t) r ad sq ((u.tile t).rowsAt r.keys))).net)) ∧
        (((s.tile t).bel.syncq ≠ [] ∨ (s.tile t).rowsFree r.seq r.keys [] = false) → s'.net = (s.setEject t 1 rest).net ∧
          (s'.tile t).bel.syncq = (s.tile t).bel.syncq ++ [.msg r ring] ∧ StoresKept (s.tile t) (s'.tile t)))) ∧
  (∀ (s : State) (t : TileId) (r : Resv) (n : Nat), (s.tile t).bel.resv = some r → r.retryAt = some n → n ≤ (s.tile t).ctr.tally →
    Completes (.busyRetry t) s fun s' =>
      s'.net = (s.inject t (requestFlit (s.gta t) r)).net ∧ (s'.tile t).bel = { (s.tile t).bel with resv := some { r with retryAt := none } } ∧
      (s'.tile t).core = (s.tile t).core)

/-- In every state where it may issue with an idle sync port: RECV of a complete head message puts the flit into eight registers and the tag into SO; of an empty queue with no ring record it puts zero into SO. POLL outside a handler, with an idle sync port, goes on when nothing is to be entered and waits for the handler else; behind instructions of the sync port it waits. A held core with a readable active message enters its handler with the tag in s30. HRET discards what the handler left and returns. (Rests in part on the model's readings in log entries 45 and 127.) (R191, R192, R193) -/
def Obligations.ReceiveAndHandlers : Prop :=
  (∀ (s : State) (t : TileId) (e : Ecc) (rt : Reg) (q : BitVec 2) (so : Reg) (m : QMsg) (ms : List QMsg),
    Ready s t e (.recv t e rt q so) → (s.tile t).bel.syncq = [] → ((s.tile t).queue q).msgs = m :: ms → m.complete = true →
    rt.toNat ≤ 24 →
    Completes (.recv t e rt q so) s fun s' => ∃ x', s' = (s.issueEcc t e).setTile t x' ∧
      (so ≠ 0 → x'.reg so = tagWord m q m.taken) ∧
      (∀ k, k < 8 → rt + BitVec.ofNat 5 k ≠ 0 → rt + BitVec.ofNat 5 k ≠ so →
        x'.reg (rt + BitVec.ofNat 5 k) = ((m.flits.getD m.taken []).map (·.d)).getD k 0) ∧
      (x'.queue q).msgs = (if m.taken + 1 = m.len then ms else { m with taken := m.taken + 1 } :: ms) ∧
      x'.core.pc = (s.tile t).core.pc + 1 ∧ StoresKept (s.tile t) x') ∧
  (∀ (s : State) (t : TileId) (e : Ecc) (rt : Reg) (q : BitVec 2) (so : Reg),
    Ready s t e (.recv t e rt q so) → (s.tile t).bel.syncq = [] → ((s.tile t).queue q).msgs = [] → (s.tile t).bel.ring.has q = false →
    Completes (.recv t e rt q so) s fun s' => ∃ x', s' = (s.issueEcc t e).setTile t x' ∧
      (∀ r, x'.reg r = if r = so then 0 else (s.tile t).reg r) ∧ x'.bel = (s.tile t).bel ∧ x'.core.pc = (s.tile t).core.pc + 1) ∧
  (∀ (s : State) (t : TileId) (e : Ecc), Ready s t e (.poll t e) → (s.tile t).core.hnd = none → 0 < (s.tile t).syncQueued →
    exec (.poll t e) s = .next (s.issueEcc t e)) ∧
  (∀ (s : State) (t : TileId) (e : Ecc), Ready s t e (.poll t e) → (s.tile t).core.hnd = none → (s.tile t).syncQueued = 0 →
    Completes (.poll t e) s fun s' => ∃ x', s' = (s.issueEcc t e).setTile t x' ∧
      ((s.tile t).ready = none → x'.core = { (s.tile t).core with pc := (s.tile t).core.pc + 1, fixed := false }) ∧
      ((s.tile t).ready ≠ none → x'.core = { ((s.issueEcc t e).tile t).core with poll := true })) ∧
  (∀ (s : State) (t : TileId) (q : BitVec 2) (m : QMsg) (a : Nat), (s.tile t).core.phase = .issue →
    ((s.tile t).core.held ≠ none ∨ (s.tile t).core.poll = true) → (s.tile t).core.hnd = none → (s.tile t).ready = some (q, m, a) →
    Completes (.handlerEntry t) s fun s' =>
      (s'.tile t).core.pc = a ∧ (s'.tile t).reg 30 = tagWord m q m.taken ∧ (s'.tile t).core.held = none ∧ (s'.tile t).core.poll = false ∧
      (s'.tile t).core.hnd = some ⟨if (s.tile t).core.held ≠ none then (s.tile t).core.pc else (s.tile t).core.pc + 1, q, m.len - m.taken⟩ ∧
      OnlyTile t s s') ∧
  (∀ (s : State) (t : TileId) (e : Ecc) (r : HandlerRun), Ready s t e (.hret t e) → (s.tile t).core.hnd = some r →
    (s.tile t).syncQueued = 0 →
    Completes (.hret t e) s fun s' => ∃ x', s' = (s.issueEcc t e).setTile t x' ∧ x'.core = { (s.tile t).core with pc := r.ret, hnd := none, fixed := false } ∧
      (x'.queue r.q).msgs = (if 0 < r.left then ((s.tile t).queue r.q).msgs.drop 1 else ((s.tile t).queue r.q).msgs))

/-- A queue that has refused every request for at least 1,024 tally steps and does not yet spill begins to spill, and the spill is counted. The oldest ring record of a queue, once written, is read back into the queue, as the H72 check leaves it, when its entries are free, and keeps its space in the ring until the head passes it; the spill ends when all that were placed are back. (Rests in part on the model's readings in log entry 44.) (R195, R196) -/
def Obligations.QueuesSpillAndRefill : Prop :=
  (∀ (s : State) (t : TileId) (q : BitVec 2) (n : Nat), ((s.tile t).queue q).busyFrom = some n → ((s.tile t).queue q).spilling = false →
    n + 1024 ≤ (s.tile t).ctr.tally →
    Completes (.queueSpillStart t q) s fun s' =>
      ((s'.tile t).queue q).spilling = true ∧ ((s'.tile t).queue q).msgs = ((s.tile t).queue q).msgs ∧
      s'.belc.spills = s.belc.spills + 1 ∧ (s'.tile t).core = (s.tile t).core ∧ s'.mem = s.mem ∧ s'.net = s.net) ∧
  (∀ (s u : State) (t : TileId) (q : BitVec 2) (c : RingRec) (base : Nat) (er : List MemErr),
    (s.tile t).bel.ring.recs.find? (fun c => !c.pad && decide (c.q = q)) = some c → s.ringBase t = some base → c.got = c.units →
    ((s.tile t).queue q).used + c.len ≤ 16 → (s.tile t).bel.syncq = [] → HomesFree s [(base + c.off, 64 * c.units)] [] →
    u = s.tierErrs [(base + c.off, 64 * c.units)] er →
    Completes (.ringRefill t q er) s fun s' =>
      (∃ m, ((s'.tile t).queue q).msgs = ((s.tile t).queue q).msgs ++ [m] ∧ m.src = c.src ∧ m.len = c.len ∧ m.spl = true ∧
        m.flits = (List.range c.len).map fun k => u.mem.words (base + c.off + 64 * (k + 1)) 8) ∧
      ((s'.tile t).queue q).readBack = ((s.tile t).queue q).readBack + 1 ∧
      ((s'.tile t).queue q).spilling =
        (((s.tile t).queue q).spilling && !decide (((s.tile t).queue q).readBack + 1 = ((s.tile t).queue q).placed)) ∧
      (s'.tile t).bel.ring.recs =
        ((s.tile t).bel.ring.recs.map fun d => if d = c then { d with pad := true } else d).dropWhile (·.pad) ∧ s'.mem = u.mem)

/-- A message flit that leaves its message incomplete is added to it; one that completes it also adds 1 to the queue object 252 + q. A contribution that is not the last of N is taken into the accumulators of its slot; the last forms the result, which takes a free entry of queue 3 and adds 1 to object 255. A result that waits is placed the same way once an entry is free. (R190, R194) -/
def Obligations.MessagesArrive : Prop :=
  (∀ (s : State) (t : TileId) (f : Flit) (rest : List Flit) (q : BitVec 2) (ms : List QMsg) (m : QMsg),
    s.eject t 1 = f :: rest → subOf f = 2 → tagOf f / 4 % 2 = 0 → q = BitVec.ofNat 2 (tagOf f / 2 ^ 12) →
    addFlit (srcOf f) f.pay ((s.tile t).queue q).msgs = (ms, some m) → (s.tile t).bel.syncq = [] →
    ((s.tile t).availWith (BitVec.ofNat 8 (252 + q.toNat)) 1).toNat < 2 ^ 31 →
    Completes (.messageFlitArrival t) s fun s' =>
      s'.eject t 1 = rest ∧ ((s'.tile t).queue q).msgs = ms ∧
      (∀ o, (s'.tile t).sigP o =
        if m.complete = true ∧ o = BitVec.ofNat 8 (252 + q.toNat) then (s.tile t).sigP o + 1 else (s.tile t).sigP o) ∧
      (s'.tile t).core = (s.tile t).core ∧ StoresKept (s.tile t) (s'.tile t)) ∧
  (∀ (s : State) (t : TileId) (f : Flit) (rest : List Flit) (slot : BitVec 2), s.eject t 1 = f :: rest → subOf f = 2 →
    tagOf f / 4 % 2 = 1 → slot = BitVec.ofNat 2 (tagOf f / 32) → ((s.tile t).cslot slot).result = none →
    ((s.tile t).cslot slot).cnt + 1 < ((s.tile t).cslot slot).n →
    Completes (.contributionArrival t) s fun s' =>
      s'.eject t 1 = rest ∧ (s'.tile t).cslot slot = ((s.tile t).cslot slot).take f.pay ∧ (s'.tile t).bel.q = (s.tile t).bel.q) ∧
  (∀ (s : State) (t : TileId) (f : Flit) (rest : List Flit) (slot : BitVec 2), s.eject t 1 = f :: rest → subOf f = 2 →
    tagOf f / 4 % 2 = 1 → slot = BitVec.ofNat 2 (tagOf f / 32) → ((s.tile t).cslot slot).result = none →
    ((s.tile t).cslot slot).n ≤ ((s.tile t).cslot slot).cnt + 1 → ((s.tile t).queue 3).used + 1 ≤ 16 → (s.tile t).bel.syncq = [] →
    ((s.tile t).availWith 255 1).toNat < 2 ^ 31 →
    Completes (.contributionArrival t) s fun s' =>
      s'.eject t 1 = rest ∧ ((s'.tile t).queue 3).msgs = ((s.tile t).queue 3).msgs ++ [⟨s.gta t, false, 0, 1, false, true,
        [(((s.tile t).cslot slot).take f.pay).row], 0⟩] ∧
      ((s'.tile t).cslot slot).armed = false ∧ (s'.tile t).sigP 255 = (s.tile t).sigP 255 + 1) ∧
  (∀ (s : State) (t : TileId) (slot : BitVec 2) (row : List PWord), ((s.tile t).cslot slot).result = some row →
    ((s.tile t).queue 3).used + 1 ≤ 16 → (s.tile t).bel.syncq = [] →
    ((s.tile t).availWith 255 1).toNat < 2 ^ 31 →
    Completes (.combinedResultPlace t slot) s fun s' =>
      ((s'.tile t).queue 3).msgs = ((s.tile t).queue 3).msgs ++ [⟨s.gta t, false, 0, 1, false, true, [row], 0⟩] ∧
      ((s'.tile t).cslot slot).armed = false ∧ ((s'.tile t).cslot slot).result = none ∧
      (s'.tile t).sigP 255 = (s.tile t).sigP 255 + 1)

/-- In every state where a STR instruction may issue and none of the faults of R222 applies: it completes, one transfer with its handle entry, tier address, descriptor and policy stands in the stream unit with an issue number, a GET raises the landing count of its handle by NR times NL, and no store word or scalar register changes. (R56, R220, R221, R222) -/
def Obligations.StreamInstructions : Prop :=
  ∀ (s : State) (t : TileId) (e : Ecc) (f : StrF) (i : Instr) (put : Bool),
    (i, put) ∈ [(Instr.strGet t e f, false), (.strPut t e f, true)] → Ready s t e i →
    ∀ (sa : Nat) (d : W64), sa = ((s.tile t).reg f.sa).toNat % 2 ^ 48 → d = (s.tile t).reg f.sd →
    strCheck (s.tile t) f.h sa d f.p6 = none →
    IssuesWith s t e i fun x x' =>
      (∃ en ∈ x'.str.ents, en.seq = some x.seq ∧ en.he = x.hword f.h ∧ en.sa = sa ∧ en.desc = d ∧
        ((∀ en ∈ x.str.ents, en.seq ≠ none) →
          en.put = put ∧ en.h = f.h ∧ en.pol = f.pol ∧ en.p6 = f.p6 ∧ en.formed = 0)) ∧
      x'.landing f.h = (if put then x.landing f.h else x.landing f.h + (d.toNat / 2 ^ 20 % 2 ^ 12 + 1) * (d.toNat / 2 ^ 12 % 2 ^ 8 + 1)) ∧
      x'.seq = x.seq + 1

/-- LOOKAHEAD_PASS of a core that issues passes the instruction under the pointer when nothing stops it, and a GET under it is entered and its first line requests formed. A returned line of an issued GET is written into its four rows and lowers the landing count. The next row of a PUT is taken when it is free; with the last row of a line the line is sent under a tag. An acceptance frees its tag and marks its line done. A word found uncorrectable is written back as stored poison. (Rests in part on the model's readings in log entry 32.) (R46, R47, R48, R49, R56, R58, R225) -/
def Obligations.StreamTransfers : Prop :=
  (∀ (s : State) (t : TileId) (i : Instr), (s.tile t).core.phase = .issue → (s.tile t).str.ents = [] → (s.tile t).str.la ≤ 6143 →
    decodeWord t .ok (aGet 0 (s.tile t).imem (s.tile t).str.la) = some i → (∀ e, i ≠ .endC t e) → badTarget (s.tile t).str.la i = false →
    (s.tile t).laStops t (aGet 0 (s.tile t).imem (s.tile t).str.la) i = false →
    (∀ e f, i ≠ .strGet t e f ∧ i ≠ .strPut t e f) →
    Completes (.lookaheadPass t) s fun s' =>
      (s'.tile t).str = { (s.tile t).str with path := (s.tile t).str.path ++ [(s.tile t).str.la], la := (s.tile t).laNext (s.tile t).str.la i } ∧
      OnlyTile t s s') ∧
  (∀ (s : State) (t : TileId) (e : Ecc) (f : StrF), (s.tile t).core.phase = .issue → (s.tile t).str.ents = [] → (s.tile t).str.la ≤ 6143 →
    decodeWord t .ok (aGet 0 (s.tile t).imem (s.tile t).str.la) = some (.strGet t e f) →
    (s.tile t).laStops t (aGet 0 (s.tile t).imem (s.tile t).str.la) (.strGet t e f) = false →
    strCheck (s.tile t) f.h (((s.tile t).reg f.sa).toNat % 2 ^ 48) ((s.tile t).reg f.sd) f.p6 = none →
    aGet none (s.tile t).str.tags ((s.tile t).str.nextTag % 64) = none →
    Completes (.lookaheadPass t) s fun s' =>
      (∃ en, (s'.tile t).str.ents = [en] ∧ en.pc = (s.tile t).str.la ∧ en.seq = none ∧ en.put = false ∧ en.h = f.h ∧
        en.sa = ((s.tile t).reg f.sa).toNat % 2 ^ 48 ∧ en.desc = (s.tile t).reg f.sd ∧ 0 < en.formed) ∧
      (s'.tile t).str.la = (s.tile t).str.la + 1 ∧ (s'.tile t).core = (s.tile t).core ∧ StoresKept (s.tile t) (s'.tile t)) ∧
  (∀ (s : State) (t : TileId) (pre post : Assoc (Option LineRef)) (tag : Nat) (r : LineRef) (en : StrEnt) (q : Nat) (ws : List PWord),
    (s.tile t).str.tags = pre ++ (tag, some r) :: post → (∀ kv ∈ pre, ∀ r', kv.2 = some r' → s.landTag t kv.1 r' = none) →
    (s.tile t).str.ents.find? (fun e => decide (e.id = r.ent)) = some en → en.seq = some q → en.put = false → en.p6 = false →
    (s.tile t).str.tagOfLine en.id r.line = some tag → s.lineWords t tag = some ws → ws.length = 32 →
    ∀ hd : Hd, hd = hdOf en.he → hd.store < 3 →
    (s.tile t).rowsFree q [] ((lineRows hd en.desc false r.line).map fun o => rowKey hd.store (hd.base + o)) = true →
    Completes (.lineLanding t) s fun s' =>
      (∀ k, k < 4 → (s'.tile t).rdRow hd.store (hd.base + (lineRows hd en.desc false r.line).getD k 0) = (ws.drop (8 * k)).take 8) ∧
      aGet none (s'.tile t).str.tags tag = none ∧ (s'.tile t).landing en.h = (s.tile t).landing en.h - 1 ∧
      (∀ g ∈ (s'.tile t).str.ents, g.id = en.id → g.done = en.done ++ [r.line]) ∧ (s'.tile t).core = (s.tile t).core) ∧
  (∀ (s : State) (t : TileId) (errs : List StoreErr) (en : StrEnt) (q key : Nat),
    (s.tile t).str.ents.find? (fun e => e.put && e.seq.isSome && decide (e.formed < (allRows (hdOf e.he) e.desc e.p6).length)) = some en →
    en.seq = some q → key = (allRows (hdOf en.he) en.desc en.p6).getD en.formed 0 → (s.tile t).rowsFree q [key] [] = true →
    (en.formed + 1) % (if en.p6 then 16 else 4) ≠ 0 →
    Completes (.putRowTake t errs) s fun s' =>
      let x := (s.storeErrs t [key] errs).tile t
      (∀ g ∈ (s'.tile t).str.ents, g.id = en.id → g.formed = en.formed + 1 ∧ g.rows = en.rows ++ [x.rdRow (key / 4096) (key % 4096)]) ∧
      StoresKept x (s'.tile t) ∧ s'.net = s.net) ∧
  (∀ (s : State) (t : TileId) (errs : List StoreErr) (en : StrEnt) (q key : Nat),
    (s.tile t).str.ents.find? (fun e => e.put && e.seq.isSome && decide (e.formed < (allRows (hdOf e.he) e.desc e.p6).length)) = some en →
    en.seq = some q → en.p6 = false → key = (allRows (hdOf en.he) en.desc en.p6).getD en.formed 0 →
    (s.tile t).rowsFree q [key] [] = true → (en.formed + 1) % 4 = 0 →
    aGet none (s.tile t).str.tags ((s.tile t).str.nextTag % 64) = none →
    Completes (.putRowTake t errs) s fun s' =>
      (∀ g ∈ (s'.tile t).str.ents, g.id = en.id → g.formed = en.formed + 1 ∧ g.rows = []) ∧
      aGet none (s'.tile t).str.tags (s.tile t).str.nextTag = some ⟨en.id, en.formed / 4, lineAddr en.sa en.desc (en.formed / 4), true⟩ ∧
      (s'.tile t).core = (s.tile t).core) ∧
  (∀ (s : State) (t : TileId) (f : Flit) (r : LineRef) (en : StrEnt),
    (s.eject t 3).find? (fun f => decide ((hdrOf f.hdr).kind = 3) && decide (fld f.hdr 24 22 = 1)) = some f →
    aGet none (s.tile t).str.tags (fld f.hdr 40 25 % 64) = some r → (s.tile t).str.ents.find? (fun e => decide (e.id = r.ent)) = some en →
    Completes (.putLineAccepted t) s fun s' =>
      s'.eject t 3 = (s.eject t 3).erase f ∧ aGet none (s'.tile t).str.tags (fld f.hdr 40 25 % 64) = none ∧
      (∀ g ∈ (s'.tile t).str.ents, g.id = en.id → g.done = en.done ++ [r.line]) ∧ StoresKept (s.tile t) (s'.tile t)) ∧
  (∀ (s : State) (t : TileId) (st : StoreSel) (key : Nat) (us : List (StoreSel × Nat)), (s.tile t).ue = (st, key) :: us →
    Completes (.storePoisonWriteback t) s fun s' =>
      ((s'.tile t).rdWord (selNum st) key).p = true ∧ ((s'.tile t).rdWord (selNum st) key).d = ((s.tile t).rdWord (selNum st) key).d ∧
      (st, key) ∉ (s'.tile t).ue ∧ OnlyTile t s s' ∧ (s'.tile t).core = (s.tile t).core)

/-- A read request of one tier H line at the head of a slice, which no line of the host stands in the way of: on a hit it is counted and its four data flits leave with the words of the line; on a miss it is counted and the read waits at the stack, with the output whose Lantern read waits there, if one does; no byte of memory changes. The stack read that waits longest is answered the same way, and its line is then in the cache unless its policy is 2. No uncorrectable finding lies in the line. (Rests in part on the model's readings in log entry 51.) (R203, R207, R216, R227, R228) -/
def Obligations.TierReads : Prop :=
  (∀ (s : State) (sl : SliceId) (errs : List MemErr) (fl : Flit) (rest : List Flit) (r : LineReq),
    s.edgeQ (sliceKey sl 0) = [] → s.edgeQ (sliceKey sl 3) = fl :: rest → s.headSnoops fl = [] →
    ((hdrOf fl.hdr).kind = 2 ∨ (hdrOf fl.hdr).kind = 4) → reqsOf fl false = (false, [r]) → r.pol ≠ 3 → r.line < 2 ^ 40 →
    NoUe errs r.line →
    Completes (.memoryRequestArrival sl errs) s fun s' =>
      s'.edgeQ (sliceKey sl 3) = rest ∧ WordsKept s s' 0 0 ∧ s'.tiles = s.tiles ∧
      ((s.slice sl).has r.line = true → s'.mem.hit = s.mem.hit + 1 ∧ s'.mem.miss = s.mem.miss ∧
        (s'.slice sl).reads = (s.slice sl).reads ∧ Responds s s' sl r 0 (fourRows (s.mem.words r.line 32))) ∧
      ((s.slice sl).has r.line = false → s'.mem.miss = s.mem.miss + 1 ∧ s'.mem.hit = s.mem.hit ∧ s'.net.links = s.net.links ∧
        (s'.slice sl).reads = (s.slice sl).reads ++ [{ r with near := s.lanAtStack sl }])) ∧
  (∀ (s : State) (sl : SliceId) (errs : List MemErr) (lm : Bool) (r : LineReq) (rest : List LineReq),
    (s.slice sl).reads = r :: rest → r.lan = false → NoUe errs r.line →
    Completes (.tierReadResponse sl errs lm) s fun s' =>
      (s'.slice sl).reads = rest ∧ WordsKept s s' 0 0 ∧ (r.pol ≠ 2 → (s'.slice sl).has r.line = true) ∧
      Responds s s' sl r 0 (fourRows (s.mem.words r.line 32)))

/-- A write request of a line with its data flits at the head of a slice, for a line inside a range, not in a sealed object, an update block or the update region's packets, that no line of the host stands in the way of, no read of the line and, in tier G or C, no operation of its block: a hit or a miss is counted, each word of a row sent becomes the word sent with its mark, every other byte and mark of memory is as before, and one acceptance goes to the requester; tiles are as before unless the row is part of a record in an overflow ring. A write request of a line at the head of a slice whose line lies outside every mapped range, or in a sealed object, or in a block of an enabled update group and not at an inlet line: no byte of memory changes and the requester is answered as for any write. (Rests in part on the model's readings in log entries 51, 54 and 126.) (R203, R204, R216, R227, R228, R8, R240, R396) -/
def Obligations.LineWrites : Prop :=
  (∀ (s : State) (sl : SliceId) (errs : List MemErr) (fl : Flit) (rest ds : List Flit) (r : LineReq),
    s.edgeQ (sliceKey sl 0) = [] → s.edgeQ (sliceKey sl 3) = fl :: rest → s.headSnoops fl = [] →
    ((hdrOf fl.hdr).kind = 2 ∨ (hdrOf fl.hdr).kind = 4 ∧ s.inUpd r.line = false) → reqsOf fl false = (true, [r]) → r.pol ≠ 3 →
    ds = dataAfter fl rest → dataWhole ds = true →
    s.tierOf r.line ≠ .none → s.sealedAt r.line = false → s.updAt r.line = .none →
    (2 ^ 40 ≤ r.line → (s.slice sl).opOf (blkOf r.line) = none) → (∀ q ∈ (s.slice sl).reads, q.line ≠ r.line) →
    Completes (.memoryRequestArrival sl errs) s fun s' =>
      (∀ k, k < 32 → (lineOf ds).2.getD k false = true → s'.mem.word (r.line + 8 * k) = (lineOf ds).1.getD k pw0) ∧
      (∀ k, k < 32 → (lineOf ds).2.getD k false = false → s'.mem.word (r.line + 8 * k) = s.mem.word (r.line + 8 * k)) ∧
      WordsKept s s' r.line 256 ∧
      s'.mem.hit = s.mem.hit + ((s.slice sl).has r.line).toNat ∧ s'.mem.miss = s.mem.miss + (!(s.slice sl).has r.line).toNat ∧
      s'.edgeQ (sliceKey sl 3) = ds.foldl (fun l d => l.erase d) rest ∧
      ((∀ k, k < 4 → s.ringUnit (r.line + 64 * k) = s) → s'.tiles = s.tiles ∧ Responds s s' sl r 1 [List.replicate 8 pw0])) ∧
  (∀ (s : State) (sl : SliceId) (errs : List MemErr) (fl : Flit) (rest : List Flit) (r : LineReq),
    s.edgeQ (sliceKey sl 0) = [] → s.edgeQ (sliceKey sl 3) = fl :: rest → s.headSnoops fl = [] →
    ((hdrOf fl.hdr).kind = 2 ∨ (hdrOf fl.hdr).kind = 4) → reqsOf fl false = (true, [r]) → r.pol ≠ 3 →
    dataWhole (dataAfter fl rest) = true →
    (2 ^ 40 ≤ r.line → (s.slice sl).opOf (blkOf r.line) = none) → (∀ q ∈ (s.slice sl).reads, q.line ≠ r.line) →
    (s.tierOf r.line = .none ∨ s.sealedAt r.line = true ∨ s.updAt r.line = .other) →
    Completes (.memoryRequestArrival sl errs) s fun s' =>
      WordsKept s s' 0 0 ∧ s'.gro.packets = s.gro.packets ∧ s'.tiles = s.tiles ∧ Responds s s' sl r 1 [List.replicate 8 pw0])

/-- A read of a tier G or C line that the cache does not hold adds one fetch of its block, which starts where fewer than 16 operations of the slice are in flight. When the units of a fetch are back without an error, no fetch of the block is in flight, the waiting reads are answered in order, and no byte of memory changes. When a write-down has the block's lines, without a bad unit, in tier C its stored units leave as UIO writes; with them written, or in tier G or for a block of zeros at once, the tag of the block is that of R212 for its contents, and the requests that waited are answered; in tier G no byte changes and in tier C only the two bytes of the tag in tier H do. (Rests in part on the model's readings in log entry 47.) (R203, R205, R212, R213, R214) -/
def Obligations.BlockOperations : Prop :=
  (∀ (s : State) (sl : SliceId) (errs : List MemErr) (fl : Flit) (rest : List Flit) (r : LineReq),
    s.edgeQ (sliceKey sl 0) = [] → s.edgeQ (sliceKey sl 3) = fl :: rest → s.headSnoops fl = [] →
    ((hdrOf fl.hdr).kind = 2 ∨ (hdrOf fl.hdr).kind = 4) → reqsOf fl false = (false, [r]) → r.pol ≠ 3 →
    (s.tierOf r.line = .g ∨ s.tierOf r.line = .c) → (s.slice sl).opOf (blkOf r.line) = none → s.updAt r.line = .none →
    (s.slice sl).has r.line = false →
    Completes (.memoryRequestArrival sl errs) s fun s' =>
      (s'.slice sl).ops.map (·.blk) = (s.slice sl).ops.map (·.blk) ++ [blkOf r.line] ∧
      (∃ o ∈ (s'.slice sl).ops, o.blk = blkOf r.line ∧ o.down = false ∧ o.pol = r.pol ∧ o.waiting = [r] ∧
        ((s.slice sl).ops.length < 16 → o.stage = .read)) ∧
      s'.mem.miss = s.mem.miss + 1 ∧
      s'.net.links = s.net.links ∧ WordsKept s s' 0 0) ∧
  (∀ (s : State) (sl : SliceId) (o : BlkOp), (s.slice sl).readyOp false = some o → o.bad = [] → (s.tagOf o.blk).2 = false →
    (∀ r ∈ o.waiting, r.lan = false) →
    Completes (.blockFetchComplete sl [] false) s fun s' =>
      (∀ p ∈ (s'.slice sl).ops, p.blk = o.blk → p.down = true) ∧ WordsKept s s' 0 0 ∧
      (s'.link (linkKey (sliceRouter sl) (sliceSide sl) 3)).map (·.pay) =
        (s.link (linkKey (sliceRouter sl) (sliceSide sl) 3)).map (·.pay) ++ o.waiting.flatMap fun r => fourRows (s.mem.words r.line 32)) ∧
  (∀ (s : State) (sl : SliceId) (o : BlkOp), (s.slice sl).readyOp true = some o → o.bad = [] → (∀ r ∈ o.waiting, r.lan = false) →
    (o.stage ≠ .write → o.took.length < 16 → (s.tagOf o.blk).2 = false) →
    (isC o.blk = true → HomesFree s [(s.tagAddr o.blk, 2)] [(s.tagAddr o.blk, 2)]) →
    (isC o.blk = false ∨ o.stage = .write ∨ (relpaMode true (s.mem.words o.blk 512)).2 = 0 →
      Completes (.blockWriteDownComplete sl [] false) s fun s' =>
        (s'.tagOf o.blk).1 = relpaTag (relpaMode (isC o.blk) (s.mem.words o.blk 512)) ∧
        (∀ p ∈ (s'.slice sl).ops, p.blk = o.blk → p.down = true ∧ p.waiting = []) ∧
        (isC o.blk = false → WordsKept s s' 0 0) ∧ (isC o.blk = true → BytesKept s s' (s.tagAddr o.blk) 2) ∧
        (s'.link (linkKey (sliceRouter sl) (sliceSide sl) 3)).map (·.pay) =
          (s.link (linkKey (sliceRouter sl) (sliceSide sl) 3)).map (·.pay) ++ o.waiting.flatMap fun r => fourRows (s'.mem.words r.line 32)) ∧
    (isC o.blk = true → o.stage ≠ .write → (relpaMode true (s.mem.words o.blk 512)).2 ≠ 0 →
      Completes (.blockWriteDownComplete sl [] false) s fun s' =>
        WordsKept s s' 0 0 ∧ s'.net = s.net ∧ (∀ p ∈ (s'.slice sl).ops, p.blk = o.blk → p.stage = .write) ∧
        (s'.slice sl).uio ++ (s'.slice sl).uioq = (s.slice sl).uio ++ (s.slice sl).uioq ++
          (storedUnits o.blk (s.mem.words o.blk 512)).mapIdx fun u l => s.uioReq o.blk u true l.2))

/-- A corrected or poisoned location that waits longest is written back with the contents it has; a refresh or a refresh-management hold is counted; a scrub read is counted, a corrected word changes nothing else of memory, and a word newly found uncorrectable becomes poison and no other word changes. Nothing else of memory changes. A completion with status 0 ends a UIO request of a slice, whichever it is, and requests that wait may follow; another status or a time-out also counts TRC_IO and names the unit bad in its block operation. The response to an outstanding back-invalidate takes the line from the filter, and a modified line is written to its 64 bytes and to no other byte; a device write of the line that waited for the response is then made. (Rests in part on the model's readings in log entries 22, 49 and 53.) (R206, R208, R216, R217, R439, R441, R310, R311, R312) -/
def Obligations.MemoryUpkeep : Prop :=
  (∀ (s : State) (sl : SliceId), Completes (.correctedWordWriteback sl) s fun s' =>
      (s'.slice sl).ceWb = (s.slice sl).ceWb.drop 1 ∧ (s'.slice sl).ueWb = (s.slice sl).ueWb ∧ WordsKept s s' 0 0 ∧
      s'.net = s.net ∧ s'.tiles = s.tiles ∧ s'.err = s.err) ∧
  (∀ (s : State) (sl : SliceId), Completes (.poisonWriteback sl) s fun s' =>
      (s'.slice sl).ueWb = (s.slice sl).ueWb.drop 1 ∧ (s'.slice sl).ceWb = (s.slice sl).ceWb ∧ WordsKept s s' 0 0 ∧
      s'.net = s.net ∧ s'.tiles = s.tiles ∧ s'.err = s.err) ∧
  (∀ (s : State) (k : BitVec 3) (n : BitVec 4),
    exec (.hbmRefresh k) s = .next { s with mem := { s.mem with refresh := s.mem.refresh + 1 } } ∧
    exec (.refreshManagement k) s = .next { s with mem := { s.mem with rfm := s.mem.rfm + 1 } } ∧
    exec (.grottoRefresh n) s = .next { s with mem := { s.mem with gRefresh := s.mem.gRefresh + 1 } }) ∧
  (∀ (s : State) (a : DevAddr) (ecc : Ecc), s.act .trh 0x100 % 2 = 1 → a.toNat < 2 ^ 40 →
    Completes (.patrolScrubRead a ecc) s fun s' =>
      s'.mem.scrubs = s.mem.scrubs + 1 ∧ s'.tiles = s.tiles ∧ s'.net = s.net ∧
      ((∀ syn, ecc ≠ .ue syn) → WordsKept s s' 0 0 ∧ s'.err.ue = s.err.ue) ∧
      (∀ syn, ecc = .ce syn → s'.err.ce = s.err.ce + 1) ∧
      (∀ syn, ecc = .ue syn → (s'.mem.word (a.toNat - a.toNat % 8)).p = true ∧ WordsKept s s' (a.toNat - a.toNat % 8) 8 ∧
        ((s.mem.word (a.toNat - a.toNat % 8)).p = false → s'.err.ue = s.err.ue + 1))) ∧
  (∀ (s : State) (sl : SliceId) (n : Nat) (st : Byte) (u : UioReq), (s.slice sl).uio[n]? = some u →
    Completes (.uioCompletion sl n st) s fun s' =>
      (∃ k, (s'.slice sl).uio = (s.slice sl).uio.eraseIdx n ++ (s.slice sl).uioq.take k ∧ (s'.slice sl).uioq = (s.slice sl).uioq.drop k) ∧
      WordsKept s s' 0 0 ∧ s'.net = s.net ∧
      (st = 0 → (s'.slice sl).ops = (s.slice sl).ops ∧ s'.mem.tierCio = s.mem.tierCio) ∧
      (st ≠ 0 → s'.mem.tierCio = s.mem.tierCio + 1 ∧
        (s'.slice sl).ops = (s.slice sl).ops.map fun o => if o.blk = u.blk then { o with bad := o.bad ++ [u.unit] } else o)) ∧
  (∀ (s : State) (sl : SliceId) (n : Nat) (u : UioReq), (s.slice sl).uio[n]? = some u →
    Completes (.uioTimeout sl n) s fun s' =>
      (∃ k, (s'.slice sl).uio = (s.slice sl).uio.eraseIdx n ++ (s.slice sl).uioq.take k ∧ (s'.slice sl).uioq = (s.slice sl).uioq.drop k) ∧
      WordsKept s s' 0 0 ∧ s'.net = s.net ∧ s'.mem.tierCio = s.mem.tierCio + 1 ∧
      (s'.slice sl).ops = (s.slice sl).ops.map fun o => if o.blk = u.blk then { o with bad := o.bad ++ [u.unit] } else o) ∧
  (∀ (s : State) (a : DevAddr) (dirty : Bool) (data : List W64) (l : Nat), l = a.toNat / 64 → l ∈ s.mem.snooping → s.mem.late = [] →
    data.length = (if dirty then 8 else 0) → s.tierOf (64 * l - 64 * l % 256) ≠ .none →
    s.sealedAt (64 * l - 64 * l % 256) = false → s.updAt (64 * l - 64 * l % 256) = .none →
    Completes (.backInvalidateResponse a dirty data) s fun s' =>
      l ∉ s'.mem.snooping ∧ (∀ e ∈ s'.mem.snoop, e.line ≠ l) ∧
      (dirty = false → WordsKept s s' 0 0) ∧
      (dirty = true → WordsKept s s' (64 * l) 64 ∧ ∀ k, k < 8 → s'.mem.word (64 * l + 8 * k) = ⟨data.getD k 0, false⟩) ∧
      s'.tiles = s.tiles ∧ s'.net = s.net) ∧
  (∀ (s : State) (a : DevAddr) (l b : Nat) (bs : List Byte), l = a.toNat / 64 → l ∈ s.mem.snooping → s.mem.late = [(b, bs)] →
    64 * l ≤ b → b + bs.length ≤ 64 * l + 64 →
    Completes (.backInvalidateResponse a false []) s fun s' =>
      s'.mem.late = [] ∧ (∀ k, k < bs.length → s'.mem.byte (b + k) = bs.getD k 0) ∧ BytesKept s s' b bs.length)

/-- The oldest packet of a stack, for a line of the slot that is open there: each word it carries becomes the sum of R243, the other words of the line and every other byte of memory are as before, and a value that is not finite sets the non-finite flag of the stack. For a slot that is not open nothing of memory changes. The words are first as their H72 check leaves them. For a health inlet in a training step, with clean words, its four sums take the values sent, and a read of the inlet's line finds them. (R242, R243, R254) -/
def Obligations.UpdatePackets : Prop :=
  (∀ (s : State) (st : BitVec 4) (p : UpdPkt) (rest : List UpdPkt) (k b j : Nat) (g : Group) (er : List MemErr) (u : State),
    s.packetsAt st.toNat = p :: rest → s.updAt p.addr = .slot k b j → s.group? k = some g → p.addr % 256 = 0 → p.addr < 4 * 2 ^ 40 →
    u = ({ s with gro := { s.gro with packets := aSet [] s.gro.packets st.toNat rest } } : State).tierErrs [(p.addr, 256)] er →
    Completes (.updatePacketArrival st er) s fun s' =>
      s'.packetsAt st.toNat = rest ∧ s'.tiles = s.tiles ∧ s'.net = s.net ∧
      (s.slotOpen g j st.toNat = false → WordsKept s s' 0 0 ∧ s'.gro.nf = s.gro.nf) ∧
      (s.slotOpen g j st.toNat = true → WordsKept u s' p.addr 256 ∧
        ∀ new : Nat → PWord × Bool, (∀ w, new w = addWord g.nelem (b * g.p + ((p.addr - g.base) % 4096 - 4 * g.p * j) / 4 + 2 * w)
            (u.mem.word (p.addr + 8 * w)) (p.words.getD w pw0) (p.carries.getD w false)) →
          (∀ w, w < 32 → s'.mem.word (p.addr + 8 * w) = (new w).1) ∧
          ((∃ w, w < 32 ∧ (new w).2 = true) → s'.gro.nf.getLsbD st.toNat = true) ∧
          ((∀ w, w < 32 → (new w).2 = false) → s'.gro.nf = s.gro.nf))) ∧
  (∀ (s : State) (st : BitVec 4) (p : UpdPkt) (rest : List UpdPkt) (k : Nat), s.packetsAt st.toNat = p :: rest → s.updAt p.addr = .health k →
    s.gro.opn.isSome = true → p.carries = allWords → (∀ w ∈ p.words, w.p = false) → p.words.length = 32 →
    s.act .trg 0x110 % 256 = 0 → s.act .trg 0x110 + 2 ^ 20 ≤ 4 * 2 ^ 40 →
    Completes (.healthInletWrite st) s fun s' =>
      s'.packetsAt st.toNat = rest ∧ WordsKept s s' (s.act .trg 0x110 + 256 * k) 16 ∧ s'.tiles = s.tiles ∧
      (∀ h, s'.group? k = some h → s'.mem.word (s.act .trg 0x110 + 256 * k) = ⟨h.inlet.cells ++ h.inlet.samples, false⟩ ∧
        s'.mem.word (s.act .trg 0x110 + 256 * k + 8) = ⟨h.inlet.maxrel ++ h.inlet.bad, false⟩) ∧
      s'.gro.groups = s.gro.groups.map fun g =>
        if g.k ≠ k then g else { g with inlet :=
          { samples := g.inlet.samples + loF (p.words.getD 0 pw0).d, cells := g.inlet.cells + hiF (p.words.getD 0 pw0).d
            bad := g.inlet.bad + loF (p.words.getD 1 pw0).d, maxrel := maxRel g.inlet.maxrel (hiF (p.words.getD 1 pw0).d)
            hpoison := g.inlet.hpoison } })

/-- The next step of a block that nothing holds, its copy going to ordinary lines: BLOCK_APPLY of a step judged finite writes the words that R248 gives it, BLOCK_DISCARD of another clears the slot of the step, and both write the copy of the new version and the tag of the new contents. While other blocks of the group remain, the block is recorded as done in the step and no other byte of memory changes; with the last block the step is complete and LASTS names it. (Rests in part on the model's readings in log entry 60.) (R246, R247, R248, R249, R251, R272) -/
def Obligations.BlocksAreApplied : Prop :=
  ∀ (s u : State) (kk : BitVec 12) (blk : W32) (er : List MemErr) (i : Instr) (applied : Bool) (g : Group) (b a : Nat) (r : StepRec) (o : BlkOut),
    (i, applied) ∈ [(Instr.blockApply kk blk er, true), (.blockDiscard kk blk er, false)] →
    s.group? kk.toNat = some g → b = blk.toNat → b < g.nblk → a = g.base + 4096 * b → a + 4096 ≤ 3 * 2 ^ 40 → a % 8 = 0 →
    ((s.slice (homeOf a)).opOf a) = none → g.nextRec b = some r → r.applied = applied → s.readHolds g b r.step = false →
    HomesFree s [] (g.copyRanges b (r.step + 1)) → (∀ q ∈ g.copyRanges b (r.step + 1), PlainRange s (q.1 - q.1 % 8) (q.2 + 16)) →
    u = s.tierErrs [(a, 4096)] er →
    o = (if applied then g.applyBlk b r (u.mem.words a 512) else ⟨g.clearSlot (r.step % (g.d + 1)) (u.mem.words a 512), r⟩) →
    Completes i s fun s' =>
      aGet 0 s'.mem.tags (a / 4096) = relpaTag (relpaMode false o.ws) ∧
      ((aSet false r.blks b true).length ≠ g.nblk →
        (∀ x, s'.mem.byte x = (g.writeCopy b (r.step + 1) o.ws (u.mem.setWords a o.ws)).byte x) ∧
        s'.gro.groups = s.gro.groups.map fun h => if h.k ≠ g.k then h else
          { g with
            clean := if o.ws.drop (g.oW / 8) = (u.mem.words a 512).drop (g.oW / 8) then g.clean else aSet 0 g.clean b 0
            recs := g.recs.map fun q => if q.step = r.step then { o.r with blks := aSet false r.blks b true } else q }) ∧
      ((aSet false r.blks b true).length = g.nblk →
        ∀ h ∈ s'.gro.groups, h.k = g.k → h.lasts = r.step ∧ h.lastskip = !applied ∧ h.n = (if applied then r.n else g.n) ∧
          ∀ q ∈ h.recs, q.step = r.step → q.complete = true) ∧
      s'.tiles = s.tiles ∧ s'.net = s.net

/-- For a live context: an invalidated doorbell is read again; a doorbell line's value within the bounds of R321 is taken, one outside stops a context that has not stopped, with cause 2. The next context in rotation with a burst gets it, from the entry of R316: at most 16 descriptors, not past the end of its ring, within its quota and the limits of 8,192 descriptors and 512 reads. A returned burst advances SH by its length and its commands are in flight in ring order. (R308, R316, R318, R319, R321, R322, R323) -/
def Obligations.DoorbellsAndFetch : Prop :=
  (∀ (s : State) (c : BitVec 6), (s.ctx c).live = true →
    Completes (.doorbellInvalidation c) s fun s' =>
      s'.ctx c = { s.ctx c with dbValid := false, dbRead := true } ∧ ∀ d, d ≠ c → s'.ctx d = s.ctx d) ∧
  (∀ (s : State) (c : BitVec 6) (line : List W64), (s.ctx c).live = true → (s.ctx c).dbRead = true →
    Completes (.doorbellReadReturn c line) s fun s' =>
      ((s.ctx c).stopped = true ∨ (s.ctx c).overrun (s.ctxReg c 0x10) (s.ctxReg c 0x20) (dbSqt line) (dbCqh line) = false →
        s'.ctx c = { s.ctx c with dbRead := false, dbFirst := false, dbValid := true, sqt := dbSqt line, cqh := dbCqh line } ∧
        s'.host.out = s.host.out ∧ s'.err = s.err) ∧
      ((s.ctx c).stopped = false → (s.ctx c).overrun (s.ctxReg c 0x10) (s.ctxReg c 0x20) (dbSqt line) (dbCqh line) = true →
        (s'.ctx c).stopped = true ∧ (s'.ctx c).stopc = 2 ∧ (s'.ctx c).bursts = [] ∧ SentAs s' (s.signalVec 64) ∧
        s'.err.alert.getLsbD 5 = true)) ∧
  (∀ (s : State) (c : BitVec 6),
    ((List.range 64).map fun k => BitVec.ofNat 6 (s.host.turn + k)).find? (fun c => decide (0 < s.burstLen c)) = some c →
    Completes .descriptorFetch s fun s' =>
      ∃ n out, out = ((s.ctx c).bursts.map (·.n)).sum ∧ 0 < n ∧ n ≤ 16 ∧ s.inFlight c + out + n ≤ s.ctxReg c 0x30 ∧
        s.host.cmds.length + s.allBursts + n ≤ 8192 ∧ s.cacheReads + n ≤ 512 ∧ n ≤ ((s.ctx c).sqt - (s.ctx c).sh).toNat - out ∧
        ((s.ctx c).sh.toNat + out) % s.ctxReg c 0x10 + n ≤ s.ctxReg c 0x10 ∧
        s'.ctx c = { s.ctx c with bursts := (s.ctx c).bursts ++
          [⟨(s.ctxReg c 0x08 + 64 * (((s.ctx c).sh.toNat + out) % s.ctxReg c 0x10)) % 2 ^ 64, n⟩] } ∧
        (∀ d, d ≠ c → s'.ctx d = s.ctx d) ∧ s'.host.turn = (c.toNat + 1) % 64) ∧
  (∀ (s : State) (c : BitVec 6) (a n : Nat) (rest : List Burst) (descs : List (List W64)), (s.ctx c).bursts = ⟨a, n⟩ :: rest →
    descs.length = n → (∀ d ∈ descs, d.length = 8) →
    Completes (.descriptorBurstReturn c descs) s fun s' =>
      s'.host.cmds = s.host.cmds ++ (descs.mapIdx fun k d => ⟨s.host.nextId + k, c, d⟩) ∧ s'.host.nextId = s.host.nextId + n ∧
      (s'.ctx c).sh = (s.ctx c).sh + BitVec.ofNat 32 n ∧ (s'.ctx c).bursts = rest ∧
      (s'.ctx c).ring = (s.ctx c).ring ++ (List.range n).map (s.host.nextId + ·) ∧ (∀ d, d ≠ c → s'.ctx d = s.ctx d))

/-- With no fence open, the legal command at the head of a ring is appended to the queue of its unit when that has room, a CHECKPOINT or QUERY to those that act at once, and leaves the ring; an illegal one completes with DESC_BAD. With a fence open nothing is dispatched. A fence with no unfinished command ahead of it completes with OK. (Rests in part on the model's readings in log entry 91.) (R324, R325, R326) -/
def Obligations.DispatchAndFences : Prop :=
  (∀ (s : State) (x : BitVec 6) (c : Cmd), (s.ctx x).ring.head?.bind s.cmd? = some c → s.openFence x = none → c.legal = true →
    (s.unitQ x (unitOf c.opc)).length < 64 →
    Completes (.commandDispatch x) s fun s' =>
      (c.opc ≠ 7 → c.opc ≠ 9 → s'.unitQ x (unitOf c.opc) = s.unitQ x (unitOf c.opc) ++ [c.id] ∧ s'.host.acts = s.host.acts) ∧
      (c.opc = 7 ∨ c.opc = 9 → s'.host.acts = s.host.acts ++ [s.actOf c]) ∧ (s'.ctx x).ring = (s.ctx x).ring.drop 1 ∧
      s'.host.cmds = s.host.cmds ∧ s'.host.loads = (if c.opc = 1 then s.host.loads ++ [c.id] else s.host.loads) ∧
      (∀ d, d ≠ x → s'.ctx d = s.ctx d) ∧ s'.mem = s.mem ∧ s'.tiles = s.tiles) ∧
  (∀ (s : State) (x : BitVec 6) (c : Cmd), (s.ctx x).ring.head?.bind s.cmd? = some c → s.openFence x = none → c.legal = false → c.ctx = x →
    Completes (.commandDispatch x) s fun s' =>
      Posts s s' c 1 0 ∧ c.id ∉ (s'.ctx x).ring ∧ s'.mem = s.mem ∧ s'.tiles = s.tiles) ∧
  (∀ (s : State) (x : BitVec 6), (s.openFence x).isSome = true → exec (.commandDispatch x) s = .next s) ∧
  (∀ (s : State) (x : BitVec 6) (k : Cmd) (i : Instr), i ∈ [Instr.fence x, .fenceComplete x] → s.openFence x = some k → k.ctx = x →
    (∀ j ∈ (s.ctx x).unfinished, k.id ≤ j) →
    Completes i s fun s' => Posts s s' k 0 0 ∧ s'.openFence x ≠ some k ∧ s'.mem = s.mem ∧ s'.tiles = s.tiles)

/-- When a completion ring has room and no EVICTED record of the command still waits, its oldest record is written at entry CT modulo its size with the phase of R331, CT advances, and its command leaves flight; the vector of the context follows where IRQ or the moderation count asks for it, or becomes pending where it is masked. When the moderation time has passed the vector is signalled. A disabled context with nothing in flight is no longer live. (R306, R317, R330, R331, R333, R334, R336) -/
def Obligations.CompletionRecords : Prop :=
  (∀ (s : State) (c : BitVec 6) (r : Rec) (rest : List Rec) (m v : Nat), (s.ctx c).recs = r :: rest → m = s.ctxReg c 0x20 →
    ((s.ctx c).ct - (s.ctx c).cqh).toNat < m → (∀ id, r.cmd = some id → s.evictedWaits id = false) → v = s.ctxReg c 0x38 % 65536 →
    Completes (.completionRecordWrite c) s fun s' =>
      (s'.ctx c).recs = rest ∧ (s'.ctx c).ct = (s.ctx c).ct + 1 ∧ (∀ id, r.cmd = some id → s'.cmd? id = none) ∧
      (∀ id, r.cmd ≠ some id → s'.cmd? id = s.cmd? id) ∧
      (∃ vec : Bool, (vec = true ↔ r.irq = true ∨ (v ≠ 0 ∧ v ≤ (s.ctx c).since + 1)) ∧
        s'.host.out = s.host.out ++
          .mem c ((s.ctxReg c 0x18 + 16 * ((s.ctx c).ct.toNat % m)) % 2 ^ 64)
            [⟨BitVec.ofNat 64 (r.tag.toNat + r.status.toNat * 2 ^ 32 + r.opc.toNat * 2 ^ 48 + ((s.ctx c).ct.toNat / m + 1) % 2 * 2 ^ 56), false⟩,
              ⟨r.result, false⟩] ::
          (if vec && !(s.host.cfg.msix[c.toNat]?).any (·.masked) then [.vector c.toNat] else []) ∧
        (vec = true → (s.host.cfg.msix[c.toNat]?).any (·.masked) = true → c.toNat ∈ s'.host.pba)) ∧
      (∀ d, d ≠ c → s'.ctx d = s.ctx d) ∧ s'.mem = s.mem ∧ s'.tiles = s.tiles) ∧
  (∀ (s : State) (c : BitVec 6) (t f : Nat), t = s.ctxReg c 0x38 / 65536 → t ≠ 0 → (s.ctx c).first = some f → f + t ≤ s.dev.time →
    Completes (.moderationTimerExpiry c) s fun s' =>
      SentAs s' (s.signalVec c.toNat) ∧ s'.ctx c = { s.ctx c with since := 0, first := none } ∧
      ∀ d, d ≠ c → s'.ctx d = s.ctx d) ∧
  (∀ (s : State) (c : BitVec 6), (s.ctx c).en = false → (s.ctx c).live = true → s.inFlight c = 0 →
    Completes (.contextDisableComplete c) s fun s' =>
      s'.ctx c = { s.ctx c with live := false, dbRead := false, since := 0, first := none } ∧ s'.host.out = s.host.out ∧ ∀ d, d ≠ c → s'.ctx d = s.ctx d)

/-- CTX_XLATE on a live context that is not stopped stops it with cause 1, logs, sets ALERT bit 5 and signals vector 64; no other context stops and memory is as before; a command in execution whose own access it was completes with 0x1020 (a reading of the model, log entry 88). HOST_LINK with the link up signals vector 64, closes the sessions of the Keep, and, unless a compute-domain reset is in progress, clears every tile, ends runs and sessions, unloads images and sets CDRESET. (R314, R315, R336, R404, R455, R458) -/
def Obligations.HostFailures : Prop :=
  (∀ (s : State) (c : BitVec 6) (a : W64), (s.ctx c).live = true → (s.ctx c).stopped = false →
    Completes (.ctxXlate c a) s fun s' =>
      (s'.ctx c).stopped = true ∧ (s'.ctx c).stopc = 1 ∧ (s'.ctx c).bursts = [] ∧ SentAs s' (s.signalVec 64) ∧
      s'.err.alert.getLsbD 5 = true ∧
      (∀ d, d ≠ c → (s'.ctx d).stopped = (s.ctx d).stopped ∧ (s'.ctx d).en = (s.ctx d).en) ∧ s'.mem = s.mem ∧ s'.tiles = s.tiles ∧
      (∀ k, s.recAt c a.toNat = false → s.xlateCmd c a.toNat = some k →
        ∃ new r, (s'.ctx c).recs = (s.ctx c).recs ++ new ∧ r ∈ new ∧ r.cmd = some k.id ∧ r.tag = k.tag ∧ r.status = 0x1020)) ∧
  (∀ (s : State) (k : BitVec 2), s.pwr.linkUp = true →
    Completes (.hostLink k) s fun s' =>
      s'.dev.cdreset = true ∧ s'.keep.sessions = [] ∧ k ∉ s'.keep.ideStreams ∧ s'.err.faults = s.err.faults + 1 ∧
      s'.err.alert.getLsbD 0 = true ∧ SentAs s' (s.signalVec 64) ∧
      (s.err.firstCode = 0 → s'.err.firstCode = 0x8020) ∧ (s.err.firstCode ≠ 0 → s'.err.firstCode = s.err.firstCode) ∧
      (s.dev.cdreset = false → s'.tiles = [] ∧ s'.net.ejects = [] ∧ s'.imgs = [] ∧ s'.sess = [] ∧ s'.trn.run = none ∧
        s'.gro.groups = [] ∧ s'.sch.phase = .idle))

/-- On a link in 256 B flit mode with memory active, a host address that an HDM decoder maps goes to the tier H address at the same offset, and nothing at its home stands in the way: HOST_MEM_READ of a line without an outstanding back-invalidate answers its eight words, as the H72 check leaves them, and records the line, and HOST_MEM_WRITE stores eight clean words, changes no other byte, and removes the line from the filter. Before Memory_Active a read is answered with poison, a write changes nothing, and both signal vector 64. Without CXL.mem, or at an address that no decoder maps, neither does anything. (Rests in part on the model's readings in log entries 20, 56 and 130.) (R307, R309, R310, R311, R419) -/
def Obligations.HostMemoryAccesses : Prop :=
  (∀ (s : State) (hpa : W64) (a : Nat) (own : Bool) (er : List MemErr) (l : Nat) (u : State), s.hdmAddr hpa = some a → l = a / 64 →
    u = s.tierErrs [(64 * l, 64)] er → s.pwr.linkUp = true → s.pwr.flit256 = true → s.pwr.memact = true →
    s.homeBusy [] [(64 * l, 64)] = false →
    l ∉ s.mem.snooping → ((∃ e ∈ s.mem.snoop, e.line = l) ∨ s.mem.snoop.length < snoopCap) →
    Completes (.hostMemRead hpa own er) s fun s' =>
      s'.host.out = u.host.out ++ [.answer hpa (u.mem.words (64 * l) 8)] ∧ WordsKept u s' 0 0 ∧ s'.tiles = s.tiles ∧
      (∃ e ∈ s'.mem.snoop, e.line = l ∧ (own = true → e.mod = true))) ∧
  (∀ (s : State) (hpa : W64) (a : Nat) (data : List W64) (l : Nat), s.hdmAddr hpa = some a → l = a / 64 →
    s.pwr.linkUp = true → s.pwr.flit256 = true → s.pwr.memact = true →
    s.homeBusy [] [(64 * l, 64)] = false → l ∉ s.mem.snooping → PlainRange s (64 * l) 64 →
    Completes (.hostMemWrite hpa data) s fun s' =>
      s'.host.out = s.host.out ++ [.answer hpa []] ∧ (∀ k, k < 8 → s'.mem.word (64 * l + 8 * k) = ⟨data.getD k 0, false⟩) ∧
      WordsKept s s' (64 * l) 64 ∧ (∀ e ∈ s'.mem.snoop, e.line ≠ l) ∧ s'.tiles = s.tiles) ∧
  (∀ (s : State) (hpa : W64) (a : Nat) (own : Bool) (er : List MemErr) (data : List W64), s.hdmAddr hpa = some a →
    s.pwr.linkUp = true → s.pwr.flit256 = true → s.pwr.memact = false →
    (Completes (.hostMemRead hpa own er) s fun s' => WordsKept s s' 0 0 ∧ s'.host.pba = (s.signalVec 64).host.pba ∧
      ∃ ws : List PWord, ws.length = 8 ∧ (∀ w ∈ ws, w.p = true) ∧ s'.host.out = (s.signalVec 64).host.out ++ [.answer hpa ws]) ∧
    (Completes (.hostMemWrite hpa data) s fun s' => WordsKept s s' 0 0 ∧ s'.host.pba = (s.signalVec 64).host.pba ∧
      s'.host.out = (s.signalVec 64).host.out ++ [.answer hpa []])) ∧
  (∀ (s : State) (hpa : W64) (own : Bool) (er : List MemErr) (data : List W64), s.hdmAddr hpa = none ∨ s.pwr.linkUp = false ∨ s.pwr.flit256 = false →
    exec (.hostMemRead hpa own er) s = .next s ∧ exec (.hostMemWrite hpa data) s = .next s)

/-- A COPY at the head of its mover queue begins a stream, and one of no bytes completes with OK at once. The oldest stream whose credit covers it reads the next 256 B of its source into the staging buffer, as the H72 check leaves them, which takes its credit; the oldest stream with a staged line writes that line to the same offset of its destination, on the host or in plain lines of a tier, and to no other byte, the credit returns, and with its last line a COPY completes with OK and LEN. A whole COPY within tier H under NOALLOC, run by one read and one write for each of its lines, leaves at its destination what its source held at the start, overlap or not, changes no byte outside and completes. (Rests in part on the model's readings in log entries 57, 92 and 131.) (R203, R229, R234, R328, R329, R330) -/
def Obligations.CopyMovesTheWholeSource : Prop :=
  (∀ (s : State) (x : BitVec 6) (c : Cmd), s.unitHead x .mover = some c → c.opc = 4 → s.streamOf (.copy c.id) = none →
    Completes (.copy x) s fun s' => s'.mem = s.mem ∧ s'.tiles = s.tiles ∧ s'.host.out = s.host.out ∧
      (c.num 40 8 = 0 → Posts s s' c 0 0 ∧ s'.obj.streams = s.obj.streams) ∧
      (c.num 40 8 ≠ 0 → s'.host = s.host ∧ ∃ m, s'.obj.streams = s.obj.streams ++ [m] ∧ m.what = .copy c.id ∧ m.src = c.num 24 8 ∧
        m.dst = c.num 32 8 ∧ m.len = c.num 40 8 ∧ m.staged = [] ∧ m.asked = 0 ∧ m.done = 0 ∧ m.credit = 16384)) ∧
  (∀ (s u : State) (m : MvStream) (data : List W64) (er : List MemErr), s.obj.streams.find? MvStream.canAsk = some m →
    (∀ k ∈ s.obj.streams, k.what = m.what → k = m) → (m.hostSrc = true → data.length = 32) →
    (m.hostSrc = false → HomesFree s [(m.src + m.next, 256)] []) →
    u = (if m.hostSrc then s else s.tierErrs [(m.src + m.next, 256)] er) →
    Completes (.moverReadIssue false data er) s fun s' => WordsKept u s' 0 0 ∧ s'.tiles = s.tiles ∧
      s'.streamOf m.what = some { m with asked := m.asked + 256, credit := m.credit - 256, staged := m.staged ++
        [(m.next, if m.hostSrc then data.map fun w => ⟨w, false⟩ else u.svcRead (m.src + m.next) 32)] }) ∧
  (∀ (s : State) (m : MvStream) (off : Nat) (ws : List PWord) (rest : List (Nat × List PWord)),
    (s.obj.streams.find? fun k => !k.staged.isEmpty) = some m → (∀ k ∈ s.obj.streams, k.what = m.what → k = m) →
    m.staged = (off, ws) :: rest → ws.length = 32 → (m.dst + off) % 256 = 0 →
    (m.hostDst = false → HomesFree s [] [(m.dst + off, 256)] ∧ PlainRange s (m.dst + off) 256) →
    Completes (.moverCreditReturn false) s fun s' => s'.tiles = s.tiles ∧
      (m.hostDst = true → s'.host.out = s.host.out ++ [.mem m.ctx (m.dst + off) ws] ∧ WordsKept s s' 0 0) ∧
      (m.hostDst = false → s'.host.out = s.host.out ∧ (∀ k, k < 32 → s'.mem.word (m.dst + off + 8 * k) = ws.getD k pw0) ∧
        WordsKept s s' (m.dst + off) 256) ∧
      (m.done + 256 ≠ m.len → s'.streamOf m.what = some { m with done := m.done + 256, credit := m.credit + 256, staged := rest }) ∧
      (∀ c, m.done + 256 = m.len → m.what = .copy c.id → s.cmd? c.id = some c →
        Posts s s' c 0 (BitVec.ofNat 64 m.len) ∧ s'.streamOf m.what = none)) ∧
  (∀ (s : State) (x : BitVec 6) (c : Cmd) (a d n : Nat), s.unitHead x .mover = some c → c.opc = 4 → c.num 16 1 = 8 → s.obj.streams = [] →
    a = c.num 24 8 → d = c.num 32 8 → c.num 40 8 = 256 * n → 0 < n → a % 256 = 0 → d % 256 = 0 → a + 256 * n ≤ 2 ^ 40 → d + 256 * n ≤ 2 ^ 40 →
    HomesFree s [(a, 256 * n)] [(d, 256 * n)] → PlainRange s d (256 * n) →
    ∃ s', runs (.copy x :: (List.replicate n [Instr.moverReadIssue false [] [], .moverCreditReturn false]).flatten) s = some s' ∧
      (∀ k, k < 32 * n → s'.mem.word (d + 8 * k) = s.mem.word (a + 8 * k)) ∧ WordsKept s s' d (256 * n) ∧
      Posts s s' c 0 (BitVec.ofNat 64 (256 * n)) ∧ s'.obj.streams = [])

/-- A PLACE at the head of the movers that fits without an eviction makes an object at the lowest free range under the lowest free identifier and completes with both; one that needs evictions plans them and the mover begins the first; one that no evictions make room for, or that finds the table full, completes with a status of R232 or 0x33. Each OBJECT_SPILL_COMPLETE of an object that has been moved, or that is dropped, changes or frees its entry and posts EVICTED to its owner; with the last one the PLACE ends. An EVICT of an own object that is not bound frees it, or begins to move it, at once or behind an eviction set; with the last line written, its entry changes and it completes with the new base; a bound one completes with 0x32, and one that is free or another client's with 0x34. (Rests in part on the model's readings in log entries 57, 59, 95 and 131.) (R229, R230, R231, R232, R234, R329, R332) -/
def Obligations.ObjectsArePlacedAndMoved : Prop :=
  (∀ (s : State) (x : BitVec 6) (c : Cmd) (t size : Nat), s.moverHead x 5 = some c → c.ctx = x → t = c.num 16 1 → size = c.num 24 8 →
    Completes (.place x) s fun s' => s'.mem = s.mem ∧ s'.tiles = s.tiles ∧
      (s.freeId = none → Posts s s' c 0x33 0 ∧ s'.obj = s.obj) ∧
      (s.freeId.isSome = true → s.makeRoom c.id [] t size = none → s'.obj = s.obj ∧
        (size ≤ s.freeBytes t → Posts s s' c 0x31 0) ∧ (s.freeBytes t < size → Posts s s' c 0x30 0)) ∧
      (∀ id b, s.freeId = some id → lowestFit (s.tierRange t) s.obj.objs t size = some b →
        s'.obj? id = some ⟨id, x, t, b, size, spillOf (c.num 17 1), decide (c.num 18 1 % 2 = 1), s.dev.time, false⟩ ∧
        (∀ k, k ≠ id → s'.obj? k = s.obj? k) ∧ Posts s s' c 0 (BitVec.ofNat 64 (b + id * 2 ^ 48))) ∧
      (∀ p m ms, s.freeId.isSome = true → s.makeRoom c.id [] t size = some p → p.moves = m :: ms →
        s'.obj.objs = s.obj.objs ∧ s'.host = s.host ∧
        s'.obj.job = some ⟨x, c.id, p.moves, .place t p.base size (spillOf (c.num 17 1)) (decide (c.num 18 1 % 2 = 1))⟩ ∧
        (∀ o t2 b, m.dst = some (t2, b) → s.obj? m.obj = some o →
          ∃ k, s'.obj.streams = s.obj.streams ++ [k] ∧ k.what = .obj m.obj ∧ k.src = o.base ∧ k.dst = b ∧ k.len = o.size))) ∧
  (∀ (s : State) (j : PlaceJob) (m : Move) (ms : List Move) (o : Obj) (n : W16), s.obj.job = some j → j.moves = m :: ms →
    s.obj? n.toNat = some o → m.obj = n.toNat → (m.dst.isSome = true → s.moved n.toNat = true) →
    Completes (.objectSpillComplete n) s fun s' => s'.mem = s.mem ∧ s'.tiles = s.tiles ∧
      (∃ new, (s'.ctx o.owner).recs = (s.ctx o.owner).recs ++
        ⟨BitVec.ofNat 32 o.id, if m.dst.isSome then 0 else 0x35, 0x80, (m.dst.map fun d => BitVec.ofNat 64 d.2).getD (BitVec.allOnes 64),
          false, none, some j.cmd⟩ :: new) ∧
      (ms ≠ [] → s'.obj.job = some { j with moves := ms } ∧
        (∀ t b, m.dst = some (t, b) → s'.obj? n.toNat = some { o with tier := t, base := b }) ∧ (m.dst = none → s'.obj? n.toNat = none)) ∧
      (∀ t b size sp pin, ms = [] → j.fin = .place t b size sp pin → s.freeId.isSome = true →
        s'.obj.job = none ∧ ∃ id, s'.obj? id = some ⟨id, j.ctx, t, b, size, sp, pin, s.dev.time, false⟩)) ∧
  (∀ (s : State) (x : BitVec 6) (c : Cmd), s.moverHead x 6 = some c → c.ctx = x →
    Completes (.evict x) s fun s' => s'.mem = s.mem ∧ s'.tiles = s.tiles ∧
      ((∀ o, s.obj? (c.num 16 2) = some o → o.owner ≠ x) → Posts s s' c 0x34 0) ∧
      (∀ o, s.obj? (c.num 16 2) = some o → o.owner = x →
        (s.bound o c.id = true → Posts s s' c 0x32 0) ∧
        (s.bound o c.id = false → c.num 18 1 = 3 → Posts s s' c 0 (BitVec.allOnes 64) ∧ s'.obj? (c.num 16 2) = none) ∧
        (s.bound o c.id = false → c.num 18 1 ≠ 3 → c.num 18 1 = o.tier → Posts s s' c 0 (BitVec.ofNat 64 o.base)) ∧
        (s.bound o c.id = false → c.num 18 1 ≠ 3 → c.num 18 1 ≠ o.tier → s.makeRoom c.id [o.id] (c.num 18 1) o.size = none →
          Posts s s' c (s.noRoom (c.num 18 1) o.size) 0) ∧
        (∀ p, s.bound o c.id = false → c.num 18 1 ≠ 3 → c.num 18 1 ≠ o.tier → s.makeRoom c.id [o.id] (c.num 18 1) o.size = some p →
          s'.obj.objs = s.obj.objs ∧ s'.host = s.host ∧ s'.obj.job = some ⟨x, c.id, p.moves, .evict o.id (c.num 18 1) p.base⟩ ∧
          (p.moves = [] → ∃ k, s'.obj.streams = s.obj.streams ++ [k] ∧ k.what = .obj o.id ∧ k.src = o.base ∧ k.dst = p.base ∧ k.len = o.size)))) ∧
  (∀ (s : State) (m : MvStream) (o : Obj) (j : PlaceJob) (c : Cmd) (off t b : Nat) (ws : List PWord),
    (s.obj.streams.find? fun k => !k.staged.isEmpty) = some m → (∀ k ∈ s.obj.streams, k.what = m.what → k = m) →
    m.what = .obj o.id → s.obj? o.id = some o → s.obj.job = some j → j.moves = [] → j.fin = .evict o.id t b → s.cmd? j.cmd = some c →
    m.staged = [(off, ws)] → m.done + 256 = m.len → m.hostDst = false → HomesFree s [] [(m.dst + off, 256)] →
    Completes (.moverCreditReturn false) s fun s' =>
      s'.obj.job = none ∧ (s'.obj? o.id).map (fun q => (q.tier, q.base)) = some (t, b) ∧ s'.streamOf m.what = none ∧
      Posts s s' c 0 (BitVec.ofNat 64 b))

/-- A LOAD_IMAGE at the head of the loader, with its source there and no host line in its way: without an object it completes with 0x40; while its client trains or serves, with 0x41; with a wrong header, with 0x42; else the source, as the H72 check leaves it, is copied and checked: the status of the first failed check, or OK with the first 64 bits of the digest, the object sealed and the image the one of the client. A failed load leaves every loaded image as it was. (Rests in part on the model's readings in log entry 101.) (R391, R394, R396, R401, R402) -/
def Obligations.ImagesAreLoaded : Prop :=
  ∀ (s u : State) (x : BitVec 6) (src : List W64) (er : List MemErr) (c : Cmd) (len n : Nat) (host : Bool), s.loadHead x = some c → c.ctx = x →
    len = c.num 32 8 → n = (len + 7) / 8 → host = decide (c.num 16 1 % 2 = 1) → (host = true → src.length = n) →
    (∀ o rd, s.loadObj c = some o → rd = (if host then [] else [(c.num 24 8, 8 * n)]) ++ [(o.base + o.size - 4096, 4096)] →
      HomesFree s rd [(o.base, 8 * n)] ∧ u = s.tierErrs rd er) →
    ∀ ws : List PWord, ws = (if host then src.map fun w => ⟨w, false⟩ else u.svcRead (c.num 24 8) n) →
    ∀ hd : List Byte, hd = (ws.take 3).flatMap (fun w => toBytes 8 w.d.toNat) →
    ∀ busy : Bool, busy = (s.trn.run.any (fun r => decide (r.ctx = x)) || (s.session x).isSome) →
    Completes (.loadImage x src er) s fun s' =>
      c.id ∉ s'.host.loads ∧
      (s.loadObj c = none → Posts s s' c 0x40 0 ∧ s'.imgs = s.imgs ∧ s'.mem = s.mem) ∧
      (∀ o, s.loadObj c = some o →
        (busy = true → Posts s s' c 0x41 0 ∧ s'.imgs = s.imgs ∧ s'.mem = s.mem) ∧
        (busy = false → (hd.take 10 ≠ magic9 ++ [0x49, 1, 0] ∨ len ≠ ofBytes (hd.drop 16) + 64) →
          Posts s s' c 0x42 0 ∧ s'.imgs = s.imgs ∧ WordsKept u s' 0 0) ∧
        (busy = false → hd.take 10 = magic9 ++ [0x49, 1, 0] → len = ofBytes (hd.drop 16) + 64 →
          ∀ d : List Byte, d = sha512 ((ws.flatMap fun w => toBytes 8 w.d.toNat).take (len - 64)) →
          ∀ v : State, v = (if host then u else u.svcSeen u.svcReq (c.num 24 8) (8 * n)) →
          match (v.svcWrite o.base (c.id + 1) (v.imageWords o.base len ws)).checkImage x o.base o.size d with
          | .inl e => Posts s s' c e 0 ∧ s'.imgs = s.imgs
          | .inr (_, ids) => Posts s s' c 0 (BitVec.ofNat 64 (ofBytes (d.take 8))) ∧
            (∃ img, s'.image x = some img ∧ img.digest = d ∧ img.obj = o.id ∧ img.binds = ids) ∧
            (∃ q, s'.obj? o.id = some q ∧ q.sealed = true) ∧ (s'.client x.toNat).saved = false ∧
            ∀ y, y ≠ x → s'.image y = s.image y))

/-- The oldest dispatched QUERY of each form, of the object form one that names an own object: its bytes go to the host address it names, cut at LEN: the time, the number of entries, four zero bytes, then the entries; it completes with OK, or with status 2 where it was cut, and the number of bytes written. QUERY of an object that is free or of another client completes with OBJ_BAD (0x34) and sends nothing. Memory, the tiles and the error log are as before, HEAD too. (Rests in part on the model's readings in log entries 58 and 93.) (R328, R329, R330, R462) -/
def Obligations.QueriesAnswer : Prop :=
  (∀ (s : State) (x : BitVec 6) (c : Cmd) (i : Instr) (k n : Nat) (body all : List Byte),
    (i, k, n, body) ∈
      [ (Instr.queryDevice x, 0, s.devCounters.length, s.devCounters.flatMap fun c => count16 c.2)
      , (.queryTile x, 1, (s.tile (BitVec.ofNat 11 (c.num 18 2))).ctr.list.length + 2,
          (s.tile (BitVec.ofNat 11 (c.num 18 2))).ctr.list.flatMap count16 ++ toBytes 8 (s.tile (BitVec.ofNat 11 (c.num 18 2))).stateWord
            ++ toBytes 8 (s.tile (BitVec.ofNat 11 (c.num 18 2))).pcWord)
      , (.queryClient x, 2, 8, (s.client (c.num 18 2)).list.flatMap count16 ++ (s.ctxRegs (c.num 18 2)).flatMap fun n => toBytes 8 n)
      , (.queryTierPool x, 4, 71,
          ([(s.tierRange (c.num 18 2)).2, s.freeBytes (c.num 18 2), s.largestFree (c.num 18 2),
            (s.obj.objs.filter fun o => decide (o.tier = c.num 18 2)).length,
            (((s.obj.objs.filter fun o => decide (o.tier = c.num 18 2)).filter (·.pin)).map (·.size)).sum,
            (((s.obj.objs.filter fun o => decide (o.tier = c.num 18 2)).filter
              fun o => decide (0 < s.bindCount o c.id) || o.sealed).map (·.size)).sum].flatMap fun n => toBytes 8 n)
            ++ count16 (s.obj.evictions.getD (c.num 18 2) 0)
            ++ (List.range 64).flatMap fun k => toBytes 8 (usage s.obj.objs (c.num 18 2) (BitVec.ofNat 6 k)))
      , (.queryErrorLog x, 5, (s.err.tail + 512 - s.err.head) % 512,
          (List.range ((s.err.tail + 512 - s.err.head) % 512)).flatMap fun k =>
            (aGet none s.err.log ((s.err.head + k) % 512)).elim (toBytes 32 0) LogEnt.bytes)
      , (.queryObject x, 3, 1, (s.obj? (c.num 18 2)).elim [] fun o => toBytes 2 o.id ++ toBytes 1 o.owner.toNat ++ toBytes 1 o.tier
          ++ toBytes 1 o.spill.num ++ toBytes 1 o.pin.toNat ++ toBytes 2 0 ++ toBytes 8 (s.bindCount o c.id) ++ toBytes 8 o.base
          ++ toBytes 8 o.size ++ cnt8 o.touch ++ toBytes 8 0) ] →
    s.queryCmd x k = some c → c.ctx = x → (k = 3 → ∃ o, s.obj? (c.num 18 2) = some o ∧ o.owner = x) → all = cnt8 s.dev.time ++ toBytes 4 n ++ toBytes 4 0 ++ body →
    Completes i s fun s' =>
      s'.host.out = s.host.out ++ [.bytes x (c.num 24 8) (all.take (c.num 32 4))] ∧
      Posts s s' c (if c.num 32 4 < all.length then 2 else 0) (BitVec.ofNat 64 (all.take (c.num 32 4)).length) ∧
      s'.mem = s.mem ∧ s'.tiles = s.tiles ∧ s'.err = s.err) ∧
  (∀ (s : State) (x : BitVec 6) (c : Cmd), s.queryCmd x 3 = some c → c.ctx = x → (∀ o, s.obj? (c.num 18 2) = some o → o.owner ≠ x) →
    Completes (.queryObject x) s fun s' =>
      Posts s s' c 0x34 0 ∧ s'.host.out = s.host.out ∧ s'.mem = s.mem ∧ s'.tiles = s.tiles ∧ s'.err = s.err)

/-- RUN_STEPS at the head of the sequencer, with no run and no TRG commit in progress, on a TCB as the host last wrote it and as its H72 check leaves it: refused with RUN_BAD under R260, else the run stands and its TCB shows it. A feed with credit asks 256 B; freed entries return as credit, and a feed that has ended ends the run; a micro-batch that is there is written whole into its ring entry. A run whose client runs and whose tiles wait has the line of its first step written; when its feed is ready the step begins: it is open to the engines and every tile issues from its step body. (Rests in part on the model's readings in log entry 76.) (R229, R257, R258, R259, R260, R261, R263, R264) -/
def Obligations.TrainingRunsBeginAndFeed : Prop :=
  (∀ (s u : State) (x : BitVec 6) (er : List MemErr) (c : Cmd) (tcb : Nat), s.unitHead x .trainer = some c → c.opc = 2 → s.trn.run = none →
    s.busy .trg = false → s.dev.cdreset = false → tcb = c.num 16 6 → HomesFree s [(tcb, 256)] [] →
    u = (if inH tcb 256 then s.tierErrs [(tcb, 256)] er else s) → HomesFree u [] [(tcb + 128, 128)] → tcb % 256 = 0 →
    Completes (.runSteps x er) s fun s' =>
      (u.runBad c = true → Posts s s' c 0x10 (BitVec.ofNat 64 s.trn.tstep) ∧ s'.trn = s.trn ∧ s'.mem = u.mem) ∧
      (u.runBad c = false → PlainRange u tcb 256 → s'.trn = { s.trn with run := some (u.newRun c) } ∧
        s'.mem.rdBytes (tcb + 128) 128 = (u.newRun c).bytes s.trn ∧ BytesKept u s' (tcb + 128) 128 ∧ s'.host = s.host)) ∧
  (∀ (s : State) (src : List W64) (er : List MemErr) (r : TRun) (f : Feed), s.trn.run = some r → f.canAsk = true →
    (r.tfeed = some f → exec (.moverReadIssue true src er) s = .next { s with trn := { s.trn with
      run := some { r with tfeed := some { f with asked := f.asked + 256, credit := f.credit - 256 } } } }) ∧
    (r.ffeed = some f → (∀ g, r.tfeed = some g → g.canAsk = false) → exec (.moverReadIssue true src er) s = .next { s with trn := { s.trn with
      run := some { r with ffeed := some { f with asked := f.asked + 256, credit := f.credit - 256 } } } })) ∧
  (∀ (s : State) (r : TRun), s.trn.run = some r →
    Completes (.moverCreditReturn true) s fun s' =>
      ((r.phase = .start ∨ r.phase = .wait) → r.starved = true → s'.trn.run = none) ∧
      (¬ ((r.phase = .start ∨ r.phase = .wait) ∧ r.starved = true) → s' = { s with trn := { s.trn with run := some { r with
        tfeed := r.tfeed.map fun f => { f with credit := f.credit + f.freed, freed := 0 }
        ffeed := r.ffeed.map fun f => { f with credit := f.credit + f.freed, freed := 0 } } } })) ∧
  (∀ (s u : State) (fill : Bool) (er : List MemErr) (r r' : TRun) (f : Feed) (p dst len : Nat) (wrapped : Bool) (recs : List Nat), s.trn.run = some r →
    (if fill then r.ffeed else r.tfeed) = some f → f.start = some (p, wrapped) → f.d.size ≤ f.asked →
    recs = (List.range f.d.mbr).map (fun i => s.record f.d (p + i)) → dst = f.d.ring + f.seq % f.d.nslot * f.d.size → len = f.d.rsize * 256 →
    HomesFree s ((f.d.ord + 4 * p, 4 * f.d.mbr) :: recs.map fun a => (a, len)) [(dst, f.d.size)] → f.d.ring % 256 = 0 → PlainRange s dst f.d.size →
    r' = (let f' : Feed := { f with
            pos := p + f.d.mbr, seq := f.seq + 1, asked := 0, full := f.full ++ [⟨f.seq, p, p + f.d.mbr, wrapped⟩] }
          if fill then { r with ffeed := some f' } else { r with tfeed := some f' }) →
    ¬ ((r.phase = .start ∨ r.phase = .wait) ∧ r'.starved = true) →
    u = s.tierErrs ((f.d.ord + 4 * p, 4 * f.d.mbr) :: recs.map fun a => (a, len)) er →
    Completes (.feedEntryFilled fill er) s fun s' =>
      s'.trn = { s.trn with run := some r' } ∧ WordsKept u s' dst f.d.size ∧
      ∀ k, k < f.d.size / 8 → s'.mem.word (dst + 8 * k) = (recs.flatMap fun a => u.svcRead a (len / 8)).getD k pw0) ∧
  (∀ (s : State) (r : TRun) (img : Image) (rest : Option Scope) (fills : List FedMb), s.trn.run = some r → s.image r.ctx = some img →
    r.phase = .start → r.starved = false → s.atRest = some rest → s.running r.ctx = true → s.dev.cdreset = false → s.session r.ctx = none →
    HomesFree s [] [(r.sline, 256)] → fills = (r.ffeed.elim [] (·.full)).take r.fb →
    Completes .runFirstStepStart s fun s' =>
      (r.fed = false → r.lined = false → r.sline % 256 = 0 → PlainRange s r.sline 256 →
        s'.trn.run = some { r with slots := List.range fills.length, fills := fills, lined := true } ∧ s'.tiles = s.tiles ∧
        s'.mem.rdBytes r.sline 256 = s.stepLine r fills.length ((fills.head?.map (·.pos0)).getD r.fpos) ∧ BytesKept s s' r.sline 256) ∧
      (r.fed = true → (∃ r', s'.trn.run = some r' ∧ r'.phase = .step ∧ r'.ctx = r.ctx ∧ r'.fills = (if r.lined then r.fills else fills)) ∧
        s'.gro.opn = some s.trn.tstep ∧ s'.gro.nf = 0 ∧ s'.gro.reported = 0 ∧ s'.gro.judged = false ∧
        ∀ t ∈ scopeTiles .module false, (s'.tile t).core.phase = .issue ∧
          (s'.tile t).core.hdr = s'.tileEntry (s'.tilesAt img.dst) t 10 ∧ (s'.tile t).core.pc = s'.tileEntry (s'.tilesAt img.dst) t 10 + 4))

/-- At the closing barrier of a step: a stack with no packet left reports; with all sixteen reports the flag becomes the verdict, every group gets a record of the step with its counter of R248, and the run keeps it for the step end. When the verdict, the applies and the reads of R262 are there, STEP_END advances TSTEP, and LASTV is that verdict; a run with no step left ends and its command completes with OK and TSTEP. (Rests in part on the model's readings in log entry 80.) (R244, R245, R248, R257, R262, R267) -/
def Obligations.TrainingStepsAreJudgedAndEnd : Prop :=
  (∀ (s : State) (k : BitVec 4) (r : TRun), s.stepping = some r → s.gro.reported.getLsbD k.toNat = false → s.atClose r = true →
    s.packetsAt k.toNat = [] →
    ∀ s1 : State, s1 = { s with gro := { s.gro with reported := s.gro.reported ||| BitVec.ofNat 16 (2 ^ k.toNat) } } →
    exec (.stackFlagReport k) s = .next (if r.chain then s1.tryArrive else s1) ∧ s1.gro.reported.getLsbD k.toNat = true ∧
      ∀ j, j < 16 → j ≠ k.toNat → s1.gro.reported.getLsbD j = s.gro.reported.getLsbD j) ∧
  (∀ (s : State) (r : TRun) (bad : Bool), s.stepping = some r → s.gro.judged = false → s.gro.opn = some s.trn.tstep →
    s.gro.reported = 0xFFFF → s.atClose r = true → (r.chain = true → s.releasable .chain false = true) →
    bad = (if r.chain then s.opv.relNf else s.moduleFlag) →
    Completes .verdictArrival s fun s' =>
      s'.gro.judged = true ∧ s'.trn = { s.trn with run := some { r with bad := bad } } ∧ s'.gro.groups.length = s.gro.groups.length ∧
      (∀ (j : Nat) (g : Group), s.gro.groups[j]? = some g → ∃ (h : Group) (q : StepRec), s'.gro.groups[j]? = some h ∧ h.recs = g.recs ++ [q] ∧ h.k = g.k ∧ h.applying = true ∧
        h.finites = (if bad then g.finites else g.finites + 1) ∧ q.step = s.trn.tstep ∧ q.applied = !bad ∧ q.complete = false ∧
        q.n = g.n0 + 1 + g.finites ∧ q.lrs = fmul g.lr (s.schedMult g (g.n0 + 1 + g.finites))) ∧
      s'.tiles = s.tiles ∧ s'.net = s.net) ∧
  (∀ (s : State) (r : TRun), s.trn.run = some r → r.phase = .step → s.gro.judged = true → s.atClose r = true →
    s.releasable r.scope false = true → s.appliesDone s.trn.tstep = true → s.readsDone r s.trn.tstep = true →
    HomesFree s [] [(r.tcb + 128, 128), (s.act .trg 0x120, s.act .trg 0x128)] → r.halt = false →
    Completes .stepEnd s fun s' =>
      s'.trn.tstep = s.trn.tstep + 1 ∧ s'.trn.lastv = r.bad ∧ s'.trn.tseq = s.trn.tseq + ((r.tfeed.elim [] (·.full)).take r.mb).length ∧
      s'.trn.fseq = s.trn.fseq + r.fills.length ∧
      (r.left = 1 → s'.trn.run = none ∧ (r.ckCmds = [] → ∀ c, s.cmd? r.cmd = some c → Posts s s' c 0 (BitVec.ofNat 64 (s.trn.tstep + 1)))))

/-- A CHECKPOINT whose client's run was in progress when it was dispatched, with CKN above 0, waits with that run while it goes on; without a run then, or with that run over, it completes with 0x13 and with CKN 0 with 0x14. A block of a checkpoint is sent with its ACC slots zero to its place in the bank and its dirty bit for the bank is cleared; read for a fingerprint, its CRC of R276 is folded in. With all writes accepted the header is sent complete, and with that accepted the checkpoint counts. A fingerprint whose blocks are all read stands in the run. A marked module that receives every block takes W, RES and moments and keeps its ACC slots. (Rests in part on the model's readings in log entries 77, 78 and 79.) (R269, R270, R271, R272, R273, R274, R276, R277, R329) -/
def Obligations.CheckpointsAndRecopies : Prop :=
  (∀ (s : State) (x : BitVec 6) (a : Act) (c : Cmd),
    ((s.host.acts.filterMap fun a => (s.cmd? a.cmd).map fun c => (a, c)).find? fun p => decide (p.2.opc = 7) && decide (p.2.ctx = x)) = some (a, c) →
    s.dev.cdreset = false →
    Completes (.checkpoint x) s fun s' => s'.mem = s.mem ∧ s'.tiles = s.tiles ∧
      (a.run = none → Posts s s' c 0x13 0 ∧ s'.trn = s.trn) ∧
      (a.run.isSome = true → a.off = true → Posts s s' c 0x14 0 ∧ s'.trn = s.trn) ∧
      (∀ n, a.run = some n → a.off = false →
        ((∀ r, s.trn.run = some r → r.cmd ≠ n) → Posts s s' c 0x13 0 ∧ s'.trn = s.trn) ∧
        (∀ r, s.trn.run = some r → r.cmd = n →
          s'.trn = { s.trn with run := some { r with ckCmds := r.ckCmds ++ [c.id] } } ∧ s'.host.cmds = s.host.cmds))) ∧
  (∀ (s u : State) (kk : BitVec 12) (blk : W32) (er : List MemErr) (g : Group) (ws : List PWord), s.group? kk.toNat = some g →
    u = (if s.trn.ckpt.any (fun c => decide ((kk.toNat, blk.toNat) ∈ c.todo)) ||
        s.trn.run.any (fun r => r.fp.any fun f => decide ((kk.toNat, blk.toNat) ∈ f.todo))
      then s.tierErrs [(g.base + 4096 * blk.toNat, 4096)] er else s) →
    ws = u.mem.words (g.base + 4096 * blk.toNat) 512 →
    Completes (.checkpointBlockRead kk blk er) s fun s' => s'.mem = u.mem ∧ s'.tiles = s.tiles ∧
      (∀ c, s.trn.ckpt = some c → (kk.toNat, blk.toNat) ∈ c.todo →
        s'.trn.ckpt = some { c with todo := c.todo.erase (kk.toNat, blk.toNat), unacked := c.unacked + 16 } ∧
        s'.net = (s.nbrLines c.dest (c.bank + 69632 + 4096 * s.blkIndex g.k blk.toNat)
          (ws.mapIdx fun i w => if 8 * i < g.oW then pw0 else w)).net ∧
        ∀ h ∈ s'.gro.groups, h.k = g.k → aGet 0 h.clean blk.toNat / 2 ^ (c.k % 2) % 2 = 1) ∧
      (∀ r f, s.trn.run = some r → r.fp = some f → (kk.toNat, blk.toNat) ∈ f.todo →
        ∃ r', s'.trn.run = some r' ∧ r'.fp = some ⟨f.step, f.todo.erase (kk.toNat, blk.toNat), f.acc ^^^
          crc64 (BitVec.ofNat 64 (g.k * 2 ^ 40 + blk.toNat))
            (((wordBytes ws).drop g.oW).take (g.count blk.toNat * if g.wf then 2 else 4)
              ++ if g.wf then ((wordBytes ws).drop g.oRes).take (g.count blk.toNat) else [])⟩)) ∧
  (∀ (s : State) (c : Ckpt) (key : Nat), s.trn.ckpt = some c → c.todo = [] → key = edgeKey (mkTile true 20 0) .edgeW 3 →
    c.unacked ≤ ((s.edgeQ key).filter isAccept).length →
    Completes .checkpointComplete s fun s' =>
      ((s'.edgeQ key).filter isAccept).length = ((s.edgeQ key).filter isAccept).length - c.unacked ∧
      (c.final = false → s'.trn = { s.trn with ckpt := some { c with final := true, unacked := 272 } } ∧
        s'.net.links = (s.sendHeader c true).net.links) ∧
      (c.final = true → s'.trn.ckpt = none ∧ s'.trn.run = s.trn.run.map (fun r => { r with cknum := c.k + 1, ckstep := c.c }) ∧
        ∀ id d, c.cmds = [id] → s.cmd? id = some d → Posts s s' d 0 (BitVec.ofNat 64 c.k))) ∧
  (∀ (s : State) (r : TRun) (f : Fpr), s.trn.run = some r → r.fp = some f → f.todo = [] →
    ∀ s1 : State, s1 = { s with trn := { s.trn with
      run := some { r with fp := none, fprint := f.acc, fpstep := f.step, fpOut := if r.chain then some (f.acc, f.step) else none } } } →
    Completes .fingerprintComplete s fun s' => (s.gathered .chain false = false → s' = s1) ∧ s' = s1.tryArrive) ∧
  (∀ (s : State) (r : TRun) (blocks : List (Nat × List W64)), s.trn.run = some r → r.recopyDue = true →
    (r.phase = .held ∨ r.phase = .wait) → blocks.map (·.1) = s.allBlocks.map (fun p => 2 ^ 32 * p.1 + p.2) →
    Completes (.recopy blocks) s fun s' =>
      (∃ r', s'.trn.run = some r' ∧ r'.recopyDue = false ∧ r'.recopies = r.recopies + 1) ∧
      ∀ g, (r.phase = .held ∨ r.fed = false ∨ r.lined = false) → s.gro.groups = [g] → g.efmt = 0 → g.base % 4096 = 0 → 2 ^ 40 ≤ g.base → g.base + 4096 * g.nblk ≤ 3 * 2 ^ 40 →
        WordsKept s s' g.base (4096 * g.nblk) ∧
        ∀ b i, b < g.nblk → i < 512 → s'.mem.word (g.base + 4096 * b + 8 * i) =
          if 8 * i < g.oW then s.mem.word (g.base + 4096 * b + 8 * i) else ⟨((blocks.getD b (0, [])).2).getD i 0, false⟩)

/-- With no compute-domain reset: OPEN refuses without an accepted SCH commit (0x26) or under R283 (0x20), else the session stands, its table is FREE and its SCB is written. The SCB is read as the host last wrote it and as its H72 check leaves it. Each other action without a session completes with 0x21; CLOSE with no batch step ends the session and completes with OK; JOIN refuses a bad slot (0x22), more pages than the pool (0x30) and a slot in use (0x23), else waits, on a LEAVING slot too; CONT refuses a free slot, one that is not active or has a token, and one at its end, else gives the token; LEAVE of an active sequence marks it and, with no batch step, frees it; LEAVE of a PENDING slot takes its joins away and frees it. (Rests in part on the model's readings in log entries 81 and 83.) (R282, R283, R284, R285, R288, R289) -/
def Obligations.ServingCommands : Prop :=
  (∀ (s u : State) (x : BitVec 6) (er : List MemErr) (c : Cmd) (scb : Nat) (v : Sess) (k : Cmt), s.serveCmd x 0 = some c → c.ctx = x →
    scb = c.num 24 6 → HomesFree s [(scb, 256)] [] → u = (if inH scb 256 then s.tierErrs [(scb, 256)] er else s) →
    v = u.mem.newSess scb → HomesFree u [] [(scb + 128, 128), (v.seqtab, 64 * v.nseq)] → k = aGet Cmt.reset s.regs.cmt (blkNum .sch) →
    Completes (.serveOpen x er) s fun s' => s'.tiles = s.tiles ∧
      ((k.agen = 0 ∨ k.state = .refused) → Posts s s' c 0x26 0 ∧ s'.sess = s.sess ∧ s'.mem = s.mem) ∧
      (k.agen ≠ 0 → k.state ≠ .refused → u.serveBad c = true → Posts s s' c 0x20 0 ∧ s'.sess = s.sess ∧ s'.mem = u.mem) ∧
      (k.agen ≠ 0 → k.state ≠ .refused → u.serveBad c = false →
        Posts s s' c 0 0 ∧ s'.session x = some v ∧ s'.mem.rdBytes (scb + 128) 128 = v.bytes true ∧
        (v.seqtab + 64 * v.nseq ≤ scb + 128 ∨ scb + 256 ≤ v.seqtab →
          ∀ a, v.seqtab ≤ a → a < v.seqtab + 64 * v.nseq → s'.mem.byte a = 0) ∧
        (∀ y, y ≠ x → s'.session y = s.session y))) ∧
  (∀ (s : State) (x : BitVec 6) (c : Cmd) (i : Instr) (a : Nat),
    (i, a) ∈ [(Instr.serveClose x, 1), (.serveJoin x, 2), (.serveCont x, 3), (.serveLeave x, 4)] → s.serveCmd x a = some c →
    c.ctx = x → s.session x = none →
    Completes i s fun s' => Posts s s' c 0x21 (if a = 1 then 0 else slotResult 0 c.slot) ∧ s'.mem = s.mem ∧ s'.sess = s.sess) ∧
  (∀ (s : State) (x : BitVec 6) (c : Cmd) (u : Sess), s.serveCmd x 1 = some c → s.session x = some u →
    HomesFree s [] [(u.seqtab, 64 * u.nseq), (u.scb + 128, 128)] → c.ctx = x →
    Completes (.serveClose x) s fun s' =>
      (u.batch = none → u.seqs = [] → u.waiting = [] → s'.session x = none ∧ Posts s s' c 0 0 ∧
        s'.mem.rdBytes (u.scb + 128) 128 = u.bytes false ∧ BytesKept s s' (u.scb + 128) 128) ∧
      (u.batch ≠ none → u.closing = none → s'.session x = some { u with closing := some c.id } ∧ s'.mem = s.mem)) ∧
  (∀ (s : State) (x : BitVec 6) (c : Cmd) (u : Sess) (np mt nr : Nat), s.serveCmd x 2 = some c → s.session x = some u → c.ctx = x →
    mt = c.num 32 4 → np = c.num 36 4 → nr = u.pagesFor mt → HomesFree s [] [(u.seqtab + 64 * c.slot, 64)] →
    ∀ bad used : Bool, bad = decide (u.nseq ≤ c.slot ∨ u.ptstride < 4 * nr ∨ mt ≤ np ∨ np = 0) →
    used = decide ((u.seq c.slot).st ≠ .free ∧ (u.seq c.slot).st ≠ .leaving) →
    Completes (.serveJoin x) s fun s' =>
      (bad = true → Posts s s' c 0x22 (slotResult u.bstep c.slot) ∧ s'.sess = s.sess ∧ s'.mem = s.mem) ∧
      (bad = false → u.npg < nr → Posts s s' c 0x30 (slotResult u.bstep c.slot) ∧ s'.sess = s.sess ∧ s'.mem = s.mem) ∧
      (bad = false → nr ≤ u.npg → used = true → Posts s s' c 0x23 (slotResult u.bstep c.slot) ∧ s'.sess = s.sess ∧ s'.mem = s.mem) ∧
      (bad = false → nr ≤ u.npg → used = false → ∃ v, s'.session x = some v ∧
        v.waiting = u.waiting ++ [⟨c.id, c.slot, mt, np, c.num 40 6, 0⟩] ∧ v.resv = u.resv ∧
        ((u.seq c.slot).st = .free → (v.seq c.slot).st = .pending) ∧ (∀ k, k ≠ c.slot → v.seq k = u.seq k) ∧
        s'.host.cmds = s.host.cmds ∧ BytesKept s s' (u.seqtab + 64 * c.slot) 64)) ∧
  (∀ (s : State) (x : BitVec 6) (c : Cmd) (u : Sess) (e : SeqEnt), s.serveCmd x 3 = some c → s.session x = some u → c.ctx = x →
    e = u.seq c.slot → HomesFree s [] [(u.seqtab + 64 * c.slot, 64)] →
    Completes (.serveCont x) s fun s' =>
      ((u.nseq ≤ c.slot ∨ e.st = .free) → Posts s s' c 0x22 (slotResult u.bstep c.slot) ∧ s'.sess = s.sess) ∧
      (c.slot < u.nseq → e.st ≠ .free → (e.st ≠ .active ∨ e.tokv = true) → Posts s s' c 0x23 (slotResult u.bstep c.slot) ∧ s'.sess = s.sess) ∧
      (c.slot < u.nseq → e.st = .active → e.tokv = false → e.pos = e.maxtok →
        Posts s s' c 0x24 (slotResult u.bstep c.slot) ∧ s'.sess = s.sess) ∧
      (c.slot < u.nseq → e.st = .active → e.tokv = false → e.pos ≠ e.maxtok → ∃ v, s'.session x = some v ∧
        v.seq c.slot = { e with tokv := true, token := BitVec.ofNat 32 (c.num 48 4), readyt := s.dev.time, cont := some c.id } ∧
        (∀ k, k ≠ c.slot → v.seq k = u.seq k) ∧ v.waiting = u.waiting ∧ BytesKept s s' (u.seqtab + 64 * c.slot) 64)) ∧
  (∀ (s : State) (x : BitVec 6) (c : Cmd) (u : Sess) (e : SeqEnt), s.serveCmd x 4 = some c → s.session x = some u → c.ctx = x →
    e = u.seq c.slot → HomesFree s [] [(u.seqtab + 64 * c.slot, 64)] →
    Completes (.serveLeave x) s fun s' =>
      ((u.nseq ≤ c.slot ∨ e.st = .free) → Posts s s' c 0x22 (slotResult 0 c.slot) ∧ s'.sess = s.sess) ∧
      (c.slot < u.nseq → e.st = .active → u.batch ≠ none → ∃ v, s'.session x = some v ∧
        v.seq c.slot = { e with st := .leaving, leaves := e.leaves ++ [c.id] } ∧ s'.host.cmds = s.host.cmds) ∧
      (c.slot < u.nseq → e.st = .active → u.batch = none → e.join = none → e.cont = none → e.leaves = [] →
        (∀ j ∈ u.waiting, j.slot ≠ c.slot) →
        Posts s s' c 0 (slotResult 0 c.slot) ∧ ∃ v, s'.session x = some v ∧ v.seq c.slot = SeqEnt.free ∧ v.resv = u.resv - e.nres ∧
          v.leaves = u.leaves + 1) ∧
      (c.slot < u.nseq → e.st = .pending → ∃ v, s'.session x = some v ∧ v.seq c.slot = SeqEnt.free ∧ v.leaves = u.leaves + 1 ∧
        v.waiting = u.waiting.filter fun j => decide (j.slot ≠ c.slot)))

/-- For the session of the client that runs: the gather window passes GATHER_NS after the first sequence became ready. At an admission point the waiting joins are considered in order; with no work selected no step begins; with work selected, the step holds the decode and prefill entries of R290, the batch table is written, and every tile issues from its serve body. At the closing barrier the step is counted, an output entry whose place lies apart from the others, the sequence table and the SCB has its header, and, with no pre-emption due, the tiles wait without issuing. (Rests in part on the model's readings in log entry 82.) (R286, R287, R290, R291, R292, R293, R390) -/
def Obligations.ServingLoop : Prop :=
  (∀ (s : State) (c : BitVec 6) (x : Sess) (t : Nat), s.liveSession = some (c, x) → x.readyFrom = some t → t + x.gather ≤ s.dev.time →
    exec .gatherWindowExpiry s = .next (s.setSession c (some { x with gathered := true }))) ∧
  (∀ (s : State) (c : BitVec 6) (x x1 : Sess) (img : Image), s.liveSession = some (c, x) → s.image c = some img → s.mayAdmit c x = true →
    x1 = Sess.admitAll s.dev.time x.waiting x →
    HomesFree s [] [(x.btab, 64 + 32 * x.bmax), (x.ptbase, x.ptstride * x.nseq), (x.seqtab, 64 * x.nseq)] →
    x.btab % 256 = 0 → PlainRange s x.btab (64 + 32 * x1.select.length) →
    Completes .admissionPoint s fun s' => ∃ v, s'.session c = some v ∧ v.joins = x1.joins ∧ v.defers = x1.defers ∧ v.resv = x1.resv ∧
      v.waiting = x1.waiting ∧
      (x1.select = [] → v.batch = none ∧ s'.tiles = s.tiles ∧ v.gathered = (x.gathered && !x1.waiting.isEmpty)) ∧
      (x1.select ≠ [] → v.batch = some x1.select ∧ v.began = s.dev.time ∧ v.gathered = false ∧ v.readyFrom = none ∧
        s'.mem.rdBytes x.btab (64 + 32 * x1.select.length) = v.table x1.select ∧
        ∀ t ∈ scopeTiles .module false, (s'.tile t).core.phase = .issue ∧
          (s'.tile t).core.hdr = s'.tileEntry (s'.tilesAt img.dst) t 12)) ∧
  (∀ (s : State) (c : BitVec 6) (x : Sess) (ents : List BEnt) (h : SsHdr), s.liveSession = some (c, x) → x.batch = some ents →
    (s.tile 0).ssHdr = some h → h.close = true → s.releasable h.scope false = true → x.closing = none →
    HomesFree s [] [(x.outbase, x.ostride * x.nseq), (x.seqtab, 64 * x.nseq), (x.scb + 128, 128)] →
    s.wantSwitch = false → (∀ id k, id ∈ s.unitQ c .sched → s.cmd? id = some k → k.opc ≠ 0x0A) →
    Completes .batchStepEnd s fun s' =>
      (∃ v, s'.session c = some v ∧ v.batch = none ∧ v.bstep = x.bstep + 1 ∧ v.tokens = x.tokens + (ents.filter BEnt.outputs).length ∧
        v.busyNs = x.busyNs + (s.dev.time - x.began)) ∧
      (∀ b n a, b ∈ ents → b.outputs = true → n = outSize x.ofmt x.topk x.vocab → a = x.outbase + b.slot * x.ostride →
        x.outbase % 256 = 0 → x.ostride % 256 = 0 → PlainRange s a 64 → (∀ q ∈ ents, q.slot < x.nseq) → (∀ kv ∈ x.seqs, kv.1 < x.nseq) →
        (∀ q ∈ ents, q ≠ b → x.outbase + q.slot * x.ostride + 64 ≤ a ∨ a + n ≤ x.outbase + q.slot * x.ostride) → 64 ≤ n →
        (a + n ≤ x.seqtab ∨ x.seqtab + 64 * x.nseq ≤ a) → (a + n ≤ x.scb + 128 ∨ x.scb + 256 ≤ a) →
        s'.mem.rdBytes a 64 = toBytes 2 b.slot ++
          toBytes 2 ((decide ((x.seq b.slot).st = .leaving)).toNat + 2 * (s.mem.anyPoison (a + 64) (n - 64)).toNat)
          ++ toBytes 4 (b.pos0 + b.ntok) ++ toBytes 8 x.bstep ++ toBytes 8 s.dev.time ++ toBytes 40 0) ∧
      (∀ t ∈ scopeTiles h.scope false, (s'.tile t).core.phase = .parked) ∧ s'.trn = s.trn ∧ s'.gro = s.gro)

/-- With another client runnable, the slice over requests a pre-emption. At a pre-emption point with the drains done, where a pre-emption is wanted and another client is runnable, or the release of a chain says so, the save begins; a request that no other runnable client backs is dropped. The save's completion writes the context to the save area and the restore begins. The next client by virtual time runs: a client without a saved context is given its image, one whose saved context checks is given that context. A request that has waited SCH_PREEMPT_BOUND short of the point is reported once. CTX_SAVE at a point writes the context to its object and completes with its size, or with CTX_BAD where the object is too small. CTX_RESTORE refuses under R399 with its status, else gives the context to the tiles where its client holds them, or writes it into the client's save area. (Rests in part on the model's readings in log entries 84, 85, 86, 87 and 136.) (R295, R296, R297, R298, R299, R303, R397, R399) -/
def Obligations.TheModuleIsShared : Prop :=
  (∀ s u : State, u = s.wakeClients → s.sch.phase = .running → s.sch.request = none → s.sch.since + s.sch.slice ≤ s.dev.time →
    s.otherRunnable = true →
    exec .sliceExpiry s = .next { u with sch := { u.sch with request := some s.dev.time, lateRaised := false } }) ∧
  (∀ s u : State, u = s.wakeClients → s.atPoint = true →
    ((s.drained = true → (s.atChainClose = true ∧ s.opv.relSw = true) ∨
        (s.otherRunnable = true ∧ (s.wantSwitch = true ∨ s.runnable s.sch.client = false)) →
      exec .preemptionPoint s = .next { u with sch := { u.sch with phase := .saving, switchAt := s.dev.time } }) ∧
    ((s.atChainClose = false ∨ s.opv.relSw = false) → s.otherRunnable = false → s.sch.request.isSome = true →
      Completes .preemptionPoint s fun s' => s'.sch.request = none ∧ s'.sch.phase = .running ∧ s'.tiles = s.tiles ∧ s'.mem = s.mem))) ∧
  (∀ (s u : State) (er : List (TileId × StoreErr)) (img : Image) (a : Nat), s.sch.phase = .saving → s.sch.client < 64 →
    s.image (BitVec.ofNat 6 s.sch.client) = some img → a = s.act .sch (0x200 + 0x40 * s.sch.client) → HomesFree s [] [(a, ctxMost)] →
    u = s.saveErrs er →
    Completes (.contextSaveComplete er) s fun s' =>
      s'.sch.phase = .restoring ∧ s'.sch.request = none ∧ (s'.client s.sch.client).saved = true ∧
      (s'.client s.sch.client).preempts = (s.client s.sch.client).preempts + (s.runnable s.sch.client).toNat ∧ s'.tiles = u.tiles ∧
      (∀ ws, ws = u.context (BitVec.ofNat 6 s.sch.client) img 0 → a % 256 = 0 → PlainRange s a (8 * ws.length) →
        ∀ k, k < ws.length → s'.mem.word (a + 8 * k) = ws.getD k pw0)) ∧
  (∀ (s u : State) (er : List MemErr) (n a : Nat) (c : BitVec 6) (img : Image), (s.sch.phase = .restoring ∨ s.sch.phase = .idle) →
    s.dev.cdreset = false → s.wakeClients.nextClient = some n → c = BitVec.ofNat 6 n → s.image c = some img →
    a = s.act .sch (0x200 + 0x40 * n) → u = s.wakeClients.tierErrs [(a, ctxMost)] er →
    ((s.client n).saved = false →
      Completes (.contextRestoreComplete er) s fun s' =>
        s'.sch.phase = .running ∧ s'.sch.client = n ∧ s'.sch.since = s.dev.time ∧ (s'.client n).started = true ∧ s'.mem = s.mem ∧
        ∀ t ∈ scopeTiles .module false, (s'.tile t).core.phase = .issue ∧
          (s'.tile t).core.hdr = s.tileEntry (s.tilesAt img.dst) t 8 ∧ (s'.tile t).ctr = (s.tile t).ctr) ∧
    ((s.client n).saved = true → HomesFree s [(a, ctxMost)] [] → u.ctxRefused c a ctxMost = none →
      Completes (.contextRestoreComplete er) s fun s' =>
        s'.sch.phase = .running ∧ s'.sch.client = n ∧ s'.sch.since = s.dev.time ∧ (s'.client n).saved = false ∧ s'.mem = u.mem ∧
        s'.tiles = (u.restore c img a).tiles)) ∧
  (∀ (s : State) (t : Nat), s.sch.request = some t → s.sch.phase = .running → s.atPoint = false → s.sch.lateRaised = false → s.sch.bound ≠ 0 →
    t + s.sch.bound ≤ s.dev.time →
    Completes .preemptLate s fun s' =>
      s'.sch.lateRaised = true ∧ s'.err.alert.getLsbD 2 = true ∧ (s'.client s.sch.client).late = (s.client s.sch.client).late + 1 ∧
      s'.tiles = s.tiles ∧ s'.mem = s.mem ∧ exec .preemptLate s' = .next s') ∧
  (∀ (s u : State) (x : BitVec 6) (er : List (TileId × StoreErr)) (c : Cmd) (img : Image) (n : Nat) (ws : List PWord), s.unitHead x .sched = some c →
    c.ctx = x → s.image x = some img → c.opc = 0x0A → s.running x = true → s.atPoint = true → s.drained = true →
    n = 8 * (s.context x img 1).length → u = s.saveErrs er → ws = u.context x img 1 → HomesFree s [] [(c.num 24 6, n)] →
    Completes (.ctxSave x er) s fun s' =>
      (c.num 32 8 < n → Posts s s' c 0x50 0 ∧ s'.mem = s.mem ∧ s'.tiles = s.tiles) ∧
      (n ≤ c.num 32 8 → Posts s s' c 0 (BitVec.ofNat 64 n) ∧ s'.tiles = u.tiles ∧
        (c.num 24 6 % 256 = 0 → PlainRange s (c.num 24 6) (8 * ws.length) → ∀ k, k < ws.length → s'.mem.word (c.num 24 6 + 8 * k) = ws.getD k pw0))) ∧
  (∀ (s u : State) (x : BitVec 6) (er : List MemErr) (c : Cmd) (a size : Nat), s.unitHead x .sched = some c → c.ctx = x → c.opc = 0x0B →
    s.dev.cdreset = false → a = c.num 24 6 → size = c.num 32 8 → HomesFree s [(a, min size ctxMost)] [] →
    u = s.tierErrs [(a, min size ctxMost)] er →
    (∀ st, u.ctxRefused x a size = some st →
      Completes (.ctxRestore x er) s fun s' => Posts s s' c st 0 ∧ s'.tiles = s.tiles ∧ s'.mem = u.mem) ∧
    (∀ img n dst, u.ctxRefused x a size = none → s.image x = some img → n = u.svcNum (a + 152) 8 →
      dst = s.act .sch (0x200 + 0x40 * x.toNat) →
      (s.sch.client = x.toNat → s.running x = true → s.atPoint = true → s.drained = true →
        Completes (.ctxRestore x er) s fun s' => Posts s s' c 0 0 ∧ s'.tiles = (u.restore x img a).tiles ∧ s'.mem = u.mem) ∧
      (s.sch.client ≠ x.toNat ∨ s.sch.phase = .idle → dst ≠ 0 → HomesFree u [] [(dst, n)] →
        Completes (.ctxRestore x er) s fun s' => Posts s s' c 0 0 ∧ s'.tiles = s.tiles ∧ (s'.client x.toNat).saved = true ∧
          (dst % 256 = 0 → PlainRange s dst n → ∀ k, k < n / 8 → s'.mem.word (dst + 8 * k) = (u.svcRead a (n / 8)).getD k pw0))))

/-- A completed training, or a retrain that succeeds, brings the port up and sends IDENT; a port never up reports itself untrained at the time-out; failed retrains take the link down with ALERT bit 8 at the third, as a lane failure does at once, and a retry leaves it down. A port that is up takes the expected frame of a wire block whose symbols the FEC has corrected: its message waits to be acted on, as an IDENT that the port awaits does with any SEQ, its flits for this module enter the Gallery in order, and RXSEQ advances; a block that does not parse, or another frame, is counted and changes neither the messages nor RXSEQ, and the first such sends a NAK for the expected SEQ. An acknowledgement in an IDLE frame frees the replay buffer up to its frame; a NAK sends again from the named frame, in order. (Rests in part on the model's readings in log entries 66, 70, 135 and 137.) (R340, R341, R344, R345, R347, R348, R349, R350) -/
def Obligations.OpverLinks : Prop :=
  (∀ (s : State) (p : Bool), s.opv.sampled = true → (s.oport p).st ≠ .up →
    Completes (.linkTrainingComplete p) s fun s' =>
      (s'.oport p).st = .up ∧ (s'.oport p).awaitIdent = true ∧ (s'.oport p).retrains = 0 ∧ s'.tiles = s.tiles ∧ s'.mem = s.mem ∧
      ∃ f, (s'.oport p).wire = (s.oport p).wire ++ [f] ∧ f.body = .ctrl (s.ident p) ∧ f.seq = (s.oport p).txSeq) ∧
  (∀ (s : State) (p : Bool), s.opv.sampled = true → (s.oport p).st = .training → (s.oport p).wasUp = false →
    Completes (.trainingTimeout p) s fun s' => (s'.oport p).st = .untrained ∧ s'.tiles = s.tiles ∧ s'.mem = s.mem) ∧
  (∀ (s : State) (p ok : Bool),
    ((s.oport p).st = .up ∧ (8 ≤ (s.oport p).refused ∨ 8 ≤ (s.oport p).naked)) ∨ ((s.oport p).st = .training ∧ (s.oport p).wasUp = true) →
    Completes (.linkRetrain p ok) s fun s' =>
      (ok = true → (s'.oport p).st = .up ∧ (s'.oport p).retrains = 0 ∧ s'.tiles = s.tiles ∧
        ∃ f, (s'.oport p).wire = (s.oport p).wire ++ [f] ∧ f.body = .ctrl (s.ident p)) ∧
      (ok = false → (s'.oport p).retrains = (s.oport p).retrains + 1 ∧ s'.tiles = s.tiles ∧
        (s'.oport p).st = (if 3 ≤ (s.oport p).retrains + 1 then .down else .training) ∧
        (3 ≤ (s.oport p).retrains + 1 → s'.opv.chainFault = true ∧ s'.err.alert.getLsbD 8 = true))) ∧
  (∀ (s : State) (p : Bool), (s.oport p).st = .down →
    Completes (.linkTrainingRetry p) s fun s' => s'.oport p = { s.oport p with retrains := (s.oport p).retrains + 1 } ∧ s'.tiles = s.tiles) ∧
  (∀ (s : State) (p : Bool), (s.oport p).st = .up →
    Completes (.opverLaneFailure p) s fun s' =>
      s'.oport p = { s.oport p with st := .down } ∧ s'.oport (!p) = s.oport (!p) ∧ s'.opv.chainFault = true ∧
      s'.err.alert.getLsbD 8 = true ∧ s'.tiles = s.tiles) ∧
  (∀ (s : State) (p : Bool) (bs : List Byte) (fix : List (Nat × Byte)) (r : Option Frame), (s.oport p).st = .up →
    r = parseFrame ((corrected bs fix).take 256) →
    (r = none ∨ (∃ f, r = some f ∧ f.seq ≠ (s.oport p).rxSeq ∧ f.body ≠ .idle ∧ ∀ a q st ep, f.body ≠ .ctrl (.ident a q st ep))) →
    Completes (.frameReceive p bs fix) s fun s' =>
      (s'.oport p).crcErr = (s.oport p).crcErr + 1 ∧ (s'.oport p).rxSeq = (s.oport p).rxSeq ∧ (s'.oport p).ctrl = (s.oport p).ctrl ∧
      (s'.oport p).fecCorr = (s.oport p).fecCorr + fix.length ∧ (s'.oport p).replay = (s.oport p).replay ∧ s'.net = s.net ∧ s'.tiles = s.tiles ∧
      ((s.oport p).nakSent = false →
        ∃ g, (s'.oport p).wire = (s.oport p).wire ++ [g] ∧ g.body = .idle ∧ g.nak = true ∧ g.ack = (s.oport p).rxSeq)) ∧
  (∀ (s : State) (p : Bool) (bs : List Byte) (fix : List (Nat × Byte)) (f : Frame) (m : Ctrl), (s.oport p).st = .up →
    parseFrame ((corrected bs fix).take 256) = some f → f.body = .ctrl m →
    (f.seq = (s.oport p).rxSeq ∨ ((s.oport p).awaitIdent = true ∧ ∃ a q st ep, m = .ident a q st ep)) →
    Completes (.frameReceive p bs fix) s fun s' =>
      (s'.oport p).ctrl = (s.oport p).ctrl ++ [m] ∧ (s'.oport p).crcErr = (s.oport p).crcErr ∧
      (s'.oport p).rxSeq = (if f.seq = (s.oport p).rxSeq then (s.oport p).rxSeq + 1 else (s.oport p).rxSeq)) ∧
  (∀ (s : State) (p : Bool) (bs : List Byte) (fix : List (Nat × Byte)) (f : Frame) (fs : List Flit), (s.oport p).st = .up →
    parseFrame ((corrected bs fix).take 256) = some f → f.body = .data fs → f.seq = (s.oport p).rxSeq → (s.oport p).out = [] →
    s.dev.cdreset = false → (∀ g ∈ fs, gtaMod (hdrOf g.hdr).dest = s.dev.addr) →
    Completes (.frameReceive p bs fix) s fun s' =>
      (s'.oport p).rxSeq = (s.oport p).rxSeq + 1 ∧ s'.tiles = s.tiles ∧
      ∀ k, s'.link k = s.link k ++
        (fs.filter fun g => decide (linkKey (mkTile p g.row.toNat 0) .edgeW (hdrOf g.hdr).vc = k)).map fun g => { g with src := k }) ∧
  (∀ (s : State) (p : Bool) (bs : List Byte) (fix : List (Nat × Byte)) (f : Frame) (i : Nat), (s.oport p).st = .up →
    parseFrame ((corrected bs fix).take 256) = some f → f.body = .idle → (s.oport p).replayAt f.ack = some i → (s.oport p).out = [] →
    Completes (.frameReceive p bs fix) s fun s' =>
      (∃ more, (s'.oport p).replay = (s.oport p).replay.drop (if f.nak then i else i + 1) ++ more) ∧
      (f.nak = true → (s'.oport p).nakFrom = some f.ack) ∧ (s'.oport p).rxSeq = (s.oport p).rxSeq ∧ s'.net = s.net) ∧
  (∀ (s : State) (p : Bool) (n : W16) (i : Nat), (s.oport p).st = .up → (s.oport p).nakFrom = some n → (s.oport p).replayAt n = some i →
    Completes (.nakReceive p) s fun s' =>
      (∃ again, (s'.oport p).wire = (s.oport p).wire ++ again ∧
        again.map (fun f => (f.seq, f.body)) = ((s.oport p).replay.drop i).map fun f => (f.seq, f.body)) ∧
      (s'.oport p).nakFrom = none ∧ (s'.oport p).retry = (s.oport p).retry + 1 ∧ (s'.oport p).replay = (s.oport p).replay ∧ s'.tiles = s.tiles)

/-- A module whose address is below 15 sends a token for the next address while its state is not final, and the second identical well-formed token gives a module its address. IDENT gives the partner; from a partner of the chain, one with another EPOCH raises CHAIN_LOST. HELLOs are kept at module 0 and pass upstream at another module, once it knows where that is. Module 0 forms the chain of the longest run of HELLOs; at the deadline a module that is no head runs alone; CHAIN_UP fixes a member. Module 0 holds an arrival until it has arrived itself, and releases when it has one of every member; an arrival for another superstep raises CHAIN_SKEW; a member passes an arrival on. A member acts on the first RELEASE of its superstep and passes it on, and one for another raises CHAIN_SKEW. CHAIN_DOWN of another module raises CHAIN_LOST. A member counts a pulse, latches its time and repeats it; module 0 of a ring counts it. (Rests in part on the model's readings in log entries 63, 65, 68, 72, 73 and 133.) (R352, R353, R354, R355, R356, R357, R361, R362, R363, R365) -/
def Obligations.ChainsFormAndCross : Prop :=
  (∀ s : State, s.opv.sampled = true → s.opv.hasAddr = true → s.opv.final = false → s.dev.addr ≠ 15 →
    ∃ cells, tokenAddr cells = some (s.dev.addr + 1) ∧
      exec .tokenSend s = .next { s with opv := { s.opv with tokenOut := cells, tokensSent := s.opv.tokensSent + 1 } }) ∧
  (∀ (s : State) (cells : List Bool), s.opv.sampled = true → s.opv.head = false → s.opv.hasAddr = false → s.opv.final = false →
    (tokenAddr cells = none → exec (.tokenReceive cells) s = .next s) ∧
    (∀ a, tokenAddr cells = some a → Completes (.tokenReceive cells) s fun s' =>
      (s.opv.tokens.getLsbD a.toNat = false → s'.opv.tokens.getLsbD a.toNat = true ∧ s'.opv.hasAddr = false ∧ s'.dev = s.dev) ∧
      (s.opv.tokens.getLsbD a.toNat = true → s'.dev.addr = a ∧ s'.opv.hasAddr = true))) ∧
  (∀ (s : State) (p : Bool) (src : Byte) (q : Bool) (st : BitVec 4) (ep : W32) (rest : List Ctrl), (s.oport p).ctrl = .ident src q st ep :: rest →
    Completes (.identReceive p) s fun s' =>
      (s'.oport p).paddr = src ∧ (s'.oport p).pepoch = ep ∧ (s'.oport p).ident = true ∧ (s'.oport p).awaitIdent = false ∧
      (s'.oport p).ctrl = rest ∧
      ((s.oport p).ident = true → (s.oport p).pepoch ≠ ep → s.leaveOk p = true →
        s'.dev.cdreset = true ∧ s'.err.alert.getLsbD 8 = true ∧ s'.err.alert.getLsbD 0 = true ∧ (s'.oport p).replay = [] ∧
        (s'.oport p).stale = true) ∧
      (¬ ((s.oport p).ident = true ∧ (s.oport p).pepoch ≠ ep ∧ s.leaveOk p = true) → (s.oport p).out = [] → s'.tiles = s.tiles ∧ s'.dev = s.dev)) ∧
  (∀ (s : State) (p : Bool) (src : Byte) (b : BitVec 3) (st : BitVec 4) (ep : W32) (rest : List Ctrl),
    (s.oport p).ctrl = .hello src b st ep :: rest →
    (s.opv.hasAddr = true → s.dev.addr = 0 → Completes (.helloReceive p) s fun s' =>
      s'.opv.hellos = (s.opv.hellos.filter fun g => decide (g.addr ≠ src)) ++ [⟨src, b.getLsbD 0, b.getLsbD 1, b.getLsbD 2, ep⟩] ∧
      (s'.oport p).ctrl = rest) ∧
    (∀ u, ¬ (s.opv.hasAddr = true ∧ s.dev.addr = 0) → s.dirPort false = some u → (s.oport u).ready = true → (s.oport u).waiting = [] →
      Completes (.helloReceive p) s fun s' => (s'.oport p).ctrl = rest ∧
        ∃ f, (s'.oport u).wire = (s.oport u).wire ++ [f] ∧ f.body = .ctrl (.hello src b st ep)) ∧
    (¬ (s.opv.hasAddr = true ∧ s.dev.addr = 0) → s.dirPort false = none → exec (.helloReceive p) s = .next s)) ∧
  (∀ (s : State) (i : Instr), ((i = .chainFormation ∧ s.mayForm = true) ∨
      (i = .chainFormDeadline ∧ s.opv.sampled = true ∧ s.opv.final = false ∧ s.opv.head = true)) →
    Completes i s fun s' =>
      s'.opv.final = true ∧ s'.opv.n = s.opv.runEnd + 1 ∧ s'.opv.members = BitVec.ofNat 16 (2 ^ (s.opv.runEnd + 1) - 1) ∧
      s'.opv.chained = decide (2 ≤ s.opv.runEnd + 1) ∧
      s'.opv.ring = (s.opv.ringStrap && decide (3 ≤ s.opv.runEnd + 1) &&
        (s.opv.helloOf s.opv.runEnd).any fun h => h.downIsHead && s.opv.ownEpoch h.downEpoch) ∧ s'.tiles = s.tiles ∧ s'.mem = s.mem) ∧
  (∀ s : State, s.opv.sampled = true → s.opv.final = false → s.opv.head = false →
    Completes .chainFormDeadline s fun s' =>
      s'.dev.addr = 0 ∧ s'.opv.final = true ∧ s'.opv.chained = false ∧ s'.opv.ring = false ∧ s'.opv.n = 1 ∧ s'.opv.members = 1 ∧ s'.tiles = s.tiles) ∧
  (∀ (s : State) (p : Bool) (n : Byte) (ring : Bool) (ms : W16) (rest : List Ctrl), (s.oport p).ctrl = .chainUp n ring ms :: rest →
    Completes (.chainUpReceive p) s fun s' => (s'.oport p).ctrl = rest ∧ s'.tiles = s.tiles ∧
      (s.dev.addr ≠ 0 → s.opv.final = false → s.opv.hasAddr = true → ms.getLsbD s.dev.addr.toNat = true →
        s'.opv.final = true ∧ s'.opv.n = n.toNat ∧ s'.opv.ring = ring ∧ s'.opv.members = ms ∧ s'.opv.chained = decide (2 ≤ n.toNat)) ∧
      (s.dev.addr = 0 → s'.opv.final = s.opv.final ∧ s'.opv.n = s.opv.n ∧ s'.opv.members = s.opv.members)) ∧
  (∀ (s : State) (p : Bool) (src : Byte) (nf fpv pre cl : Bool) (rset : Byte) (ss fp fs : W64) (rest : List Ctrl) (a : Arrive),
    (s.oport p).ctrl = .arrive src nf fpv pre cl rset ss fp fs :: rest →
    a = { addr := src, nf := nf, pre := pre, fpv := fpv, rset := rset, fprint := fp, fpstep := fs, ssnum := ss } →
    Completes (.arriveReceive p) s fun s' => (s'.oport p).ctrl = rest ∧
      (s.dev.addr = 0 → s.opv.arrived = false → s'.opv.arrives = s.opv.arrives ++ [a] ∧ s'.opv.released = s.opv.released ∧ s'.tiles = s.tiles) ∧
      (s.dev.addr = 0 → s.opv.arrived = true → s.opv.released ≠ some (BitVec.ofNat 64 s.chainSs) → s.opv.chained = true →
        (∀ b ∈ s.opv.arrives ++ [a], b.ssnum.toNat = s.chainSs) →
        (∀ m, m < 16 → s.opv.member m = true → ∃ b ∈ s.opv.arrives ++ [a], b.addr.toNat = m) →
        s'.opv.released = some (BitVec.ofNat 64 s.chainSs) ∧ s'.opv.relNf = (s.opv.arrives ++ [a]).any (·.nf) ∧
        s'.opv.relSw = (s.opv.arrives ++ [a]).any (·.pre) ∧ s'.opv.arrives = [] ∧
        s'.opv.pulsesOut = s.opv.pulsesOut + 1 ∧ s'.opv.syncOut = s.opv.syncOut + 1 ∧ s'.tiles = s.tiles) ∧
      (s.dev.addr = 0 → s.opv.arrived = true → s.opv.released ≠ some (BitVec.ofNat 64 s.chainSs) →
        (∃ b ∈ s.opv.arrives ++ [a], b.ssnum.toNat ≠ s.chainSs) → s'.dev.cdreset = true ∧ s'.err.faults = s.err.faults + 1) ∧
      (s.dev.addr ≠ 0 → s.leaveOk (!p) = true → (s.oport (!p)).ready = true → (s.oport (!p)).waiting = [] →
        ∃ f, (s'.oport (!p)).wire = (s.oport (!p)).wire ++ [f] ∧ f.body = .ctrl (.arrive src nf fpv pre cl rset ss fp fs))) ∧
  (∀ (s : State) (p nf sw dv : Bool) (mask : W16) (ss : W64) (rest : List Ctrl), (s.oport p).ctrl = .release nf sw dv mask ss :: rest → s.dev.addr ≠ 0 →
    Completes (.releaseReceive p) s fun s' => (s'.oport p).ctrl = rest ∧
      (s.opv.released = some ss → s'.opv.relNf = s.opv.relNf ∧ s'.sch = s.sch ∧ s'.tiles = s.tiles) ∧
      (s.opv.released ≠ some ss → ss.toNat = s.chainSs → s'.opv.released = some ss ∧ s'.opv.relNf = nf ∧ s'.opv.relSw = sw ∧ s'.tiles = s.tiles ∧
        aGet none s'.waits 3 = none ∧ (sw = true → s'.sch.request.isSome = true) ∧
        (s.leaveOk (!p) = true → (s.oport (!p)).ready = true → (s.oport (!p)).waiting = [] →
          ∃ f, (s'.oport (!p)).wire = (s.oport (!p)).wire ++ [f] ∧ f.body = .ctrl (.release nf sw dv mask ss))) ∧
      (s.opv.released ≠ some ss → ss.toNat ≠ s.chainSs → s'.dev.cdreset = true ∧ s'.err.faults = s.err.faults + 1)) ∧
  (∀ (s : State) (p : Bool) (src cause left : Byte) (rest : List Ctrl), (s.oport p).ctrl = .chainDown src cause left :: rest →
    Completes (.chainDownReceive p) s fun s' => (s'.oport p).ctrl = rest ∧
      (src = s.addrByte → s'.tiles = s.tiles ∧ s'.err = s.err) ∧
      (src ≠ s.addrByte → s'.dev.cdreset = true ∧ s'.err.alert.getLsbD 8 = true ∧ s'.err.faults = s.err.faults + 1)) ∧
  (∀ s : State, s.opv.chained = false → exec .chainPulseReceive s = .next s) ∧
  (∀ s : State, s.opv.chained = true →
    (s.dev.addr ≠ 0 → exec .chainPulseReceive s = .next { s with opv := { s.opv with
      pulses := s.opv.pulses + 1, pulseTime := s.dev.time, pulsesOut := s.opv.pulsesOut + 1, syncOut := s.opv.syncOut + 1 } }) ∧
    (s.dev.addr = 0 → s.opv.ring = true → exec .chainPulseReceive s = .next { s with opv := { s.opv with pulses := s.opv.pulses + 1 } }))

/-- A FRAME_SUBMIT completes with FRAME_BAD, LAN_OWNER or LAN_OFF, waits while sixteen are held, else is held. At a latch point with changed settings the output stops, its submissions end with LAN_OFF, and it starts again where it is still enabled; else the last of the submissions that may be shown becomes current, the others of them end with FRAME_SKIPPED, and with none the buffer stays. At the first active pixel the frame is counted, its time and its metadata stand, and the shown submission completes with the frame number, late or in time. At the start of a line the line before has been sent as pixels of the line buffer or the fill colour; an underrun is counted, and the first one logged. (Rests in part on the model's readings in log entries 97, 98 and 137.) (R366, R371, R372, R373, R374, R378, R379, R380, R381, R383) -/
def Obligations.LanternFrames : Prop :=
  (∀ (s : State) (x : BitVec 6) (c : Cmd) (n : Bool) (o : LanOut), s.unitHead x .lantern = some c → n = decide (c.num 16 1 % 2 = 1) →
    o = s.lan n →
    Completes (.frameSubmit x) s fun s' => s'.tiles = s.tiles ∧ s'.mem = s.mem ∧
      ((c.num 24 6 % 256 ≠ 0 ∨ 2 ^ 40 < c.num 24 6 + o.pitch * o.vactive) → Posts s s' c 0x60 0 ∧ s'.lan n = o) ∧
      (c.num 24 6 % 256 = 0 → c.num 24 6 + o.pitch * o.vactive ≤ 2 ^ 40 →
        ((o.orphan = true ∨ s.act .lan (lanBase n + 0x40) ≠ x.toNat) → Posts s s' c 0x63 0 ∧ s'.lan n = o) ∧
        (o.orphan = false → s.act .lan (lanBase n + 0x40) = x.toNat →
          (o.st = .off → Posts s s' c 0x64 0 ∧ s'.lan n = o) ∧
          (o.st ≠ .off → 16 ≤ o.pend.length → s' = s) ∧
          (o.st ≠ .off → o.pend.length < 16 → s'.lan n = { o with pend := o.pend ++ [⟨c.id, c.num 24 6, c.num 32 8⟩] } ∧
            s'.host.cmds = s.host.cmds ∧ c.id ∉ s'.unitQ x .lantern)))) ∧
  (∀ (s : State) (n : Bool) (o : LanOut) (f : Nat) (mine : List Submit), o = s.lan n → o.st = .run →
    (o.pos = .stream ∨ ∃ k, o.pos = .line k ∧ k + 1 = o.vactive) → f = o.frame + 1 →
    mine = o.pend.filter (fun p => decide (p.frame = 0 ∨ p.frame ≤ f)) →
    Completes (.latchPoint n) s fun s' => s'.tiles = s.tiles ∧ s'.mem = s.mem ∧ (s'.lan n).frame = o.frame ∧
      (o.change = true → (s'.lan n).use = s.lanSet n ∧ (s'.lan n).change = false ∧ (s'.lan n).cur = none ∧ (s'.lan n).pend = [] ∧
        (s'.lan n).st = (if s.act .lan (lanBase n) % 2 = 1 then LanSt.start else .off) ∧
        Ended s s' (o.latched.toList.map (·.1) ++ o.pend) 0x64 0) ∧
      (o.change = false → (s'.lan n).st = .run ∧ (s'.lan n).pos = .blank ∧ Ended s s' mine.dropLast 0x61 (BitVec.ofNat 64 f) ∧
        (s'.lan n).pend = o.pend.filter (fun p => !decide (p.frame = 0 ∨ p.frame ≤ f)) ∧
        (∀ p, mine.getLast? = some p → (s'.lan n).cur = some p.base ∧ (s'.lan n).latched = some (p, f)) ∧
        (mine = [] → (s'.lan n).cur = o.cur))) ∧
  (∀ (s : State) (n : Bool) (o : LanOut), o = s.lan n → o.st = .run → o.pos = .blank →
    Completes (.firstActivePixel n) s fun s' => s'.tiles = s.tiles ∧ s'.mem = s.mem ∧
      s'.lan n = { o with frame := o.frame + 1, frameTime := s.dev.time, pos := .first, latched := none, info := some o.frameMeta } ∧
      (o.latched = none → s'.host = s.host) ∧
      (∀ p f c, o.latched = some (p, f) → s.cmd? p.cmd = some c →
        Posts s s' c (if p.frame ≠ 0 ∧ p.frame < f then 0x62 else 0) (BitVec.ofNat 64 f))) ∧
  (∀ (s : State) (n : Bool) (o : LanOut), o = s.lan n → o.st = .run → LanQuiet s n →
    (o.pos = .first → Completes (.lineStart n) s fun s' => (s'.lan n).pos = .line 0 ∧ s'.tiles = s.tiles ∧ s'.mem = s.mem) ∧
    (∀ k, o.pos = .line k → k + 1 < o.vactive → Completes (.lineStart n) s fun s' =>
      (s'.lan n).pos = .line (k + 1) ∧ (s'.lan n).sent = o.pixels k ∧
      (s'.lan n).underrun = o.underrun + (!o.lineUnder && o.missing k).toNat ∧
      (s'.lan n).poison = o.poison + ((List.range (o.hactive / 2)).filter fun i => (o.word k i).any (·.p)).length ∧
      s'.tiles = s.tiles ∧ s'.mem = s.mem) ∧
    (∀ k, o.pos = .line k → o.missing k = true → o.lineUnder = false → Completes (.lineUnderrun n) s fun s' =>
      (s'.lan n).underrun = o.underrun + 1 ∧ (s'.lan n).lineUnder = true ∧ (s'.lan n).pos = o.pos ∧ (s'.lan n).buf = o.buf ∧
      s'.tiles = s.tiles ∧ s'.mem = s.mem ∧
      (o.underLogged = false → (s.err.tail + 1) % 512 ≠ s.err.head → ∃ e, aGet none s'.err.log s.err.tail = some e ∧ e.code = 0x1011) ∧
      (o.underLogged = true → s'.err = s.err)))

/-- A start enters RUN where hot-plug detect is up, or the output goes dark with NO_SINK, SINK_CAPS or TRAIN_FAIL; a running output goes dark with HPD_LOST or LINK_LOST; a dark output is OFF, its submissions have ended with LAN_OFF and ALERT bit 4 is set. An IRQ pulse sets IRQ, and a level change is shown while the output does not run and changes nothing while it does. An AUX command of the host begins a transaction, and does nothing while one is in progress or PERST_N is low; outside START a reply ends it with its answer, an acknowledged read replaces exactly its bytes of the data words, and a timeout ends it with answer 3. (Rests in part on the model's readings in log entries 100 and 113.) (R366, R371, R372, R384, R445, R446) -/
def Obligations.LanternLinks : Prop :=
  (∀ (s : State) (n : Bool), (s.lan n).st = .start →
    ((s.lan n).hpd = true → exec (.outputStartComplete n .ok) s = .next (s.setLan n { s.lan n with st := .run, pos := .stream })) ∧
    (∀ r, (s.lan n).hpd = false → Completes (.outputStartComplete n r) s fun s' => LanDark s s' n 0x10) ∧
    (∀ r cause, (s.lan n).hpd = true → (r, cause) ∈ [(StartResult.noSink, 0x10), (.sinkCaps, 0x11), (.trainFail, 0x12)] →
      Completes (.outputStartComplete n r) s fun s' => LanDark s s' n cause)) ∧
  (∀ (s : State) (n : Bool), (s.lan n).st = .run →
    (Completes (.hpdLost n) s fun s' => LanDark s s' n 0x13 ∧ (s'.lan n).hpd = false) ∧
    (Completes (.linkLost n) s fun s' => LanDark s s' n 0x14 ∧ (s'.lan n).irq = true)) ∧
  (∀ (s : State) (n : Bool), exec (.hpdIrqPulse n) s = .next (s.setLan n { s.lan n with irq := true })) ∧
  (∀ (s : State) (n level : Bool), (s.lan n).st ≠ .run →
    exec (.hpdLevelChange n level) s = .next (s.setLan n { s.lan n with hpd := level })) ∧
  (∀ (s : State) (n level : Bool), (s.lan n).st = .run → exec (.hpdLevelChange n level) s = .next s) ∧
  (∀ (s : State) (n : Bool) (len : BitVec 4) (addr : BitVec 20) (i : Instr) (op : Nat),
    (i, op) ∈ [(Instr.auxNativeWrite n len addr, 0), (.auxNativeRead n len addr, 1), (.auxI2cWrite n len addr, 4),
      (.auxI2cRead n len addr, 5), (.auxI2cWriteStopWithheld n len addr, 6), (.auxI2cReadStopWithheld n len addr, 7)] →
    (s.pwr.perst = true → (s.lan n).busy = none →
      exec i s = .next (s.setLan n { s.lan n with busy := some ⟨op, addr.toNat, len.toNat⟩ })) ∧
    ((s.pwr.perst = false ∨ (s.lan n).busy ≠ none) → exec i s = .next s)) ∧
  (∀ (s : State) (n : Bool) (b : AuxOp) (ans : AuxAnswer) (d0 d1 : W64) (o : LanOut), o = s.lan n → o.busy = some b → o.st ≠ .start →
    Completes (.auxReply n ans d0 d1) s fun s' => ∃ o', s' = s.setLan n o' ∧
      o' = { o with busy := none, reply := o'.reply, data0 := o'.data0, data1 := o'.data1 } ∧
      o'.reply = (match ans with | .ack => 0 | .nack => 1 | .defer => 2) ∧
      ((ans ≠ .ack ∨ b.op % 2 = 0) → o'.data0 = o.data0 ∧ o'.data1 = o.data1) ∧
      (ans = .ack → b.op % 2 = 1 → ∀ k, k < 16 →
        (if k < 8 then o'.data0 else o'.data1).extractLsb' (8 * (k % 8)) 8 =
          (if k ≤ b.len then (if k < 8 then d0 else d1) else (if k < 8 then o.data0 else o.data1)).extractLsb' (8 * (k % 8)) 8)) ∧
  (∀ (s : State) (n : Bool), (s.lan n).busy ≠ none → (s.lan n).st ≠ .start →
    exec (.auxTimeout n) s = .next (s.setLan n { s.lan n with busy := none, reply := 3 }))

/-- VIN48 in its range starts the input stage unless a thermal trip locks it; power-good, the strap window, memory training and clearing and the link each have the effect of R418 and R419; READY follows Memory_Active, the identity key and the final chain. Loss of supply and a thermal trip lose tiles, memory, registers and commands. PERST_N low holds the host-facing parts in reset, gives every register its reset value or the strap and begins clearing, and keeps the chain; its rise ends that. (An input above 65 V, to which the spec gives no effect, is a fault; that 60 V to 65 V starts nothing, and the link's set-up, are the model's readings, with log entries 6, 108, 111 and 130.) (R219, R347, R406, R407, R409, R411, R412, R417, R418, R419, R420, R432) -/
def Obligations.PowerAndReset : Prop :=
  (∀ (s : State) (v : Nat), s.pwr.vin = false → 400 ≤ v → v ≤ 600 →
    (s.pwr.tripped = false → Completes (.vin48Rise v) s fun s' =>
      s' = { s with pwr := { s.pwr with vin := true, lowSince := none, thermN := true } }) ∧
    (s.pwr.tripped = true → s.pwr.lowSince = none → Completes (.vin48Rise v) s fun s' => s'.pwr.vin = false ∧ s'.pwr.tripped = true)) ∧
  (∀ (s : State) (v : Nat), (650 < v → exec (.vin48Rise v) s = .fault .inputOvervoltage) ∧
    ((v < 400 ∨ (600 < v ∧ v ≤ 650)) → exec (.vin48Rise v) s = .next s)) ∧
  (∀ s : State, s.pwr.vin = true → s.pwr.pwrOk = false → s.pwr.tripped = false →
    Completes .powerGood s fun s' => s'.pwr = { s.pwr with pwrOk := true, ceil := 4 } ∧
      s'.opv.p0 = { s.opv.p0 with epoch := Config.portEpoch 0 s.opv.powerUps } ∧
      s'.opv.p1 = { s.opv.p1 with epoch := Config.portEpoch 1 s.opv.powerUps } ∧ s'.opv.powerUps = s.opv.powerUps + 1 ∧
      s'.tiles = s.tiles ∧ s'.mem = s.mem ∧ s'.regs = s.regs) ∧
  (∀ (s : State) (x : BitVec 4), s.pwr.pwrOk = true → s.pwr.strapped = false →
    Completes (.strapWindowEnd x) s fun s' => s'.pwr = { s.pwr with straps := x, strapped := true } ∧
      s'.opv.hasAddr = x.getLsbD 0 ∧ s'.dev.addr = 0 ∧
      s'.act .pwr 0x108 = (x.getLsbD 2).toNat ∧ s'.act .pwr 0x110 = (if x.getLsbD 3 then 1000 else 1300) ∧
      ∀ y, exec (.strapWindowEnd y) s' = .next s') ∧
  (∀ s : State, s.pwr.strapped = true → s.pwr.phyTrained = false →
    exec .memoryPhyTrained s =
      .next { s with pwr := { s.pwr with phyTrained := true }, mem := { s.mem with hTrained := true, clearing := true } }) ∧
  (∀ s : State, s.mem.clearing = true →
    Completes .memoryClearComplete s fun s' =>
      (∀ a, a < 3 * 2 ^ 40 → s'.mem.byte a = 0 ∧ aGet false s'.mem.poison (a / 8) = false) ∧
      (∀ a, 3 * 2 ^ 40 ≤ a → s'.mem.byte a = s.mem.byte a) ∧
      s'.mem.tags = [] ∧ s'.mem.poisonedBlks = [] ∧ s'.mem.hCleared = true ∧ s'.mem.tagsZero = true ∧
      s'.mem.clearing = false ∧ s'.pwr.memact = (s.pwr.memact || (s.pwr.linkUp && s.pwr.flit256 && s.pwr.perst)) ∧ s'.tiles = s.tiles) ∧
  (∀ (s : State) (wide : Bool) (cfg : LinkCfg), s.pwr.strapped = true → s.pwr.perst = true → s.pwr.linkUp = false →
    Completes (.cxlLinkUp wide cfg) s fun s' =>
      s' = { s with pwr := { s.pwr with linkUp := true, flit256 := wide, memact := s.pwr.memact || (s.mem.hCleared && wide) }
                    host := { s.host with cfg := cfg } }) ∧
  (∀ s : State, s.pwr.ready = false →
    (s.pwr.memact = true → s.keep.idReady = true → s.opv.final = true → Completes .deviceReady s fun s' =>
      s'.pwr = { s.pwr with ready := true } ∧ s'.lan0 = s.lan0.begin ∧ s'.lan1 = s.lan1.begin ∧ s'.tiles = s.tiles ∧ s'.mem = s.mem ∧
      s'.regs = s.regs ∧ s'.host = s.host) ∧
    ((s.pwr.memact = false ∨ s.keep.idReady = false ∨ s.opv.final = false) → exec .deviceReady s = .next s)) ∧
  (∀ (s : State) (i : Instr), (i = .vin48Loss ∨ (i = .thermalTrip ∧ s.pwr.pwrOk = true)) →
    Completes i s fun s' => s'.pwr.pwrOk = false ∧ s'.pwr.vin = false ∧ s'.pwr.strapped = false ∧ s'.tiles = [] ∧ s'.mem = Mem.empty ∧
      s'.regs = Regs.reset ∧ s'.host.cmds = [] ∧ s'.host.ctxs = [] ∧ s'.obj = State.reset.obj ∧ s'.imgs = [] ∧ s'.lan0.st = .off ∧
      s'.lan1.st = .off ∧ s'.keep.idReady = false ∧ s'.opv.hasAddr = false ∧ s'.err = Err.empty ∧
      (i = .thermalTrip → s'.pwr.thermN = false ∧ s'.pwr.tripped = true)) ∧
  (∀ s : State, s.pwr.perst = true →
    Completes .perstAssert s fun s' => s'.pwr.perst = false ∧ s'.pwr.ready = false ∧ s'.pwr.memact = false ∧ s'.dev.time = 0 ∧
      s'.dev.cdreset = false ∧ s'.tiles = [] ∧ s'.host.cmds = [] ∧ s'.host.ctxs = [] ∧ s'.obj = State.reset.obj ∧ s'.imgs = [] ∧
      s'.trn = Trn.reset ∧ s'.sess = [] ∧ s'.err = Err.empty ∧ s'.keep.sessions = [] ∧ s'.keep.idReady = s.keep.idReady ∧
      s'.lan0.st = .off ∧ s'.lan1.st = .off ∧ s'.lan0.cause = 1 ∧ s'.lan1.cause = 1 ∧
      s'.mem.clearing = s.pwr.phyTrained ∧ s'.mem.hCleared = false ∧
      s'.pwr.straps = s.pwr.straps ∧ s'.pwr.ceil = s.pwr.ceil ∧ s'.dev.addr = s.dev.addr ∧ s'.opv.n = s.opv.n ∧ s'.opv.ring = s.opv.ring ∧
      s'.opv.members = s.opv.members ∧ s'.opv.final = s.opv.final ∧ s'.opv.p0.epoch = s.opv.p0.epoch ∧ s'.opv.p1.st = s.opv.p1.st ∧
      (∀ b o, o < 0x10000 → b ≠ .pwr → s'.regs.activeAt b o = BitVec.ofNat 64 (rwcReset b o) ∧
        s'.regs.shadowAt b o = BitVec.ofNat 64 (rwcReset b o)) ∧
      (s.pwr.strapped = true → s'.act .pwr 0x108 = (s.pwr.straps.getLsbD 2).toNat ∧
        s'.act .pwr 0x110 = (if s.pwr.straps.getLsbD 3 then 1000 else 1300))) ∧
  (∀ s : State, s.pwr.perst = false →
    Completes .perstDeassert s fun s' => s'.pwr.perst = true ∧ s'.dev = s.dev ∧ s'.err = Err.empty ∧ s'.mem.bytes = s.mem.bytes ∧
      s'.regs = s.regs ∧ s'.net.bridgeUp = (if s.pwr.strapped then BitVec.allOnes 32 else 0) ∧ s'.pwr.ready = s.pwr.ready)

/-- With the junction at or above PWR_TLIM or the power at or above PWR_PLIM, and 10 evaluations since the last change, the ceiling becomes the lower of itself and the effective point, minus one, and the counters of the conditions that held grow by one. With the junction 5 degrees below PWR_TLIM, power at or below 95 % of PWR_PLIM, both for 100 ms, and 100 evaluations since the last change, the ceiling rises by one. In every other case it stays. THERM_N is low while the effective point lies below PWR_VSET or the junction is at or above PWR_TLIM. Tiles, memory and registers are unchanged. (That a lowering at point 0 still counts is the model's reading, log entry 112.) (R408, R410, R413, R416) -/
def Obligations.ThrottleActs : Prop :=
  ∀ (s : State) (a b : Int) (w cool r0 r1 : Nat) (tlim : Int) (plim vset : Nat) (hot ovr : Bool) (settled : Nat → Prop),
    s.pwr.strapped = true → -(2 ^ 15) ≤ a → a < 2 ^ 15 → -(2 ^ 15) ≤ b → b < 2 ^ 15 →
    tlim = 8 * (s.act .pwr 0x118 : Int) → plim = s.act .pwr 0x110 → vset = s.act .pwr 0x100 →
    hot = decide (tlim ≤ max a b) → ovr = decide (plim ≤ w) →
    settled = (fun n => ∀ t, s.pwr.lastChange = some t → t + n ≤ s.pwr.evals + 1) →
    Completes (.throttleEvaluation a b w cool r0 r1) s fun s' =>
      s' = { s with pwr := s'.pwr } ∧ s'.pwr.evals = s.pwr.evals + 1 ∧ s'.pwr.throtNs = s.pwr.throtNs ∧
      ((hot = true ∨ ovr = true) → settled 10 →
        s'.pwr.ceil = min s.pwr.ceil s.effPoint - 1 ∧ s'.pwr.tcnt = s.pwr.tcnt + hot.toNat ∧ s'.pwr.pcnt = s.pwr.pcnt + ovr.toNat ∧
        s'.pwr.cause = BitVec.ofNat 2 (hot.toNat + 2 * ovr.toNat)) ∧
      (max a b ≤ tlim - 40 → 100 * w ≤ 95 * plim → 0 < plim → 100 ≤ cool → settled 100 → s.pwr.ceil < 4 →
        s'.pwr.ceil = s.pwr.ceil + 1 ∧ s'.pwr.tcnt = s.pwr.tcnt ∧ s'.pwr.pcnt = s.pwr.pcnt) ∧
      (((hot = true ∨ ovr = true) → ¬ settled 10) →
        (tlim - 40 < max a b ∨ 95 * plim < 100 * w ∨ cool < 100 ∨ ¬ settled 100 ∨ 4 ≤ s.pwr.ceil) →
        s'.pwr.ceil = s.pwr.ceil ∧ s'.pwr.tcnt = s.pwr.tcnt ∧ s'.pwr.pcnt = s.pwr.pcnt ∧ s'.pwr.cause = s.pwr.cause) ∧
      (s'.pwr.ceil ≠ s.pwr.ceil → s'.pwr.lastChange = some (s.pwr.evals + 1)) ∧
      (s'.pwr.thermN = false ↔ min vset s'.pwr.ceil < vset ∨ tlim ≤ max a b)

/-- A write of an RWC register changes only its shadow, in its defined bits, and a read returns the shadow. A counter read latches the epoch bit. TIL_SNAP latches the twenty counters, and reads of the window return them; a DATA0 read latches both debug words. A hand SET or ADD inside the window changes P of one object, is counted and is logged as DBG_SIGNAL, and one that would break the window changes no count. The two ring heads take a legal value and discard another, alerts clear by mask, and the end of a compute-domain reset clears FAULT of every tile. With PERST_N low none of the writes acts. (Rests in part on the model's readings in log entries 108 and 109.) (R200, R278, R411, R422, R425, R426, R441, R449, R450, R451, R456, R457) -/
def Obligations.RegisterCommands : Prop :=
  (∀ (s : State) (a : BitVec 26) (h : Option Bool) (v w : W64) (b : Blk) (o m : Nat), s.pwr.perst = true → a.toNat % 8 = 0 →
    blkAt a.toNat = some b → o = a.toNat % 0x10000 → rwcMask b o = some m →
    w = (match h with
      | none => v
      | some false => (s.regs.shadowAt b o).extractLsb' 32 32 ++ v.extractLsb' 0 32
      | some true => v.extractLsb' 0 32 ++ (s.regs.shadowAt b o).extractLsb' 0 32) &&& BitVec.ofNat 64 m →
    Completes (.registerWrite a h v) s fun s' =>
      s' = { s with regs := { s.regs with shadow := s'.regs.shadow } } ∧ s'.regs.shadowAt b o = w ∧ s'.readReg a.toNat = w ∧
      ∀ b' o', o' < 0x10000 → (b', o') ≠ (b, o) → s'.regs.shadowAt b' o' = s.regs.shadowAt b' o') ∧
  (∀ (s : State) (a : BitVec 26) (n : Nat), s.counterAt a.toNat = some n →
    Completes (.counterRead a) s fun s' => s' = { s with regs := { s.regs with epoch := s'.regs.epoch } } ∧
      aGet false s'.regs.epoch a.toNat = decide (n / 2 ^ 64 % 2 = 1) ∧
      ∀ x, x ≠ a.toNat → aGet false s'.regs.epoch x = aGet false s.regs.epoch x) ∧
  (∀ (s : State) (t : TileId), Completes (.tilSnap t) s fun s' => OnlyTile t s s' ∧ (s'.tile t).ctr = (s.tile t).ctr ∧
    (s'.tile t).core = (s.tile t).core ∧
    ∀ k, k < 20 → s'.readReg (0x100010 + 0x100 * t.toNat + 8 * k) = BitVec.ofNat 64 ((s.tile t).ctr.list.getD k 0)) ∧
  (∀ (s : State) (t : TileId), Completes (.tilDbgData0Read t) s fun s' =>
    s' = s.setTile t { s.tile t with dbg := (s'.tile t).dbg } ∧
    (s'.tile t).dbg.d0 = s.readReg (0x1000C8 + 0x100 * t.toNat) ∧ s'.readReg (0x1000D0 + 0x100 * t.toNat) = (s'.tile t).dbg.d1) ∧
  (∀ (s : State) (t : TileId) (obj : BitVec 8) (v p : W32) (i : Instr), s.pwr.perst = true →
    (i, p) ∈ [(Instr.sigOpSet t obj v, v), (.sigOpAdd t obj v, (s.tile t).sigP obj + v)] →
    Completes i s fun s' =>
      ((p - (s.tile t).sigC obj).toNat < 2 ^ 31 → (s'.tile t).sigP obj = p ∧ (s'.tile t).ctr.dbgSig = (s.tile t).ctr.dbgSig + 1 ∧
        (∀ x, x ≠ obj → (s'.tile t).sigP x = (s.tile t).sigP x) ∧ (∀ u, u ≠ t → s'.tile u = s.tile u) ∧
        ((s.err.tail + 1) % 512 ≠ s.err.head → ∃ e, aGet none s'.err.log s.err.tail = some e ∧ e.code = 0x1009 ∧
          e.loc = BitVec.ofNat 32 (s.gta t).toNat ∧ e.d0 = BitVec.ofNat 64 obj.toNat)) ∧
      (2 ^ 31 ≤ (p - (s.tile t).sigC obj).toNat → s' = s.setTile t { s.tile t with dbg := (s'.tile t).dbg })) ∧
  (∀ (s : State) (v : W32), s.pwr.perst = true →
    (v.toNat % 64 = 0 → v.toNat < s.act .trg 0x128 → exec (.trgHealthHeadWrite v) s = .next { s with gro := { s.gro with head := v.toNat } }) ∧
    ((v.toNat % 64 ≠ 0 ∨ s.act .trg 0x128 ≤ v.toNat) → exec (.trgHealthHeadWrite v) s = .next s) ∧
    (v.toNat < 512 → exec (.errLogHeadWrite v) s = .next { s with err := { s.err with head := v.toNat } }) ∧
    (512 ≤ v.toNat → exec (.errLogHeadWrite v) s = .next s)) ∧
  (∀ (s : State) (m : BitVec 9), s.pwr.perst = true → Completes (.errAlertClear m) s fun s' =>
    s' = { s with err := { s.err with alert := s'.err.alert } } ∧
    (∀ k, s'.err.alert.getLsbD k = (s.err.alert.getLsbD k && !m.getLsbD k)) ∧ (s'.alertN = true ↔ s.err.alert &&& ~~~m = 0)) ∧
  (∀ s : State, s.dev.cdreset = true → aWf Tile.empty s.tiles = true → Completes .cdresetClear s fun s' =>
    s' = { s with dev := { s.dev with cdreset := false }, tiles := s'.tiles } ∧
    ∀ t, s'.tile t = { s.tile t with core := { (s.tile t).core with faulted := false } }) ∧
  (∀ (s : State) (i : Instr), s.pwr.perst = false →
    ((∃ a h v, i = .registerWrite a h v) ∨ (∃ b c g, i = .blockCommit b c g ∨ i = .blockCommitHold b c g) ∨ (∃ m, i = .globalCommit m) ∨
      (∃ t o v, i = .sigOpSet t o v ∨ i = .sigOpAdd t o v) ∨ (∃ v, i = .trgHealthHeadWrite v ∨ i = .errLogHeadWrite v) ∨
      ∃ m, i = .errAlertClear m) → exec i s = .next s)

/-- A commit write is refused with LOCKED, BUSY, GEN or CRC, in that order, or with what its check finds, and then no active setting changes; a held commit keeps the snapshot; an accepted one makes every register of the block active as the shadow had it, at its generation. A global commit of held, idle blocks whose checks pass makes all their snapshots active; one that names a block with no held commit, or of which one check fails, changes no active setting. COMMIT_WORK_DONE ends BUSY, with tier C cleared for TRC. (Rests in part on the model's readings in log entries 104 and 105.) (R424, R426, R427, R428, R429, R430, R431, R442) -/
def Obligations.CommitsAreAllOrNothing : Prop :=
  (∀ (s : State) (b : Blk) (crc : W32) (gen next : BitVec 31) (hold : Bool) (i : Instr),
    (i, hold) ∈ [(Instr.blockCommit b crc gen, false), (.blockCommitHold b crc gen, true)] →
    s.pwr.perst = true → Blk.setup b = true → next = (if (s.cmt b).agen = 0x7FFFFFFF then 1 else (s.cmt b).agen + 1) →
    ∀ locked busy : Bool, locked = decide (b = .kep ∧ s.act .kep 0x240 % 2 = 1) →
    busy = decide ((s.cmt b).state = .busy ∨ (b = .trg ∧ s.trn.run ≠ none)) →
    Completes i s fun s' => s'.regs.shadow = s.regs.shadow ∧ s'.tiles = s.tiles ∧
      (∀ cause, ((locked = true ∧ cause = 6) ∨ (locked = false ∧ busy = true ∧ cause = 3) ∨
          (locked = false ∧ busy = false ∧ gen ≠ next ∧ cause = 2) ∨
          (locked = false ∧ busy = false ∧ gen = next ∧ crcOf b (s.regs.shadowAt b) ≠ crc ∧ cause = 1)) →
        s'.regs.active = s.regs.active ∧
        s'.cmt b = { s.cmt b with state := .refused, cause := BitVec.ofNat 8 cause, detail := 0xFFFF, held := none }) ∧
      (locked = false → busy = false → gen = next → crcOf b (s.regs.shadowAt b) = crc →
        (hold = true → s'.regs.active = s.regs.active ∧ s'.cmt b = { s.cmt b with held := some (gen, s.regs.snapOf b) } ∧ s'.mem = s.mem) ∧
        (hold = false → ∀ cause detail, s.check (s.view [⟨b, gen, s.regs.snapOf b⟩]) b = some (cause, detail) →
          s'.regs.active = s.regs.active ∧
          s'.cmt b = { s.cmt b with state := .refused, cause := BitVec.ofNat 8 cause, detail := BitVec.ofNat 16 detail, held := none }) ∧
        (hold = false → s.check (s.view [⟨b, gen, s.regs.snapOf b⟩]) b = none → aWf none s.regs.shadow = true →
          s'.cmt b = { s.cmt b with state := .busy, work := true, agen := gen, held := none } ∧
          (∀ o, o < 0x10000 → s'.regs.activeAt b o = s.regs.shadowAt b o) ∧
          (∀ b' o, o < 0x10000 → b' ≠ b → s'.regs.activeAt b' o = s.regs.activeAt b' o)))) ∧
  (∀ (s : State) (m : W16) (l : List CItem), s.pwr.perst = true → (∀ k, m.getLsbD k = true → ∃ b, Blk.setup b = true ∧ blkNum b = k) →
    (∀ b, Blk.setup b = true → m.getLsbD (blkNum b) = true → (s.cmt b).state ≠ .busy ∧ (s.cmt b).held ≠ none) →
    l = (setupBlks.filter fun b => m.getLsbD (blkNum b)).filterMap (fun b => (s.cmt b).held.map fun h => ⟨b, h.1, h.2⟩) →
    Completes (.globalCommit m) s fun s' => s'.regs.gmask = m ∧ s'.tiles = s.tiles ∧
      ((∀ i ∈ l, s.check (s.view l) i.b = none) → (∀ i ∈ l, aWf none i.snap = true ∧ ∀ kv ∈ i.snap, kv.1 % rsvAt / 0x10000 = blkNum i.b) →
        s'.regs.gstate = (if l = [] then .done else .busy) ∧
        (∀ i ∈ l, (s'.cmt i.b).agen = i.gen ∧ (s'.cmt i.b).state = .busy ∧ (s'.cmt i.b).held = none ∧
          ∀ o, o < 0x10000 → s'.regs.activeAt i.b o = snapAt i.snap i.b o) ∧
        (∀ b o, o < 0x10000 → (∀ i ∈ l, i.b ≠ b) → s'.regs.activeAt b o = s.regs.activeAt b o)) ∧
      ((∃ i ∈ l, s.check (s.view l) i.b ≠ none) → s'.regs.gstate = .refused ∧ s'.regs.active = s.regs.active ∧
        ∀ i ∈ l, (s'.cmt i.b).state = .refused ∧ (s'.cmt i.b).agen = (s.cmt i.b).agen)) ∧
  (∀ (s : State) (m : W16) (k : Nat), s.pwr.perst = true → m.getLsbD k = true →
    ((∀ b, Blk.setup b = true → blkNum b ≠ k) ∨
      ∃ b, Blk.setup b = true ∧ blkNum b = k ∧ ((s.cmt b).held = none ∨ (s.cmt b).state = .busy)) →
    Completes (.globalCommit m) s fun s' => s'.regs.gstate = .refused ∧ s'.regs.gcause = 5 ∧ s'.regs.active = s.regs.active ∧
      s'.regs.cmt = s.regs.cmt ∧ s'.mem = s.mem) ∧
  (∀ (s : State) (b : Blk), (s.cmt b).work = true → s.workReady b = true → HomesFree s [] (s.workRanges b) →
    Completes (.commitWorkDone b) s fun s' => s'.cmt b = { s.cmt b with state := .done, work := false } ∧ s'.tiles = s.tiles ∧
      s'.regs.active = s.regs.active ∧
      (b = .trc → s.act .trc 0x100 % 2 = 1 → ∀ x, 4 * 2 ^ 40 ≤ x → x < 4 * 2 ^ 40 + s.act .trc 0x108 → s'.mem.byte x = 0) ∧
      (b ≠ .trc → b ≠ .trg → s'.mem = s.mem))

/-- The request codes and the order of a connection are not in the spec: the model takes them from SPDM (log entry 25). GET_VERSION is answered with versions 1.2 and 1.3; a request in another version, or out of order, or with a field the Keep does not support, is answered with an ERROR, shown as the last error, and so is a signed answer before the identity key is ready. GET_DIGESTS and GET_CERTIFICATE return the digest and a part of the chain of slot 0, GET_MEASUREMENTS the block asked for. At most two sessions are open: KEY_EXCHANGE opens one, FINISH establishes or ends it, HEARTBEAT and KEY_UPDATE are answered in it, END_SESSION ends it. IDE keys are programmed only inside a session. Nothing but the Keep and the free values drawn changes. (R400, R403, R404, R437) -/
def Obligations.KeepAnswers : Prop :=
  (∀ s : State, s.pwr.strapped = true → exec .identityKeyReady s = .next { s with keep := { s.keep with idReady := true } }) ∧
  (∀ s : State, s.pwr.linkUp = true → Completes .getVersion s fun s' =>
    s' = { s with keep := { s.keep with conn := 1, ver := 0, sent := s.keep.sent ++ [(0x04, [0x12, 0x13])] } }) ∧
  (∀ (s : State) (v : Byte), s.pwr.linkUp = true → (v = 0x12 ∨ v = 0x13) → (2 ≤ s.keep.conn → s.keep.ver = v) →
    (1 ≤ s.keep.conn → Completes (.getCapabilities v) s fun s' => s' = { s with keep := { s.keep with
      conn := max s.keep.conn 2, ver := v, sent := s.keep.sent ++ [(0x61, [])] } }) ∧
    (∀ c : Byte, Completes (.spdmUnsupportedRequest v c) s fun s' => s' = { s with keep := { s.keep with
      spdmErr := 0x07, sent := s.keep.sent ++ [(0x7F, [0x07, c])] } })) ∧
  (∀ (s : State) (v : Byte) (k : Keep), s.pwr.linkUp = true → (v = 0x12 ∨ v = 0x13) → s.keep.ver = v → k = s.keep → 2 ≤ k.conn →
    let said (s' : State) (code : Byte) (p : List Byte) (k' : Keep) : Prop :=
      s' = { s with keep := { k' with sent := k.sent ++ [(code, p)] } }
    let signed (s' : State) (code : Byte) (p : List Byte) (k' : Keep) : Prop :=
      ∃ g, g.length = 64 ∧
        s' = { s with dev := { s.dev with free := s.dev.free + 8 }, keep := { k' with sent := k.sent ++ [(code, p ++ g)] } }
    let err (s' : State) (e : Byte) : Prop := said s' 0x7F [e] { k with spdmErr := e }
    (∀ a b c d, Completes (.negotiateAlgorithms v a b c d) s fun s' =>
      ((a && b && c && d) = true → said s' 0x63 [] { k with conn := 3 }) ∧ ((a && b && c && d) = false → err s' 0x01)) ∧
    (3 ≤ k.conn →
    (Completes (.getDigests v) s fun s' => said s' 0x01 (sha512 Config.certChain) k) ∧
    (∀ slot o n, Completes (.getCertificate v slot o n) s fun s' =>
      ((slot ≠ 0 ∨ Config.certChain.length ≤ o.toNat) → err s' 0x01) ∧
      (slot = 0 → o.toNat < Config.certChain.length → ∃ h, h.length = 4 ∧
        said s' 0x02 (h ++ (Config.certChain.drop o.toNat).take n.toNat) k)) ∧
    (∀ slot, Completes (.challenge v slot) s fun s' =>
      (slot ≠ 0 → err s' 0x01) ∧ (slot = 0 → k.idReady = false → err s' 0x03) ∧
      (slot = 0 → k.idReady = true → signed s' 0x03 (sha512 Config.certChain) k)) ∧
    (∀ (ix : Byte) (sg : Bool), Completes (.getMeasurements v ix sg) s fun s' =>
      (ix = 0xFF → err s' 0x0D) ∧ (66 < ix.toNat → ix ≠ 0xFF → err s' 0x01) ∧
      (ix.toNat ≤ 66 → sg = false → said s' 0x60 (if ix = 0 then [66] else ix :: s.measurement ix.toNat) k) ∧
      (ix.toNat ≤ 66 → sg = true → k.idReady = false → err s' 0x03) ∧
      (ix.toNat ≤ 66 → sg = true → k.idReady = true → signed s' 0x60 (if ix = 0 then [66] else ix :: s.measurement ix.toNat) k)) ∧
    (∀ slot rs, Completes (.keyExchange v slot rs) s fun s' =>
      (slot ≠ 0 → err s' 0x01) ∧ (slot = 0 → 2 ≤ k.sessions.length → err s' 0x0A) ∧
      (slot = 0 → k.sessions.length < 2 → k.idReady = false → err s' 0x03) ∧
      (slot = 0 → k.sessions.length < 2 → k.idReady = true → signed s' 0x64 (toBytes 2 (BitVec.ofNat 16 k.nextSession).toNat)
        { k with sessions := k.sessions ++ [(BitVec.ofNat 16 k.nextSession ++ rs, .handshake)], nextSession := k.nextSession + 1 })) ∧
    (∀ (id : W32) (ok : Bool), Completes (.finish v id ok) s fun s' => s' = { s with keep := s'.keep } ∧
      (k.session id ≠ some .handshake → err s' 0x02) ∧
      (k.session id = some .handshake → ok = true → s'.keep.session id = some .established ∧ s'.keep.sessions.length = k.sessions.length ∧
        s'.keep.sent = k.sent ++ [(0x65, [])]) ∧
      (k.session id = some .handshake → ok = false → s'.keep.session id = none ∧ s'.keep.spdmErr = 0x06)) ∧
    (∀ (id : W32) (i : Instr) (code : Byte), (i, code) ∈ [(Instr.heartbeat v id, (0x68 : Byte)), (.keyUpdate v id, 0x69), (.endSession v id, 0x6C)] →
      Completes i s fun s' => s' = { s with keep := s'.keep } ∧ (k.session id ≠ some .established → err s' 0x02) ∧
        (k.session id = some .established → s'.keep.sent = k.sent ++ [(code, [])] ∧
          s'.keep.sessions = (if code = 0x6C then k.sessions.filter (fun x => decide (x.1 ≠ id)) else k.sessions))) ∧
    (∀ (ses : Option W32) (st : BitVec 2) (ide : Bool), Completes (.vendorDefinedRequest v ses st ide) s fun s' => s' = { s with keep := s'.keep } ∧
      (ide = false → err s' 0x07) ∧ (ide = true → ses = none → err s' 0x0B) ∧
      (∀ id, ide = true → ses = some id → k.session id ≠ some .established → err s' 0x02) ∧
      (∀ id, ide = true → ses = some id → k.session id = some .established → st ∈ s'.keep.ideStreams ∧
        (∀ x, x ≠ st → (x ∈ s'.keep.ideStreams ↔ x ∈ k.ideStreams)) ∧ s'.keep.sent = k.sent ++ [(0x7E, [])])))) ∧
  (∀ (s : State) (v : Byte) (i : Instr) (n : Nat), s.pwr.linkUp = true →
    ((n = 0 ∧ ∃ c, i = .spdmUnsupportedRequest v c) ∨ (n = 1 ∧ i = .getCapabilities v) ∨ (n = 2 ∧ ∃ a b c d, i = .negotiateAlgorithms v a b c d) ∨
      (n = 3 ∧ (i = .getDigests v ∨ (∃ sl o l, i = .getCertificate v sl o l) ∨ (∃ sl, i = .challenge v sl) ∨ (∃ x g, i = .getMeasurements v x g) ∨
        (∃ sl r, i = .keyExchange v sl r) ∨ (∃ id ok, i = .finish v id ok) ∨ (∃ id, i = .heartbeat v id ∨ i = .keyUpdate v id ∨ i = .endSession v id) ∨
        ∃ ses st k, i = .vendorDefinedRequest v ses st k))) →
    ∀ other : Bool, other = decide ((v ≠ 0x12 ∧ v ≠ 0x13) ∨ (2 ≤ s.keep.conn ∧ s.keep.ver ≠ v)) → (other = true ∨ s.keep.conn < n) →
    Completes i s fun s' => ∀ e : Byte, e = (if other then 0x41 else 0x04) →
      s' = { s with keep := { s.keep with spdmErr := e, sent := s.keep.sent ++ [(0x7F, [e])] } })

/-- For every command and every state, a step with the command at the front of the queue is that command's execution with the rest of the queue. With an empty queue a step always answers a next state: DEV_TIME_NS has advanced by 10 while PERST_N is high, and memory, the registers, the images, the objects, the outputs and the Keep are as before. Where no tile's sync port has work waiting, the network, the host interface and the error state are as before too, and so is every tile without a held WAIT but for its counters. (That an empty queue is 10 ns is the model's choice, log entry 3.) (R12, R13, R411) -/
def Obligations.StepRunsTheFrontCommand : Prop :=
  (∀ (c : Instr) (rest : List Instr) (s : State), step { s with pending := c :: rest } = exec c { s with pending := rest }) ∧
  (∀ s : State, s.pending = [] → ∃ s', step s = .next s' ∧ s'.dev = { s.dev with
      time := s.dev.time + (if s.pwr.perst then 10 else 0), ticks := s.dev.ticks + 1 } ∧ s'.mem = s.mem ∧ s'.regs = s.regs ∧
    s'.imgs = s.imgs ∧ s'.obj = s.obj ∧ s'.keep = s.keep ∧ s'.lan0 = s.lan0 ∧ s'.lan1 = s.lan1 ∧ s'.pending = [] ∧
    ((∀ t, (s.tile t).bel.syncq = []) → s'.net = s.net ∧ s'.host = s.host ∧ s'.err = s.err ∧
      ∀ t, (s.tile t).core.held = none → s'.tile t = { s.tile t with ctr := (s'.tile t).ctr }))

/-- The invariant of InvariantIsKept holds at reset, no tile's stall counters exceed its tally, and the module is off: no supply, PERST_N low, outputs OFF with cause NO_COMMIT, no lock, no identity key, no object, no image, no client in flight, every register at its reset value, every commit NEVER at generation 0, the throttle ceiling at point 4 and PWR_VSET at point 2. (PERST_N low stands for the pull-down of R405; the values of what power-up forms are the model's choice, log entries 6 and 7.) (R372, R405, R416, R420, R421, R427, R432, R447) -/
def Obligations.ResetHoldsTheInvariant : Prop :=
  Inv State.reset ∧ State.reset.tallied ∧ State.reset.pending = [] ∧ State.reset.pwr.vin = false ∧ State.reset.pwr.perst = false ∧
  State.reset.pwr.ready = false ∧ State.reset.pwr.ceil = 4 ∧ State.reset.dev.time = 0 ∧ State.reset.dev.cdreset = false ∧
  State.reset.lan0.st = .off ∧ State.reset.lan0.cause = 1 ∧ State.reset.lan1.st = .off ∧ State.reset.lan1.cause = 1 ∧
  State.reset.keep.idReady = false ∧ State.reset.keep.sessions = [] ∧ State.reset.obj.objs = [] ∧ State.reset.imgs = [] ∧
  State.reset.host.cmds = [] ∧ State.reset.act .pwr 0x100 = 2 ∧ State.reset.act .pwr 0x118 = 95 ∧ State.reset.act .kep 0x240 = 0 ∧
  (∀ b, (State.reset.cmt b).state = .never ∧ (State.reset.cmt b).agen = 0) ∧
  (∀ b o, State.reset.regs.shadowAt b o = BitVec.ofNat 64 (rwcReset b o) ∧ State.reset.regs.activeAt b o = BitVec.ofNat 64 (rwcReset b o))

/-- An instruction of any class is encoded as a word with a dependence mark exactly when that word decodes to it and carries that mark: no bit of a legal word is dropped and every operand has every value its field admits. A flit header whose fields are in range is read back from its word as it was packed. (R91, R92, R93, R95, R96, R99, R117, R132, R146, R153, R176, R188) -/
def Obligations.EncodingsRoundTrip : Prop :=
  (∀ (dep : Bool) (t : TileId) (e : Ecc) (w : W64) (i : Instr),
    encodeWord dep i = some (t, e, w) ↔ decodeWord t e w = some i ∧ depBit w = dep) ∧
  (∀ h : FHdr, h.vc < 4 → h.kind < 8 → h.slot < 2 ^ 16 → h.dh < 64 → h.drow < 4096 → h.age < 128 → hdrOf h.word = h)

/-- In every state with the invariant: if a step answers a next state, that state has it too. The invariant says that memory with its poison marks, the tiles and the shadow and active registers list no key twice and no entry equal to what an unlisted key reads as, and that a shadow register holds zero in every bit that its field map does not define. (R3, R7, R422, R426) -/
def Obligations.InvariantIsKept : Prop :=
  ∀ s s' : State, Inv s → step s = .next s' → Inv s'

/-- In every state in which no tile's stall counters exceed its tally, a step that answers a next state leaves it so. After a TIL_SNAP the tally and the eight stall counters are read at offsets 0x10 to 0x50 of the tile's window, and a QUERY of the tile begins its entries with them, each count and its epoch bit in 16 bytes. (R30) -/
def Obligations.StallCountersNeverExceedTheTally : Prop :=
  (∀ s s' : State, s.tallied → step s = .next s' → s'.tallied) ∧
  (∀ (s : State) (t : TileId) (l : List Nat), l = [(s.tile t).ctr.tally, (s.tile t).ctr.sEcc, (s.tile t).ctr.sLan, (s.tile t).ctr.sMem,
      (s.tile t).ctr.sXchg, (s.tile t).ctr.sPower, (s.tile t).ctr.sFtq, (s.tile t).ctr.sQueue, (s.tile t).ctr.sSync] →
    (Completes (.tilSnap t) s fun s' => ∀ k, k < 9 →
      s'.readReg (0x100010 + 0x100 * t.toNat + 8 * k) = BitVec.ofNat 64 (l.getD k 0)) ∧
    (∀ (x : BitVec 6) (c : Cmd), s.queryCmd x 1 = some c → BitVec.ofNat 11 (c.num 18 2) = t → 160 ≤ c.num 32 4 →
      Completes (.queryTile x) s fun s' => ∃ h bs rest, h.length = 16 ∧
        s'.host.out = s.host.out ++ [.bytes c.ctx (c.num 24 8) (h ++ bs ++ rest)] ∧
        bs = l.flatMap fun n => toBytes 8 (n % 2 ^ 64) ++ toBytes 8 (n / 2 ^ 64 % 2)))

/-- A signal flit or a PUTH flit that would leave 2^31 or more available on its object raises SYNC_WINDOW: the reset holds, the fault is counted, its entry names the tile and the object, and the signal is not applied. So does a consuming WAIT that issues with n of 2^31 or above, outside a handler. (R174) -/
def Obligations.SyncWindowFaults : Prop :=
  (∀ (s : State) (t : TileId) (f : Flit) (rest : List Flit) (o : BitVec 8) (inc : Nat), s.eject t 1 = f :: rest →
    ((subOf f = 1 ∧ o = BitVec.ofNat 8 ((f.pay.getD 0 pw0).d.toNat) ∧ inc = (f.pay.getD 0 pw0).d.toNat / 2 ^ 8 % 2 ^ 16 ∧
        2 ^ 31 ≤ ((s.tile t).sigP o + BitVec.ofNat 32 inc - (s.tile t).sigC o).toNat →
      Completes (.signalArrival t) s fun s' => FaultRaised s s' t 0x8006 o.toNat ∧
        ∀ o', (s'.tile t).sigP o' = if s.dev.cdreset then (s.tile t).sigP o' else 0) ∧
    (subOf f = 0 ∧ tagOf f / 2 ^ 13 = 1 ∧ (s.tile t).offsetOk (BitVec.ofNat 6 (hdrOf f.hdr).dh) (hdrOf f.hdr).drow = true ∧
        o = BitVec.ofNat 8 (tagOf f) ∧ 2 ^ 31 ≤ ((s.tile t).sigP o + 1 - (s.tile t).sigC o).toNat →
      Completes (.putDataArrival t) s fun s' => FaultRaised s s' t 0x8006 o.toNat ∧
        ∀ o', (s'.tile t).sigP o' = if s.dev.cdreset then (s.tile t).sigP o' else 0))) ∧
  (∀ (s : State) (t : TileId) (e : Ecc) (f : WaitF) (n : W32), Ready s t e (.waitConsume t e f) → (s.tile t).core.hnd = none →
    n = ((s.tile t).reg f.rv).setWidth 32 + f.imm.setWidth 32 → 2 ^ 31 ≤ n.toNat →
    Completes (.waitConsume t e f) s fun s' => FaultRaised (s.issueEcc t e) s' t 0x8006 f.obj.toNat)
end

