-- ==== Sys2Proof/Laws/Assoc.lean ====
section
/-! SUPPORT. Laws of sparse tables: reading after writing, and that every operation keeps the canonical form. -/

set_option Elab.async false

namespace Sys2Proof.Machine

variable {α : Type}

theorem aGet_aErase_self (d : α) (l : Assoc α) (k : Nat) : aGet d (aErase l k) k = d := by
  induction l with
  | nil => rfl
  | cons kv l ih =>
    obtain ⟨k', v⟩ := kv
    by_cases h : k' = k
    · simpa [aErase, h] using ih
    · simpa [aErase, h, aGet] using ih

theorem aGet_aErase_other (d : α) (l : Assoc α) (k j : Nat) (h : j ≠ k) : aGet d (aErase l k) j = aGet d l j := by
  induction l with
  | nil => rfl
  | cons kv l ih =>
    obtain ⟨k', v⟩ := kv
    by_cases hk : k' = k
    · subst hk
      have : aErase ((k', v) :: l) k' = aErase l k' := by simp [aErase]
      rw [this, ih]
      simp [aGet, Ne.symm h]
    · have : aErase ((k', v) :: l) k = (k', v) :: aErase l k := by simp [aErase, hk]
      simp [this, aGet, ih]

theorem aGet_aInsert_self (d : α) (l : Assoc α) (k : Nat) (v : α) : aGet d (aInsert l k v) k = v := by
  induction l with
  | nil => simp [aInsert, aGet]
  | cons kv l ih =>
    obtain ⟨k', w⟩ := kv
    simp only [aInsert]
    split
    · next h => simp [aGet, Nat.ne_of_lt h, ih]
    · split <;> simp [aGet]

theorem aGet_aInsert_other (d : α) (l : Assoc α) (k j : Nat) (v : α) (h : j ≠ k) : aGet d (aInsert l k v) j = aGet d l j := by
  induction l with
  | nil => simp [aInsert, aGet, Ne.symm h]
  | cons kv l ih =>
    obtain ⟨k', w⟩ := kv
    simp only [aInsert]
    split
    · simp [aGet, ih]
    · split
      · next e => subst e; simp [aGet, Ne.symm h]
      · simp [aGet, Ne.symm h]

variable [DecidableEq α]

/-- A table reads what was written. -/
@[simp] theorem aGet_aSet_self (d : α) (l : Assoc α) (k : Nat) (v : α) : aGet d (aSet d l k v) k = v := by
  unfold aSet
  split
  · next h => rw [aGet_aErase_self, h]
  · exact aGet_aInsert_self d l k v

/-- A write leaves every other key alone. -/
theorem aGet_aSet_other (d : α) (l : Assoc α) (k j : Nat) (v : α) (h : j ≠ k) : aGet d (aSet d l k v) j = aGet d l j := by
  unfold aSet
  split
  · exact aGet_aErase_other d l k j h
  · exact aGet_aInsert_other d l k j v h

/-- The two together. -/
theorem aGet_aSet (d : α) (l : Assoc α) (k j : Nat) (v : α) : aGet d (aSet d l k v) j = if j = k then v else aGet d l j := by
  split
  · next h => rw [h]; exact aGet_aSet_self d l k v
  · next h => exact aGet_aSet_other d l k j v h

/-! ## Canonical form -/

theorem aWfFrom_mono (d : α) {a b : Nat} (h : a ≤ b) (l : Assoc α) (hl : aWfFrom d b l = true) : aWfFrom d a l = true := by
  cases l with
  | nil => rfl
  | cons kv l =>
    obtain ⟨k, v⟩ := kv
    simp only [aWfFrom, Bool.and_eq_true, decide_eq_true_eq] at hl ⊢
    exact ⟨⟨by omega, hl.1.2⟩, hl.2⟩

/-- Leaving entries out keeps the form. -/
theorem aWfFrom_filter (d : α) (p : Nat × α → Bool) (b : Nat) (l : Assoc α) (hl : aWfFrom d b l = true) :
    aWfFrom d b (l.filter p) = true := by
  induction l generalizing b with
  | nil => rfl
  | cons kv l ih =>
    obtain ⟨k, v⟩ := kv
    simp only [aWfFrom, Bool.and_eq_true, decide_eq_true_eq] at hl
    rw [List.filter_cons]
    split
    · simp only [aWfFrom, Bool.and_eq_true, decide_eq_true_eq]
      exact ⟨hl.1, ih (k + 1) hl.2⟩
    · exact ih b (aWfFrom_mono d (by omega) l hl.2)

theorem aWfFrom_insert (d : α) (b k : Nat) (v : α) (hv : v ≠ d) (hb : b ≤ k) (l : Assoc α) (hl : aWfFrom d b l = true) :
    aWfFrom d b (aInsert l k v) = true := by
  induction l generalizing b with
  | nil => simp [aInsert, aWfFrom, hv, hb]
  | cons kv l ih =>
    obtain ⟨k', w⟩ := kv
    simp only [aWfFrom, Bool.and_eq_true, decide_eq_true_eq] at hl
    simp only [aInsert]
    split
    · simp only [aWfFrom, Bool.and_eq_true, decide_eq_true_eq]
      exact ⟨hl.1, ih (k' + 1) (by omega) hl.2⟩
    · split
      · next e => subst e; simp only [aWfFrom, Bool.and_eq_true, decide_eq_true_eq]; exact ⟨⟨hb, hv⟩, hl.2⟩
      · simp only [aWfFrom, Bool.and_eq_true, decide_eq_true_eq]
        exact ⟨⟨hb, hv⟩, ⟨⟨by omega, hl.1.2⟩, hl.2⟩⟩

/-- A write keeps the canonical form. -/
theorem aWf_aSet (d : α) (l : Assoc α) (k : Nat) (v : α) (hl : aWf d l = true) : aWf d (aSet d l k v) = true := by
  unfold aSet aWf at *
  split
  · exact aWfFrom_filter d _ 0 l hl
  · next h => exact aWfFrom_insert d 0 k v h (Nat.zero_le k) l hl

/-- Leaving entries out keeps the canonical form. -/
theorem aWf_filter (d : α) (p : Nat × α → Bool) (l : Assoc α) (hl : aWf d l = true) : aWf d (l.filter p) = true :=
  aWfFrom_filter d p 0 l hl

/-- A run of writes keeps the canonical form. -/
theorem aWf_aSetMany (d : α) (l : Assoc α) (k : Nat) (vs : List α) (hl : aWf d l = true) : aWf d (aSetMany d l k vs) = true := by
  induction vs generalizing l k with
  | nil => exact hl
  | cons v vs ih => exact ih (aSet d l k v) (k + 1) (aWf_aSet d l k v hl)

/-- What a run of writes leaves at a key. -/
theorem aGet_aSetMany (d : α) (l : Assoc α) (k j : Nat) (vs : List α) :
    aGet d (aSetMany d l k vs) j = if k ≤ j ∧ j < k + vs.length then vs.getD (j - k) d else aGet d l j := by
  induction vs generalizing l k with
  | nil => simp only [aSetMany, List.length_nil]; rw [if_neg (by omega)]
  | cons v vs ih =>
    simp only [aSetMany, ih, aGet_aSet, List.length_cons]
    by_cases h1 : k + 1 ≤ j ∧ j < k + 1 + vs.length
    · rw [if_pos h1, if_pos (by omega)]
      have : j - k = (j - (k + 1)) + 1 := by omega
      rw [this]; simp
    · rw [if_neg h1]
      by_cases h2 : j = k
      · subst h2; simp
      · rw [if_neg h2, if_neg (by omega)]

end Sys2Proof.Machine
end

