-- ==== Sys2Proof/Laws/State.lean ====
section
/-! SUPPORT. One lemma for each field and each named update of the state: what an update leaves as it was. No later proof
unfolds a record update. -/

set_option Elab.async false

namespace Sys2Proof.Machine

@[simp] theorem State.setTile_pending (s : State) (t : TileId) (x : Tile) : (s.setTile t x).pending = s.pending := rfl
@[simp] theorem State.setTile_dev (s : State) (t : TileId) (x : Tile) : (s.setTile t x).dev = s.dev := rfl
@[simp] theorem State.setTile_regs (s : State) (t : TileId) (x : Tile) : (s.setTile t x).regs = s.regs := rfl
@[simp] theorem State.setTile_err (s : State) (t : TileId) (x : Tile) : (s.setTile t x).err = s.err := rfl
@[simp] theorem State.setTile_net (s : State) (t : TileId) (x : Tile) : (s.setTile t x).net = s.net := rfl
@[simp] theorem State.setTile_pool0 (s : State) (t : TileId) (x : Tile) : (s.setTile t x).pool0 = s.pool0 := rfl
@[simp] theorem State.setTile_pool1 (s : State) (t : TileId) (x : Tile) : (s.setTile t x).pool1 = s.pool1 := rfl
@[simp] theorem State.setTile_mem (s : State) (t : TileId) (x : Tile) : (s.setTile t x).mem = s.mem := rfl
@[simp] theorem State.setTile_opv (s : State) (t : TileId) (x : Tile) : (s.setTile t x).opv = s.opv := rfl
@[simp] theorem State.setTile_belc (s : State) (t : TileId) (x : Tile) : (s.setTile t x).belc = s.belc := rfl
@[simp] theorem State.setTile_waits (s : State) (t : TileId) (x : Tile) : (s.setTile t x).waits = s.waits := rfl
@[simp] theorem State.setTile_sch (s : State) (t : TileId) (x : Tile) : (s.setTile t x).sch = s.sch := rfl
@[simp] theorem State.setTile_obj (s : State) (t : TileId) (x : Tile) : (s.setTile t x).obj = s.obj := rfl
@[simp] theorem State.setTile_gro (s : State) (t : TileId) (x : Tile) : (s.setTile t x).gro = s.gro := rfl
@[simp] theorem State.setTile_host (s : State) (t : TileId) (x : Tile) : (s.setTile t x).host = s.host := rfl
@[simp] theorem State.setTile_imgs (s : State) (t : TileId) (x : Tile) : (s.setTile t x).imgs = s.imgs := rfl
@[simp] theorem State.setTile_trn (s : State) (t : TileId) (x : Tile) : (s.setTile t x).trn = s.trn := rfl
@[simp] theorem State.setTile_sess (s : State) (t : TileId) (x : Tile) : (s.setTile t x).sess = s.sess := rfl
@[simp] theorem State.setTile_lan0 (s : State) (t : TileId) (x : Tile) : (s.setTile t x).lan0 = s.lan0 := rfl
@[simp] theorem State.setTile_lan1 (s : State) (t : TileId) (x : Tile) : (s.setTile t x).lan1 = s.lan1 := rfl
@[simp] theorem State.setTile_keep (s : State) (t : TileId) (x : Tile) : (s.setTile t x).keep = s.keep := rfl
@[simp] theorem State.setTile_pwr (s : State) (t : TileId) (x : Tile) : (s.setTile t x).pwr = s.pwr := rfl

@[simp] theorem State.modMem_pending (s : State) (f : Mem → Mem) : (s.modMem f).pending = s.pending := rfl
@[simp] theorem State.modMem_dev (s : State) (f : Mem → Mem) : (s.modMem f).dev = s.dev := rfl
@[simp] theorem State.modMem_regs (s : State) (f : Mem → Mem) : (s.modMem f).regs = s.regs := rfl
@[simp] theorem State.modMem_err (s : State) (f : Mem → Mem) : (s.modMem f).err = s.err := rfl
@[simp] theorem State.modMem_tiles (s : State) (f : Mem → Mem) : (s.modMem f).tiles = s.tiles := rfl
@[simp] theorem State.modMem_net (s : State) (f : Mem → Mem) : (s.modMem f).net = s.net := rfl
@[simp] theorem State.modMem_pool0 (s : State) (f : Mem → Mem) : (s.modMem f).pool0 = s.pool0 := rfl
@[simp] theorem State.modMem_pool1 (s : State) (f : Mem → Mem) : (s.modMem f).pool1 = s.pool1 := rfl
@[simp] theorem State.modMem_opv (s : State) (f : Mem → Mem) : (s.modMem f).opv = s.opv := rfl
@[simp] theorem State.modMem_belc (s : State) (f : Mem → Mem) : (s.modMem f).belc = s.belc := rfl
@[simp] theorem State.modMem_waits (s : State) (f : Mem → Mem) : (s.modMem f).waits = s.waits := rfl
@[simp] theorem State.modMem_sch (s : State) (f : Mem → Mem) : (s.modMem f).sch = s.sch := rfl
@[simp] theorem State.modMem_obj (s : State) (f : Mem → Mem) : (s.modMem f).obj = s.obj := rfl
@[simp] theorem State.modMem_gro (s : State) (f : Mem → Mem) : (s.modMem f).gro = s.gro := rfl
@[simp] theorem State.modMem_host (s : State) (f : Mem → Mem) : (s.modMem f).host = s.host := rfl
@[simp] theorem State.modMem_imgs (s : State) (f : Mem → Mem) : (s.modMem f).imgs = s.imgs := rfl
@[simp] theorem State.modMem_trn (s : State) (f : Mem → Mem) : (s.modMem f).trn = s.trn := rfl
@[simp] theorem State.modMem_sess (s : State) (f : Mem → Mem) : (s.modMem f).sess = s.sess := rfl
@[simp] theorem State.modMem_lan0 (s : State) (f : Mem → Mem) : (s.modMem f).lan0 = s.lan0 := rfl
@[simp] theorem State.modMem_lan1 (s : State) (f : Mem → Mem) : (s.modMem f).lan1 = s.lan1 := rfl
@[simp] theorem State.modMem_keep (s : State) (f : Mem → Mem) : (s.modMem f).keep = s.keep := rfl
@[simp] theorem State.modMem_pwr (s : State) (f : Mem → Mem) : (s.modMem f).pwr = s.pwr := rfl

@[simp] theorem State.setPool_pending (s : State) (die : Bool) (p : Pool) : (s.setPool die p).pending = s.pending := by
  unfold State.setPool; split <;> rfl
@[simp] theorem State.setPool_dev (s : State) (die : Bool) (p : Pool) : (s.setPool die p).dev = s.dev := by
  unfold State.setPool; split <;> rfl
@[simp] theorem State.setPool_regs (s : State) (die : Bool) (p : Pool) : (s.setPool die p).regs = s.regs := by
  unfold State.setPool; split <;> rfl
@[simp] theorem State.setPool_err (s : State) (die : Bool) (p : Pool) : (s.setPool die p).err = s.err := by
  unfold State.setPool; split <;> rfl
@[simp] theorem State.setPool_tiles (s : State) (die : Bool) (p : Pool) : (s.setPool die p).tiles = s.tiles := by
  unfold State.setPool; split <;> rfl
@[simp] theorem State.setPool_net (s : State) (die : Bool) (p : Pool) : (s.setPool die p).net = s.net := by
  unfold State.setPool; split <;> rfl
@[simp] theorem State.setPool_mem (s : State) (die : Bool) (p : Pool) : (s.setPool die p).mem = s.mem := by
  unfold State.setPool; split <;> rfl
@[simp] theorem State.setPool_opv (s : State) (die : Bool) (p : Pool) : (s.setPool die p).opv = s.opv := by
  unfold State.setPool; split <;> rfl
@[simp] theorem State.setPool_belc (s : State) (die : Bool) (p : Pool) : (s.setPool die p).belc = s.belc := by
  unfold State.setPool; split <;> rfl
@[simp] theorem State.setPool_waits (s : State) (die : Bool) (p : Pool) : (s.setPool die p).waits = s.waits := by
  unfold State.setPool; split <;> rfl
@[simp] theorem State.setPool_sch (s : State) (die : Bool) (p : Pool) : (s.setPool die p).sch = s.sch := by
  unfold State.setPool; split <;> rfl
@[simp] theorem State.setPool_obj (s : State) (die : Bool) (p : Pool) : (s.setPool die p).obj = s.obj := by
  unfold State.setPool; split <;> rfl
@[simp] theorem State.setPool_gro (s : State) (die : Bool) (p : Pool) : (s.setPool die p).gro = s.gro := by
  unfold State.setPool; split <;> rfl
@[simp] theorem State.setPool_host (s : State) (die : Bool) (p : Pool) : (s.setPool die p).host = s.host := by
  unfold State.setPool; split <;> rfl
@[simp] theorem State.setPool_imgs (s : State) (die : Bool) (p : Pool) : (s.setPool die p).imgs = s.imgs := by
  unfold State.setPool; split <;> rfl
@[simp] theorem State.setPool_trn (s : State) (die : Bool) (p : Pool) : (s.setPool die p).trn = s.trn := by
  unfold State.setPool; split <;> rfl
@[simp] theorem State.setPool_sess (s : State) (die : Bool) (p : Pool) : (s.setPool die p).sess = s.sess := by
  unfold State.setPool; split <;> rfl
@[simp] theorem State.setPool_lan0 (s : State) (die : Bool) (p : Pool) : (s.setPool die p).lan0 = s.lan0 := by
  unfold State.setPool; split <;> rfl
@[simp] theorem State.setPool_lan1 (s : State) (die : Bool) (p : Pool) : (s.setPool die p).lan1 = s.lan1 := by
  unfold State.setPool; split <;> rfl
@[simp] theorem State.setPool_keep (s : State) (die : Bool) (p : Pool) : (s.setPool die p).keep = s.keep := by
  unfold State.setPool; split <;> rfl
@[simp] theorem State.setPool_pwr (s : State) (die : Bool) (p : Pool) : (s.setPool die p).pwr = s.pwr := by
  unfold State.setPool; split <;> rfl

@[simp] theorem State.setLink_pending (s : State) (k : Nat) (l : List Flit) : (s.setLink k l).pending = s.pending := rfl
@[simp] theorem State.setLink_dev (s : State) (k : Nat) (l : List Flit) : (s.setLink k l).dev = s.dev := rfl
@[simp] theorem State.setLink_regs (s : State) (k : Nat) (l : List Flit) : (s.setLink k l).regs = s.regs := rfl
@[simp] theorem State.setLink_err (s : State) (k : Nat) (l : List Flit) : (s.setLink k l).err = s.err := rfl
@[simp] theorem State.setLink_tiles (s : State) (k : Nat) (l : List Flit) : (s.setLink k l).tiles = s.tiles := rfl
@[simp] theorem State.setLink_pool0 (s : State) (k : Nat) (l : List Flit) : (s.setLink k l).pool0 = s.pool0 := rfl
@[simp] theorem State.setLink_pool1 (s : State) (k : Nat) (l : List Flit) : (s.setLink k l).pool1 = s.pool1 := rfl
@[simp] theorem State.setLink_mem (s : State) (k : Nat) (l : List Flit) : (s.setLink k l).mem = s.mem := rfl
@[simp] theorem State.setLink_opv (s : State) (k : Nat) (l : List Flit) : (s.setLink k l).opv = s.opv := rfl
@[simp] theorem State.setLink_belc (s : State) (k : Nat) (l : List Flit) : (s.setLink k l).belc = s.belc := rfl
@[simp] theorem State.setLink_waits (s : State) (k : Nat) (l : List Flit) : (s.setLink k l).waits = s.waits := rfl
@[simp] theorem State.setLink_sch (s : State) (k : Nat) (l : List Flit) : (s.setLink k l).sch = s.sch := rfl
@[simp] theorem State.setLink_obj (s : State) (k : Nat) (l : List Flit) : (s.setLink k l).obj = s.obj := rfl
@[simp] theorem State.setLink_gro (s : State) (k : Nat) (l : List Flit) : (s.setLink k l).gro = s.gro := rfl
@[simp] theorem State.setLink_host (s : State) (k : Nat) (l : List Flit) : (s.setLink k l).host = s.host := rfl
@[simp] theorem State.setLink_imgs (s : State) (k : Nat) (l : List Flit) : (s.setLink k l).imgs = s.imgs := rfl
@[simp] theorem State.setLink_trn (s : State) (k : Nat) (l : List Flit) : (s.setLink k l).trn = s.trn := rfl
@[simp] theorem State.setLink_sess (s : State) (k : Nat) (l : List Flit) : (s.setLink k l).sess = s.sess := rfl
@[simp] theorem State.setLink_lan0 (s : State) (k : Nat) (l : List Flit) : (s.setLink k l).lan0 = s.lan0 := rfl
@[simp] theorem State.setLink_lan1 (s : State) (k : Nat) (l : List Flit) : (s.setLink k l).lan1 = s.lan1 := rfl
@[simp] theorem State.setLink_keep (s : State) (k : Nat) (l : List Flit) : (s.setLink k l).keep = s.keep := rfl
@[simp] theorem State.setLink_pwr (s : State) (k : Nat) (l : List Flit) : (s.setLink k l).pwr = s.pwr := rfl

@[simp] theorem State.setEject_pending (s : State) (t : TileId) (vc : Nat) (l : List Flit) : (s.setEject t vc l).pending = s.pending := rfl
@[simp] theorem State.setEject_dev (s : State) (t : TileId) (vc : Nat) (l : List Flit) : (s.setEject t vc l).dev = s.dev := rfl
@[simp] theorem State.setEject_regs (s : State) (t : TileId) (vc : Nat) (l : List Flit) : (s.setEject t vc l).regs = s.regs := rfl
@[simp] theorem State.setEject_err (s : State) (t : TileId) (vc : Nat) (l : List Flit) : (s.setEject t vc l).err = s.err := rfl
@[simp] theorem State.setEject_tiles (s : State) (t : TileId) (vc : Nat) (l : List Flit) : (s.setEject t vc l).tiles = s.tiles := rfl
@[simp] theorem State.setEject_pool0 (s : State) (t : TileId) (vc : Nat) (l : List Flit) : (s.setEject t vc l).pool0 = s.pool0 := rfl
@[simp] theorem State.setEject_pool1 (s : State) (t : TileId) (vc : Nat) (l : List Flit) : (s.setEject t vc l).pool1 = s.pool1 := rfl
@[simp] theorem State.setEject_mem (s : State) (t : TileId) (vc : Nat) (l : List Flit) : (s.setEject t vc l).mem = s.mem := rfl
@[simp] theorem State.setEject_opv (s : State) (t : TileId) (vc : Nat) (l : List Flit) : (s.setEject t vc l).opv = s.opv := rfl
@[simp] theorem State.setEject_belc (s : State) (t : TileId) (vc : Nat) (l : List Flit) : (s.setEject t vc l).belc = s.belc := rfl
@[simp] theorem State.setEject_waits (s : State) (t : TileId) (vc : Nat) (l : List Flit) : (s.setEject t vc l).waits = s.waits := rfl
@[simp] theorem State.setEject_sch (s : State) (t : TileId) (vc : Nat) (l : List Flit) : (s.setEject t vc l).sch = s.sch := rfl
@[simp] theorem State.setEject_obj (s : State) (t : TileId) (vc : Nat) (l : List Flit) : (s.setEject t vc l).obj = s.obj := rfl
@[simp] theorem State.setEject_gro (s : State) (t : TileId) (vc : Nat) (l : List Flit) : (s.setEject t vc l).gro = s.gro := rfl
@[simp] theorem State.setEject_host (s : State) (t : TileId) (vc : Nat) (l : List Flit) : (s.setEject t vc l).host = s.host := rfl
@[simp] theorem State.setEject_imgs (s : State) (t : TileId) (vc : Nat) (l : List Flit) : (s.setEject t vc l).imgs = s.imgs := rfl
@[simp] theorem State.setEject_trn (s : State) (t : TileId) (vc : Nat) (l : List Flit) : (s.setEject t vc l).trn = s.trn := rfl
@[simp] theorem State.setEject_sess (s : State) (t : TileId) (vc : Nat) (l : List Flit) : (s.setEject t vc l).sess = s.sess := rfl
@[simp] theorem State.setEject_lan0 (s : State) (t : TileId) (vc : Nat) (l : List Flit) : (s.setEject t vc l).lan0 = s.lan0 := rfl
@[simp] theorem State.setEject_lan1 (s : State) (t : TileId) (vc : Nat) (l : List Flit) : (s.setEject t vc l).lan1 = s.lan1 := rfl
@[simp] theorem State.setEject_keep (s : State) (t : TileId) (vc : Nat) (l : List Flit) : (s.setEject t vc l).keep = s.keep := rfl
@[simp] theorem State.setEject_pwr (s : State) (t : TileId) (vc : Nat) (l : List Flit) : (s.setEject t vc l).pwr = s.pwr := rfl

@[simp] theorem State.setEdgeQ_pending (s : State) (k : Nat) (l : List Flit) : (s.setEdgeQ k l).pending = s.pending := rfl
@[simp] theorem State.setEdgeQ_dev (s : State) (k : Nat) (l : List Flit) : (s.setEdgeQ k l).dev = s.dev := rfl
@[simp] theorem State.setEdgeQ_regs (s : State) (k : Nat) (l : List Flit) : (s.setEdgeQ k l).regs = s.regs := rfl
@[simp] theorem State.setEdgeQ_err (s : State) (k : Nat) (l : List Flit) : (s.setEdgeQ k l).err = s.err := rfl
@[simp] theorem State.setEdgeQ_tiles (s : State) (k : Nat) (l : List Flit) : (s.setEdgeQ k l).tiles = s.tiles := rfl
@[simp] theorem State.setEdgeQ_pool0 (s : State) (k : Nat) (l : List Flit) : (s.setEdgeQ k l).pool0 = s.pool0 := rfl
@[simp] theorem State.setEdgeQ_pool1 (s : State) (k : Nat) (l : List Flit) : (s.setEdgeQ k l).pool1 = s.pool1 := rfl
@[simp] theorem State.setEdgeQ_mem (s : State) (k : Nat) (l : List Flit) : (s.setEdgeQ k l).mem = s.mem := rfl
@[simp] theorem State.setEdgeQ_opv (s : State) (k : Nat) (l : List Flit) : (s.setEdgeQ k l).opv = s.opv := rfl
@[simp] theorem State.setEdgeQ_belc (s : State) (k : Nat) (l : List Flit) : (s.setEdgeQ k l).belc = s.belc := rfl
@[simp] theorem State.setEdgeQ_waits (s : State) (k : Nat) (l : List Flit) : (s.setEdgeQ k l).waits = s.waits := rfl
@[simp] theorem State.setEdgeQ_sch (s : State) (k : Nat) (l : List Flit) : (s.setEdgeQ k l).sch = s.sch := rfl
@[simp] theorem State.setEdgeQ_obj (s : State) (k : Nat) (l : List Flit) : (s.setEdgeQ k l).obj = s.obj := rfl
@[simp] theorem State.setEdgeQ_gro (s : State) (k : Nat) (l : List Flit) : (s.setEdgeQ k l).gro = s.gro := rfl
@[simp] theorem State.setEdgeQ_host (s : State) (k : Nat) (l : List Flit) : (s.setEdgeQ k l).host = s.host := rfl
@[simp] theorem State.setEdgeQ_imgs (s : State) (k : Nat) (l : List Flit) : (s.setEdgeQ k l).imgs = s.imgs := rfl
@[simp] theorem State.setEdgeQ_trn (s : State) (k : Nat) (l : List Flit) : (s.setEdgeQ k l).trn = s.trn := rfl
@[simp] theorem State.setEdgeQ_sess (s : State) (k : Nat) (l : List Flit) : (s.setEdgeQ k l).sess = s.sess := rfl
@[simp] theorem State.setEdgeQ_lan0 (s : State) (k : Nat) (l : List Flit) : (s.setEdgeQ k l).lan0 = s.lan0 := rfl
@[simp] theorem State.setEdgeQ_lan1 (s : State) (k : Nat) (l : List Flit) : (s.setEdgeQ k l).lan1 = s.lan1 := rfl
@[simp] theorem State.setEdgeQ_keep (s : State) (k : Nat) (l : List Flit) : (s.setEdgeQ k l).keep = s.keep := rfl
@[simp] theorem State.setEdgeQ_pwr (s : State) (k : Nat) (l : List Flit) : (s.setEdgeQ k l).pwr = s.pwr := rfl

@[simp] theorem State.setOport_pending (s : State) (p : Bool) (x : OpvPort) : (s.setOport p x).pending = s.pending := by
  unfold State.setOport; split <;> rfl
@[simp] theorem State.setOport_dev (s : State) (p : Bool) (x : OpvPort) : (s.setOport p x).dev = s.dev := by
  unfold State.setOport; split <;> rfl
@[simp] theorem State.setOport_regs (s : State) (p : Bool) (x : OpvPort) : (s.setOport p x).regs = s.regs := by
  unfold State.setOport; split <;> rfl
@[simp] theorem State.setOport_err (s : State) (p : Bool) (x : OpvPort) : (s.setOport p x).err = s.err := by
  unfold State.setOport; split <;> rfl
@[simp] theorem State.setOport_tiles (s : State) (p : Bool) (x : OpvPort) : (s.setOport p x).tiles = s.tiles := by
  unfold State.setOport; split <;> rfl
@[simp] theorem State.setOport_net (s : State) (p : Bool) (x : OpvPort) : (s.setOport p x).net = s.net := by
  unfold State.setOport; split <;> rfl
@[simp] theorem State.setOport_pool0 (s : State) (p : Bool) (x : OpvPort) : (s.setOport p x).pool0 = s.pool0 := by
  unfold State.setOport; split <;> rfl
@[simp] theorem State.setOport_pool1 (s : State) (p : Bool) (x : OpvPort) : (s.setOport p x).pool1 = s.pool1 := by
  unfold State.setOport; split <;> rfl
@[simp] theorem State.setOport_mem (s : State) (p : Bool) (x : OpvPort) : (s.setOport p x).mem = s.mem := by
  unfold State.setOport; split <;> rfl
@[simp] theorem State.setOport_belc (s : State) (p : Bool) (x : OpvPort) : (s.setOport p x).belc = s.belc := by
  unfold State.setOport; split <;> rfl
@[simp] theorem State.setOport_waits (s : State) (p : Bool) (x : OpvPort) : (s.setOport p x).waits = s.waits := by
  unfold State.setOport; split <;> rfl
@[simp] theorem State.setOport_sch (s : State) (p : Bool) (x : OpvPort) : (s.setOport p x).sch = s.sch := by
  unfold State.setOport; split <;> rfl
@[simp] theorem State.setOport_obj (s : State) (p : Bool) (x : OpvPort) : (s.setOport p x).obj = s.obj := by
  unfold State.setOport; split <;> rfl
@[simp] theorem State.setOport_gro (s : State) (p : Bool) (x : OpvPort) : (s.setOport p x).gro = s.gro := by
  unfold State.setOport; split <;> rfl
@[simp] theorem State.setOport_host (s : State) (p : Bool) (x : OpvPort) : (s.setOport p x).host = s.host := by
  unfold State.setOport; split <;> rfl
@[simp] theorem State.setOport_imgs (s : State) (p : Bool) (x : OpvPort) : (s.setOport p x).imgs = s.imgs := by
  unfold State.setOport; split <;> rfl
@[simp] theorem State.setOport_trn (s : State) (p : Bool) (x : OpvPort) : (s.setOport p x).trn = s.trn := by
  unfold State.setOport; split <;> rfl
@[simp] theorem State.setOport_sess (s : State) (p : Bool) (x : OpvPort) : (s.setOport p x).sess = s.sess := by
  unfold State.setOport; split <;> rfl
@[simp] theorem State.setOport_lan0 (s : State) (p : Bool) (x : OpvPort) : (s.setOport p x).lan0 = s.lan0 := by
  unfold State.setOport; split <;> rfl
@[simp] theorem State.setOport_lan1 (s : State) (p : Bool) (x : OpvPort) : (s.setOport p x).lan1 = s.lan1 := by
  unfold State.setOport; split <;> rfl
@[simp] theorem State.setOport_keep (s : State) (p : Bool) (x : OpvPort) : (s.setOport p x).keep = s.keep := by
  unfold State.setOport; split <;> rfl
@[simp] theorem State.setOport_pwr (s : State) (p : Bool) (x : OpvPort) : (s.setOport p x).pwr = s.pwr := by
  unfold State.setOport; split <;> rfl

@[simp] theorem State.setCtx_pending (s : State) (c : BitVec 6) (x : HCtx) : (s.setCtx c x).pending = s.pending := rfl
@[simp] theorem State.setCtx_dev (s : State) (c : BitVec 6) (x : HCtx) : (s.setCtx c x).dev = s.dev := rfl
@[simp] theorem State.setCtx_regs (s : State) (c : BitVec 6) (x : HCtx) : (s.setCtx c x).regs = s.regs := rfl
@[simp] theorem State.setCtx_err (s : State) (c : BitVec 6) (x : HCtx) : (s.setCtx c x).err = s.err := rfl
@[simp] theorem State.setCtx_tiles (s : State) (c : BitVec 6) (x : HCtx) : (s.setCtx c x).tiles = s.tiles := rfl
@[simp] theorem State.setCtx_net (s : State) (c : BitVec 6) (x : HCtx) : (s.setCtx c x).net = s.net := rfl
@[simp] theorem State.setCtx_pool0 (s : State) (c : BitVec 6) (x : HCtx) : (s.setCtx c x).pool0 = s.pool0 := rfl
@[simp] theorem State.setCtx_pool1 (s : State) (c : BitVec 6) (x : HCtx) : (s.setCtx c x).pool1 = s.pool1 := rfl
@[simp] theorem State.setCtx_mem (s : State) (c : BitVec 6) (x : HCtx) : (s.setCtx c x).mem = s.mem := rfl
@[simp] theorem State.setCtx_opv (s : State) (c : BitVec 6) (x : HCtx) : (s.setCtx c x).opv = s.opv := rfl
@[simp] theorem State.setCtx_belc (s : State) (c : BitVec 6) (x : HCtx) : (s.setCtx c x).belc = s.belc := rfl
@[simp] theorem State.setCtx_waits (s : State) (c : BitVec 6) (x : HCtx) : (s.setCtx c x).waits = s.waits := rfl
@[simp] theorem State.setCtx_sch (s : State) (c : BitVec 6) (x : HCtx) : (s.setCtx c x).sch = s.sch := rfl
@[simp] theorem State.setCtx_obj (s : State) (c : BitVec 6) (x : HCtx) : (s.setCtx c x).obj = s.obj := rfl
@[simp] theorem State.setCtx_gro (s : State) (c : BitVec 6) (x : HCtx) : (s.setCtx c x).gro = s.gro := rfl
@[simp] theorem State.setCtx_imgs (s : State) (c : BitVec 6) (x : HCtx) : (s.setCtx c x).imgs = s.imgs := rfl
@[simp] theorem State.setCtx_trn (s : State) (c : BitVec 6) (x : HCtx) : (s.setCtx c x).trn = s.trn := rfl
@[simp] theorem State.setCtx_sess (s : State) (c : BitVec 6) (x : HCtx) : (s.setCtx c x).sess = s.sess := rfl
@[simp] theorem State.setCtx_lan0 (s : State) (c : BitVec 6) (x : HCtx) : (s.setCtx c x).lan0 = s.lan0 := rfl
@[simp] theorem State.setCtx_lan1 (s : State) (c : BitVec 6) (x : HCtx) : (s.setCtx c x).lan1 = s.lan1 := rfl
@[simp] theorem State.setCtx_keep (s : State) (c : BitVec 6) (x : HCtx) : (s.setCtx c x).keep = s.keep := rfl
@[simp] theorem State.setCtx_pwr (s : State) (c : BitVec 6) (x : HCtx) : (s.setCtx c x).pwr = s.pwr := rfl

@[simp] theorem State.send_pending (s : State) (o : HostOut) : (s.send o).pending = s.pending := rfl
@[simp] theorem State.send_dev (s : State) (o : HostOut) : (s.send o).dev = s.dev := rfl
@[simp] theorem State.send_regs (s : State) (o : HostOut) : (s.send o).regs = s.regs := rfl
@[simp] theorem State.send_err (s : State) (o : HostOut) : (s.send o).err = s.err := rfl
@[simp] theorem State.send_tiles (s : State) (o : HostOut) : (s.send o).tiles = s.tiles := rfl
@[simp] theorem State.send_net (s : State) (o : HostOut) : (s.send o).net = s.net := rfl
@[simp] theorem State.send_pool0 (s : State) (o : HostOut) : (s.send o).pool0 = s.pool0 := rfl
@[simp] theorem State.send_pool1 (s : State) (o : HostOut) : (s.send o).pool1 = s.pool1 := rfl
@[simp] theorem State.send_mem (s : State) (o : HostOut) : (s.send o).mem = s.mem := rfl
@[simp] theorem State.send_opv (s : State) (o : HostOut) : (s.send o).opv = s.opv := rfl
@[simp] theorem State.send_belc (s : State) (o : HostOut) : (s.send o).belc = s.belc := rfl
@[simp] theorem State.send_waits (s : State) (o : HostOut) : (s.send o).waits = s.waits := rfl
@[simp] theorem State.send_sch (s : State) (o : HostOut) : (s.send o).sch = s.sch := rfl
@[simp] theorem State.send_obj (s : State) (o : HostOut) : (s.send o).obj = s.obj := rfl
@[simp] theorem State.send_gro (s : State) (o : HostOut) : (s.send o).gro = s.gro := rfl
@[simp] theorem State.send_imgs (s : State) (o : HostOut) : (s.send o).imgs = s.imgs := rfl
@[simp] theorem State.send_trn (s : State) (o : HostOut) : (s.send o).trn = s.trn := rfl
@[simp] theorem State.send_sess (s : State) (o : HostOut) : (s.send o).sess = s.sess := rfl
@[simp] theorem State.send_lan0 (s : State) (o : HostOut) : (s.send o).lan0 = s.lan0 := rfl
@[simp] theorem State.send_lan1 (s : State) (o : HostOut) : (s.send o).lan1 = s.lan1 := rfl
@[simp] theorem State.send_keep (s : State) (o : HostOut) : (s.send o).keep = s.keep := rfl
@[simp] theorem State.send_pwr (s : State) (o : HostOut) : (s.send o).pwr = s.pwr := rfl

@[simp] theorem State.setSession_pending (s : State) (c : BitVec 6) (x : Option Sess) : (s.setSession c x).pending = s.pending := rfl
@[simp] theorem State.setSession_dev (s : State) (c : BitVec 6) (x : Option Sess) : (s.setSession c x).dev = s.dev := rfl
@[simp] theorem State.setSession_regs (s : State) (c : BitVec 6) (x : Option Sess) : (s.setSession c x).regs = s.regs := rfl
@[simp] theorem State.setSession_err (s : State) (c : BitVec 6) (x : Option Sess) : (s.setSession c x).err = s.err := rfl
@[simp] theorem State.setSession_tiles (s : State) (c : BitVec 6) (x : Option Sess) : (s.setSession c x).tiles = s.tiles := rfl
@[simp] theorem State.setSession_net (s : State) (c : BitVec 6) (x : Option Sess) : (s.setSession c x).net = s.net := rfl
@[simp] theorem State.setSession_pool0 (s : State) (c : BitVec 6) (x : Option Sess) : (s.setSession c x).pool0 = s.pool0 := rfl
@[simp] theorem State.setSession_pool1 (s : State) (c : BitVec 6) (x : Option Sess) : (s.setSession c x).pool1 = s.pool1 := rfl
@[simp] theorem State.setSession_mem (s : State) (c : BitVec 6) (x : Option Sess) : (s.setSession c x).mem = s.mem := rfl
@[simp] theorem State.setSession_opv (s : State) (c : BitVec 6) (x : Option Sess) : (s.setSession c x).opv = s.opv := rfl
@[simp] theorem State.setSession_belc (s : State) (c : BitVec 6) (x : Option Sess) : (s.setSession c x).belc = s.belc := rfl
@[simp] theorem State.setSession_waits (s : State) (c : BitVec 6) (x : Option Sess) : (s.setSession c x).waits = s.waits := rfl
@[simp] theorem State.setSession_sch (s : State) (c : BitVec 6) (x : Option Sess) : (s.setSession c x).sch = s.sch := rfl
@[simp] theorem State.setSession_obj (s : State) (c : BitVec 6) (x : Option Sess) : (s.setSession c x).obj = s.obj := rfl
@[simp] theorem State.setSession_gro (s : State) (c : BitVec 6) (x : Option Sess) : (s.setSession c x).gro = s.gro := rfl
@[simp] theorem State.setSession_host (s : State) (c : BitVec 6) (x : Option Sess) : (s.setSession c x).host = s.host := rfl
@[simp] theorem State.setSession_imgs (s : State) (c : BitVec 6) (x : Option Sess) : (s.setSession c x).imgs = s.imgs := rfl
@[simp] theorem State.setSession_trn (s : State) (c : BitVec 6) (x : Option Sess) : (s.setSession c x).trn = s.trn := rfl
@[simp] theorem State.setSession_lan0 (s : State) (c : BitVec 6) (x : Option Sess) : (s.setSession c x).lan0 = s.lan0 := rfl
@[simp] theorem State.setSession_lan1 (s : State) (c : BitVec 6) (x : Option Sess) : (s.setSession c x).lan1 = s.lan1 := rfl
@[simp] theorem State.setSession_keep (s : State) (c : BitVec 6) (x : Option Sess) : (s.setSession c x).keep = s.keep := rfl
@[simp] theorem State.setSession_pwr (s : State) (c : BitVec 6) (x : Option Sess) : (s.setSession c x).pwr = s.pwr := rfl

@[simp] theorem State.setKeep_pending (s : State) (k : Keep) : (s.setKeep k).pending = s.pending := rfl
@[simp] theorem State.setKeep_dev (s : State) (k : Keep) : (s.setKeep k).dev = s.dev := rfl
@[simp] theorem State.setKeep_regs (s : State) (k : Keep) : (s.setKeep k).regs = s.regs := rfl
@[simp] theorem State.setKeep_err (s : State) (k : Keep) : (s.setKeep k).err = s.err := rfl
@[simp] theorem State.setKeep_tiles (s : State) (k : Keep) : (s.setKeep k).tiles = s.tiles := rfl
@[simp] theorem State.setKeep_net (s : State) (k : Keep) : (s.setKeep k).net = s.net := rfl
@[simp] theorem State.setKeep_pool0 (s : State) (k : Keep) : (s.setKeep k).pool0 = s.pool0 := rfl
@[simp] theorem State.setKeep_pool1 (s : State) (k : Keep) : (s.setKeep k).pool1 = s.pool1 := rfl
@[simp] theorem State.setKeep_mem (s : State) (k : Keep) : (s.setKeep k).mem = s.mem := rfl
@[simp] theorem State.setKeep_opv (s : State) (k : Keep) : (s.setKeep k).opv = s.opv := rfl
@[simp] theorem State.setKeep_belc (s : State) (k : Keep) : (s.setKeep k).belc = s.belc := rfl
@[simp] theorem State.setKeep_waits (s : State) (k : Keep) : (s.setKeep k).waits = s.waits := rfl
@[simp] theorem State.setKeep_sch (s : State) (k : Keep) : (s.setKeep k).sch = s.sch := rfl
@[simp] theorem State.setKeep_obj (s : State) (k : Keep) : (s.setKeep k).obj = s.obj := rfl
@[simp] theorem State.setKeep_gro (s : State) (k : Keep) : (s.setKeep k).gro = s.gro := rfl
@[simp] theorem State.setKeep_host (s : State) (k : Keep) : (s.setKeep k).host = s.host := rfl
@[simp] theorem State.setKeep_imgs (s : State) (k : Keep) : (s.setKeep k).imgs = s.imgs := rfl
@[simp] theorem State.setKeep_trn (s : State) (k : Keep) : (s.setKeep k).trn = s.trn := rfl
@[simp] theorem State.setKeep_sess (s : State) (k : Keep) : (s.setKeep k).sess = s.sess := rfl
@[simp] theorem State.setKeep_lan0 (s : State) (k : Keep) : (s.setKeep k).lan0 = s.lan0 := rfl
@[simp] theorem State.setKeep_lan1 (s : State) (k : Keep) : (s.setKeep k).lan1 = s.lan1 := rfl
@[simp] theorem State.setKeep_pwr (s : State) (k : Keep) : (s.setKeep k).pwr = s.pwr := rfl

@[simp] theorem State.setLan_pending (s : State) (n : Bool) (o : LanOut) : (s.setLan n o).pending = s.pending := by
  unfold State.setLan; split <;> rfl
@[simp] theorem State.setLan_dev (s : State) (n : Bool) (o : LanOut) : (s.setLan n o).dev = s.dev := by
  unfold State.setLan; split <;> rfl
@[simp] theorem State.setLan_regs (s : State) (n : Bool) (o : LanOut) : (s.setLan n o).regs = s.regs := by
  unfold State.setLan; split <;> rfl
@[simp] theorem State.setLan_err (s : State) (n : Bool) (o : LanOut) : (s.setLan n o).err = s.err := by
  unfold State.setLan; split <;> rfl
@[simp] theorem State.setLan_tiles (s : State) (n : Bool) (o : LanOut) : (s.setLan n o).tiles = s.tiles := by
  unfold State.setLan; split <;> rfl
@[simp] theorem State.setLan_net (s : State) (n : Bool) (o : LanOut) : (s.setLan n o).net = s.net := by
  unfold State.setLan; split <;> rfl
@[simp] theorem State.setLan_pool0 (s : State) (n : Bool) (o : LanOut) : (s.setLan n o).pool0 = s.pool0 := by
  unfold State.setLan; split <;> rfl
@[simp] theorem State.setLan_pool1 (s : State) (n : Bool) (o : LanOut) : (s.setLan n o).pool1 = s.pool1 := by
  unfold State.setLan; split <;> rfl
@[simp] theorem State.setLan_mem (s : State) (n : Bool) (o : LanOut) : (s.setLan n o).mem = s.mem := by
  unfold State.setLan; split <;> rfl
@[simp] theorem State.setLan_opv (s : State) (n : Bool) (o : LanOut) : (s.setLan n o).opv = s.opv := by
  unfold State.setLan; split <;> rfl
@[simp] theorem State.setLan_belc (s : State) (n : Bool) (o : LanOut) : (s.setLan n o).belc = s.belc := by
  unfold State.setLan; split <;> rfl
@[simp] theorem State.setLan_waits (s : State) (n : Bool) (o : LanOut) : (s.setLan n o).waits = s.waits := by
  unfold State.setLan; split <;> rfl
@[simp] theorem State.setLan_sch (s : State) (n : Bool) (o : LanOut) : (s.setLan n o).sch = s.sch := by
  unfold State.setLan; split <;> rfl
@[simp] theorem State.setLan_obj (s : State) (n : Bool) (o : LanOut) : (s.setLan n o).obj = s.obj := by
  unfold State.setLan; split <;> rfl
@[simp] theorem State.setLan_gro (s : State) (n : Bool) (o : LanOut) : (s.setLan n o).gro = s.gro := by
  unfold State.setLan; split <;> rfl
@[simp] theorem State.setLan_host (s : State) (n : Bool) (o : LanOut) : (s.setLan n o).host = s.host := by
  unfold State.setLan; split <;> rfl
@[simp] theorem State.setLan_imgs (s : State) (n : Bool) (o : LanOut) : (s.setLan n o).imgs = s.imgs := by
  unfold State.setLan; split <;> rfl
@[simp] theorem State.setLan_trn (s : State) (n : Bool) (o : LanOut) : (s.setLan n o).trn = s.trn := by
  unfold State.setLan; split <;> rfl
@[simp] theorem State.setLan_sess (s : State) (n : Bool) (o : LanOut) : (s.setLan n o).sess = s.sess := by
  unfold State.setLan; split <;> rfl
@[simp] theorem State.setLan_keep (s : State) (n : Bool) (o : LanOut) : (s.setLan n o).keep = s.keep := by
  unfold State.setLan; split <;> rfl
@[simp] theorem State.setLan_pwr (s : State) (n : Bool) (o : LanOut) : (s.setLan n o).pwr = s.pwr := by
  unfold State.setLan; split <;> rfl

@[simp] theorem State.setSlice_pending (s : State) (sl : SliceId) (x : Slice) : (s.setSlice sl x).pending = s.pending := rfl
@[simp] theorem State.setSlice_dev (s : State) (sl : SliceId) (x : Slice) : (s.setSlice sl x).dev = s.dev := rfl
@[simp] theorem State.setSlice_regs (s : State) (sl : SliceId) (x : Slice) : (s.setSlice sl x).regs = s.regs := rfl
@[simp] theorem State.setSlice_err (s : State) (sl : SliceId) (x : Slice) : (s.setSlice sl x).err = s.err := rfl
@[simp] theorem State.setSlice_tiles (s : State) (sl : SliceId) (x : Slice) : (s.setSlice sl x).tiles = s.tiles := rfl
@[simp] theorem State.setSlice_net (s : State) (sl : SliceId) (x : Slice) : (s.setSlice sl x).net = s.net := rfl
@[simp] theorem State.setSlice_pool0 (s : State) (sl : SliceId) (x : Slice) : (s.setSlice sl x).pool0 = s.pool0 := rfl
@[simp] theorem State.setSlice_pool1 (s : State) (sl : SliceId) (x : Slice) : (s.setSlice sl x).pool1 = s.pool1 := rfl
@[simp] theorem State.setSlice_opv (s : State) (sl : SliceId) (x : Slice) : (s.setSlice sl x).opv = s.opv := rfl
@[simp] theorem State.setSlice_belc (s : State) (sl : SliceId) (x : Slice) : (s.setSlice sl x).belc = s.belc := rfl
@[simp] theorem State.setSlice_waits (s : State) (sl : SliceId) (x : Slice) : (s.setSlice sl x).waits = s.waits := rfl
@[simp] theorem State.setSlice_sch (s : State) (sl : SliceId) (x : Slice) : (s.setSlice sl x).sch = s.sch := rfl
@[simp] theorem State.setSlice_obj (s : State) (sl : SliceId) (x : Slice) : (s.setSlice sl x).obj = s.obj := rfl
@[simp] theorem State.setSlice_gro (s : State) (sl : SliceId) (x : Slice) : (s.setSlice sl x).gro = s.gro := rfl
@[simp] theorem State.setSlice_host (s : State) (sl : SliceId) (x : Slice) : (s.setSlice sl x).host = s.host := rfl
@[simp] theorem State.setSlice_imgs (s : State) (sl : SliceId) (x : Slice) : (s.setSlice sl x).imgs = s.imgs := rfl
@[simp] theorem State.setSlice_trn (s : State) (sl : SliceId) (x : Slice) : (s.setSlice sl x).trn = s.trn := rfl
@[simp] theorem State.setSlice_sess (s : State) (sl : SliceId) (x : Slice) : (s.setSlice sl x).sess = s.sess := rfl
@[simp] theorem State.setSlice_lan0 (s : State) (sl : SliceId) (x : Slice) : (s.setSlice sl x).lan0 = s.lan0 := rfl
@[simp] theorem State.setSlice_lan1 (s : State) (sl : SliceId) (x : Slice) : (s.setSlice sl x).lan1 = s.lan1 := rfl
@[simp] theorem State.setSlice_keep (s : State) (sl : SliceId) (x : Slice) : (s.setSlice sl x).keep = s.keep := rfl
@[simp] theorem State.setSlice_pwr (s : State) (sl : SliceId) (x : Slice) : (s.setSlice sl x).pwr = s.pwr := rfl

@[simp] theorem State.setClient_pending (s : State) (c : Nat) (x : Client) : (s.setClient c x).pending = s.pending := rfl
@[simp] theorem State.setClient_dev (s : State) (c : Nat) (x : Client) : (s.setClient c x).dev = s.dev := rfl
@[simp] theorem State.setClient_regs (s : State) (c : Nat) (x : Client) : (s.setClient c x).regs = s.regs := rfl
@[simp] theorem State.setClient_err (s : State) (c : Nat) (x : Client) : (s.setClient c x).err = s.err := rfl
@[simp] theorem State.setClient_tiles (s : State) (c : Nat) (x : Client) : (s.setClient c x).tiles = s.tiles := rfl
@[simp] theorem State.setClient_net (s : State) (c : Nat) (x : Client) : (s.setClient c x).net = s.net := rfl
@[simp] theorem State.setClient_pool0 (s : State) (c : Nat) (x : Client) : (s.setClient c x).pool0 = s.pool0 := rfl
@[simp] theorem State.setClient_pool1 (s : State) (c : Nat) (x : Client) : (s.setClient c x).pool1 = s.pool1 := rfl
@[simp] theorem State.setClient_mem (s : State) (c : Nat) (x : Client) : (s.setClient c x).mem = s.mem := rfl
@[simp] theorem State.setClient_opv (s : State) (c : Nat) (x : Client) : (s.setClient c x).opv = s.opv := rfl
@[simp] theorem State.setClient_belc (s : State) (c : Nat) (x : Client) : (s.setClient c x).belc = s.belc := rfl
@[simp] theorem State.setClient_waits (s : State) (c : Nat) (x : Client) : (s.setClient c x).waits = s.waits := rfl
@[simp] theorem State.setClient_obj (s : State) (c : Nat) (x : Client) : (s.setClient c x).obj = s.obj := rfl
@[simp] theorem State.setClient_gro (s : State) (c : Nat) (x : Client) : (s.setClient c x).gro = s.gro := rfl
@[simp] theorem State.setClient_host (s : State) (c : Nat) (x : Client) : (s.setClient c x).host = s.host := rfl
@[simp] theorem State.setClient_imgs (s : State) (c : Nat) (x : Client) : (s.setClient c x).imgs = s.imgs := rfl
@[simp] theorem State.setClient_trn (s : State) (c : Nat) (x : Client) : (s.setClient c x).trn = s.trn := rfl
@[simp] theorem State.setClient_sess (s : State) (c : Nat) (x : Client) : (s.setClient c x).sess = s.sess := rfl
@[simp] theorem State.setClient_lan0 (s : State) (c : Nat) (x : Client) : (s.setClient c x).lan0 = s.lan0 := rfl
@[simp] theorem State.setClient_lan1 (s : State) (c : Nat) (x : Client) : (s.setClient c x).lan1 = s.lan1 := rfl
@[simp] theorem State.setClient_keep (s : State) (c : Nat) (x : Client) : (s.setClient c x).keep = s.keep := rfl
@[simp] theorem State.setClient_pwr (s : State) (c : Nat) (x : Client) : (s.setClient c x).pwr = s.pwr := rfl

@[simp] theorem State.setRun_pending (s : State) (r : TRun) : (s.setRun r).pending = s.pending := rfl
@[simp] theorem State.setRun_dev (s : State) (r : TRun) : (s.setRun r).dev = s.dev := rfl
@[simp] theorem State.setRun_regs (s : State) (r : TRun) : (s.setRun r).regs = s.regs := rfl
@[simp] theorem State.setRun_err (s : State) (r : TRun) : (s.setRun r).err = s.err := rfl
@[simp] theorem State.setRun_tiles (s : State) (r : TRun) : (s.setRun r).tiles = s.tiles := rfl
@[simp] theorem State.setRun_net (s : State) (r : TRun) : (s.setRun r).net = s.net := rfl
@[simp] theorem State.setRun_pool0 (s : State) (r : TRun) : (s.setRun r).pool0 = s.pool0 := rfl
@[simp] theorem State.setRun_pool1 (s : State) (r : TRun) : (s.setRun r).pool1 = s.pool1 := rfl
@[simp] theorem State.setRun_mem (s : State) (r : TRun) : (s.setRun r).mem = s.mem := rfl
@[simp] theorem State.setRun_opv (s : State) (r : TRun) : (s.setRun r).opv = s.opv := rfl
@[simp] theorem State.setRun_belc (s : State) (r : TRun) : (s.setRun r).belc = s.belc := rfl
@[simp] theorem State.setRun_waits (s : State) (r : TRun) : (s.setRun r).waits = s.waits := rfl
@[simp] theorem State.setRun_sch (s : State) (r : TRun) : (s.setRun r).sch = s.sch := rfl
@[simp] theorem State.setRun_obj (s : State) (r : TRun) : (s.setRun r).obj = s.obj := rfl
@[simp] theorem State.setRun_gro (s : State) (r : TRun) : (s.setRun r).gro = s.gro := rfl
@[simp] theorem State.setRun_host (s : State) (r : TRun) : (s.setRun r).host = s.host := rfl
@[simp] theorem State.setRun_imgs (s : State) (r : TRun) : (s.setRun r).imgs = s.imgs := rfl
@[simp] theorem State.setRun_sess (s : State) (r : TRun) : (s.setRun r).sess = s.sess := rfl
@[simp] theorem State.setRun_lan0 (s : State) (r : TRun) : (s.setRun r).lan0 = s.lan0 := rfl
@[simp] theorem State.setRun_lan1 (s : State) (r : TRun) : (s.setRun r).lan1 = s.lan1 := rfl
@[simp] theorem State.setRun_keep (s : State) (r : TRun) : (s.setRun r).keep = s.keep := rfl
@[simp] theorem State.setRun_pwr (s : State) (r : TRun) : (s.setRun r).pwr = s.pwr := rfl

@[simp] theorem State.setWait_pending (s : State) (sc : Scope) (die : Bool) (w : Option BarWait) : (s.setWait sc die w).pending = s.pending := rfl
@[simp] theorem State.setWait_dev (s : State) (sc : Scope) (die : Bool) (w : Option BarWait) : (s.setWait sc die w).dev = s.dev := rfl
@[simp] theorem State.setWait_regs (s : State) (sc : Scope) (die : Bool) (w : Option BarWait) : (s.setWait sc die w).regs = s.regs := rfl
@[simp] theorem State.setWait_err (s : State) (sc : Scope) (die : Bool) (w : Option BarWait) : (s.setWait sc die w).err = s.err := rfl
@[simp] theorem State.setWait_tiles (s : State) (sc : Scope) (die : Bool) (w : Option BarWait) : (s.setWait sc die w).tiles = s.tiles := rfl
@[simp] theorem State.setWait_net (s : State) (sc : Scope) (die : Bool) (w : Option BarWait) : (s.setWait sc die w).net = s.net := rfl
@[simp] theorem State.setWait_pool0 (s : State) (sc : Scope) (die : Bool) (w : Option BarWait) : (s.setWait sc die w).pool0 = s.pool0 := rfl
@[simp] theorem State.setWait_pool1 (s : State) (sc : Scope) (die : Bool) (w : Option BarWait) : (s.setWait sc die w).pool1 = s.pool1 := rfl
@[simp] theorem State.setWait_mem (s : State) (sc : Scope) (die : Bool) (w : Option BarWait) : (s.setWait sc die w).mem = s.mem := rfl
@[simp] theorem State.setWait_opv (s : State) (sc : Scope) (die : Bool) (w : Option BarWait) : (s.setWait sc die w).opv = s.opv := rfl
@[simp] theorem State.setWait_belc (s : State) (sc : Scope) (die : Bool) (w : Option BarWait) : (s.setWait sc die w).belc = s.belc := rfl
@[simp] theorem State.setWait_sch (s : State) (sc : Scope) (die : Bool) (w : Option BarWait) : (s.setWait sc die w).sch = s.sch := rfl
@[simp] theorem State.setWait_obj (s : State) (sc : Scope) (die : Bool) (w : Option BarWait) : (s.setWait sc die w).obj = s.obj := rfl
@[simp] theorem State.setWait_gro (s : State) (sc : Scope) (die : Bool) (w : Option BarWait) : (s.setWait sc die w).gro = s.gro := rfl
@[simp] theorem State.setWait_host (s : State) (sc : Scope) (die : Bool) (w : Option BarWait) : (s.setWait sc die w).host = s.host := rfl
@[simp] theorem State.setWait_imgs (s : State) (sc : Scope) (die : Bool) (w : Option BarWait) : (s.setWait sc die w).imgs = s.imgs := rfl
@[simp] theorem State.setWait_trn (s : State) (sc : Scope) (die : Bool) (w : Option BarWait) : (s.setWait sc die w).trn = s.trn := rfl
@[simp] theorem State.setWait_sess (s : State) (sc : Scope) (die : Bool) (w : Option BarWait) : (s.setWait sc die w).sess = s.sess := rfl
@[simp] theorem State.setWait_lan0 (s : State) (sc : Scope) (die : Bool) (w : Option BarWait) : (s.setWait sc die w).lan0 = s.lan0 := rfl
@[simp] theorem State.setWait_lan1 (s : State) (sc : Scope) (die : Bool) (w : Option BarWait) : (s.setWait sc die w).lan1 = s.lan1 := rfl
@[simp] theorem State.setWait_keep (s : State) (sc : Scope) (die : Bool) (w : Option BarWait) : (s.setWait sc die w).keep = s.keep := rfl
@[simp] theorem State.setWait_pwr (s : State) (sc : Scope) (die : Bool) (w : Option BarWait) : (s.setWait sc die w).pwr = s.pwr := rfl

@[simp] theorem State.setCmt_pending (s : State) (b : Blk) (c : Cmt) : (s.setCmt b c).pending = s.pending := rfl
@[simp] theorem State.setCmt_dev (s : State) (b : Blk) (c : Cmt) : (s.setCmt b c).dev = s.dev := rfl
@[simp] theorem State.setCmt_err (s : State) (b : Blk) (c : Cmt) : (s.setCmt b c).err = s.err := rfl
@[simp] theorem State.setCmt_tiles (s : State) (b : Blk) (c : Cmt) : (s.setCmt b c).tiles = s.tiles := rfl
@[simp] theorem State.setCmt_net (s : State) (b : Blk) (c : Cmt) : (s.setCmt b c).net = s.net := rfl
@[simp] theorem State.setCmt_pool0 (s : State) (b : Blk) (c : Cmt) : (s.setCmt b c).pool0 = s.pool0 := rfl
@[simp] theorem State.setCmt_pool1 (s : State) (b : Blk) (c : Cmt) : (s.setCmt b c).pool1 = s.pool1 := rfl
@[simp] theorem State.setCmt_mem (s : State) (b : Blk) (c : Cmt) : (s.setCmt b c).mem = s.mem := rfl
@[simp] theorem State.setCmt_opv (s : State) (b : Blk) (c : Cmt) : (s.setCmt b c).opv = s.opv := rfl
@[simp] theorem State.setCmt_belc (s : State) (b : Blk) (c : Cmt) : (s.setCmt b c).belc = s.belc := rfl
@[simp] theorem State.setCmt_waits (s : State) (b : Blk) (c : Cmt) : (s.setCmt b c).waits = s.waits := rfl
@[simp] theorem State.setCmt_sch (s : State) (b : Blk) (c : Cmt) : (s.setCmt b c).sch = s.sch := rfl
@[simp] theorem State.setCmt_obj (s : State) (b : Blk) (c : Cmt) : (s.setCmt b c).obj = s.obj := rfl
@[simp] theorem State.setCmt_gro (s : State) (b : Blk) (c : Cmt) : (s.setCmt b c).gro = s.gro := rfl
@[simp] theorem State.setCmt_host (s : State) (b : Blk) (c : Cmt) : (s.setCmt b c).host = s.host := rfl
@[simp] theorem State.setCmt_imgs (s : State) (b : Blk) (c : Cmt) : (s.setCmt b c).imgs = s.imgs := rfl
@[simp] theorem State.setCmt_trn (s : State) (b : Blk) (c : Cmt) : (s.setCmt b c).trn = s.trn := rfl
@[simp] theorem State.setCmt_sess (s : State) (b : Blk) (c : Cmt) : (s.setCmt b c).sess = s.sess := rfl
@[simp] theorem State.setCmt_lan0 (s : State) (b : Blk) (c : Cmt) : (s.setCmt b c).lan0 = s.lan0 := rfl
@[simp] theorem State.setCmt_lan1 (s : State) (b : Blk) (c : Cmt) : (s.setCmt b c).lan1 = s.lan1 := rfl
@[simp] theorem State.setCmt_keep (s : State) (b : Blk) (c : Cmt) : (s.setCmt b c).keep = s.keep := rfl
@[simp] theorem State.setCmt_pwr (s : State) (b : Blk) (c : Cmt) : (s.setCmt b c).pwr = s.pwr := rfl

@[simp] theorem State.alert_pending (s : State) (bit : Nat) : (s.alert bit).pending = s.pending := rfl
@[simp] theorem State.alert_dev (s : State) (bit : Nat) : (s.alert bit).dev = s.dev := rfl
@[simp] theorem State.alert_regs (s : State) (bit : Nat) : (s.alert bit).regs = s.regs := rfl
@[simp] theorem State.alert_tiles (s : State) (bit : Nat) : (s.alert bit).tiles = s.tiles := rfl
@[simp] theorem State.alert_net (s : State) (bit : Nat) : (s.alert bit).net = s.net := rfl
@[simp] theorem State.alert_pool0 (s : State) (bit : Nat) : (s.alert bit).pool0 = s.pool0 := rfl
@[simp] theorem State.alert_pool1 (s : State) (bit : Nat) : (s.alert bit).pool1 = s.pool1 := rfl
@[simp] theorem State.alert_mem (s : State) (bit : Nat) : (s.alert bit).mem = s.mem := rfl
@[simp] theorem State.alert_opv (s : State) (bit : Nat) : (s.alert bit).opv = s.opv := rfl
@[simp] theorem State.alert_belc (s : State) (bit : Nat) : (s.alert bit).belc = s.belc := rfl
@[simp] theorem State.alert_waits (s : State) (bit : Nat) : (s.alert bit).waits = s.waits := rfl
@[simp] theorem State.alert_sch (s : State) (bit : Nat) : (s.alert bit).sch = s.sch := rfl
@[simp] theorem State.alert_obj (s : State) (bit : Nat) : (s.alert bit).obj = s.obj := rfl
@[simp] theorem State.alert_gro (s : State) (bit : Nat) : (s.alert bit).gro = s.gro := rfl
@[simp] theorem State.alert_host (s : State) (bit : Nat) : (s.alert bit).host = s.host := rfl
@[simp] theorem State.alert_imgs (s : State) (bit : Nat) : (s.alert bit).imgs = s.imgs := rfl
@[simp] theorem State.alert_trn (s : State) (bit : Nat) : (s.alert bit).trn = s.trn := rfl
@[simp] theorem State.alert_sess (s : State) (bit : Nat) : (s.alert bit).sess = s.sess := rfl
@[simp] theorem State.alert_lan0 (s : State) (bit : Nat) : (s.alert bit).lan0 = s.lan0 := rfl
@[simp] theorem State.alert_lan1 (s : State) (bit : Nat) : (s.alert bit).lan1 = s.lan1 := rfl
@[simp] theorem State.alert_keep (s : State) (bit : Nat) : (s.alert bit).keep = s.keep := rfl
@[simp] theorem State.alert_pwr (s : State) (bit : Nat) : (s.alert bit).pwr = s.pwr := rfl

@[simp] theorem State.log_pending (s : State) (code : Nat) (k : LK) (loc d0 d1 flags : Nat) : (s.log code k loc d0 d1 flags).pending = s.pending := by
  unfold State.log; split <;> rfl
@[simp] theorem State.log_dev (s : State) (code : Nat) (k : LK) (loc d0 d1 flags : Nat) : (s.log code k loc d0 d1 flags).dev = s.dev := by
  unfold State.log; split <;> rfl
@[simp] theorem State.log_regs (s : State) (code : Nat) (k : LK) (loc d0 d1 flags : Nat) : (s.log code k loc d0 d1 flags).regs = s.regs := by
  unfold State.log; split <;> rfl
@[simp] theorem State.log_tiles (s : State) (code : Nat) (k : LK) (loc d0 d1 flags : Nat) : (s.log code k loc d0 d1 flags).tiles = s.tiles := by
  unfold State.log; split <;> rfl
@[simp] theorem State.log_net (s : State) (code : Nat) (k : LK) (loc d0 d1 flags : Nat) : (s.log code k loc d0 d1 flags).net = s.net := by
  unfold State.log; split <;> rfl
@[simp] theorem State.log_pool0 (s : State) (code : Nat) (k : LK) (loc d0 d1 flags : Nat) : (s.log code k loc d0 d1 flags).pool0 = s.pool0 := by
  unfold State.log; split <;> rfl
@[simp] theorem State.log_pool1 (s : State) (code : Nat) (k : LK) (loc d0 d1 flags : Nat) : (s.log code k loc d0 d1 flags).pool1 = s.pool1 := by
  unfold State.log; split <;> rfl
@[simp] theorem State.log_mem (s : State) (code : Nat) (k : LK) (loc d0 d1 flags : Nat) : (s.log code k loc d0 d1 flags).mem = s.mem := by
  unfold State.log; split <;> rfl
@[simp] theorem State.log_opv (s : State) (code : Nat) (k : LK) (loc d0 d1 flags : Nat) : (s.log code k loc d0 d1 flags).opv = s.opv := by
  unfold State.log; split <;> rfl
@[simp] theorem State.log_belc (s : State) (code : Nat) (k : LK) (loc d0 d1 flags : Nat) : (s.log code k loc d0 d1 flags).belc = s.belc := by
  unfold State.log; split <;> rfl
@[simp] theorem State.log_waits (s : State) (code : Nat) (k : LK) (loc d0 d1 flags : Nat) : (s.log code k loc d0 d1 flags).waits = s.waits := by
  unfold State.log; split <;> rfl
@[simp] theorem State.log_sch (s : State) (code : Nat) (k : LK) (loc d0 d1 flags : Nat) : (s.log code k loc d0 d1 flags).sch = s.sch := by
  unfold State.log; split <;> rfl
@[simp] theorem State.log_obj (s : State) (code : Nat) (k : LK) (loc d0 d1 flags : Nat) : (s.log code k loc d0 d1 flags).obj = s.obj := by
  unfold State.log; split <;> rfl
@[simp] theorem State.log_gro (s : State) (code : Nat) (k : LK) (loc d0 d1 flags : Nat) : (s.log code k loc d0 d1 flags).gro = s.gro := by
  unfold State.log; split <;> rfl
@[simp] theorem State.log_host (s : State) (code : Nat) (k : LK) (loc d0 d1 flags : Nat) : (s.log code k loc d0 d1 flags).host = s.host := by
  unfold State.log; split <;> rfl
@[simp] theorem State.log_imgs (s : State) (code : Nat) (k : LK) (loc d0 d1 flags : Nat) : (s.log code k loc d0 d1 flags).imgs = s.imgs := by
  unfold State.log; split <;> rfl
@[simp] theorem State.log_trn (s : State) (code : Nat) (k : LK) (loc d0 d1 flags : Nat) : (s.log code k loc d0 d1 flags).trn = s.trn := by
  unfold State.log; split <;> rfl
@[simp] theorem State.log_sess (s : State) (code : Nat) (k : LK) (loc d0 d1 flags : Nat) : (s.log code k loc d0 d1 flags).sess = s.sess := by
  unfold State.log; split <;> rfl
@[simp] theorem State.log_lan0 (s : State) (code : Nat) (k : LK) (loc d0 d1 flags : Nat) : (s.log code k loc d0 d1 flags).lan0 = s.lan0 := by
  unfold State.log; split <;> rfl
@[simp] theorem State.log_lan1 (s : State) (code : Nat) (k : LK) (loc d0 d1 flags : Nat) : (s.log code k loc d0 d1 flags).lan1 = s.lan1 := by
  unfold State.log; split <;> rfl
@[simp] theorem State.log_keep (s : State) (code : Nat) (k : LK) (loc d0 d1 flags : Nat) : (s.log code k loc d0 d1 flags).keep = s.keep := by
  unfold State.log; split <;> rfl
@[simp] theorem State.log_pwr (s : State) (code : Nat) (k : LK) (loc d0 d1 flags : Nat) : (s.log code k loc d0 d1 flags).pwr = s.pwr := by
  unfold State.log; split <;> rfl

@[simp] theorem State.memCe_pending (s : State) (k : LK) (loc addr : Nat) (syn : Byte) : (s.memCe k loc addr syn).pending = s.pending := by
  unfold State.memCe; simp only []; split
  · rfl
  · rw [State.log_pending]
@[simp] theorem State.memCe_dev (s : State) (k : LK) (loc addr : Nat) (syn : Byte) : (s.memCe k loc addr syn).dev = s.dev := by
  unfold State.memCe; simp only []; split
  · rfl
  · rw [State.log_dev]
@[simp] theorem State.memCe_regs (s : State) (k : LK) (loc addr : Nat) (syn : Byte) : (s.memCe k loc addr syn).regs = s.regs := by
  unfold State.memCe; simp only []; split
  · rfl
  · rw [State.log_regs]
@[simp] theorem State.memCe_tiles (s : State) (k : LK) (loc addr : Nat) (syn : Byte) : (s.memCe k loc addr syn).tiles = s.tiles := by
  unfold State.memCe; simp only []; split
  · rfl
  · rw [State.log_tiles]
@[simp] theorem State.memCe_net (s : State) (k : LK) (loc addr : Nat) (syn : Byte) : (s.memCe k loc addr syn).net = s.net := by
  unfold State.memCe; simp only []; split
  · rfl
  · rw [State.log_net]
@[simp] theorem State.memCe_pool0 (s : State) (k : LK) (loc addr : Nat) (syn : Byte) : (s.memCe k loc addr syn).pool0 = s.pool0 := by
  unfold State.memCe; simp only []; split
  · rfl
  · rw [State.log_pool0]
@[simp] theorem State.memCe_pool1 (s : State) (k : LK) (loc addr : Nat) (syn : Byte) : (s.memCe k loc addr syn).pool1 = s.pool1 := by
  unfold State.memCe; simp only []; split
  · rfl
  · rw [State.log_pool1]
@[simp] theorem State.memCe_mem (s : State) (k : LK) (loc addr : Nat) (syn : Byte) : (s.memCe k loc addr syn).mem = s.mem := by
  unfold State.memCe; simp only []; split
  · rfl
  · rw [State.log_mem]
@[simp] theorem State.memCe_opv (s : State) (k : LK) (loc addr : Nat) (syn : Byte) : (s.memCe k loc addr syn).opv = s.opv := by
  unfold State.memCe; simp only []; split
  · rfl
  · rw [State.log_opv]
@[simp] theorem State.memCe_belc (s : State) (k : LK) (loc addr : Nat) (syn : Byte) : (s.memCe k loc addr syn).belc = s.belc := by
  unfold State.memCe; simp only []; split
  · rfl
  · rw [State.log_belc]
@[simp] theorem State.memCe_waits (s : State) (k : LK) (loc addr : Nat) (syn : Byte) : (s.memCe k loc addr syn).waits = s.waits := by
  unfold State.memCe; simp only []; split
  · rfl
  · rw [State.log_waits]
@[simp] theorem State.memCe_sch (s : State) (k : LK) (loc addr : Nat) (syn : Byte) : (s.memCe k loc addr syn).sch = s.sch := by
  unfold State.memCe; simp only []; split
  · rfl
  · rw [State.log_sch]
@[simp] theorem State.memCe_obj (s : State) (k : LK) (loc addr : Nat) (syn : Byte) : (s.memCe k loc addr syn).obj = s.obj := by
  unfold State.memCe; simp only []; split
  · rfl
  · rw [State.log_obj]
@[simp] theorem State.memCe_gro (s : State) (k : LK) (loc addr : Nat) (syn : Byte) : (s.memCe k loc addr syn).gro = s.gro := by
  unfold State.memCe; simp only []; split
  · rfl
  · rw [State.log_gro]
@[simp] theorem State.memCe_host (s : State) (k : LK) (loc addr : Nat) (syn : Byte) : (s.memCe k loc addr syn).host = s.host := by
  unfold State.memCe; simp only []; split
  · rfl
  · rw [State.log_host]
@[simp] theorem State.memCe_imgs (s : State) (k : LK) (loc addr : Nat) (syn : Byte) : (s.memCe k loc addr syn).imgs = s.imgs := by
  unfold State.memCe; simp only []; split
  · rfl
  · rw [State.log_imgs]
@[simp] theorem State.memCe_trn (s : State) (k : LK) (loc addr : Nat) (syn : Byte) : (s.memCe k loc addr syn).trn = s.trn := by
  unfold State.memCe; simp only []; split
  · rfl
  · rw [State.log_trn]
@[simp] theorem State.memCe_sess (s : State) (k : LK) (loc addr : Nat) (syn : Byte) : (s.memCe k loc addr syn).sess = s.sess := by
  unfold State.memCe; simp only []; split
  · rfl
  · rw [State.log_sess]
@[simp] theorem State.memCe_lan0 (s : State) (k : LK) (loc addr : Nat) (syn : Byte) : (s.memCe k loc addr syn).lan0 = s.lan0 := by
  unfold State.memCe; simp only []; split
  · rfl
  · rw [State.log_lan0]
@[simp] theorem State.memCe_lan1 (s : State) (k : LK) (loc addr : Nat) (syn : Byte) : (s.memCe k loc addr syn).lan1 = s.lan1 := by
  unfold State.memCe; simp only []; split
  · rfl
  · rw [State.log_lan1]
@[simp] theorem State.memCe_keep (s : State) (k : LK) (loc addr : Nat) (syn : Byte) : (s.memCe k loc addr syn).keep = s.keep := by
  unfold State.memCe; simp only []; split
  · rfl
  · rw [State.log_keep]
@[simp] theorem State.memCe_pwr (s : State) (k : LK) (loc addr : Nat) (syn : Byte) : (s.memCe k loc addr syn).pwr = s.pwr := by
  unfold State.memCe; simp only []; split
  · rfl
  · rw [State.log_pwr]

@[simp] theorem State.memUe_pending (s : State) (k : LK) (loc addr : Nat) (syn : Byte) : (s.memUe k loc addr syn).pending = s.pending := by
  unfold State.memUe; rw [State.alert_pending, State.log_pending]
@[simp] theorem State.memUe_dev (s : State) (k : LK) (loc addr : Nat) (syn : Byte) : (s.memUe k loc addr syn).dev = s.dev := by
  unfold State.memUe; rw [State.alert_dev, State.log_dev]
@[simp] theorem State.memUe_regs (s : State) (k : LK) (loc addr : Nat) (syn : Byte) : (s.memUe k loc addr syn).regs = s.regs := by
  unfold State.memUe; rw [State.alert_regs, State.log_regs]
@[simp] theorem State.memUe_tiles (s : State) (k : LK) (loc addr : Nat) (syn : Byte) : (s.memUe k loc addr syn).tiles = s.tiles := by
  unfold State.memUe; rw [State.alert_tiles, State.log_tiles]
@[simp] theorem State.memUe_net (s : State) (k : LK) (loc addr : Nat) (syn : Byte) : (s.memUe k loc addr syn).net = s.net := by
  unfold State.memUe; rw [State.alert_net, State.log_net]
@[simp] theorem State.memUe_pool0 (s : State) (k : LK) (loc addr : Nat) (syn : Byte) : (s.memUe k loc addr syn).pool0 = s.pool0 := by
  unfold State.memUe; rw [State.alert_pool0, State.log_pool0]
@[simp] theorem State.memUe_pool1 (s : State) (k : LK) (loc addr : Nat) (syn : Byte) : (s.memUe k loc addr syn).pool1 = s.pool1 := by
  unfold State.memUe; rw [State.alert_pool1, State.log_pool1]
@[simp] theorem State.memUe_mem (s : State) (k : LK) (loc addr : Nat) (syn : Byte) : (s.memUe k loc addr syn).mem = s.mem := by
  unfold State.memUe; rw [State.alert_mem, State.log_mem]
@[simp] theorem State.memUe_opv (s : State) (k : LK) (loc addr : Nat) (syn : Byte) : (s.memUe k loc addr syn).opv = s.opv := by
  unfold State.memUe; rw [State.alert_opv, State.log_opv]
@[simp] theorem State.memUe_belc (s : State) (k : LK) (loc addr : Nat) (syn : Byte) : (s.memUe k loc addr syn).belc = s.belc := by
  unfold State.memUe; rw [State.alert_belc, State.log_belc]
@[simp] theorem State.memUe_waits (s : State) (k : LK) (loc addr : Nat) (syn : Byte) : (s.memUe k loc addr syn).waits = s.waits := by
  unfold State.memUe; rw [State.alert_waits, State.log_waits]
@[simp] theorem State.memUe_sch (s : State) (k : LK) (loc addr : Nat) (syn : Byte) : (s.memUe k loc addr syn).sch = s.sch := by
  unfold State.memUe; rw [State.alert_sch, State.log_sch]
@[simp] theorem State.memUe_obj (s : State) (k : LK) (loc addr : Nat) (syn : Byte) : (s.memUe k loc addr syn).obj = s.obj := by
  unfold State.memUe; rw [State.alert_obj, State.log_obj]
@[simp] theorem State.memUe_gro (s : State) (k : LK) (loc addr : Nat) (syn : Byte) : (s.memUe k loc addr syn).gro = s.gro := by
  unfold State.memUe; rw [State.alert_gro, State.log_gro]
@[simp] theorem State.memUe_host (s : State) (k : LK) (loc addr : Nat) (syn : Byte) : (s.memUe k loc addr syn).host = s.host := by
  unfold State.memUe; rw [State.alert_host, State.log_host]
@[simp] theorem State.memUe_imgs (s : State) (k : LK) (loc addr : Nat) (syn : Byte) : (s.memUe k loc addr syn).imgs = s.imgs := by
  unfold State.memUe; rw [State.alert_imgs, State.log_imgs]
@[simp] theorem State.memUe_trn (s : State) (k : LK) (loc addr : Nat) (syn : Byte) : (s.memUe k loc addr syn).trn = s.trn := by
  unfold State.memUe; rw [State.alert_trn, State.log_trn]
@[simp] theorem State.memUe_sess (s : State) (k : LK) (loc addr : Nat) (syn : Byte) : (s.memUe k loc addr syn).sess = s.sess := by
  unfold State.memUe; rw [State.alert_sess, State.log_sess]
@[simp] theorem State.memUe_lan0 (s : State) (k : LK) (loc addr : Nat) (syn : Byte) : (s.memUe k loc addr syn).lan0 = s.lan0 := by
  unfold State.memUe; rw [State.alert_lan0, State.log_lan0]
@[simp] theorem State.memUe_lan1 (s : State) (k : LK) (loc addr : Nat) (syn : Byte) : (s.memUe k loc addr syn).lan1 = s.lan1 := by
  unfold State.memUe; rw [State.alert_lan1, State.log_lan1]
@[simp] theorem State.memUe_keep (s : State) (k : LK) (loc addr : Nat) (syn : Byte) : (s.memUe k loc addr syn).keep = s.keep := by
  unfold State.memUe; rw [State.alert_keep, State.log_keep]
@[simp] theorem State.memUe_pwr (s : State) (k : LK) (loc addr : Nat) (syn : Byte) : (s.memUe k loc addr syn).pwr = s.pwr := by
  unfold State.memUe; rw [State.alert_pwr, State.log_pwr]

@[simp] theorem State.issueEcc_pending (s : State) (t : TileId) (e : Ecc) : (s.issueEcc t e).pending = s.pending := by
  unfold State.issueEcc; split
  · split
    · rfl
    · unfold State.modTile; rw [State.setTile_pending, State.memCe_pending]
  · rfl
@[simp] theorem State.issueEcc_dev (s : State) (t : TileId) (e : Ecc) : (s.issueEcc t e).dev = s.dev := by
  unfold State.issueEcc; split
  · split
    · rfl
    · unfold State.modTile; rw [State.setTile_dev, State.memCe_dev]
  · rfl
@[simp] theorem State.issueEcc_regs (s : State) (t : TileId) (e : Ecc) : (s.issueEcc t e).regs = s.regs := by
  unfold State.issueEcc; split
  · split
    · rfl
    · unfold State.modTile; rw [State.setTile_regs, State.memCe_regs]
  · rfl
@[simp] theorem State.issueEcc_net (s : State) (t : TileId) (e : Ecc) : (s.issueEcc t e).net = s.net := by
  unfold State.issueEcc; split
  · split
    · rfl
    · unfold State.modTile; rw [State.setTile_net, State.memCe_net]
  · rfl
@[simp] theorem State.issueEcc_pool0 (s : State) (t : TileId) (e : Ecc) : (s.issueEcc t e).pool0 = s.pool0 := by
  unfold State.issueEcc; split
  · split
    · rfl
    · unfold State.modTile; rw [State.setTile_pool0, State.memCe_pool0]
  · rfl
@[simp] theorem State.issueEcc_pool1 (s : State) (t : TileId) (e : Ecc) : (s.issueEcc t e).pool1 = s.pool1 := by
  unfold State.issueEcc; split
  · split
    · rfl
    · unfold State.modTile; rw [State.setTile_pool1, State.memCe_pool1]
  · rfl
@[simp] theorem State.issueEcc_mem (s : State) (t : TileId) (e : Ecc) : (s.issueEcc t e).mem = s.mem := by
  unfold State.issueEcc; split
  · split
    · rfl
    · unfold State.modTile; rw [State.setTile_mem, State.memCe_mem]
  · rfl
@[simp] theorem State.issueEcc_opv (s : State) (t : TileId) (e : Ecc) : (s.issueEcc t e).opv = s.opv := by
  unfold State.issueEcc; split
  · split
    · rfl
    · unfold State.modTile; rw [State.setTile_opv, State.memCe_opv]
  · rfl
@[simp] theorem State.issueEcc_belc (s : State) (t : TileId) (e : Ecc) : (s.issueEcc t e).belc = s.belc := by
  unfold State.issueEcc; split
  · split
    · rfl
    · unfold State.modTile; rw [State.setTile_belc, State.memCe_belc]
  · rfl
@[simp] theorem State.issueEcc_waits (s : State) (t : TileId) (e : Ecc) : (s.issueEcc t e).waits = s.waits := by
  unfold State.issueEcc; split
  · split
    · rfl
    · unfold State.modTile; rw [State.setTile_waits, State.memCe_waits]
  · rfl
@[simp] theorem State.issueEcc_sch (s : State) (t : TileId) (e : Ecc) : (s.issueEcc t e).sch = s.sch := by
  unfold State.issueEcc; split
  · split
    · rfl
    · unfold State.modTile; rw [State.setTile_sch, State.memCe_sch]
  · rfl
@[simp] theorem State.issueEcc_obj (s : State) (t : TileId) (e : Ecc) : (s.issueEcc t e).obj = s.obj := by
  unfold State.issueEcc; split
  · split
    · rfl
    · unfold State.modTile; rw [State.setTile_obj, State.memCe_obj]
  · rfl
@[simp] theorem State.issueEcc_gro (s : State) (t : TileId) (e : Ecc) : (s.issueEcc t e).gro = s.gro := by
  unfold State.issueEcc; split
  · split
    · rfl
    · unfold State.modTile; rw [State.setTile_gro, State.memCe_gro]
  · rfl
@[simp] theorem State.issueEcc_host (s : State) (t : TileId) (e : Ecc) : (s.issueEcc t e).host = s.host := by
  unfold State.issueEcc; split
  · split
    · rfl
    · unfold State.modTile; rw [State.setTile_host, State.memCe_host]
  · rfl
@[simp] theorem State.issueEcc_imgs (s : State) (t : TileId) (e : Ecc) : (s.issueEcc t e).imgs = s.imgs := by
  unfold State.issueEcc; split
  · split
    · rfl
    · unfold State.modTile; rw [State.setTile_imgs, State.memCe_imgs]
  · rfl
@[simp] theorem State.issueEcc_trn (s : State) (t : TileId) (e : Ecc) : (s.issueEcc t e).trn = s.trn := by
  unfold State.issueEcc; split
  · split
    · rfl
    · unfold State.modTile; rw [State.setTile_trn, State.memCe_trn]
  · rfl
@[simp] theorem State.issueEcc_sess (s : State) (t : TileId) (e : Ecc) : (s.issueEcc t e).sess = s.sess := by
  unfold State.issueEcc; split
  · split
    · rfl
    · unfold State.modTile; rw [State.setTile_sess, State.memCe_sess]
  · rfl
@[simp] theorem State.issueEcc_lan0 (s : State) (t : TileId) (e : Ecc) : (s.issueEcc t e).lan0 = s.lan0 := by
  unfold State.issueEcc; split
  · split
    · rfl
    · unfold State.modTile; rw [State.setTile_lan0, State.memCe_lan0]
  · rfl
@[simp] theorem State.issueEcc_lan1 (s : State) (t : TileId) (e : Ecc) : (s.issueEcc t e).lan1 = s.lan1 := by
  unfold State.issueEcc; split
  · split
    · rfl
    · unfold State.modTile; rw [State.setTile_lan1, State.memCe_lan1]
  · rfl
@[simp] theorem State.issueEcc_keep (s : State) (t : TileId) (e : Ecc) : (s.issueEcc t e).keep = s.keep := by
  unfold State.issueEcc; split
  · split
    · rfl
    · unfold State.modTile; rw [State.setTile_keep, State.memCe_keep]
  · rfl
@[simp] theorem State.issueEcc_pwr (s : State) (t : TileId) (e : Ecc) : (s.issueEcc t e).pwr = s.pwr := by
  unfold State.issueEcc; split
  · split
    · rfl
    · unfold State.modTile; rw [State.setTile_pwr, State.memCe_pwr]
  · rfl

@[simp] theorem State.setStream_pending (s : State) (m : MvStream) : (s.setStream m).pending = s.pending := rfl
@[simp] theorem State.setStream_dev (s : State) (m : MvStream) : (s.setStream m).dev = s.dev := rfl
@[simp] theorem State.setStream_regs (s : State) (m : MvStream) : (s.setStream m).regs = s.regs := rfl
@[simp] theorem State.setStream_err (s : State) (m : MvStream) : (s.setStream m).err = s.err := rfl
@[simp] theorem State.setStream_tiles (s : State) (m : MvStream) : (s.setStream m).tiles = s.tiles := rfl
@[simp] theorem State.setStream_net (s : State) (m : MvStream) : (s.setStream m).net = s.net := rfl
@[simp] theorem State.setStream_pool0 (s : State) (m : MvStream) : (s.setStream m).pool0 = s.pool0 := rfl
@[simp] theorem State.setStream_pool1 (s : State) (m : MvStream) : (s.setStream m).pool1 = s.pool1 := rfl
@[simp] theorem State.setStream_mem (s : State) (m : MvStream) : (s.setStream m).mem = s.mem := rfl
@[simp] theorem State.setStream_opv (s : State) (m : MvStream) : (s.setStream m).opv = s.opv := rfl
@[simp] theorem State.setStream_belc (s : State) (m : MvStream) : (s.setStream m).belc = s.belc := rfl
@[simp] theorem State.setStream_waits (s : State) (m : MvStream) : (s.setStream m).waits = s.waits := rfl
@[simp] theorem State.setStream_sch (s : State) (m : MvStream) : (s.setStream m).sch = s.sch := rfl
@[simp] theorem State.setStream_gro (s : State) (m : MvStream) : (s.setStream m).gro = s.gro := rfl
@[simp] theorem State.setStream_host (s : State) (m : MvStream) : (s.setStream m).host = s.host := rfl
@[simp] theorem State.setStream_imgs (s : State) (m : MvStream) : (s.setStream m).imgs = s.imgs := rfl
@[simp] theorem State.setStream_trn (s : State) (m : MvStream) : (s.setStream m).trn = s.trn := rfl
@[simp] theorem State.setStream_sess (s : State) (m : MvStream) : (s.setStream m).sess = s.sess := rfl
@[simp] theorem State.setStream_lan0 (s : State) (m : MvStream) : (s.setStream m).lan0 = s.lan0 := rfl
@[simp] theorem State.setStream_lan1 (s : State) (m : MvStream) : (s.setStream m).lan1 = s.lan1 := rfl
@[simp] theorem State.setStream_keep (s : State) (m : MvStream) : (s.setStream m).keep = s.keep := rfl
@[simp] theorem State.setStream_pwr (s : State) (m : MvStream) : (s.setStream m).pwr = s.pwr := rfl

@[simp] theorem State.setWin_pending (s : State) (r : TileId) (o : Side) (w : Win) : (s.setWin r o w).pending = s.pending := rfl
@[simp] theorem State.setWin_dev (s : State) (r : TileId) (o : Side) (w : Win) : (s.setWin r o w).dev = s.dev := rfl
@[simp] theorem State.setWin_regs (s : State) (r : TileId) (o : Side) (w : Win) : (s.setWin r o w).regs = s.regs := rfl
@[simp] theorem State.setWin_err (s : State) (r : TileId) (o : Side) (w : Win) : (s.setWin r o w).err = s.err := rfl
@[simp] theorem State.setWin_tiles (s : State) (r : TileId) (o : Side) (w : Win) : (s.setWin r o w).tiles = s.tiles := rfl
@[simp] theorem State.setWin_pool0 (s : State) (r : TileId) (o : Side) (w : Win) : (s.setWin r o w).pool0 = s.pool0 := rfl
@[simp] theorem State.setWin_pool1 (s : State) (r : TileId) (o : Side) (w : Win) : (s.setWin r o w).pool1 = s.pool1 := rfl
@[simp] theorem State.setWin_mem (s : State) (r : TileId) (o : Side) (w : Win) : (s.setWin r o w).mem = s.mem := rfl
@[simp] theorem State.setWin_opv (s : State) (r : TileId) (o : Side) (w : Win) : (s.setWin r o w).opv = s.opv := rfl
@[simp] theorem State.setWin_belc (s : State) (r : TileId) (o : Side) (w : Win) : (s.setWin r o w).belc = s.belc := rfl
@[simp] theorem State.setWin_waits (s : State) (r : TileId) (o : Side) (w : Win) : (s.setWin r o w).waits = s.waits := rfl
@[simp] theorem State.setWin_sch (s : State) (r : TileId) (o : Side) (w : Win) : (s.setWin r o w).sch = s.sch := rfl
@[simp] theorem State.setWin_obj (s : State) (r : TileId) (o : Side) (w : Win) : (s.setWin r o w).obj = s.obj := rfl
@[simp] theorem State.setWin_gro (s : State) (r : TileId) (o : Side) (w : Win) : (s.setWin r o w).gro = s.gro := rfl
@[simp] theorem State.setWin_host (s : State) (r : TileId) (o : Side) (w : Win) : (s.setWin r o w).host = s.host := rfl
@[simp] theorem State.setWin_imgs (s : State) (r : TileId) (o : Side) (w : Win) : (s.setWin r o w).imgs = s.imgs := rfl
@[simp] theorem State.setWin_trn (s : State) (r : TileId) (o : Side) (w : Win) : (s.setWin r o w).trn = s.trn := rfl
@[simp] theorem State.setWin_sess (s : State) (r : TileId) (o : Side) (w : Win) : (s.setWin r o w).sess = s.sess := rfl
@[simp] theorem State.setWin_lan0 (s : State) (r : TileId) (o : Side) (w : Win) : (s.setWin r o w).lan0 = s.lan0 := rfl
@[simp] theorem State.setWin_lan1 (s : State) (r : TileId) (o : Side) (w : Win) : (s.setWin r o w).lan1 = s.lan1 := rfl
@[simp] theorem State.setWin_keep (s : State) (r : TileId) (o : Side) (w : Win) : (s.setWin r o w).keep = s.keep := rfl
@[simp] theorem State.setWin_pwr (s : State) (r : TileId) (o : Side) (w : Win) : (s.setWin r o w).pwr = s.pwr := rfl

@[simp] theorem State.setUnitQ_pending (s : State) (c : BitVec 6) (u : HUnit) (l : List Nat) : (s.setUnitQ c u l).pending = s.pending := rfl
@[simp] theorem State.setUnitQ_dev (s : State) (c : BitVec 6) (u : HUnit) (l : List Nat) : (s.setUnitQ c u l).dev = s.dev := rfl
@[simp] theorem State.setUnitQ_regs (s : State) (c : BitVec 6) (u : HUnit) (l : List Nat) : (s.setUnitQ c u l).regs = s.regs := rfl
@[simp] theorem State.setUnitQ_err (s : State) (c : BitVec 6) (u : HUnit) (l : List Nat) : (s.setUnitQ c u l).err = s.err := rfl
@[simp] theorem State.setUnitQ_tiles (s : State) (c : BitVec 6) (u : HUnit) (l : List Nat) : (s.setUnitQ c u l).tiles = s.tiles := rfl
@[simp] theorem State.setUnitQ_net (s : State) (c : BitVec 6) (u : HUnit) (l : List Nat) : (s.setUnitQ c u l).net = s.net := rfl
@[simp] theorem State.setUnitQ_pool0 (s : State) (c : BitVec 6) (u : HUnit) (l : List Nat) : (s.setUnitQ c u l).pool0 = s.pool0 := rfl
@[simp] theorem State.setUnitQ_pool1 (s : State) (c : BitVec 6) (u : HUnit) (l : List Nat) : (s.setUnitQ c u l).pool1 = s.pool1 := rfl
@[simp] theorem State.setUnitQ_mem (s : State) (c : BitVec 6) (u : HUnit) (l : List Nat) : (s.setUnitQ c u l).mem = s.mem := rfl
@[simp] theorem State.setUnitQ_opv (s : State) (c : BitVec 6) (u : HUnit) (l : List Nat) : (s.setUnitQ c u l).opv = s.opv := rfl
@[simp] theorem State.setUnitQ_belc (s : State) (c : BitVec 6) (u : HUnit) (l : List Nat) : (s.setUnitQ c u l).belc = s.belc := rfl
@[simp] theorem State.setUnitQ_waits (s : State) (c : BitVec 6) (u : HUnit) (l : List Nat) : (s.setUnitQ c u l).waits = s.waits := rfl
@[simp] theorem State.setUnitQ_sch (s : State) (c : BitVec 6) (u : HUnit) (l : List Nat) : (s.setUnitQ c u l).sch = s.sch := rfl
@[simp] theorem State.setUnitQ_obj (s : State) (c : BitVec 6) (u : HUnit) (l : List Nat) : (s.setUnitQ c u l).obj = s.obj := rfl
@[simp] theorem State.setUnitQ_gro (s : State) (c : BitVec 6) (u : HUnit) (l : List Nat) : (s.setUnitQ c u l).gro = s.gro := rfl
@[simp] theorem State.setUnitQ_imgs (s : State) (c : BitVec 6) (u : HUnit) (l : List Nat) : (s.setUnitQ c u l).imgs = s.imgs := rfl
@[simp] theorem State.setUnitQ_trn (s : State) (c : BitVec 6) (u : HUnit) (l : List Nat) : (s.setUnitQ c u l).trn = s.trn := rfl
@[simp] theorem State.setUnitQ_sess (s : State) (c : BitVec 6) (u : HUnit) (l : List Nat) : (s.setUnitQ c u l).sess = s.sess := rfl
@[simp] theorem State.setUnitQ_lan0 (s : State) (c : BitVec 6) (u : HUnit) (l : List Nat) : (s.setUnitQ c u l).lan0 = s.lan0 := rfl
@[simp] theorem State.setUnitQ_lan1 (s : State) (c : BitVec 6) (u : HUnit) (l : List Nat) : (s.setUnitQ c u l).lan1 = s.lan1 := rfl
@[simp] theorem State.setUnitQ_keep (s : State) (c : BitVec 6) (u : HUnit) (l : List Nat) : (s.setUnitQ c u l).keep = s.keep := rfl
@[simp] theorem State.setUnitQ_pwr (s : State) (c : BitVec 6) (u : HUnit) (l : List Nat) : (s.setUnitQ c u l).pwr = s.pwr := rfl

@[simp] theorem State.modObj_pending (s : State) (id : Nat) (f : Obj → Obj) : (s.modObj id f).pending = s.pending := rfl
@[simp] theorem State.modObj_dev (s : State) (id : Nat) (f : Obj → Obj) : (s.modObj id f).dev = s.dev := rfl
@[simp] theorem State.modObj_regs (s : State) (id : Nat) (f : Obj → Obj) : (s.modObj id f).regs = s.regs := rfl
@[simp] theorem State.modObj_err (s : State) (id : Nat) (f : Obj → Obj) : (s.modObj id f).err = s.err := rfl
@[simp] theorem State.modObj_tiles (s : State) (id : Nat) (f : Obj → Obj) : (s.modObj id f).tiles = s.tiles := rfl
@[simp] theorem State.modObj_net (s : State) (id : Nat) (f : Obj → Obj) : (s.modObj id f).net = s.net := rfl
@[simp] theorem State.modObj_pool0 (s : State) (id : Nat) (f : Obj → Obj) : (s.modObj id f).pool0 = s.pool0 := rfl
@[simp] theorem State.modObj_pool1 (s : State) (id : Nat) (f : Obj → Obj) : (s.modObj id f).pool1 = s.pool1 := rfl
@[simp] theorem State.modObj_mem (s : State) (id : Nat) (f : Obj → Obj) : (s.modObj id f).mem = s.mem := rfl
@[simp] theorem State.modObj_opv (s : State) (id : Nat) (f : Obj → Obj) : (s.modObj id f).opv = s.opv := rfl
@[simp] theorem State.modObj_belc (s : State) (id : Nat) (f : Obj → Obj) : (s.modObj id f).belc = s.belc := rfl
@[simp] theorem State.modObj_waits (s : State) (id : Nat) (f : Obj → Obj) : (s.modObj id f).waits = s.waits := rfl
@[simp] theorem State.modObj_sch (s : State) (id : Nat) (f : Obj → Obj) : (s.modObj id f).sch = s.sch := rfl
@[simp] theorem State.modObj_gro (s : State) (id : Nat) (f : Obj → Obj) : (s.modObj id f).gro = s.gro := rfl
@[simp] theorem State.modObj_host (s : State) (id : Nat) (f : Obj → Obj) : (s.modObj id f).host = s.host := rfl
@[simp] theorem State.modObj_imgs (s : State) (id : Nat) (f : Obj → Obj) : (s.modObj id f).imgs = s.imgs := rfl
@[simp] theorem State.modObj_trn (s : State) (id : Nat) (f : Obj → Obj) : (s.modObj id f).trn = s.trn := rfl
@[simp] theorem State.modObj_sess (s : State) (id : Nat) (f : Obj → Obj) : (s.modObj id f).sess = s.sess := rfl
@[simp] theorem State.modObj_lan0 (s : State) (id : Nat) (f : Obj → Obj) : (s.modObj id f).lan0 = s.lan0 := rfl
@[simp] theorem State.modObj_lan1 (s : State) (id : Nat) (f : Obj → Obj) : (s.modObj id f).lan1 = s.lan1 := rfl
@[simp] theorem State.modObj_keep (s : State) (id : Nat) (f : Obj → Obj) : (s.modObj id f).keep = s.keep := rfl
@[simp] theorem State.modObj_pwr (s : State) (id : Nat) (f : Obj → Obj) : (s.modObj id f).pwr = s.pwr := rfl

@[simp] theorem State.modGroup_pending (s : State) (k : Nat) (f : Group → Group) : (s.modGroup k f).pending = s.pending := rfl
@[simp] theorem State.modGroup_dev (s : State) (k : Nat) (f : Group → Group) : (s.modGroup k f).dev = s.dev := rfl
@[simp] theorem State.modGroup_regs (s : State) (k : Nat) (f : Group → Group) : (s.modGroup k f).regs = s.regs := rfl
@[simp] theorem State.modGroup_err (s : State) (k : Nat) (f : Group → Group) : (s.modGroup k f).err = s.err := rfl
@[simp] theorem State.modGroup_tiles (s : State) (k : Nat) (f : Group → Group) : (s.modGroup k f).tiles = s.tiles := rfl
@[simp] theorem State.modGroup_net (s : State) (k : Nat) (f : Group → Group) : (s.modGroup k f).net = s.net := rfl
@[simp] theorem State.modGroup_pool0 (s : State) (k : Nat) (f : Group → Group) : (s.modGroup k f).pool0 = s.pool0 := rfl
@[simp] theorem State.modGroup_pool1 (s : State) (k : Nat) (f : Group → Group) : (s.modGroup k f).pool1 = s.pool1 := rfl
@[simp] theorem State.modGroup_mem (s : State) (k : Nat) (f : Group → Group) : (s.modGroup k f).mem = s.mem := rfl
@[simp] theorem State.modGroup_opv (s : State) (k : Nat) (f : Group → Group) : (s.modGroup k f).opv = s.opv := rfl
@[simp] theorem State.modGroup_belc (s : State) (k : Nat) (f : Group → Group) : (s.modGroup k f).belc = s.belc := rfl
@[simp] theorem State.modGroup_waits (s : State) (k : Nat) (f : Group → Group) : (s.modGroup k f).waits = s.waits := rfl
@[simp] theorem State.modGroup_sch (s : State) (k : Nat) (f : Group → Group) : (s.modGroup k f).sch = s.sch := rfl
@[simp] theorem State.modGroup_obj (s : State) (k : Nat) (f : Group → Group) : (s.modGroup k f).obj = s.obj := rfl
@[simp] theorem State.modGroup_host (s : State) (k : Nat) (f : Group → Group) : (s.modGroup k f).host = s.host := rfl
@[simp] theorem State.modGroup_imgs (s : State) (k : Nat) (f : Group → Group) : (s.modGroup k f).imgs = s.imgs := rfl
@[simp] theorem State.modGroup_trn (s : State) (k : Nat) (f : Group → Group) : (s.modGroup k f).trn = s.trn := rfl
@[simp] theorem State.modGroup_sess (s : State) (k : Nat) (f : Group → Group) : (s.modGroup k f).sess = s.sess := rfl
@[simp] theorem State.modGroup_lan0 (s : State) (k : Nat) (f : Group → Group) : (s.modGroup k f).lan0 = s.lan0 := rfl
@[simp] theorem State.modGroup_lan1 (s : State) (k : Nat) (f : Group → Group) : (s.modGroup k f).lan1 = s.lan1 := rfl
@[simp] theorem State.modGroup_keep (s : State) (k : Nat) (f : Group → Group) : (s.modGroup k f).keep = s.keep := rfl
@[simp] theorem State.modGroup_pwr (s : State) (k : Nat) (f : Group → Group) : (s.modGroup k f).pwr = s.pwr := rfl

/-! ## Reading what an update wrote -/

@[simp] theorem State.tile_setTile_self (s : State) (t : TileId) (x : Tile) : (s.setTile t x).tile t = x := by
  simp [State.tile, State.setTile]

theorem State.tile_setTile_other (s : State) (t u : TileId) (x : Tile) (h : u ≠ t) : (s.setTile t x).tile u = s.tile u := by
  unfold State.tile State.setTile
  exact aGet_aSet_other _ _ _ _ _ fun e => h (BitVec.eq_of_toNat_eq e)

@[simp] theorem State.tile_modTile_self (s : State) (t : TileId) (f : Tile → Tile) : (s.modTile t f).tile t = f (s.tile t) := by
  simp [State.modTile]

theorem State.tile_modTile_other (s : State) (t u : TileId) (f : Tile → Tile) (h : u ≠ t) : (s.modTile t f).tile u = s.tile u :=
  State.tile_setTile_other s t u _ h

/-- A state whose tiles are untouched reads the same tiles. -/
theorem State.tile_of_tiles (s s' : State) (h : s'.tiles = s.tiles) (t : TileId) : s'.tile t = s.tile t := by
  unfold State.tile; rw [h]

@[simp] theorem State.lan_setLan_self (s : State) (n : Bool) (o : LanOut) : (s.setLan n o).lan n = o := by
  cases n <;> rfl

@[simp] theorem State.oport_setOport_self (s : State) (p : Bool) (x : OpvPort) : (s.setOport p x).oport p = x := by
  cases p <;> rfl

@[simp] theorem State.pool_setPool_self (s : State) (d : Bool) (p : Pool) : (s.setPool d p).pool d = p := by
  cases d <;> rfl

@[simp] theorem State.win_setWin_self (s : State) (r : TileId) (o : Side) (w : Win) : (s.setWin r o w).win r o = w := by
  simp [State.win, State.setWin]

@[simp] theorem State.unitQ_setUnitQ_self (s : State) (c : BitVec 6) (u : HUnit) (l : List Nat) : (s.setUnitQ c u l).unitQ c u = l := by
  simp [State.unitQ, State.setUnitQ]

@[simp] theorem State.client_setClient_self (s : State) (c : Nat) (x : Client) : (s.setClient c x).client c = x := by
  simp [State.client, State.setClient]

@[simp] theorem State.session_setSession_self (s : State) (c : BitVec 6) (x : Option Sess) : (s.setSession c x).session c = x := by
  simp [State.session, State.setSession]

end Sys2Proof.Machine
end

