-- ==== Sys2Proof/Laws/Issue.lean ====
section
/-! SUPPORT. What the issue stage does, once for all tile instructions, and what the shared tile operations leave alone. -/

set_option Elab.async false

namespace Sys2Proof.Machine

/-- An instruction that is ready issues: the command does exactly its act, after a correction of its word. -/
theorem issueCheck_ready {s : State} {t : TileId} {e : Ecc} {i : Instr} (h : Ready s t e i) : issueCheck s t e i = .go := by
  obtain ⟨h1, h2, h3, h4, h5, h6, h7, h8, h9⟩ := h
  unfold issueCheck
  simp only [h1, h2, h6, h7, h8, h9, h5]
  cases e with
  | ok => simp [h3]
  | ce syn => simp [h3]
  | ue syn => exact absurd rfl (h4 syn)

theorem issue_ready {s : State} {t : TileId} {e : Ecc} {i : Instr} (act : State → State) (h : Ready s t e i) :
    issue s t e i act = .next (act (s.issueEcc t e)) := by
  unfold issue
  rw [issueCheck_ready h]

/-- What a command of a tile instruction can do: nothing, a fault, a held or waiting step, or the instruction's act. -/
theorem issue_cases (s : State) (t : TileId) (e : Ecc) (i : Instr) (act : State → State) :
    issue s t e i act = .next s ∨
    (∃ code d1, issueCheck s t e i = .fault code d1 ∧
      issue s t e i act = .next ((s.issueEcc t e).raiseTile t code (s.tile t).core.pc d1)) ∨
    (∃ k, issueCheck s t e i = .stall k ∧
      issue s t e i act = .next (((s.issueEcc t e).asksToken t i).modTile t fun x => x.held k 1)) ∨
    issue s t e i act = .next (((s.issueEcc t e).asksToken t i).modTile t fun x => x.step 1) ∨
    issue s t e i act = .next (act (s.issueEcc t e)) := by
  unfold issue
  cases h : issueCheck s t e i with
  | idle => exact .inl rfl
  | fault code d1 => exact .inr (.inl ⟨code, d1, rfl, rfl⟩)
  | stall k => exact .inr (.inr (.inl ⟨k, rfl, rfl⟩))
  | wait => exact .inr (.inr (.inr (.inl rfl)))
  | go => exact .inr (.inr (.inr (.inr rfl)))

/-! ## Scalar registers -/

@[simp] theorem Tile.reg_zero (x : Tile) : x.reg 0 = 0 := by simp [Tile.reg]

/-- Reading a register after a write: s0 reads as zero and discards writes (R36). -/
theorem Tile.reg_setReg (x : Tile) (rd r : Reg) (v : W64) : (x.setReg rd v).reg r = if r = rd ∧ r ≠ 0 then v else x.reg r := by
  unfold Tile.setReg
  split
  · next h0 => subst h0; split
               · next h => exact absurd h.1 h.2
               · rfl
  · next h0 =>
    unfold Tile.reg
    by_cases h : r = 0
    · simp [h]
    · simp only [h, if_false, ne_eq, not_false_eq_true, and_true]
      by_cases e : r = rd
      · simp [e]
      · rw [if_neg e, aGet_aSet_other]
        exact fun q => e (BitVec.eq_of_toNat_eq q)

/-- A correction of an instruction word touches nothing of the tile but its counters and the mark that the word has been corrected
(R25, R29, R94). -/
theorem State.tile_issueEcc (s : State) (t : TileId) (e : Ecc) :
    (s.issueEcc t e).tile t = { s.tile t with
      ctr := ((s.issueEcc t e).tile t).ctr
      core := { (s.tile t).core with fixed := ((s.issueEcc t e).tile t).core.fixed } } := by
  unfold State.issueEcc
  split
  · next syn =>
    split
    · rfl
    · rw [State.tile_modTile_self]
      have : (s.memCe .tile (s.gta t).toNat (s.tile t).core.pc syn).tile t = s.tile t :=
        State.tile_of_tiles _ _ (State.memCe_tiles s _ _ _ _) t
      rw [this]
      rfl
  · rfl

/-- Going on with another word leaves all of a tile but its word, its tally and its look-ahead state. -/
theorem Tile.jump_core (x : Tile) (pc' : Nat) : (x.jump pc').core = { x.core with pc := pc', fixed := false } := rfl
theorem Tile.jump_ctr (x : Tile) (pc' : Nat) : (x.jump pc').ctr = x.ctr := rfl
theorem Tile.goTo_core (x : Tile) (pc' n : Nat) : (x.goTo pc' n).core = { x.core with pc := pc', fixed := false } := rfl
theorem Tile.goTo_ctr (x : Tile) (pc' n : Nat) : (x.goTo pc' n).ctr = x.stepCtr n := rfl
/-- The counters after some steps do not depend on the scalar registers. -/
theorem Tile.vchFree_core (x : Tile) (k : TCore) (o : VchOp) : ({ x with core := k } : Tile).vchFree o = x.vchFree o := by
  unfold Tile.vchFree
  cases o.rdx <;> rfl
theorem Tile.vxeActive_core (x : Tile) (k : TCore) : ({ x with core := k } : Tile).vxeActive = x.vxeActive := by
  unfold Tile.vxeActive
  cases h : x.vxe.ops with
  | nil => rfl
  | cons o _ => simp only [Tile.vchFree_core]
theorem Tile.stepCtr_core (x : Tile) (k : TCore) (n : Nat) : ({ x with core := k } : Tile).stepCtr n = x.stepCtr n := by
  unfold Tile.stepCtr
  rw [Tile.vxeActive_core]
  rfl

/-- A core instruction's effect on its tile. -/
theorem coreWent_goTo (x : Tile) (pc' n : Nat) (d : Option (Reg × W64)) :
    CoreWent x ((match d with | some (rd, v) => x.setReg rd v | none => x).goTo pc' n) pc' n d := by
  have hx : ∀ y : Tile, y.core = { x.core with regs := y.core.regs } → y = { x with core := y.core } →
      (∀ r, y.reg r = match d with | some (rd, v) => if r = rd ∧ r ≠ 0 then v else x.reg r | none => x.reg r) →
      CoreWent x (y.goTo pc' n) pc' n d := by
    intro y hc hy hr
    refine ⟨rfl, rfl, ?_, ?_, ?_, ?_, ?_⟩
    · rw [Tile.goTo_ctr, hy, Tile.stepCtr_core]
    · intro r; exact (show (y.goTo pc' n).reg r = y.reg r from rfl).trans (hr r)
    · rw [hy]
      simp only [Tile.goTo, Tile.step, Tile.jump]
      rw [hc]
    · rw [hy]
      unfold Tile.goTo Tile.step Tile.jump
      simp only []
      repeat' split
      all_goals rfl
    · rw [hy]
      intro en hen hq
      have : en ∈ x.str.ents.filter fun e => e.seq.isSome := by
        rw [List.mem_filter]; exact ⟨hen, by cases h : en.seq with | none => exact absurd h hq | some _ => rfl⟩
      unfold Tile.goTo Tile.step Tile.jump
      simp only []
      repeat' split
      all_goals first | exact hen | exact this
  cases d with
  | none => exact hx x rfl rfl fun r => rfl
  | some p =>
    obtain ⟨rd, v⟩ := p
    refine hx (x.setReg rd v) ?_ ?_ fun r => Tile.reg_setReg x rd r v
    · unfold Tile.setReg; split <;> rfl
    · unfold Tile.setReg; split <;> rfl

end Sys2Proof.Machine
end

