-- ==== Sys2Proof/Laws/Memory.lean ====
section
/-! SUPPORT. Laws of the tiers' memory: every operation keeps the canonical form, and a write leaves every other byte alone. -/

set_option Elab.async false

namespace Sys2Proof.Machine

theorem Mem.wf_iff (m : Mem) : m.wf = true ↔ aWf 0 m.bytes = true ∧ aWf false m.poison = true := by
  simp [Mem.wf, Bool.and_eq_true]

theorem Mem.wf_empty : Mem.empty.wf = true := by decide

theorem Mem.wf_setWord (m : Mem) (a : Nat) (w : PWord) (h : m.wf = true) : (m.setWord a w).wf = true := by
  rw [Mem.wf_iff] at *
  exact ⟨aWf_aSetMany _ _ _ _ h.1, aWf_aSet _ _ _ _ h.2⟩

theorem Mem.wf_setWords (m : Mem) (a : Nat) (ws : List PWord) (h : m.wf = true) : (m.setWords a ws).wf = true := by
  induction ws generalizing m a with
  | nil => exact h
  | cons w ws ih => exact ih _ _ (Mem.wf_setWord m a w h)

theorem Mem.wf_setBytes (m : Mem) (a : Nat) (bs : List Byte) (h : m.wf = true) : (m.setBytes a bs).wf = true := by
  rw [Mem.wf_iff] at *
  exact ⟨aWf_aSetMany _ _ _ _ h.1, aWf_filter _ _ _ h.2⟩

theorem Mem.wf_clearRange (m : Mem) (a n : Nat) (h : m.wf = true) : (m.clearRange a n).wf = true := by
  rw [Mem.wf_iff] at *
  exact ⟨aWf_filter _ _ _ h.1, aWf_filter _ _ _ h.2⟩

theorem Mem.wf_copyWords (m : Mem) (src dst n : Nat) (h : m.wf = true) : (m.copyWords src dst n).wf = true :=
  Mem.wf_setWords m dst _ h

/-- A fold of steps that keep the canonical form keeps it. -/
theorem Mem.wf_foldl {β : Type} (f : Mem → β → Mem) (hf : ∀ m b, m.wf = true → (f m b).wf = true) (l : List β) (m : Mem)
    (h : m.wf = true) : (l.foldl f m).wf = true := by
  induction l generalizing m with
  | nil => exact h
  | cons b l ih => exact ih _ (hf m b h)

theorem Mem.wf_putMarked (m : Mem) (a : Nat) (bs : List (Byte × Bool)) (h : m.wf = true) : (m.putMarked a bs).wf = true := by
  unfold Mem.putMarked
  exact Mem.wf_foldl _ (fun m k hm => Mem.wf_setWord _ _ _ hm) _ m h

/-- Memory that shares its bytes and marks with a canonical one is canonical. -/
theorem Mem.wf_congr {m m' : Mem} (hb : m'.bytes = m.bytes) (hp : m'.poison = m.poison) (h : m.wf = true) : m'.wf = true := by
  rw [Mem.wf_iff] at *
  rw [hb, hp]
  exact h

/-- A byte after a write of bytes. -/
theorem Mem.byte_setBytes (m : Mem) (a b : Nat) (bs : List Byte) :
    (m.setBytes a bs).byte b = if a ≤ b ∧ b < a + bs.length then bs.getD (b - a) 0 else m.byte b := by
  unfold Mem.byte Mem.setBytes
  exact aGet_aSetMany 0 m.bytes a b bs

theorem toBytes_length (n v : Nat) : (toBytes n v).length = n := by
  induction n generalizing v with
  | zero => rfl
  | succ n ih => simp [toBytes, ih]

/-- A byte outside a written word is as before. -/
theorem Mem.byte_setWord_other (m : Mem) (a b : Nat) (w : PWord) (h : b < a ∨ a + 8 ≤ b) : (m.setWord a w).byte b = m.byte b := by
  unfold Mem.byte Mem.setWord
  rw [aGet_aSetMany, toBytes_length, if_neg (by omega)]

/-- A byte outside a run of written words is as before. -/
theorem Mem.byte_setWords_other (m : Mem) (a b : Nat) (ws : List PWord) (h : b < a ∨ a + 8 * ws.length ≤ b) :
    (m.setWords a ws).byte b = m.byte b := by
  induction ws generalizing m a with
  | nil => rfl
  | cons w ws ih =>
    simp only [List.length_cons] at h
    show ((m.setWord a w).setWords (a + 8) ws).byte b = m.byte b
    rw [ih _ _ (by omega), Mem.byte_setWord_other _ _ _ _ (by omega)]

/-! ## What a service reads -/

theorem ofBytes_lt (bs : List Byte) : ofBytes bs < 256 ^ bs.length := by
  induction bs with
  | nil => simp [ofBytes]
  | cons b bs ih =>
    have hb : b.toNat < 256 := b.isLt
    simp only [ofBytes, List.length_cons, Nat.pow_succ]
    omega
/-- The bytes of the number that bytes spell are those bytes. -/
theorem toBytes_ofBytes (bs : List Byte) : toBytes bs.length (ofBytes bs) = bs := by
  induction bs with
  | nil => rfl
  | cons b bs ih =>
    have hb : b.toNat < 256 := b.isLt
    have h1 : (b.toNat + 256 * ofBytes bs) / 256 = ofBytes bs := by omega
    have h2 : BitVec.ofNat 8 (b.toNat + 256 * ofBytes bs) = b := by
      apply BitVec.eq_of_toNat_eq; simp only [BitVec.toNat_ofNat]; omega
    simp only [ofBytes, List.length_cons, toBytes, h1, h2, ih]
theorem aGetMany_length {α : Type} (d : α) (l : Assoc α) (a n : Nat) : (aGetMany d l a n).length = n := by
  induction n generalizing a with
  | zero => rfl
  | succ n ih => simp [aGetMany, ih]
theorem aGetMany_append {α : Type} (d : α) (l : Assoc α) (a n k : Nat) :
    aGetMany d l a (n + k) = aGetMany d l a n ++ aGetMany d l (a + n) k := by
  induction n generalizing a with
  | zero => simp [aGetMany]
  | succ n ih => rw [Nat.add_right_comm]; simp only [aGetMany, List.cons_append, ih]; rw [Nat.add_right_comm]; rfl
/-- The eight bytes of a word of memory are the bytes at its address. -/
theorem Mem.word_toBytes (m : Mem) (a : Nat) : toBytes 8 (m.word a).d.toNat = m.rdBytes a 8 := by
  have hl : (m.rdBytes a 8).length = 8 := aGetMany_length 0 m.bytes a 8
  have hb := ofBytes_lt (m.rdBytes a 8)
  have ht := toBytes_ofBytes (m.rdBytes a 8)
  rw [hl] at hb ht
  show toBytes 8 (BitVec.ofNat 64 (ofBytes (m.rdBytes a 8))).toNat = _
  rw [BitVec.toNat_ofNat, Nat.mod_eq_of_lt (by simpa using hb), ht]
/-- Whole words that a service reads from tier H are the bytes of memory. -/
theorem State.svcBytesAt_inH (s : State) (a n : Nat) (h : a + 8 * n ≤ 2 ^ 40) : s.svcBytesAt a (8 * n) = s.mem.rdBytes a (8 * n) := by
  have key : ∀ m, m ≤ n →
      (((List.range m).map fun k => if s.tierOf (a + 8 * k) = .none then (⟨Config.freeWord s.dev.free, true⟩ : PWord)
        else s.mem.word (a + 8 * k)).flatMap fun w => toBytes 8 w.d.toNat) = s.mem.rdBytes a (8 * m) := by
    intro m hm
    induction m with
    | zero => rfl
    | succ m ih =>
      have ht : s.tierOf (a + 8 * m) = .h := by unfold State.tierOf; rw [if_pos (by omega)]
      rw [List.range_succ, List.map_append, List.flatMap_append, ih (by omega), List.map_singleton, List.flatMap_singleton, ht,
        if_neg (by decide), Mem.word_toBytes, Nat.mul_succ]
      exact (aGetMany_append 0 s.mem.bytes a (8 * m) 8).symm
  unfold State.svcBytesAt State.svcRead
  rw [show (8 * n + 7) / 8 = n by omega, key n (Nat.le_refl n), List.take_of_length_le]
  exact Nat.le_of_eq (aGetMany_length 0 s.mem.bytes a (8 * n))
/-- A number of whole words that a service reads from tier H. -/
theorem State.svcNum_inH (s : State) (a n : Nat) (ha : a % 8 = 0) (h : a + 8 * n ≤ 2 ^ 40) : s.svcNum a (8 * n) = s.mem.num a (8 * n) := by
  unfold State.svcNum
  rw [ha, Nat.sub_zero, Nat.zero_add, List.drop_zero, State.svcBytesAt_inH s a n h]; rfl

end Sys2Proof.Machine
end

