-- ==== Sys2Proof/Tests/Slice0.lean ====
section
/-! SUPPORT. Tests: words of the instruction encodings, an ill-formed command for each check, a state that meets the hypotheses of each
statement, and small steps whose results are worked out from the spec by hand. -/

set_option Elab.async false

namespace Sys2Proof.Tests

open Sys2Proof Sys2Proof.Machine

/-! ## Small states -/

/-- A state with one tile. -/
def oneTile (t : TileId) (x : Tile) : State := { State.reset with tiles := [(t.toNat, x)] }
/-- A tile at issue whose first word is `w`. -/
def atWord (w : W64) : Tile := { Tile.empty with core := { TCore.empty with phase := .issue }, imem := [(0, w)] }
/-- What `Ready` asks, as a test. -/
def readyB (s : State) (t : TileId) (i : Instr) : Bool :=
  decide ((s.tile t).core.phase = .issue) && !s.dev.cdreset && decide ((s.tile t).core.pc ≤ 6143)
    && decide (decodeWord t .ok (aGet 0 (s.tile t).imem (s.tile t).core.pc) = some i) && !badTarget (s.tile t).core.pc i
    && !queueFull (s.tile t) (aGet 0 (s.tile t).imem (s.tile t).core.pc) && decide (holdCause s t (s.tile t) i = none) && !scalarPending (s.tile t) i
theorem ready_of (s : State) (t : TileId) (i : Instr) (h : readyB s t i = true) : Ready s t .ok i := by
  simp only [readyB, Bool.and_eq_true, decide_eq_true_eq, Bool.not_eq_true'] at h
  obtain ⟨⟨⟨⟨⟨⟨⟨h1, h2⟩, h3⟩, h4⟩, h5⟩, h6⟩, h7⟩, h8⟩ := h
  exact ⟨h1, h2, h3, nofun, h4, h5, h6, h7, h8⟩

/-! ## Instruction words written out from the field tables of the spec -/

/-- Words of class SCA (R95, R96), in tile 3. -/
def words_sca : List (W64 × Instr) :=
  [ (0x000298E000000000#64, Instr.add 3 .ok 5 6 7)
  , (0x001298E000000000#64, .sub 3 .ok 5 6 7)
  , (0x002298E000000000#64, .andR 3 .ok 5 6 7)
  , (0x003298E000000000#64, .orR 3 .ok 5 6 7)
  , (0x004298E000000000#64, .xorR 3 .ok 5 6 7)
  , (0x005298E000000000#64, .sll 3 .ok 5 6 7)
  , (0x006298E000000000#64, .srl 3 .ok 5 6 7)
  , (0x007298E000000000#64, .sra 3 .ok 5 6 7)
  , (0x008298E000000000#64, .slt 3 .ok 5 6 7)
  , (0x009298E000000000#64, .sltu 3 .ok 5 6 7)
  , (0x00A298E000000000#64, .mul 3 .ok 5 6 7)
  , (0x00B298E000000000#64, .mulhu 3 .ok 5 6 7)
  , (0x00C298E000000000#64, .minR 3 .ok 5 6 7)
  , (0x00D298E000000000#64, .maxR 3 .ok 5 6 7)
  , (0x00E2980000000000#64, .popc 3 .ok 5 6)
  , (0x00FF980000000000#64, .ctz 3 .ok 31 6) ]
theorem test_words_sca : ∀ p ∈ words_sca, decodeWord 3 .ok p.1 = some p.2 := by decide

/-- Words of class SCI (R95, R96), in tile 3. -/
def words_sci : List (W64 × Instr) :=
  [ (0x08029BFFFFFFFFFE#64, Instr.addi 3 .ok 5 6 (-2))
  , (0x08229BFFFFFFFFFE#64, .andi 3 .ok 5 6 (-2))
  , (0x08329BFFFFFFFFFE#64, .ori 3 .ok 5 6 (-2))
  , (0x08429BFFFFFFFFFE#64, .xori 3 .ok 5 6 (-2))
  , (0x08829BFFFFFFFFFE#64, .slti 3 .ok 5 6 (-2))
  , (0x08929BFFFFFFFFFE#64, .sltiu 3 .ok 5 6 (-2))
  , (0x085298000000003F#64, .slli 3 .ok 5 6 63)
  , (0x086298000000003F#64, .srli 3 .ok 5 6 63)
  , (0x087298000000003F#64, .srai 3 .ok 5 6 63)
  , (0x090283FFFFFFFFFF#64, .li 3 .ok 5 (-1))
  , (0x09129800002AAAAA#64, .lih 3 .ok 5 6 0x2AAAAA)
  , (0x0922980000000243#64, .ext 3 .ok 5 6 3 9) ]
theorem test_words_sci : ∀ p ∈ words_sci, decodeWord 3 .ok p.1 = some p.2 := by decide

/-- Words of class BRA (R95, R96), in tile 3. -/
def words_bra : List (W64 × Instr) :=
  [ (0x10031C0008000000#64, Instr.beq 3 .ok 6 7 2)
  , (0x10131C0008000000#64, .bne 3 .ok 6 7 2)
  , (0x10231C0008000000#64, .blt 3 .ok 6 7 2)
  , (0x10331C0008000000#64, .bge 3 .ok 6 7 2)
  , (0x10431C0008000000#64, .bltu 3 .ok 6 7 2)
  , (0x10531C0008000000#64, .bgeu 3 .ok 6 7 2)
  , (0x1060000008000000#64, .j 3 .ok 2)
  , (0x1073000008000000#64, .dbnz 3 .ok 6 2) ]
theorem test_words_bra : ∀ p ∈ words_bra, decodeWord 3 .ok p.1 = some p.2 := by decide

/-- Words of class CTL (R95, R96), in tile 3. -/
def words_ctl : List (W64 × Instr) :=
  [ (0x1800000000000000#64, Instr.nop 3 .ok)
  , (0x1810000000000000#64, .endC 3 .ok)
  , (0x1823120000000000#64, .hset 3 .ok 6 9)
  , (0x1832920000000000#64, .hget 3 .ok 5 9)
  , (0x1842800000000000#64, .rdtally 3 .ok 5)
  , (0x1852800000000000#64, .rdid 3 .ok 5)
  , (0x1862800000000000#64, .rdss 3 .ok 5) ]
theorem test_words_ctl : ∀ p ∈ words_ctl, decodeWord 3 .ok p.1 = some p.2 := by decide

/-- Words of classes MMA and MMS (R99), in tile 3. -/
def words_mma : List (W64 × Instr) :=
  [ (0x2004205F0331C000#64, Instr.mmaF4 3 .ok ⟨1, 2, 1, 3, true, true, 4, 0, 0, true, true, 6, 7⟩)
  , (0x2104205F1B31C000#64, .mmaF8 3 .ok ⟨1, 2, 1, 3, true, true, 4, 1, 2, true, true, 6, 7⟩)
  , (0x2204205F0331C000#64, .mmaB16 3 .ok ⟨1, 2, 1, 3, true, true, 4, 0, 0, true, true, 6, 7⟩)
  , (0x2804205F0331C000#64, .mmsF4 3 .ok ⟨1, 2, 1, 3, true, true, 4, 0, 0, true, true, 6, 7⟩) ]
theorem test_words_mma : ∀ p ∈ words_mma, decodeWord 3 .ok p.1 = some p.2 := by decide

/-- Words of classes VCH, VLEN and RDX (R117, R116, R132), in tile 3. -/
def words_vec : List (W64 × Instr) :=
  [ (0x300C8663A12A5A00#64, Instr.vch 3 .ok ⟨100, 1, true, 6, 7, 8, 9, 10, 11, false, true⟩)
  , (0x38C0258000000000#64, .vlen 3 .ok 6 300)
  , (0x404B24C000000000#64, .rdxSum 3 .ok ⟨true, 5, true, 9, 6⟩)
  , (0x40CB24C000000000#64, .rdxSsq 3 .ok ⟨true, 5, true, 9, 6⟩)
  , (0x414B24C000000000#64, .rdxMax 3 .ok ⟨true, 5, true, 9, 6⟩)
  , (0x41CB24C000000000#64, .rdxAmax 3 .ok ⟨true, 5, true, 9, 6⟩) ]
theorem test_words_vec : ∀ p ∈ words_vec, decodeWord 3 .ok p.1 = some p.2 := by decide

/-- Words of class STR (R220), in tile 3. -/
def words_str : List (W64 × Instr) :=
  [ (0x48498F4000000000#64, Instr.strGet 3 .ok ⟨9, 6, 7, 2, true⟩)
  , (0x4A498F4000000000#64, .strPut 3 .ok ⟨9, 6, 7, 2, true⟩) ]
theorem test_words_str : ∀ p ∈ words_str, decodeWord 3 .ok p.1 = some p.2 := by decide

/-- Words of classes SIG, WAIT and MSG (R176, R177, R188), in tile 3. -/
def words_bel : List (W64 × Instr) :=
  [ (0x5037D80FA0000000#64, Instr.sigSignal 3 .ok 6 251 500)
  , (0x5137D80FA1251C00#64, .sigPut 3 .ok ⟨6, 251, 500, 9, 10, 7⟩ [])
  , (0x5237D80009251C00#64, .sigPuth 3 .ok ⟨6, 251, 1, 9, 10, 7⟩ [])
  , (0x58FF300089400000#64, .waitConsume 3 .ok ⟨255, 6, 17, 5⟩)
  , (0x59FF300089400000#64, .waitPeek 3 .ok ⟨255, 6, 17, 5⟩)
  , (0x5AFF300089400000#64, .waitGe 3 .ok ⟨255, 6, 17, 5⟩)
  , (0x601A0C9380000000#64, .send 3 .ok ⟨6, 2, 0, 3, 9, 7⟩ [])
  , (0x609A5C9380000000#64, .asend 3 .ok ⟨6, 2, 5, 3, 9, 7⟩ [])
  , (0x611B909380000000#64, .cadd 3 .ok ⟨6, 2, 1, 9, 7⟩ [])
  , (0x61E1000380000000#64, .recv 3 .ok 24 1 7)
  , (0x6200000000000000#64, .poll 3 .ok)
  , (0x6280000000000000#64, .hret 3 .ok) ]
theorem test_words_bel : ∀ p ∈ words_bel, decodeWord 3 .ok p.1 = some p.2 := by decide

/-- Words of class RNG (R146), in tile 3. -/
def words_rng : List (W64 × Instr) :=
  [ (0x684498E850200000#64, Instr.rngBits 3 .ok ⟨2, 9, 6, 7, 8, 10, 0, true⟩)
  , (0x68C498E850000000#64, .rngUni 3 .ok ⟨2, 9, 6, 7, 8, 10, 0, false⟩)
  , (0x694498E852E00000#64, .rngMask 3 .ok ⟨2, 9, 6, 7, 8, 10, 11, true⟩)
  , (0x69C0000002C00000#64, .seedset 3 .ok 2 11)
  , (0x6A40000002C00000#64, .seedget 3 .ok 2 11) ]
theorem test_words_rng : ∀ p ∈ words_rng, decodeWord 3 .ok p.1 = some p.2 := by decide

/-! ## Hypotheses that can be met: tile instructions -/

/-- A handle-table entry (R59): V, store, BASE, ROWS - 1, COLS - 1 and STRIDE. -/
def hent (st base rows stride cols : Nat) : W64 :=
  BitVec.ofNat 64 (2 ^ 63 + st * 2 ^ 61 + base * 2 ^ 49 + rows * 2 ^ 37 + cols * 2 ^ 26 + stride * 2 ^ 14)
/-- A tile with every segment powered, some buffers, a heavy-unit token, an RDX that waits and `w` as its first word; word 100 is
a chain of one LD of handle 9. -/
def engine (w : W64) : Tile :=
  { Tile.empty with
    core := { TCore.empty with phase := .issue, regs := [(6, 2), (10, 0x100002)] }
    imem := [(0, w), (100, 0x0400090000000000#64)], mask := BitVec.allOnes 24
    htab := [(1, hent 1 0 127 1 31), (2, hent 2 512 31 1 31), (4, hent 0 0 127 1 31), (5, hent 2 600 31 1 31), (6, hent 0 200 63 1 31)
      , (8, hent 1 300 127 2 63), (9, hent 1 1000 15 1 31)]
    mxe := { Mxe.empty with token := true }, vxe := ⟨16, [], false, 0⟩
    rdu := ⟨[⟨0, .sum, ⟨true, 5, false, 0, 0⟩, 0, 0⟩], []⟩ }
def engineAt (w : W64) : State := oneTile 3 (engine w)

theorem test_ready_scalar : ∀ p ∈ words_sca ++ words_sci ++ words_bra ++ words_ctl, readyB (oneTile 3 (atWord p.1)) 3 p.2 = true := by decide
theorem test_hyp_ControlResults_hset :
    (hdOf ((oneTile 3 (atWord 0x1823120000000000#64)).tile 3 |>.reg 6)).legal ((oneTile 3 (atWord 0x1823120000000000#64)).tile 3).mask = true := by decide
theorem test_ready_engines : ∀ p ∈ words_vec.drop 1 ++ words_str ++ words_rng.drop 3 ++ words_bel.take 10, readyB (engineAt p.1) 3 p.2 = true := by decide
/-- A held step: a matrix instruction in a tile without a token (R29, R66); and an illegal word behind any command (R93). -/
theorem test_hyp_HeldStepsAndIllegalWords :
    encodeWord false (.mmaB16 3 .ok ⟨8, 4, 0, 3, true, true, 4, 0, 0, false, false, 0, 0⟩) = some (3, .ok, 0x2220401F00000000#64) ∧
    issueCheck (oneTile 3 { engine 0x2220401F00000000#64 with mxe := Mxe.empty }) 3 .ok (.mmaB16 3 .ok ⟨8, 4, 0, 3, true, true, 4, 0, 0, false, false, 0, 0⟩) = .stall .power ∧
    encodeWord false (.nop 3 .ok) = some (3, .ok, 0x1800000000000000#64) ∧
    decodeWord 3 .ok (aGet 0 ((oneTile 3 (atWord (-1))).tile 3).imem 0) = none := by decide
theorem test_hyp_MatrixInstructionsIssue :
    readyB (engineAt 0x2004401F00000000#64) 3 (.mmaF4 3 .ok ⟨1, 4, 0, 3, true, true, 4, 0, 0, false, false, 0, 0⟩) = true ∧ mmaCheck (BitVec.allOnes 24) (mmaOp (engine 0x2004401F00000000#64) .f4 ⟨1, 4, 0, 3, true, true, 4, 0, 0, false, false, 0, 0⟩) = none ∧
    readyB (engineAt 0x2104401F00000000#64) 3 (.mmaF8 3 .ok ⟨1, 4, 0, 3, true, true, 4, 0, 0, false, false, 0, 0⟩) = true ∧ mmaCheck (BitVec.allOnes 24) (mmaOp (engine 0x2104401F00000000#64) .f8 ⟨1, 4, 0, 3, true, true, 4, 0, 0, false, false, 0, 0⟩) = none ∧
    readyB (engineAt 0x2220401F00000000#64) 3 (.mmaB16 3 .ok ⟨8, 4, 0, 3, true, true, 4, 0, 0, false, false, 0, 0⟩) = true ∧ mmaCheck (BitVec.allOnes 24) (mmaOp (engine 0x2220401F00000000#64) .b16 ⟨8, 4, 0, 3, true, true, 4, 0, 0, false, false, 0, 0⟩) = none ∧
    readyB (engineAt 0x2804401F00000000#64) 3 (.mmsF4 3 .ok ⟨1, 4, 0, 3, true, true, 4, 0, 0, false, false, 0, 0⟩) = true ∧ mmaCheck (BitVec.allOnes 24) (mmaOp (engine 0x2804401F00000000#64) .s4 ⟨1, 4, 0, 3, true, true, 4, 0, 0, false, false, 0, 0⟩) = none := by decide
theorem test_hyp_VectorInstructionsIssue_vch :
    readyB (engineAt 0x300C806380005C00#64) 3 (.vch 3 .ok ⟨100, 0, false, 6, 7, 0, 0, 0, 11, true, false⟩) = true ∧
    (engine 0x300C806380005C00#64).chain ⟨100, 0, false, 6, 7, 0, 0, 0, 11, true, false⟩ = some [⟨.ld, 0, 0, 0, 9, 0, 0, 0, 0, false, false, 0, 0⟩] ∧
    (∀ g ∈ [(⟨.ld, 0, 0, 0, 9, 0, 0, 0, 0, false, false, 0, 0⟩ : Stage)],
      stageFault g (stageVals (engine 0x300C806380005C00#64) g) (BitVec.allOnes 24) 2 16 = none) ∧
    (∀ r ∈ (engine 0x300C806380005C00#64).rdu.unpaired, rdxFault r 2 = none) := by decide
theorem test_hyp_VectorInstructionsIssue_rdx :
    readyB (engineAt 0x41CB24C000000000#64) 3 (.rdxAmax 3 .ok ⟨true, 5, true, 9, 6⟩) = true ∧
    (hdOf ((engine 0x41CB24C000000000#64).hword 9)).v = true ∧ (hdOf ((engine 0x41CB24C000000000#64).hword 9)).legal (engine 0x41CB24C000000000#64).mask = true := by decide
theorem test_hyp_RandomBitsResults_issue :
    readyB (engineAt 0x684480E850000000#64) 3 (.rngBits 3 .ok ⟨2, 9, 0, 7, 8, 10, 0, false⟩) = true ∧
    rngFault (BitVec.allOnes 24) ⟨0, 0, .bits, false, hent 1 1000 15 1 31, 0, 0, 0, 2, 16, 0, 0⟩ = none := by decide

/-! ## Hypotheses that can be met: engine work -/

/-- A BF16 matrix operation with the accumulator that follows. -/
def anOp (stage : MxeStage) : MxeOp :=
  ⟨0, .b16, ⟨8, 4, 0, 3, true, true, 4, 0, 0, false, false, 0, 0⟩, false, 0, 0, 64, BitVec.allOnes 64, hent 1 300 127 2 63, 0, hent 0 0 127 1 31, 0, 0, 64, stage⟩
def mxeWith (stage : MxeStage) : State := oneTile 3 { engine 0 with mxe := { Mxe.empty with ops := [anOp stage] } }
theorem test_hyp_MatrixOperationRuns_load :
    firstOp (fun o => o.f.init && decide (o.stage = .queued)) [] ((mxeWith .queued).tile 3).mxe.ops = some ([], anOp .queued) := by decide
theorem test_hyp_MatrixOperationRuns_start :
    firstOp (fun o => !o.started) [] ((mxeWith .loaded).tile 3).mxe.ops = some ([], anOp .loaded) ∧
    ((mxeWith .loaded).tile 3).rowsFree 0 (anOp .loaded).readRows [] = true := by decide
theorem test_hyp_MatrixOperationRuns_array :
    firstOp (fun o => decide (o.stage = .running)) [] ((mxeWith .running).tile 3).mxe.ops = some ([], anOp .running) ∧
    max 5 (anOp .running).occ ≤ ({ engine 0 with ctr := { TCtr.zero with mxeBusy := 64 } } : Tile).ctr.mxeBusy - Mxe.empty.busy0 := by decide
theorem test_hyp_MatrixOperationRuns_drain :
    ((mxeWith .draining).tile 3).mxe.ops = [anOp .draining] ∧ ((mxeWith .draining).tile 3).rowsFree 0 [] (slotRows 3) = true := by decide
def tokens : State :=
  { oneTile 3 { engine 0 with ctr := { TCtr.zero with tally := 32 } } with pool0 := ⟨2, [7], 0⟩ }
theorem test_hyp_HeavyUnitTokens :
    (tokens.pool false).wait = [7] ∧ tokens.tokensHeld false < (tokens.pool false).size ∧ (tokens.tile 3).mxe.token = true ∧
    (tokens.tile 3).mxe.ops = [] ∧ (tokens.tile 3).mxe.idleFrom + 32 ≤ (tokens.tile 3).ctr.tally := by decide
def aVch : VchOp := ⟨0, 0, ⟨100, 0, false, 6, 7, 0, 0, 0, 11, false, false⟩, [], [0, 0, 0, 0], 2, 16, 1, 0, 0, none, false⟩
def vxeWith : State := oneTile 3 { engine 0 with vxe := ⟨16, [aVch], false, 0⟩, ftq := [3], ctr := { TCtr.zero with vxeBusy := 1 } }
theorem test_hyp_VectorWorkCompletes_vch :
    (vxeWith.tile 3).vxe.ops = [aVch] ∧ (vxeWith.tile 3).vchFree aVch = true ∧
    max 1 aVch.groups ≤ (vxeWith.tile 3).ctr.vxeBusy - (vxeWith.tile 3).vxe.busy0 ∧
    ((oneTile 3 { engine 0 with vxe := ⟨16, [], true, 0⟩ }).tile 3).vxe.relDue = true := by decide
def aResult : RduRes := ⟨⟨0, .sum, ⟨true, 5, true, 9, 0⟩, hent 1 1000 15 1 31, 0⟩, 0, true, 0, false, false⟩
theorem test_hyp_VectorWorkCompletes_result :
    ((oneTile 3 { engine 0 with rdu := ⟨[], [aResult]⟩ }).tile 3).rdu.results = [aResult] ∧
    ((oneTile 3 { engine 0 with rdu := ⟨[], [aResult]⟩ }).tile 3).rowsFree 0 []
      [rowKey (hdOf aResult.ent.he).store ((hdOf aResult.ent.he).place 32 (mapRow (hdOf aResult.ent.he) 32 0 0).1
        (mapRow (hdOf aResult.ent.he) 32 0 0).2).row] = true := by decide
def aRng : RngOp := ⟨0, 0, .bits, false, hent 1 1000 15 1 31, 0, 0, 0, 2, 16, 0, 0⟩
theorem test_hyp_RandomBitsResults_lands :
    ((oneTile 3 { engine 0 with rng := [aRng] }).tile 3).rng = [aRng] ∧
    ((oneTile 3 { engine 0 with rng := [aRng] }).tile 3).rowsFree 0 [] (rngRows aRng) = true := by decide

/-! ## Hypotheses that can be met: Gallery and barriers -/

/-- A flit for tile `d` of this module. -/
def flitTo (vc kind slot : Nat) (d : Gta) (last cmb : Bool) : Flit :=
  { hdr := FHdr.word { vc := vc, kind := kind, edge := false, dest := d, last := last, cmb := cmb, slot := slot, dh := 9, drow := 1, age := 0 }
    pay := List.replicate 8 pw0, row := 0 }
/-- Tile 3 with the order list `w` of its east output, and flits at its west and own inputs. -/
def router (w : W64) (vc : Nat) (f g : Flit) : State :=
  { oneTile 3 { engine 0 with imem := [(1, 0x0000000028000000#64), (2, 0x0000000006000000#64), (20, 0x4000#64), (22, w)] } with
    net := { Net.empty with
      links := [(linkKey 3 .west vc, [f]), (linkKey 3 .loc vc, [g])], wins := [(winKey 3 .east, { Win.empty with last1 := 3 })] } }
theorem test_hyp_FlitsPassOn_signal :
    (router 0 1 (flitTo 1 1 0 5 true false) (flitTo 1 1 0 5 true false)).heldRx 3 .west = false ∧
    (router 0 1 (flitTo 1 1 0 5 true false) (flitTo 1 1 0 5 true false)).route 3 (flitTo 1 1 0 5 true false) = some .east ∧
    (router 0 1 (flitTo 1 1 0 5 true false) (flitTo 1 1 0 5 true false)).slotVc 3 .east = some 1 ∧
    (router 0 1 (flitTo 1 1 0 5 true false) (flitTo 1 1 0 5 true false)).vcPick 3 .east 1 = some .west ∧
    (∀ v, checkFlit v (flitTo 1 1 0 5 true false) [] = some (flitTo 1 1 0 5 true false)) :=
  ⟨by decide, by decide, by decide, by decide, fun _ => rfl⟩
theorem test_hyp_FlitsPassOn_exchange :
    (router 0x60 2 (flitTo 2 0 0 5 true false) (flitTo 2 0 0 5 true false)).olNow 3 (sideOl .east) = some 0x60 ∧
    olSrc 0x60 = sideOl .west ∧ olAdd 0x60 = false ∧
    (hdrOf (flitTo 2 0 0 5 true false).hdr).slot =
      (router 0x60 2 (flitTo 2 0 0 5 true false) (flitTo 2 0 0 5 true false)).takenAt 3 (sideOl .west) ∧
    (hdrOf (flitTo 2 0 0 5 true false).hdr).last = true := by decide
def sums : State := router 0x8070 2 (flitTo 2 0 0 5 true true) (flitTo 2 0 0 5 true true)
theorem test_hyp_FlitsPassOnAndSum_sum :
    sums.group 3 (sideOl .east) = some [3, 4] ∧
    [3, 4].map (fun i => (sums.link (linkKey 3 (inputSide 3 i) 2)).head?) = [some (flitTo 2 0 0 5 true true), some (flitTo 2 0 0 5 true true)] ∧
    (∀ p ∈ [3, 4], (hdrOf (flitTo 2 0 0 5 true true).hdr).slot = sums.takenAt 3 p) ∧
    sums.route 3 (flitTo 2 0 0 5 true true) = some .east ∧
    sameItem (flitTo 2 0 0 5 true true) (flitTo 2 0 0 5 true true) = true ∧ sums.slotVc 3 .east = some 2 := by decide
/-- Tile 3 past END, with a send list of one row of handle 9 at word 10. -/
def sender : State :=
  oneTile 3 { engine 0 with
    core := { TCore.empty with phase := .ended }
    imem := [(1, 0x0050000000000000#64), (2, 0x0008000000000000#64), (10, 0x000A480000000000#64)] }
theorem test_hyp_ExchangeRowsMove_begin :
    (sender.tile 3).core.phase = .ended ∧ (sender.tile 3).core.xbegun = false ∧
    ((sender.tile 3).ssHdr.map fun h => (h.nsend, (sender.tile 3).badSend ((sender.tile 3).sendList h), ((sender.tile 3).sendList h).map (·.sh)))
      = some (1, none, [9]) := by decide
def receiver : State := { engineAt 0 with net := { Net.empty with ejects := [(14, [flitTo 2 0 0 3 true false])] } }
theorem test_hyp_ExchangeRowsMove_write :
    receiver.eject 3 2 = [flitTo 2 0 0 3 true false] ∧ (hdrOf (flitTo 2 0 0 3 true false).hdr).slot = receiver.takenAt 3 9 ∧
    (receiver.tile 3).offsetOk 9 (hdrOf (flitTo 2 0 0 3 true false).hdr).drow = true := by decide

/-- Every tile as `x`. -/
@[irreducible] def tilesOf (x : Tile) : Assoc Tile := (List.range 2048).map fun k => (k, x)
def allTiles (x : Tile) : State := { State.reset with tiles := tilesOf x }
theorem aGet_range (x : Tile) (n t : Nat) (a : Nat) (h : a ≤ t) (ht : t < a + n) :
    aGet Tile.empty ((List.range' a n).map fun k => (k, x)) t = x := by
  induction n generalizing a with
  | zero => omega
  | succ n ih =>
    simp only [List.range'_succ, List.map_cons, aGet]
    split
    · rfl
    · next h' => exact ih (a + 1) (by omega) (by omega)
theorem allTiles_tile (x : Tile) (t : TileId) : (allTiles x).tile t = x := by
  have := t.isLt
  simp only [allTiles, State.tile]
  unfold tilesOf
  rw [List.range_eq_range']
  exact aGet_range x 2048 t.toNat 0 (Nat.zero_le _) (by omega)
/-- A tile that has arrived at a DIE barrier. -/
def arrived : Tile := { Tile.empty with core := { TCore.empty with phase := .arrived } }
theorem test_hyp_BarrierReleases :
    (allTiles arrived).releasable .die false = true ∧ ((allTiles arrived).tile (scopeHead .die false)).ssHdr.any (fun h => !h.close) = true := by
  refine ⟨?_, by rw [allTiles_tile]; decide⟩
  have h : (allTiles arrived).gathered .die false = true := by
    simp only [State.gathered, List.all_eq_true, State.atBarrier, allTiles_tile]
    intro t _
    decide
  simp only [State.releasable, h]
  decide
def slow : State :=
  { State.reset with
    dev := { Dev.reset with time := 200 }, waits := [(0, some ⟨5, false⟩)]
    regs := { Regs.reset with active := [(0x0B0110, some 195)] } }
theorem test_hyp_BarrierReleases_slow :
    aGet none slow.waits (waitKey .die false) = some ⟨5, false⟩ ∧ slow.act .sch 0x110 ≠ 0 ∧ 5 + slow.act .sch 0x110 ≤ slow.dev.time := by decide
/-- A tile that may arrive at a CHAIN barrier. -/
def arriving : State := oneTile 3 { Tile.empty with core := { TCore.empty with phase := .ended, xbegun := true }, imem := [(0, 0x8000000000000000#64)] }
theorem zero_mem_module (die : Bool) : (0 : TileId) ∈ scopeTiles .module die := List.mem_map.mpr ⟨0, List.mem_range.mpr (by omega), rfl⟩
theorem test_hyp_BarrierArrives :
    arriving.mayArrive 3 = true ∧ ((arriving.tile 3).ssHdr.map (·.scope)) = some .chain ∧ arriving.atBarrier .chain 0 = false := by decide

/-! ## Hypotheses that can be met: Belfry -/

/-- Tile 3 of `engine` with a flit at its ejection port. -/
def gets (vc : Nat) (x : Tile) (f : Flit) : State := { oneTile 3 x with net := { Net.empty with ejects := [(12 + vc, [f])] } }
theorem test_hyp_SignalInstructions_put :
    readyB (engineAt 0x5137D80FA1250000#64) 3 (.sigPut 3 .ok ⟨6, 251, 500, 9, 10, 0⟩ []) = true ∧ (engine 0).offsetOk 9 0 = true ∧
    (engine 0).rowsFree 0 ((engine 0).srcKeys 9 0 1) [] = true ∧ SyncWaits (engineAt 0) 3 :=
  ⟨by decide, by decide, by decide, .inl rfl⟩
/-- A WAIT for nothing is satisfied; one for 19 of an object without signals is not (R177). -/
theorem test_hyp_WaitInstructions :
    (engine 0).satisfied .ge 255 ((engine 0).waitN ⟨255, 0, 0, 5⟩) = true ∧
    (engine 0).satisfied .consume 255 ((engine 0).waitN ⟨255, 6, 17, 5⟩) = false ∧ ((engine 0).waitN ⟨255, 6, 17, 5⟩).toNat = 19 := by decide
theorem test_hyp_SignalsArrive_signal :
    (gets 1 (engine 0) (signalFlit 3 7 500)).eject 3 1 = [signalFlit 3 7 500] ∧ subOf (signalFlit 3 7 500) = 1 ∧
    BitVec.ofNat 8 (((signalFlit 3 7 500).pay.getD 0 pw0).d.toNat) = (7 : BitVec 8) ∧
    ((signalFlit 3 7 500).pay.getD 0 pw0).d.toNat / 2 ^ 8 % 2 ^ 16 = 500 ∧ ((engine 0).availWith 7 500).toNat < 2 ^ 31 := by decide
/-- The data flit of a PUTH of one row to handle 9, with its signal. -/
def puth : Flit := (putFlits 3 ⟨6, 251, 1, 9, 9, 0⟩ 1 [List.replicate 8 pw0] true).headD (signalFlit 0 0 0)
theorem test_hyp_SignalsArrive_put :
    subOf puth = 0 ∧ puth.pay.length = 8 ∧ (hdrOf puth.hdr).dh = 9 ∧ (engine 0).offsetOk 9 (hdrOf puth.hdr).drow = true ∧
    tagOf puth / 2 ^ 13 = 1 ∧ ((engine 0).availWith (BitVec.ofNat 8 (tagOf puth)) 1).toNat < 2 ^ 31 := by decide
/-- The window: an object whose P lies 2^31 - 1 above C. -/
def full : Tile := { engine 0 with bel := { Belfry.empty with p := [(7, 0x7FFFFFFF), (251, 0x7FFFFFFF)] } }
theorem test_hyp_SyncWindowFaults :
    2 ^ 31 ≤ (full.sigP 7 + BitVec.ofNat 32 1 - full.sigC 7).toNat ∧ BitVec.ofNat 8 (tagOf puth) = (251 : BitVec 8) ∧
    2 ^ 31 ≤ (full.sigP 251 + 1 - full.sigC 251).toNat := by decide
theorem test_hyp_SyncWindowFaults_wait :
    readyB (oneTile 3 { engine 0x58FF300001400000#64 with core := { TCore.empty with phase := .issue, regs := [(6, 0x80000000)] } }) 3 (.waitConsume 3 .ok ⟨255, 6, 0, 5⟩)
      = true := by decide
theorem test_hyp_MessageInstructionsReserve :
    readyB (engineAt 0x601A009000000000#64) 3 (.send 3 .ok ⟨6, 2, 0, 0, 9, 0⟩ []) = true ∧ readyB (engineAt 0x609A509000000000#64) 3 (.asend 3 .ok ⟨6, 2, 5, 0, 9, 0⟩ []) = true ∧
    readyB (engineAt 0x611B909000000000#64) 3 (.cadd 3 .ok ⟨6, 2, 1, 9, 0⟩ []) = true := by decide

/-- Reservations of tile 5: a SEND of two flits to queue 1, and a CADD of three contributions to slot 2. -/
def sendResv : Resv := ⟨.send, 3, 1, 0, 2, 1, 0, [5096, 5097], [], some 64⟩
def caddResv : Resv := ⟨.cadd, 3, 3, 0b1001, 1, 3, 0, [5096], [], none⟩
/-- A tile whose queue 1 holds a message of `n` entries. -/
def holding (n : Nat) : Tile := { engine 0 with bel := { Belfry.empty with q := [(1, { MsgQ.empty with msgs := [⟨9, true, 4, n, false, false, [], 0⟩] })] } }
theorem test_hyp_Reservations_request :
    subOf (requestFlit 5 sendResv) = 3 ∧ tagOf (requestFlit 5 sendResv) / 2 ^ 13 = 0 ∧
    ((requestFlit 5 sendResv).pay.getD 0 pw0).d.extractLsb' 2 2 = (1 : BitVec 2) ∧
    ((requestFlit 5 sendResv).pay.getD 0 pw0).d.toNat / 2 ^ 8 % 4 + 1 = 2 ∧ ((requestFlit 5 sendResv).pay.getD 0 pw0).d.toNat % 4 ≠ 2 ∧
    ((holding 14).queue 1).spilling = false ∧ ((holding 14).queue 1).used + 2 ≤ 16 ∧ 16 < ((holding 15).queue 1).used + 2 := by decide
theorem test_hyp_Reservations_slot :
    ((requestFlit 5 caddResv).pay.getD 0 pw0).d.toNat % 4 = 2 ∧
    (((requestFlit 5 caddResv).pay.getD 0 pw0).d.extractLsb' 4 4).extractLsb' 2 2 = (2 : BitVec 2) ∧
    ((engine 0).cslot 2).armed = false ∧ ((engine 0).cslot 2).result = none := by decide
theorem test_hyp_Reservations_answer :
    subOf (answerFlit 3 5 2 0 0) = 3 ∧ tagOf (answerFlit 3 5 2 0 0) / 2 ^ 13 = 1 ∧ ((answerFlit 3 5 2 0 0).pay.getD 0 pw0).d = 2 ∧
    ((answerFlit 3 5 0 0 0).pay.getD 0 pw0).d ≠ 2 ∧
    (64 ≤ (({ engine 0 with ctr := { TCtr.zero with tally := 64 }, bel := { Belfry.empty with resv := some sendResv } } : Tile)).ctr.tally) := by decide

/-- A tile with a complete active message of two flits in queue 1, its handler 4 at word 40, and a first word. -/
def called (w : W64) : Tile :=
  { engine w with bel := { Belfry.empty with
      q := [(1, { MsgQ.empty with msgs := [⟨9, true, 4, 2, false, false, [List.replicate 8 pw0, List.replicate 8 pw0], 0⟩] })]
      handlers := [(4, some 40)] } }
theorem test_hyp_ReceiveAndHandlers_recv :
    readyB (oneTile 3 (called 0x61E1000380000000#64)) 3 (.recv 3 .ok 24 1 7) = true ∧ (called 0).bel.syncq = [] ∧
    (((called 0).queue 1).msgs.map fun m => m.complete) = [true] ∧ ((engine 0).queue 1).msgs = [] ∧ (engine 0).bel.ring.has 1 = false := by decide
theorem test_hyp_ReceiveAndHandlers_poll :
    readyB (oneTile 3 (called 0x6200000000000000#64)) 3 (.poll 3 .ok) = true ∧ (called 0).ready.map (·.2.2) = some 40 ∧ (engine 0).ready = none := by decide
theorem test_hyp_ReceiveAndHandlers_hret :
    readyB (oneTile 3 { called 0x6280000000000000#64 with core := { TCore.empty with phase := .issue, hnd := some ⟨17, 1, 1⟩ } }) 3 (.hret 3 .ok) = true := by decide
/-- A tile whose queue 1 refused requests at tally 0, and its overflow ring with a record of one flit for queue 1. -/
def refusing : State :=
  { oneTile 3 { engine 0 with
      ctr := { TCtr.zero with tally := 1024 }
      bel := { Belfry.empty with
        q := [(1, { MsgQ.empty with busyFrom := some 0, placed := 1 })], ring := ⟨0, 128, 1, [⟨0, 2, false, 1, 9, 1, false, 0, 2⟩]⟩ } } with
    sch := { Sch.reset with phase := .running }, regs := { Regs.reset with active := [(0x080110, some 0x200000)] } }
theorem test_hyp_QueuesSpillAndRefill :
    ((refusing.tile 3).queue 1).busyFrom = some 0 ∧ ((refusing.tile 3).queue 1).spilling = false ∧ 0 + 1024 ≤ (refusing.tile 3).ctr.tally ∧
    ((refusing.tile 3).bel.ring.recs.find? fun c => !c.pad && decide (c.q = 1)) = some ⟨0, 2, false, 1, 9, 1, false, 0, 2⟩ ∧
    (refusing.ringBase 3).isSome = true ∧ ((refusing.tile 3).queue 1).used + 1 ≤ 16 ∧ (refusing.tile 3).bel.syncq = [] := by decide
theorem test_hyp_QueuesSpillAndRefill_free (rd : List (Nat × Nat)) : HomesFree refusing rd [] :=
  ⟨fun r _ => by simp [State.snoopNeed, refusing, oneTile, State.reset, Mem.empty], nofun, rfl⟩
theorem test_hyp_Reservations_sync : SyncWaits (oneTile 3 { engine 0 with bel := { Belfry.empty with resv := some sendResv } }) 3 := .inl (by decide)
/-- The first flit of `sendResv`, and the contribution of `caddResv`, as sent by tile 9 and tile 5. -/
def msgFlit : Flit := (messageFlits 9 sendResv [List.replicate 8 pw0, List.replicate 8 pw0]).headD (signalFlit 0 0 0)
def conFlit : Flit := (messageFlits 5 caddResv [List.replicate 8 pw0]).headD (signalFlit 0 0 0)
theorem test_hyp_MessagesArrive :
    subOf msgFlit = 2 ∧ tagOf msgFlit / 4 % 2 = 0 ∧ BitVec.ofNat 2 (tagOf msgFlit / 2 ^ 12) = (1 : BitVec 2) ∧
    (addFlit (srcOf msgFlit) msgFlit.pay ((holding 1).queue 1).msgs).2.any (·.complete) = true ∧
    ((engine 0).availWith (BitVec.ofNat 8 (252 + 1)) 1).toNat < 2 ^ 31 := by decide
/-- A combining slot that expects `n` contributions, and one that holds a result. -/
def combining (n : Nat) : Tile := { engine 0 with bel := { Belfry.empty with slots := [(2, ⟨true, n, 0, 0, [], [], none⟩), (3, ⟨true, 1, 0, 0, [], [], some []⟩)] } }
theorem test_hyp_MessagesArrive_slot :
    subOf conFlit = 2 ∧ tagOf conFlit / 4 % 2 = 1 ∧ BitVec.ofNat 2 (tagOf conFlit / 32) = (2 : BitVec 2) ∧
    ((combining 3).cslot 2).result = none ∧ ((combining 3).cslot 2).cnt + 1 < ((combining 3).cslot 2).n ∧
    ((combining 1).cslot 2).n ≤ ((combining 1).cslot 2).cnt + 1 ∧ ((combining 1).queue 3).used + 1 ≤ 16 ∧
    ((combining 1).cslot 3).result = some [] := by decide

/-! ## Hypotheses that can be met: stream unit -/

/-- A tile with handle 9 on four rows of store A and 128 columns, and a transfer of one line at tier address 0x100 in s6 and s7. -/
def streams (w : W64) : Tile :=
  { engine w with
    core := { TCore.empty with phase := .issue, regs := [(6, 0x100)] }
    htab := [(9, hent 1 1000 3 4 127)] }
theorem test_hyp_StreamInstructions :
    readyB (oneTile 3 (streams 0x48498E0000000000#64)) 3 (.strGet 3 .ok ⟨9, 6, 7, 0, false⟩) = true ∧ readyB (oneTile 3 (streams 0x4A498E0000000000#64)) 3 (.strPut 3 .ok ⟨9, 6, 7, 0, false⟩) = true ∧
    strCheck (streams 0x48498E0000000000#64) 9 0x100 0 false = none := by decide
theorem test_hyp_StreamTransfers_pass :
    (atWord 0x1800000000000000#64).core.phase = .issue ∧ decodeWord 3 .ok 0x1800000000000000#64 = some (.nop 3 .ok) ∧
    badTarget 0 (.nop 3 .ok) = false ∧ (atWord 0x1800000000000000#64).str.la = (atWord 0x1800000000000000#64).core.pc := by decide
theorem test_hyp_StreamTransfers_form :
    (streams 0x48498E0000000000#64).str.ents = [] ∧ decodeWord 3 .ok (aGet 0 (streams 0x48498E0000000000#64).imem (streams 0x48498E0000000000#64).str.la) = some (.strGet 3 .ok ⟨9, 6, 7, 0, false⟩) ∧
    strCheck (streams 0x48498E0000000000#64) 9 (((streams 0x48498E0000000000#64).reg 6).toNat % 2 ^ 48) ((streams 0x48498E0000000000#64).reg 7) false = none ∧
    aGet none (streams 0x48498E0000000000#64).str.tags ((streams 0x48498E0000000000#64).str.nextTag % 64) = none := by decide
/-- The transfer of `streams`, issued, of which `n` requests are formed or rows taken. -/
def transfer (put : Bool) (n : Nat) : StrEnt := ⟨0, 0, put, some 0, 9, hent 1 1000 3 4 127, 0x100, 0, 0, false, n, [], [], false⟩
/-- A VC3 flit for the stream unit: SUB in bits [24:22], the tag in SLOT, the row in bits [8:7]. -/
def toStream (sub tag row : Nat) : Flit :=
  { hdr := FHdr.word { vc := 3, kind := 3, edge := false, dest := 3, last := false, cmb := false, slot := tag, dh := 8 * sub, drow := row, age := 0 }
    pay := List.replicate 8 pw0, row := 0 }
/-- Tile 3 with one transfer, its line 0 under tag 5, and flits at its VC3 port. -/
def streaming (e : StrEnt) (put : Bool) (fls : List Flit) : State :=
  { oneTile 3 { streams 0 with seq := 1, str := { StreamU.empty with ents := [e], tags := [(5, some ⟨0, 0, 0x100, put⟩)] } } with
    net := { Net.empty with ejects := [(15, fls)] } }
def landing : State := streaming (transfer false 1) false ((List.range 4).map fun k => toStream 0 5 k)
theorem test_hyp_StreamTransfers_land :
    (landing.tile 3).str.ents.find? (fun e => decide (e.id = 0)) = some (transfer false 1) ∧ (landing.tile 3).str.tagOfLine 0 0 = some 5 ∧
    (landing.lineWords 3 5).map (·.length) = some 32 ∧ (hdOf (transfer false 1).he).store = 1 ∧
    (landing.tile 3).rowsFree 0 [] ((lineRows (hdOf (transfer false 1).he) 0 false 0).map fun o => rowKey 1 (1000 + o)) = true := by decide
theorem test_hyp_StreamTransfers_take :
    ((streaming (transfer true 0) true []).tile 3).str.ents.find?
      (fun e => e.put && e.seq.isSome && decide (e.formed < (allRows (hdOf e.he) e.desc e.p6).length)) = some (transfer true 0) ∧
    ((streaming (transfer true 3) true []).tile 3).str.ents.find?
      (fun e => e.put && e.seq.isSome && decide (e.formed < (allRows (hdOf e.he) e.desc e.p6).length)) = some (transfer true 3) ∧
    ((streaming (transfer true 0) true []).tile 3).rowsFree 0 [(allRows (hdOf (transfer true 0).he) 0 false).getD 0 0] [] = true ∧
    ((streaming (transfer true 3) true []).tile 3).rowsFree 0 [(allRows (hdOf (transfer true 0).he) 0 false).getD 3 0] [] = true := by decide
theorem test_hyp_StreamTransfers_accept :
    ((streaming (transfer true 4) true [toStream 1 5 0]).eject 3 3).find?
      (fun f => decide ((hdrOf f.hdr).kind = 3) && decide (fld f.hdr 24 22 = 1)) = some (toStream 1 5 0) ∧
    aGet none ((streaming (transfer true 4) true [toStream 1 5 0]).tile 3).str.tags (fld (toStream 1 5 0).hdr 40 25 % 64) = some ⟨0, 0, 0x100, true⟩ := by decide
theorem test_hyp_StreamTransfers_ue : ((oneTile 3 { Tile.empty with ue := [(.a, 8)] }).tile 3).ue = [(.a, 8)] := by decide

/-! ## Hypotheses that can be met: memory and Grotto -/

/-- A request of tile 3 for the line at `a` under tag 5, and the same as its slice reads it. -/
def lineReq (write : Bool) (a : Nat) : Flit := reqFlit 0 false write 0 3 [⟨5, 1, a⟩]
def asked (a : Nat) : LineReq := ⟨a, 0, false, 3, 5, false, false, none⟩
/-- Flits at slice 33 and, in memory, what `m` has. -/
def atSlice (fls : List Flit) (m : Mem) : State :=
  { State.reset with net := { Net.empty with edges := [(sliceKey ⟨false, true, 1⟩ 3, fls)] }, mem := m }
def inSlice (x : Slice) : Mem := { Mem.empty with slices := [(33, x)] }
/-- A slice whose cache holds the line at 0x100000. -/
def cached : Slice := { Slice.empty with sets := [(setOf 0x100000, (CSet.empty.put 0x100000 false true).1)] }
theorem test_hyp_TierReads_request :
    (atSlice [lineReq false 0x100000] Mem.empty).edgeQ (sliceKey ⟨false, true, 1⟩ 3) = [lineReq false 0x100000] ∧
    (atSlice [lineReq false 0x100000] Mem.empty).edgeQ (sliceKey ⟨false, true, 1⟩ 0) = [] ∧
    (atSlice [lineReq false 0x100000] Mem.empty).headSnoops (lineReq false 0x100000) = [] ∧
    (hdrOf (lineReq false 0x100000).hdr).kind = 2 ∧ reqsOf (lineReq false 0x100000) false = (false, [asked 0x100000]) ∧
    ((atSlice [lineReq false 0x100000] (inSlice cached)).slice ⟨false, true, 1⟩).has 0x100000 = true ∧
    ((atSlice [lineReq false 0x100000] Mem.empty).slice ⟨false, true, 1⟩).has 0x100000 = false ∧ NoUe [] 0x100000 :=
  ⟨by decide, by decide, by decide, by decide, by decide, by decide, by decide, nofun⟩
theorem test_hyp_TierReads_response :
    ((atSlice [] (inSlice { Slice.empty with reads := [asked 0x100000] })).slice ⟨false, true, 1⟩).reads = [asked 0x100000] ∧
    (asked 0x100000).lan = false := by decide
/-- A write request and its four data flits. -/
def lineWrite (a : Nat) : List Flit := dataFlits 0 false a 5 (List.replicate 4 (List.replicate 8 ⟨7, false⟩))
def sealing : ObjTab := { ObjTab.empty with objs := [⟨1, 1, 0, 0x200000, 0x1000, .none, true, 0, true⟩] }
theorem test_hyp_LineWrites :
    reqsOf (lineReq true 0x100000) false = (true, [asked 0x100000]) ∧
    (dataAfter (lineReq true 0x100000) (lineWrite 0x100000)).length = 4 ∧
    ((dataAfter (lineReq true 0x100000) (lineWrite 0x100000)).flatMap (·.pay)).length = 32 ∧
    (atSlice (lineReq true 0x100000 :: lineWrite 0x100000) Mem.empty).tierOf 0x100000 = .h ∧
    (atSlice [] Mem.empty).sealedAt 0x100000 = false ∧ (atSlice [] Mem.empty).updAt 0x100000 = .none ∧
    ((atSlice [] Mem.empty).slice ⟨false, true, 1⟩).opOf (blkOf 0x100000) = none ∧
    ((atSlice [] Mem.empty).slice ⟨false, true, 1⟩).reads = [] := by decide
theorem test_hyp_LineWrites_discarded :
    (atSlice [lineReq true 0x30000000000] Mem.empty).tierOf 0x30000000000 = .none ∧
    reqsOf (lineReq true 0x30000000000) false = (true, [asked 0x30000000000]) ∧
    ({ atSlice [] Mem.empty with obj := sealing } : State).sealedAt 0x200000 = true := by decide
/-- A block of tier G under way, with one read that waits. -/
def anBlkOp (down : Bool) : BlkOp := ⟨0x10000000000, down, 0, [asked 0x10000000000], [], .read, [], false⟩
def blkOp (down : Bool) : State := atSlice [] (inSlice { Slice.empty with ops := [anBlkOp down] })
/-- A write-down of a block of tier C, its tag in tier H. -/
def downC (st : OpStage) (b : List Host.Cell) : State :=
  { atSlice [] { inSlice { Slice.empty with ops := [⟨0x40000000000, true, 0, [], [], st, [], false⟩] } with bytes := b } with
    regs := { Regs.reset with active := [(blkBase .trc + 0x100, some 1), (blkBase .trc + 0x108, some (2 ^ 40))] } }
theorem test_hyp_BlockOperations :
    (atSlice [lineReq false 0x10000000000] Mem.empty).tierOf 0x10000000000 = .g ∧
    reqsOf (lineReq false 0x10000000000) false = (false, [asked 0x10000000000]) ∧
    ((atSlice [] Mem.empty).slice ⟨false, true, 1⟩).has 0x10000000000 = false ∧
    (atSlice [] Mem.empty).updAt 0x10000000000 = .none ∧
    ((blkOp false).slice ⟨false, true, 1⟩).readyOp false = some (anBlkOp false) ∧
    ((blkOp true).slice ⟨false, true, 1⟩).readyOp true = some (anBlkOp true) ∧
    ((blkOp false).tagOf 0x10000000000).2 = false := by decide
theorem homesFree_of (s : State) (rd wr : List (Nat × Nat)) (h : s.mem.snoop = []) (hb : s.homeBusy rd wr = false) : HomesFree s rd wr :=
  ⟨fun r _ => by simp [State.snoopNeed, h], fun r _ => by simp [State.snoopNeed, h], hb⟩
/-- Nothing is under way at the homes of a state whose slices are idle. -/
theorem homesFree_idle (s : State) (rd wr : List (Nat × Nat)) (h : s.mem.snoop = []) (hs : s.mem.slices = []) : HomesFree s rd wr :=
  homesFree_of s rd wr h (by simp [State.homeBusy, hs])
/-- Tier H of a state without objects or update groups is plain. -/
theorem plain_low (s : State) (a n : Nat) (ho : s.obj.objs = []) (hg : s.gro.groups = []) (h : a + n ≤ 2 ^ 40) : PlainRange s a n := by
  intro y _ _
  have ht : s.tierOf (y - y % 256) = .h := by simp only [State.tierOf]; rw [if_pos (by omega)]
  exact ⟨by simp [ht], by simp [State.sealedAt, ho], by simp [State.updAt, State.group?, hg]⟩
theorem test_hyp_BlockOperations_tierC :
    ((downC .write []).slice ⟨false, true, 1⟩).readyOp true = some ⟨0x40000000000, true, 0, [], [], .write, [], false⟩ ∧ isC 0x40000000000 = true ∧
    HomesFree (downC .write []) [((downC .write []).tagAddr 0x40000000000, 2)] [((downC .write []).tagAddr 0x40000000000, 2)] ∧
    ((downC .read [(0x40000000000, 7)]).slice ⟨false, true, 1⟩).readyOp true = some ⟨0x40000000000, true, 0, [], [], .read, [], false⟩ :=
  ⟨by decide, by decide, homesFree_of _ _ _ rfl (by decide), by decide⟩
/-- A block that holds a poisoned word is stored RAW (R212), in 74 units in tier C. -/
theorem test_relpa_poison (ws : List PWord) (h : ws.any (·.p) = true) : relpaMode true ws = (1, 74) := by
  simp only [relpaMode, h]; rfl
/-- Scrubbing enabled in TRH; a UIO request in flight; a back-invalidate outstanding. -/
theorem test_hyp_MemoryUpkeep :
    ({ State.reset with regs := { Regs.reset with active := [(0x040100, some 1)] } } : State).act .trh 0x100 % 2 = 1 ∧
    ((atSlice [] (inSlice { Slice.empty with uio := [⟨0x40000000000, 2, true, 1, 0x80, []⟩] })).slice ⟨false, true, 1⟩).uio[0]? = some ⟨0x40000000000, 2, true, 1, 0x80, []⟩ ∧
    (0x4000 : Nat) ∈ (atSlice [] { Mem.empty with snooping := [0x4000] }).mem.snooping ∧ (atSlice [] Mem.empty).tierOf 0x100000 = .h := by decide

/-! ## Hypotheses that can be met: host link, movers, loader, queries -/

/-- A command of context 1 with number `id` whose descriptor has the values `l`, each at its byte. -/
def cmdOf (id : Nat) (l : List (Nat × Nat)) : Cmd :=
  let n := (l.map fun p => p.2 * 2 ^ (8 * p.1)).sum
  ⟨id, 1, (List.range 8).map fun k => BitVec.ofNat 64 (n / 2 ^ (64 * k))⟩
/-- A state with context 1 as `x`, commands in flight, unit queues of context 1, rings of 16 and 64 entries with a quota of 8, and objects. -/
def hosted (x : HCtx) (cmds : List Cmd) (u : HUnit) : State :=
  { State.reset with
    host := { HostIf.reset with ctxs := [(1, x)], cmds := cmds, units := [(8 + u.num, cmds.map (·.id))], loads := cmds.map (·.id) }
    regs := { Regs.reset with active := [(blkBase .hst + ctxBase 1 + 0x10, some 16), (blkBase .hst + ctxBase 1 + 0x20, some 64),
      (blkBase .hst + ctxBase 1 + 0x30, some 8), (blkBase .hst + ctxBase 1 + 0x38, some 0x30002)] }
    pwr := { Pwr.reset with ready := true, linkUp := true, flit256 := true, memact := true } }
def aCtx : HCtx := { HCtx.reset with en := true, live := true, dbRead := true, sqt := 4 }
theorem test_hyp_DoorbellsAndFetch :
    ((hosted aCtx [] .host).ctx 1).fetches = true ∧ aCtx.overrun 16 64 16 0 = false ∧ aCtx.overrun 16 64 17 0 = true ∧
    dbSqt [0x0000000500000011, 0, 0, 0, 0, 0, 0, 0] = 17 ∧ dbCqh [0x0000000500000011, 0, 0, 0, 0, 0, 0, 0] = 5 ∧
    ((List.range 64).map fun k => BitVec.ofNat 6 ((hosted aCtx [] .host).host.turn + k)).find?
      (fun c => decide (0 < (hosted aCtx [] .host).burstLen c)) = some 1 := by decide
theorem test_hyp_DispatchAndFences :
    (hosted { aCtx with ring := [5] } [cmdOf 5 [(0, 0x0C)]] .lantern).cmd? 5 = some (cmdOf 5 [(0, 0x0C)]) ∧
    (cmdOf 5 [(0, 0x0C)]).legal = true ∧ (cmdOf 5 [(0, 0x0D)]).legal = false ∧
    (hosted { aCtx with ring := [5] } [cmdOf 5 [(0, 0x0C)]] .lantern).openFence 1 = none ∧
    (hosted { aCtx with unfinished := [5] } [cmdOf 5 [(0, 8)]] .host).openFence 1 = some (cmdOf 5 [(0, 8)]) ∧
    ∀ j ∈ ((hosted { aCtx with unfinished := [5] } [cmdOf 5 [(0, 8)]] .host).ctx 1).unfinished, 5 ≤ j := by decide
def recording : State := hosted { aCtx with recs := [⟨7, 0, 0x0C, 0, false, some 5, none⟩], first := some 10 } [cmdOf 5 [(0, 0x0C)]] .lantern
theorem test_hyp_CompletionRecords :
    recording.ctxReg 1 0x20 = 64 ∧ ((recording.ctx 1).ct - (recording.ctx 1).cqh).toNat < 64 ∧ recording.evictedWaits 5 = false ∧
    recording.ctxReg 1 0x38 / 65536 = 3 ∧ 10 + 3 ≤ ({ recording with dev := { Dev.reset with time := 13 } } : State).dev.time ∧
    (hosted { aCtx with en := false } [] .host).inFlight 1 = 0 := by decide
theorem test_hyp_HostMemoryAccesses :
    (hosted aCtx [] .host).pwr.linkUp = true ∧ (hosted aCtx [] .host).pwr.memact = true ∧
    (hosted aCtx [] .host).mem.snoop.length < snoopCap ∧ State.reset.pwr.memact = false ∧
    ({ State.reset with host := { HostIf.reset with cfg := ⟨1, [⟨0x10000000, 0x20000000, 0x10000000⟩], []⟩ } } : State).hdmAddr 0x10000040 = some 0x20000040 ∧
    State.reset.hdmAddr 0x10000040 = none ∧ (hosted aCtx [] .host).homeBusy [] [(0x20000040, 64)] = false := by decide
/-- A COPY of one line between device addresses, and one from the host. -/
def aCopy (pol : Nat) : Cmd := cmdOf 5 [(0, 4), (16, pol), (24, 0x1000), (32, 0x2000), (40, 0x100)]
theorem test_hyp_CopyMovesTheWholeSource :
    (hosted aCtx [aCopy 0] .mover).unitHead 1 .mover = some (aCopy 0) ∧ (aCopy 0).opc = 4 ∧ (aCopy 0).legal = true ∧
    (aCopy 1).legal = true ∧ (aCopy 2).legal = true ∧ (aCopy 1).num 40 8 / 8 = 32 ∧
    (hosted aCtx [aCopy 0] .mover).streamOf (.copy 5) = none ∧ (aCopy 8).num 16 1 = 8 ∧ (aCopy 8).num 40 8 = 256 * 1 := by decide
/-- A stream of two lines, of which one is in the staging buffer. -/
def aStream (staged : List (Nat × List PWord)) : MvStream := ⟨.copy 5, 1, 0x1000, 0x2000, 0x200, false, false, 2, false, 256, 0, 16128, staged⟩
def streamed (m : MvStream) : State := { hosted aCtx [aCopy 0] .mover with obj := { ObjTab.empty with streams := [m] } }
theorem test_hyp_CopyMovesTheWholeSource_stream :
    (streamed (aStream [])).obj.streams.find? MvStream.canAsk = some (aStream []) ∧ (aStream []).next = 256 ∧
    HomesFree (streamed (aStream [])) [(0x1100, 256)] [] ∧
    ((streamed (aStream [(0, List.replicate 32 pw0)])).obj.streams.find? fun k => !k.staged.isEmpty) = some (aStream [(0, List.replicate 32 pw0)]) ∧
    HomesFree (streamed (aStream [(0, List.replicate 32 pw0)])) [] [(0x2000, 256)] ∧ (0x2000 + 0) % 256 = 0 :=
  ⟨by decide, by decide, homesFree_of _ _ _ rfl (by decide), by decide, homesFree_of _ _ _ rfl (by decide), by decide⟩
theorem test_hyp_CopyMovesTheWholeSource_whole :
    (hosted aCtx [aCopy 8] .mover).unitHead 1 .mover = some (aCopy 8) ∧ (hosted aCtx [aCopy 8] .mover).obj.streams = [] ∧
    HomesFree (hosted aCtx [aCopy 8] .mover) [(0x1000, 256)] [(0x2000, 256)] ∧ PlainRange (hosted aCtx [aCopy 8] .mover) 0x2000 256 :=
  ⟨by decide, rfl, homesFree_idle _ _ _ rfl rfl, plain_low _ _ _ rfl rfl (by decide)⟩
def aPlace : Cmd := cmdOf 5 [(0, 5), (24, 0x10000)]
def anObj (owner : BitVec 6) : Obj := ⟨0, owner, 0, 0x10000, 0x10000, .g, false, 0, false⟩
def moving (c : Cmd) (o : List Obj) : State := { hosted aCtx [c] .mover with obj := { ObjTab.empty with objs := o } }
theorem test_hyp_ObjectsArePlacedAndMoved_place :
    (moving aPlace []).moverHead 1 5 = some aPlace ∧ aPlace.num 16 1 = 0 ∧
    lowestFit ((moving aPlace []).tierRange 0) (moving aPlace []).obj.objs 0 0x10000 ≠ none := by decide
theorem freeId_of_empty (s : State) (h : s.obj.objs = []) : s.freeId = some 0 := by
  have : List.range 65536 = 0 :: (List.range 65535).map (· + 1) := List.range_succ_eq_map
  simp [State.freeId, State.obj?, h, this]
/-- Tier H filled by an object that may be dropped. -/
def fullPool : State := moving aPlace [⟨3, 2, 0, 0, 2 ^ 40, .drop, false, 0, false⟩]
theorem test_hyp_ObjectsArePlacedAndMoved_plan :
    fullPool.moverHead 1 5 = some aPlace ∧
    (fullPool.makeRoom 5 [] (aPlace.num 16 1) (aPlace.num 24 8)).map (·.moves) = some [⟨3, none⟩] := by decide
theorem test_freeId : fullPool.freeId = some 0 := by
  have h : List.range 65536 = 0 :: (List.range 65535).map (· + 1) := List.range_succ_eq_map
  simp only [State.freeId, h, List.find?_cons]
  rw [show (fullPool.obj? 0).isNone = true by decide]
/-- A PLACE with two moves to make: object 0 to tier G, and a drop. -/
def spilling : State :=
  { moving aPlace [anObj 2, ⟨3, 2, 0, 0, 0x10000, .drop, false, 0, false⟩] with
    obj := ⟨[anObj 2, ⟨3, 2, 0, 0, 0x10000, .drop, false, 0, false⟩],
      some ⟨1, 5, [⟨0, some (1, 2 ^ 40)⟩, ⟨3, none⟩], .place 0 0 0x10000 .none false⟩,
      [⟨.obj 0, 2, 0x10000, 2 ^ 40, 0x10000, false, false, 0, false, 0x10000, 0x10000, 16384, []⟩], [0, 0, 0]⟩ }
theorem test_hyp_ObjectsArePlacedAndMoved_spill :
    (spilling.obj.job.map fun j => j.moves.map (·.obj)) = some [0, 3] ∧ spilling.obj? 0 = some (anObj 2) ∧
    spilling.moved 0 = true := by decide
/-- An EVICT whose object has one line left to write. -/
def lastLine : MvStream := ⟨.obj 0, 1, 0x10000, 2 ^ 40, 0x10000, false, false, 0, false, 0x10000, 0xFF00, 16128, [(0xFF00, List.replicate 32 pw0)]⟩
def evicting : State :=
  { hosted aCtx [cmdOf 5 [(0, 6), (18, 1)]] .mover with obj := ⟨[anObj 1], some ⟨1, 5, [], .evict 0 1 (2 ^ 40)⟩, [lastLine], [0, 0, 0]⟩ }
theorem test_hyp_ObjectsArePlacedAndMoved_evicted :
    (evicting.obj.streams.find? fun k => !k.staged.isEmpty) = some lastLine ∧ evicting.obj? 0 = some (anObj 1) ∧
    (evicting.cmd? 5).isSome = true ∧ lastLine.done + 256 = lastLine.len ∧ HomesFree evicting [] [(2 ^ 40 + 0xFF00, 256)] :=
  ⟨by decide, by decide, by decide, by decide, homesFree_of _ _ _ rfl (by decide)⟩
def anEvict (t : Nat) : Cmd := cmdOf 5 [(0, 6), (18, t)]
theorem test_hyp_ObjectsArePlacedAndMoved_evict :
    (moving (anEvict 3) [anObj 1]).moverHead 1 6 = some (anEvict 3) ∧ (moving (anEvict 3) [anObj 1]).obj? ((anEvict 3).num 16 2) = some (anObj 1) ∧
    (moving (anEvict 3) [anObj 1]).bound (anObj 1) 5 = false ∧ (anEvict 3).num 18 1 = 3 ∧
    (moving (anEvict 1) [anObj 1]).moverHead 1 6 = some (anEvict 1) ∧ (anObj 1).tier ≠ (anEvict 1).num 18 1 ∧
    ((moving (anEvict 1) [anObj 1]).makeRoom 5 [0] 1 0x10000).map (fun p => (p.base, p.moves)) = some (2 ^ 40, []) ∧
    (moving (anEvict 1) [{ anObj 1 with sealed := true }]).bound { anObj 1 with sealed := true } 5 = true := by decide
/-- A LOAD_IMAGE of an image of 0x1000 bytes from the host into object 0. -/
def aLoad : Cmd := cmdOf 5 [(0, 1), (16, 1), (24, 0x8000), (32, 0x1000), (40, 0x10000), (48, 0x10000)]
def loading (o : List Obj) : State := { hosted aCtx [aLoad] .loader with obj := { ObjTab.empty with objs := o } }
theorem test_hyp_ImagesAreLoaded :
    (loading []).loadHead 1 = some aLoad ∧ (loading []).loadObj aLoad = none ∧ (loading [anObj 1]).loadObj aLoad = some (anObj 1) ∧
    (aLoad.num 32 8 + 7) / 8 = 512 ∧ (loading [anObj 1]).session 1 = none ∧
    (loading [anObj 1]).trn.run = none := by decide
theorem test_hyp_ImagesAreLoaded_free : HomesFree (loading [anObj 1]) [(0x1F000, 4096)] [(0x10000, 4096)] := homesFree_idle _ _ _ rfl rfl
/-- KEP without a geometry: the first check of an image fails. -/
theorem test_hyp_ImagesAreLoaded_check : (loading [anObj 1]).checkImage 1 0x10000 0x10000 [] = .inl 0x47 := rfl
def aQuery (what : Nat) : Cmd := cmdOf 5 [(0, 9), (16, what), (24, 0x8000), (32, 4096)]
def asking (k : Nat) : State :=
  { hosted aCtx [aQuery k] .host with host := { (hosted aCtx [aQuery k] .host).host with acts := [⟨5, none, false⟩] }, obj := { ObjTab.empty with objs := [anObj 1] } }
theorem test_hyp_QueriesAnswer : ∀ k ∈ [0, 1, 2, 3, 4, 5], (asking k).queryCmd 1 k = some (aQuery k) := by decide
theorem test_hyp_QueriesAnswer_object :
    (asking 3).obj? ((aQuery 3).num 18 2) = some (anObj 1) ∧ (anObj 1).owner = 1 ∧ 64 ≤ (aQuery 3).num 32 4 ∧
    ((({ asking 3 with obj := { ObjTab.empty with objs := [anObj 2] } } : State).obj? ((aQuery 3).num 18 2)).map fun o => decide (o.owner ≠ 1)) = some true := by decide
theorem test_hyp_HostFailures :
    ((hosted aCtx [aCopy 1] .mover).ctx 1).live = true ∧ ((hosted aCtx [aCopy 1] .mover).ctx 1).stopped = false ∧
    (hosted aCtx [aCopy 1] .mover).recAt 1 0x10F8 = false ∧ (hosted aCtx [aCopy 1] .mover).xlateCmd 1 0x10F8 = some (aCopy 1) ∧
    (hosted aCtx [aCopy 1] .mover).xlateCmd 1 0x1100 = none ∧ (hosted aCtx [aCopy 1] .mover).pwr.linkUp = true ∧
    (hosted aCtx [aCopy 1] .mover).dev.cdreset = false := by decide

/-! ## Hypotheses that can be met: training -/

theorem all_tile (s : State) (x : Tile) (h : s.tiles = tilesOf x) (t : TileId) : s.tile t = x := by
  rw [State.tile, h]; exact allTiles_tile x t
theorem all_gathered (s : State) (x : Tile) (sc : Scope) (die : Bool) (h : s.tiles = tilesOf x) (hp : x.core.phase = .arrived)
    (hs : (x.ssHdr.any fun k => decide (k.scope = sc)) = true) : s.gathered sc die = true := by
  simp only [State.gathered, List.all_eq_true, State.atBarrier, all_tile s x h]
  intro t _; simp [hp, hs]
theorem all_parked (s : State) (x : Tile) (h : s.tiles = tilesOf x) (hp : x.core.phase = .parked) : s.allParked = true := by
  simp only [State.allParked, List.all_eq_true, all_tile s x h]
  intro t _; simp [hp]
/-- A tile at a closing MODULE barrier, and one that waits for a service. -/
def closing : Tile := { Tile.empty with core := { TCore.empty with phase := .arrived }, imem := [(0, 0x5000000000000000#64)] }
def parked : Tile := { Tile.empty with core := { TCore.empty with phase := .parked } }
/-- A RUN_STEPS of two steps whose TCB lies at 0x10000, and the run it begins. -/
def aRun : Cmd := cmdOf 5 [(0, 2), (16, 0x10000), (24, 2)]
def runsWith (r : Option TRun) : State :=
  { hosted aCtx [aRun] .trainer with
    trn := { Trn.reset with run := r }, sch := { Sch.reset with phase := .running, client := 1 }
    imgs := [(1, some ⟨[], 0, 0x100000, 0, 0, 1, none, none, [], false, .module⟩)] }
def aFeed : Feed := FeedD.open ⟨0x20000, 1, 0x30000, 1, 4, 0x40000, 2, false⟩ 0 0
def runIn (p : RunPhase) : TRun := { (runsWith none).newRun aRun with phase := p, tfeed := some aFeed, mb := 1, left := 1, sline := 0x50000 }
theorem test_hyp_TrainingRuns_begin :
    (runsWith none).unitHead 1 .trainer = some aRun ∧ aRun.opc = 2 ∧ (runsWith none).busy .trg = false ∧ aRun.num 16 6 % 256 = 0 ∧
    (runsWith none).runBad aRun = true ∧ (runsWith none).dev.cdreset = false := by decide
/-- A TCB that R260 accepts: MB 1 and nothing else, for an image with a step body. -/
def goodRun : State :=
  { runsWith none with
    mem := { Mem.empty with bytes := [(0x10003, 1)] }
    imgs := [(1, some ⟨[], 0, 0x100000, 0, 0, 1, some (0, 1), none, [], false, .module⟩)] }
theorem test_hyp_TrainingRuns_accepted : goodRun.runBad aRun = false := by decide
theorem test_hyp_TrainingRuns_free :
    HomesFree (runsWith none) [(0x10000, 256)] [] ∧ HomesFree goodRun [] [(0x10080, 128)] ∧ PlainRange goodRun 0x10000 256 :=
  ⟨homesFree_idle _ _ _ rfl rfl, homesFree_idle _ _ _ rfl rfl, plain_low _ _ _ rfl rfl (by decide)⟩
theorem test_hyp_TrainingRuns_feed :
    aFeed.canAsk = true ∧ aFeed.start = some (0, false) ∧ ({ aFeed with asked := 256 } : Feed).d.size ≤ ({ aFeed with asked := 256 } : Feed).asked ∧
    aFeed.d.ring % 256 = 0 ∧ (runIn .start).starved = false ∧ ({ runIn .wait with tfeed := some { aFeed with pos := 4 } } : TRun).starved = true := by decide
theorem test_hyp_TrainingRuns_fill :
    HomesFree (runsWith (some (runIn .start))) [(0x30000, 4), (0x20000, 256)] [(0x40000, 256)] ∧
    PlainRange (runsWith (some (runIn .start))) 0x40000 256 :=
  ⟨homesFree_idle _ _ _ rfl rfl, plain_low _ _ _ rfl rfl (by decide)⟩
def fedRun : TRun := { runIn .start with tfeed := some { aFeed with pos := 1, seq := 1, full := [⟨0, 0, 1, false⟩] } }
def waitingRun : State := { runsWith (some fedRun) with tiles := tilesOf parked }
theorem test_hyp_TrainingRuns_start :
    (waitingRun.image fedRun.ctx).isSome = true ∧ waitingRun.running fedRun.ctx = true ∧ fedRun.fed = true ∧ fedRun.starved = false ∧
    waitingRun.session fedRun.ctx = none ∧ waitingRun.dev.cdreset = false := by decide
/-- The first step of a run with no feed entry yet, its line not written. -/
theorem test_hyp_TrainingRuns_line :
    (runIn .start).fed = false ∧ (runIn .start).lined = false ∧ (runIn .start).sline % 256 = 0 ∧
    HomesFree waitingRun [] [(0x50000, 256)] ∧ PlainRange waitingRun 0x50000 256 :=
  ⟨by decide, rfl, by decide, homesFree_idle _ _ _ rfl rfl, plain_low _ _ _ rfl rfl (by decide)⟩
theorem test_hyp_TrainingRuns_rest : waitingRun.atRest = some none := by
  rw [State.atRest, all_parked waitingRun parked rfl rfl]; rfl
/-- One group of one block, a step in progress and every tile at its closing barrier. -/
def aGroup : Group :=
  ⟨0, 2 ^ 40, 0, false, 1, 0, 4, 0, 0, 0, 0, 0, 0, 0, 0, 0, 0, 0, 0, 0, false, false, false, 0, [], Inlet.clear, []⟩
def stepAt (g : Gro) (r : TRun) : State := { runsWith (some r) with tiles := tilesOf closing, gro := g }
def openGro : Gro := { Gro.reset with groups := [aGroup], opn := some 0, reported := 0xFFFF }
theorem atClose_stepAt (g : Gro) (p : RunPhase) : (stepAt g (runIn p)).atClose (runIn p) = true := by
  have h1 := all_gathered (stepAt g (runIn p)) closing .module false rfl rfl (by decide)
  have h2 : (stepAt g (runIn p)).tile 0 = closing := all_tile _ closing rfl 0
  have h3 : (runIn p).scope = .module := rfl
  simp only [State.atClose, h3, h1, h2]
  rfl
theorem releasable_stepAt (g : Gro) (p : RunPhase) : (stepAt g (runIn p)).releasable (runIn p).scope false = true := by
  have h1 := all_gathered (stepAt g (runIn p)) closing .module false rfl rfl (by decide)
  have h3 : (runIn p).scope = .module := rfl
  simp only [State.releasable, h3, h1]
  rfl
theorem test_hyp_TrainingSteps_report :
    (stepAt { openGro with reported := 0 } (runIn .step)).stepping = some (runIn .step) ∧
    (stepAt { openGro with reported := 0 } (runIn .step)).gro.reported.getLsbD 7 = false ∧
    (stepAt { openGro with reported := 0 } (runIn .step)).packetsAt 7 = [] := by decide
theorem test_hyp_TrainingSteps_verdict :
    (stepAt openGro (runIn .step)).stepping = some (runIn .step) ∧ openGro.judged = false ∧ openGro.opn = some 0 ∧
    (stepAt openGro (runIn .step)).trn.tstep = 0 ∧ openGro.reported = 0xFFFF ∧ (runIn .step).chain = false := by decide
theorem test_hyp_TrainingSteps_end :
    (stepAt { openGro with judged := true } (runIn .step)).appliesDone 0 = true ∧
    (stepAt { openGro with judged := true } (runIn .step)).readsDone (runIn .step) 0 = true ∧ (runIn .step).halt = false ∧
    (runIn .step).left = 1 ∧ (runIn .step).ckCmds = [] := by decide
theorem test_hyp_TrainingSteps_free (wr : List (Nat × Nat)) : HomesFree (stepAt { openGro with judged := true } (runIn .step)) [] wr :=
  homesFree_idle _ _ _ rfl rfl
/-- The step 0 of a group, judged finite and not yet applied; the block is the next to be applied. -/
def aRec (fin : Bool) : StepRec := ⟨0, fin, 1, 0, 0, 0, [], false, 0, 0, false, 0, 0⟩
def applying (fin : Bool) : State := { State.reset with gro := { Gro.reset with groups := [{ aGroup with recs := [aRec fin] }] } }
theorem test_hyp_BlocksAreApplied : ∀ fin ∈ [true, false],
    (applying fin).group? 0 = some { aGroup with recs := [aRec fin] } ∧ ({ aGroup with recs := [aRec fin] } : Group).nblk = 1 ∧
    ((applying fin).slice (homeOf (2 ^ 40))).opOf (2 ^ 40) = none ∧ ({ aGroup with recs := [aRec fin] } : Group).nextRec 0 = some (aRec fin) ∧
    (applying fin).readHolds { aGroup with recs := [aRec fin] } 0 0 = false ∧ ({ aGroup with recs := [aRec fin] } : Group).copyRanges 0 1 = [] := by decide
/-- A packet for slot 0 of the group at Grotto stack 0 of die 0. -/
def aPacket : UpdPkt := ⟨2 ^ 40, List.replicate 32 pw0, allWords⟩
def packeted (a : Nat) : State :=
  { State.reset with gro := { Gro.reset with groups := [aGroup], opn := some 0, packets := [(0, [{ aPacket with addr := a }])] } }
theorem test_hyp_UpdatePackets :
    (packeted (2 ^ 40)).packetsAt 0 = [aPacket] ∧ (packeted (2 ^ 40)).updAt (2 ^ 40) = .slot 0 0 0 ∧ (packeted 0).group? 0 = some aGroup ∧
    (packeted (2 ^ 40)).slotOpen aGroup 0 0 = true ∧ (packeted (2 ^ 40)).slotOpen aGroup 1 0 = false ∧ (packeted 0).updAt 0 = .health 0 ∧
    (∀ w ∈ aPacket.words, w.p = false) ∧ aPacket.words.length = 32 ∧ (packeted 0).act .trg 0x110 % 256 = 0 ∧
    (packeted 0).act .trg 0x110 + 2 ^ 20 ≤ 4 * 2 ^ 40 := by decide
/-- A checkpoint of one block under way, and a fingerprint. -/
def aCkpt : Ckpt := ⟨0, 0, 1, 0x1000, [(0, 0)], 0, 0, 0, 0, 0, [], [5], false⟩
def checking : State :=
  { stepAt openGro { runIn .wait with ckn := 1, fp := some ⟨0, [(0, 0)], 0⟩ } with
    trn := { Trn.reset with run := some { runIn .wait with ckn := 1, fp := some ⟨0, [(0, 0)], 0⟩ }, ckpt := some aCkpt }
    host := { (hosted aCtx [cmdOf 6 [(0, 7)]] .trainer).host with nextId := 7, acts := [⟨6, some (runIn .wait).cmd, false⟩] } }
theorem test_hyp_Checkpoints :
    ((checking.host.acts.filterMap fun a => (checking.cmd? a.cmd).map fun c => (a, c)).find? fun p => decide (p.2.opc = 7) && decide (p.2.ctx = 1)) =
      some (⟨6, some (runIn .wait).cmd, false⟩, cmdOf 6 [(0, 7)]) ∧ checking.trn.run.map (·.cmd) = some (runIn .wait).cmd ∧
    ((State.reset.link 0).filter isAccept).length = 0 ∧ ({ aCkpt with todo := [] } : Ckpt).unacked = 0 ∧
    (({ runIn .wait with fp := some ⟨0, [], 5⟩ } : TRun).fp.map (·.todo)) = some [] ∧
    checking.group? 0 = some aGroup ∧ (0, 0) ∈ aCkpt.todo ∧ ({ aCkpt with todo := [], unacked := 0 } : Ckpt).todo = [] := by decide
theorem test_hyp_Recopies :
    ({ runIn .held with recopyDue := true } : TRun).phase = .held ∧ checking.gro.groups = [aGroup] ∧ checking.allBlocks = [(0, 0)] ∧ aGroup.efmt = 0 ∧ aGroup.base % 4096 = 0 := by decide

/-! ## Hypotheses that can be met: serving and sharing -/

/-- A SERVE_STEP of context 1 with an action and other bytes, its SCB at 0x10000. -/
def aServe (a : Nat) (l : List (Nat × Nat)) : Cmd := cmdOf 5 ((0, 3) :: (16, a) :: (24, 0x10000) :: l)
/-- An SCB with BMAX, TOPK, TOKBUD, NSEQ, NPG, PGTOK and VOCAB 1 and OSTRIDE 256. -/
def scb : Mem :=
  { Mem.empty with bytes := [(0x10002, 1), (0x10004, 1), (0x10008, 1), (0x10016, 1), (0x10024, 1), (0x10028, 1), (0x10049, 1), (0x1004C, 1)] }
def aSess : Sess := { scb.newSess 0x10000 with ptstride := 256 }
def serving (c : Cmd) (u : Option Sess) : State :=
  { hosted aCtx [c] .serving with
    mem := scb, sess := (u.map fun x => (1, some x)).toList
    imgs := [(1, some ⟨[], 0, 0x100000, 0, 0, 1, none, some (0, 1), [], false, .module⟩)]
    sch := { Sch.reset with phase := .running, client := 1 } }
def withSch (s : State) : State := { s with regs := { s.regs with cmt := [(blkNum .sch, { Cmt.reset with agen := 1, state := .done })] } }
theorem test_hyp_ServingCommands_open :
    (serving (aServe 0 []) none).serveCmd 1 0 = some (aServe 0 []) ∧ (aGet Cmt.reset (serving (aServe 0 []) none).regs.cmt (blkNum .sch)).agen = 0 ∧
    (withSch (serving (aServe 0 []) none)).serveBad (aServe 0 []) = false ∧
    ({ withSch (serving (aServe 0 []) none) with mem := Mem.empty } : State).serveBad (aServe 0 []) = true := by decide
theorem test_hyp_ServingCommands_actions : ∀ a ∈ [1, 2, 3, 4],
    (serving (aServe a []) none).serveCmd 1 a = some (aServe a []) ∧ (serving (aServe a []) none).session 1 = none ∧
    (serving (aServe a []) (some aSess)).session 1 = some aSess := by decide
/-- A JOIN of 1 position with a prompt of 0, of 2 with a prompt of 1 in a pool of one page, and of 1 page. -/
theorem test_hyp_ServingCommands_join :
    decide (aSess.nseq ≤ (aServe 2 [(32, 1)]).slot ∨ aSess.ptstride < 4 * aSess.pagesFor 1 ∨ 1 ≤ 0 ∨ (aServe 2 [(32, 1)]).num 36 4 = 0) = true ∧
    aSess.npg < aSess.pagesFor 2 ∧ ({ aSess with npg := 2 } : Sess).pagesFor 2 ≤ 2 ∧
    (({ aSess with seqs := [(0, { SeqEnt.free with st := .active })] } : Sess).seq 0).st = .active ∧ (aSess.seq 0).st = .free ∧
    (({ aSess with seqs := [(0, { SeqEnt.free with st := .leaving })] } : Sess).seq 0).st = .leaving := by decide
/-- Nothing of the host or of a slice stands in the way of the session's tables. -/
theorem test_hyp_ServingCommands_free (a : Nat) (u : Option Sess) (rd wr : List (Nat × Nat)) : HomesFree (serving (aServe a []) u) rd wr :=
  homesFree_idle _ _ _ rfl rfl
def anEnt (tok : Bool) : SeqEnt := { SeqEnt.free with st := .active, tokv := tok, maxtok := 2, pos := 1 }
theorem test_hyp_ServingCommands_cont :
    (aServe 3 []).slot < aSess.nseq ∧ (anEnt false).st = .active ∧ (anEnt false).tokv = false ∧ (anEnt false).pos ≠ (anEnt false).maxtok ∧
    ({ anEnt false with pos := 2 } : SeqEnt).pos = (anEnt false).maxtok := by decide
/-- A session with one sequence that has a token, and every tile waiting. -/
def decoding : Sess := { aSess with seqs := [(0, anEnt true)], readyFrom := some 0 }
def readyToServe : State := { serving (aServe 0 []) (some decoding) with tiles := tilesOf parked }
theorem readyToServe_rest : readyToServe.atRest = some none := by rw [State.atRest, all_parked readyToServe parked rfl rfl]; rfl
theorem test_hyp_ServingLoop_admission :
    readyToServe.liveSession = some (1, decoding) ∧ readyToServe.mayAdmit 1 decoding = true ∧
    (Sess.admitAll readyToServe.dev.time decoding.waiting decoding).select ≠ [] ∧ decoding.readyFrom = some 0 := by
  refine ⟨by decide, ?_, by decide, by decide⟩
  have h : readyToServe.pointTaken 1 = false := by
    rw [State.pointTaken, State.wantSwitch, State.atChainClose, all_tile readyToServe parked rfl]; decide
  rw [State.mayAdmit, readyToServe_rest, h]; decide
def batching : Sess := { aSess with batch := some [⟨0, 0, 0, 1, 0, 0⟩], seqs := [(0, anEnt true)] }
def batchDone : State := { serving (aServe 0 []) (some batching) with tiles := tilesOf closing }
theorem test_hyp_ServingLoop_end :
    batchDone.liveSession = some (1, batching) ∧ batching.batch.isSome = true ∧ (closing.ssHdr.map (·.close)) = some true ∧
    batching.closing = none ∧ batchDone.sch.request = none ∧ batchDone.unitQ 1 .sched = [] := by decide
theorem test_hyp_ServingLoop_release : (batchDone.tile 0).ssHdr = closing.ssHdr ∧ batchDone.releasable .module false = true := by
  refine ⟨by rw [all_tile batchDone closing rfl], ?_⟩
  simp only [State.releasable, all_gathered batchDone closing .module false rfl rfl (by decide)]
  rfl
theorem test_hyp_ServingLoop_free :
    (∀ wr, HomesFree readyToServe [] wr) ∧ (∀ wr, HomesFree batchDone [] wr) ∧ batchDone.wantSwitch = false ∧ batching.ostride % 256 = 0 ∧
    PlainRange readyToServe decoding.btab 96 ∧ PlainRange batchDone batching.outbase 64 := by
  refine ⟨fun _ => homesFree_idle _ _ _ rfl rfl, fun _ => homesFree_idle _ _ _ rfl rfl, ?_, by decide, plain_low _ _ _ rfl rfl (by decide),
    plain_low _ _ _ rfl rfl (by decide)⟩
  rw [State.wantSwitch, State.atChainClose, all_tile batchDone closing rfl]; decide

/-- Clients 1 and 2 with save areas and images, both with a waiting join, and a pre-emption requested or not. -/
def sharedBy (p : SchPhase) (r : Option Nat) : State :=
  { serving (aServe 0 []) none with
    tiles := tilesOf parked
    sess := [(1, some { aSess with waiting := [⟨0, 0, 1, 1, 0, 0⟩] }), (2, some { aSess with waiting := [⟨0, 0, 1, 1, 0, 0⟩] })]
    imgs := [1, 2].map fun c => (c, some ⟨[], 0, 0x100000, 0, 0, 1, none, some (0, 1), [], false, .module⟩)
    sch := { Sch.reset with phase := p, client := 1, slice := 0, request := r }
    regs := { Regs.reset with active := [(blkBase .sch + 0x240, some 0x1000000), (blkBase .sch + 0x280, some 0x2000000)] } }
def shared (p : SchPhase) : State := sharedBy p (some 0)
theorem shared_rest (p : SchPhase) : (shared p).atRest = some none := by rw [State.atRest, all_parked (shared p) parked rfl rfl]; rfl
set_option maxRecDepth 8000 in
theorem test_hyp_TheModuleIsShared_slice :
    (sharedBy .running none).sch.request = none ∧ 0 + (sharedBy .running none).sch.slice ≤ (sharedBy .running none).dev.time ∧
    (sharedBy .running none).otherRunnable = true ∧ (shared .running).otherRunnable = true ∧
    (shared .saving).image (BitVec.ofNat 6 (shared .saving).sch.client) ≠ none ∧
    (shared .restoring).wakeClients.nextClient = some 1 ∧ ((shared .restoring).client 1).saved = false := by decide
theorem shared_close (p : SchPhase) : (shared p).atChainClose = false := by rw [State.atChainClose, all_tile (shared p) parked rfl]; rfl
theorem test_hyp_TheModuleIsShared_point : (shared .running).atPoint = true ∧ (shared .running).wantSwitch = true := by
  rw [State.atPoint, shared_rest, State.wantSwitch, shared_close]; exact ⟨rfl, rfl⟩
/-- A client alone that is at a point with a request, and one whose batch step is under way: not at a point. -/
def alone (x : Sess) : State := { shared .running with sess := [(1, some x)], imgs := [] }
theorem test_hyp_TheModuleIsShared_dropped :
    (alone aSess).atChainClose = false ∧ (alone aSess).otherRunnable = false ∧ (alone aSess).sch.request.isSome = true ∧ (alone aSess).atPoint = true := by
  refine ⟨shared_close .running, by decide, rfl, ?_⟩
  have h : (alone aSess).atRest = some none := by rw [State.atRest, all_parked (alone aSess) parked rfl rfl]; rfl
  rw [State.atPoint, h]; rfl
theorem test_hyp_TheModuleIsShared_short : (alone batching).atPoint = false ∧ (alone batching).sch.lateRaised = false := by
  refine ⟨?_, rfl⟩
  rw [State.atPoint, show (alone batching).atRest = some none by rw [State.atRest, all_parked (alone batching) parked rfl rfl]; rfl]; rfl
theorem tiles_quiet (n a : Nat) : (((List.range' a n).map fun k => (k, parked)).all fun kx : Nat × Tile =>
    (kx.2.bel.ring.recs.all fun r => r.pad || decide (r.got = r.units)) && kx.2.bel.syncq.isEmpty && kx.2.bel.q.all fun q => q.2.msgs.all QMsg.complete) = true := by
  induction n generalizing a with
  | zero => rfl
  | succ n ih => simp only [List.range'_succ, List.map_cons, List.all_cons, ih]; rfl
theorem test_hyp_TheModuleIsShared_drained : (shared .running).drained = true := by
  have h : (shared .running).tiles = tilesOf parked := rfl
  simp only [State.drained, h]
  unfold tilesOf
  rw [List.range_eq_range', tiles_quiet]
  decide
theorem test_hyp_TheModuleIsShared_late :
    ({ shared .running with dev := { Dev.reset with time := 50000000 } } : State).sch.bound ≠ 0 ∧
    0 + (shared .running).sch.bound ≤ ({ shared .running with dev := { Dev.reset with time := 50000000 } } : State).dev.time := by decide
def aSave (o : Nat) : Cmd := cmdOf 5 [(0, o), (24, 0x30000), (32, 0x10000)]
theorem test_hyp_TheModuleIsShared_context :
    (hosted aCtx [aSave 0x0A] .sched).unitHead 1 .sched = some (aSave 0x0A) ∧ (aSave 0x0A).opc = 0x0A ∧
    (hosted aCtx [aSave 0x0B] .sched).unitHead 1 .sched = some (aSave 0x0B) ∧ (aSave 0x0B).opc = 0x0B ∧ (aSave 0x0A).num 24 6 % 256 = 0 := by decide
/-- The header a service reads from tier H is the memory's. -/
theorem svcHeader (s : State) (n : Nat) (h : n ≤ 0x1000) : s.svcBytesAt 0x30000 (8 * n) = s.mem.rdBytes 0x30000 (8 * n) :=
  s.svcBytesAt_inH _ _ (by omega)
/-- Memory without a context where the command names one: CTX_BAD. -/
theorem test_hyp_TheModuleIsShared_refused : (hosted aCtx [aSave 0x0B] .sched).ctxRefused 1 0x30000 0x10000 = some 0x50 := by
  have h : decide (((hosted aCtx [aSave 0x0B] .sched).svcBytesAt 0x30000 256).take 8 ≠ magic9 ++ [0x43]) = true := by
    rw [svcHeader _ 32 (by omega)]; decide
  simp only [State.ctxRefused, h, Bool.true_or, if_true]
theorem rdBytes_congr (m m' : Mem) (a n : Nat) (h : ∀ b, a ≤ b → b < a + n → m.byte b = m'.byte b) : m.rdBytes a n = m'.rdBytes a n := by
  unfold Mem.rdBytes
  induction n generalizing a with
  | zero => rfl
  | succ n ih =>
    simp only [aGetMany]
    rw [show aGet 0 m.bytes a = aGet 0 m'.bytes a from h a (Nat.le_refl a) (by omega), ih (a + 1) fun b hb hb' => h b (by omega) (by omega)]
/-- The header of a context without bindings for chain address 0 and a digest of zeros, and the same with its CRC. -/
def ctxPlain : Mem :=
  { Mem.empty with bytes := ((magic9 ++ [0x43] ++ toBytes 8 1 ++ geomBytes 0 0).mapIdx fun k b => (0x30000 + k, b)).filter fun kv => decide (kv.2 ≠ 0) }
@[irreducible] def ctxCrc : W32 := crc32 (ctxPlain.rdBytes 0x30000 176 ++ ctxPlain.rdBytes 0x30100 32768)
def ctxMem : Mem := ctxPlain.setBytes 0x300B0 (toBytes 4 ctxCrc.toNat)
theorem ctxMem_low (a n : Nat) (h : a + n ≤ 0x300B0 ∨ 0x300B4 ≤ a) : ctxMem.rdBytes a n = ctxPlain.rdBytes a n := by
  refine rdBytes_congr _ _ _ _ fun b h1 h2 => ?_
  rw [ctxMem, Mem.byte_setBytes, toBytes_length, if_neg (by omega)]
theorem ctxMem_num (a n : Nat) (h : a + n ≤ 0x300B0 ∨ 0x300B4 ≤ a) : ctxMem.num a n = ctxPlain.num a n := by
  rw [Mem.num, ctxMem_low a n h]; rfl
theorem ofBytes_toBytes4 (v : Nat) (h : v < 2 ^ 32) : ofBytes (toBytes 4 v) = v := by
  simp [toBytes, ofBytes]; omega
theorem ctxMem_crc : ctxMem.num 0x300B0 4 = ctxCrc.toNat := by
  rw [← ofBytes_toBytes4 _ ctxCrc.isLt, Mem.num]
  congr 1
  generalize h : toBytes 4 ctxCrc.toNat = bs
  have hl : bs.length = 4 := by rw [← h, toBytes_length]
  have hb (k : Nat) (hk : k < 4) : aGet 0 ctxMem.bytes (0x300B0 + k) = bs.getD k 0 := by
    have := Mem.byte_setBytes ctxPlain 0x300B0 (0x300B0 + k) bs
    rw [if_pos (by omega), Nat.add_sub_cancel_left] at this
    rw [← this, ← h]; rfl
  match bs, hl, hb with
  | [b0, b1, b2, b3], _, hb =>
    simp only [Mem.rdBytes, aGetMany]
    rw [show aGet 0 ctxMem.bytes 0x300B0 = b0 from hb 0 (by omega), show aGet 0 ctxMem.bytes (0x300B0 + 1) = b1 from hb 1 (by omega),
      show aGet 0 ctxMem.bytes (0x300B0 + 1 + 1) = b2 from hb 2 (by omega), show aGet 0 ctxMem.bytes (0x300B0 + 1 + 1 + 1) = b3 from hb 3 (by omega)]
/-- Nothing stands in the way of saving a context, or of reading one. -/
theorem test_hyp_TheModuleIsShared_free :
    (∀ wr, HomesFree (shared .saving) [] wr) ∧ PlainRange (shared .saving) 0x1000000 0x1000000 ∧
    (∀ rd wr, HomesFree (hosted aCtx [aSave 0x0B] .sched) rd wr) ∧ PlainRange (hosted aCtx [aSave 0x0B] .sched) 0x2000000 0x1000000 :=
  ⟨fun _ => homesFree_idle _ _ _ rfl rfl, plain_low _ _ _ rfl rfl (by decide), fun _ _ => homesFree_idle _ _ _ rfl rfl,
    plain_low _ _ _ rfl rfl (by decide)⟩
def restoring : State :=
  { hosted aCtx [aSave 0x0B] .sched with
    mem := ctxMem
    imgs := [(1, some ⟨List.replicate 64 0, 0, 0x100000, 0, 0, 1, none, some (0, 1), [], false, .module⟩)] }
theorem ctxPlain_zero (b : Nat) (h : 0x30098 ≤ b) : ctxPlain.byte b = 0 := by
  have hk : ∀ kv ∈ ctxPlain.bytes, kv.1 < 0x30098 := by decide
  revert hk
  unfold Mem.byte
  generalize ctxPlain.bytes = l
  intro hk
  induction l with
  | nil => rfl
  | cons kv l ih =>
    have h0 := hk kv (by simp)
    rw [aGet, if_neg (by omega)]
    exact ih fun x hx => hk x (by simp [hx])
theorem zero_num (m : Mem) (a n : Nat) (h : ∀ b, a ≤ b → b < a + n → m.byte b = 0) : m.num a n = 0 := by
  unfold Mem.num Mem.rdBytes
  induction n generalizing a with
  | zero => rfl
  | succ n ih =>
    have h0 : aGet 0 m.bytes a = 0 := h a (Nat.le_refl a) (by omega)
    simp only [aGetMany, ofBytes, h0, ih (a + 1) fun b hb hb' => h b (by omega) (by omega)]; rfl
theorem ctxMem_zero (a n : Nat) (h : 0x30098 ≤ a) (h' : a + n ≤ 0x300B0 ∨ 0x300B4 ≤ a) : ctxMem.num a n = 0 := by
  rw [ctxMem_num a n h', zero_num _ _ _ fun b hb _ => ctxPlain_zero b (by omega)]
/-- A number of the header that a service reads. -/
theorem header_num (o k : Nat) (h : o + k ≤ 256) : ofBytes (((restoring.svcBytesAt 0x30000 256).drop o).take k) = ctxMem.num (0x30000 + o) k := by
  rw [svcHeader restoring 32 (by omega), Mem.num]
  congr 1
  show ((ctxMem.rdBytes 0x30000 256).drop o).take k = _
  obtain ⟨r, rfl⟩ : ∃ r, r = 256 - (o + k) := ⟨_, rfl⟩
  have e : (256 : Nat) = o + (k + (256 - (o + k))) := by omega
  rw [show ctxMem.rdBytes 0x30000 256 = ctxMem.rdBytes 0x30000 (o + (k + (256 - (o + k)))) by rw [← e]]
  unfold Mem.rdBytes
  rw [aGetMany_append, List.drop_left' (aGetMany_length ..), aGetMany_append, List.take_left' (aGetMany_length ..)]
/-- A context that passes the checks of R399. -/
theorem test_hyp_TheModuleIsShared_passes : restoring.ctxRefused 1 0x30000 0x10000 = none := by
  have hd : restoring.svcBytesAt (0x30000 + 256) 32768 = ctxPlain.rdBytes 0x30100 32768 := by
    rw [show (32768 : Nat) = 8 * 4096 by rfl, restoring.svcBytesAt_inH _ _ (by omega)]; exact ctxMem_low _ _ (by omega)
  have hh (n : Nat) (h : n ≤ 176) : (restoring.svcBytesAt 0x30000 256).take n = ctxPlain.rdBytes 0x30000 n := by
    rw [svcHeader restoring 32 (by omega)]
    show (ctxMem.rdBytes 0x30000 256).take n = _
    have e : (256 : Nat) = n + (256 - n) := by omega
    rw [show ctxMem.rdBytes 0x30000 256 = ctxMem.rdBytes 0x30000 (n + (256 - n)) by rw [← e]]
    unfold Mem.rdBytes
    rw [aGetMany_append, List.take_left' (aGetMany_length ..)]
    exact ctxMem_low _ _ (by omega)
  have hr (t : TileId) : restoring.svcNum (restoring.recordAt 0x30000 t + 816) 16 = 0 := by
    have ht : t.toNat < 2048 := t.isLt
    have e1 : restoring.recordAt 0x30000 t = 0x30000 := by
      unfold State.recordAt
      rw [show (8 : Nat) = 8 * 1 by rfl, restoring.svcNum_inH _ _ (by omega) (by omega)]
      exact congrArg (0x30000 + ·) (ctxMem_zero _ _ (by omega) (by omega))
    rw [e1, show (16 : Nat) = 8 * 2 by rfl, restoring.svcNum_inH _ _ (by omega) (by omega)]
    exact ctxMem_zero _ _ (by omega) (by omega)
  have hz : ((scopeTiles .module false).any fun t => decide (restoring.svcNum (restoring.recordAt 0x30000 t + 816) 16 ≠ 0)) = false := by
    rw [List.any_eq_false]; intro t _; simp [hr t]
  have n1 : ctxMem.num (0x30000 + 8) 2 = 1 := by rw [ctxMem_num _ _ (by omega)]; decide
  have n2 : ctxMem.num (0x30000 + 152) 8 = 0 := ctxMem_zero _ _ (by omega) (by omega)
  have n3 : ctxMem.num (0x30000 + 168) 4 = 0 := ctxMem_zero _ _ (by omega) (by omega)
  have n4 : ctxMem.num (0x30000 + 180) 76 = 0 := ctxMem_zero _ _ (by omega) (by omega)
  have n5 : ctxMem.num (0x30000 + 176) 4 = ctxCrc.toNat := ctxMem_crc
  have t0 : (restoring.svcBytesAt 0x30000 256).take 8 = magic9 ++ [0x43] := by rw [hh 8 (by omega)]; decide
  have part (o k : Nat) (h : o + k ≤ 176) :
      ((restoring.svcBytesAt 0x30000 256).drop o).take k = ((ctxPlain.rdBytes 0x30000 176).drop o).take k := by
    rw [← hh 176 (by omega), List.drop_take, List.take_take, Nat.min_eq_left (by omega)]
  have t2 : restoring.geomOk (((restoring.svcBytesAt 0x30000 256).drop 16).take 64) true = true := by rw [part 16 64 (by omega)]; decide
  have t3 : ((restoring.svcBytesAt 0x30000 256).drop 80).take 64 = List.replicate 64 0 := by rw [part 80 64 (by omega)]; decide
  have i1 : restoring.image 1 = some ⟨List.replicate 64 0, 0, 0x100000, 0, 0, 1, none, some (0, 1), [], false, .module⟩ := rfl
  have b1 : restoring.bindCrc ⟨List.replicate 64 0, 0, 0x100000, 0, 0, 1, none, some (0, 1), [], false, .module⟩ = 0 := by decide
  have hc : crc32 ((restoring.svcBytesAt 0x30000 256).take 176 ++ restoring.svcBytesAt (0x30000 + 256) 32768) = ctxCrc := by
    rw [hh 176 (by omega), hd]; unfold ctxCrc; rfl
  simp only [State.ctxRefused, header_num 8 2 (by omega), header_num 176 4 (by omega), header_num 152 8 (by omega), header_num 180 76 (by omega),
    header_num 168 4 (by omega), n1, n2, n3, n4, n5, t0, t2, t3, hc, hz, i1, b1]
  simp

/-! ## Hypotheses that can be met: Opver and Lantern -/

/-- A state whose port 0 is `x`, straps sampled. -/
def ported (x : OpvPort) : State := { State.reset with opv := { Opv.reset with p0 := x, sampled := true } }
def upPort : OpvPort := { OpvPort.reset with st := .up, wasUp := true }
theorem test_hyp_OpverLinks_states :
    ((ported OpvPort.reset).oport false).st = .training ∧ ((ported OpvPort.reset).oport false).wasUp = false ∧
    8 ≤ ({ upPort with refused := 8 } : OpvPort).refused ∧ 8 ≤ ({ upPort with naked := 8 } : OpvPort).naked ∧ ((ported { OpvPort.reset with st := .down }).oport false).st = .down ∧
    ((ported upPort).oport false).st = .up := by decide
/-- Frames: one of the wrong length, a HELLO that is expected, an IDLE that acknowledges SEQ 0 of the replay buffer, a DATA frame. -/
def aFrame (b : FrameBody) : Frame := ⟨0, b, false, 0, 0, 0, 0⟩
def aHello : Ctrl := .hello 1 3 0 7
theorem test_hyp_OpverLinks_refused : parseFrame ((corrected [] []).take 256) = none := by decide
theorem interleave_take : ∀ (n : Nat) (a b c d : List Byte), a.length = n → b.length = n →
    (interleave (a ++ c) (b ++ d)).take (2 * n) = interleave a b
  | 0, [], [], _, _, _, _ => by simp [interleave]
  | n + 1, x :: a, y :: b, c, d, ha, hb => by
    have h := interleave_take n a b c d (by simpa using ha) (by simpa using hb)
    rw [Nat.mul_succ]; simp [interleave, h]
theorem interleave_codewords : ∀ (n : Nat) (l : List Byte), l.length = 2 * n →
    interleave (evens l) (evens l.tail) = l ∧ (evens l).length = n ∧ (evens l.tail).length = n
  | 0, [], _ => by decide
  | n + 1, x :: y :: l, h => by
    obtain ⟨h1, h2, h3⟩ := interleave_codewords n l (by simp only [List.length_cons] at h; omega)
    cases l with
    | nil => simp_all [evens, interleave]
    | cons z l => simp_all [evens, interleave]
/-- What a received block holds is the frame that was sent, whatever its check symbols. -/
theorem block_take (f : Frame) (h : f.bytes.length = 256) : (corrected f.block []).take 256 = f.bytes := by
  obtain ⟨h1, h2, h3⟩ := interleave_codewords 128 f.bytes h
  exact (interleave_take 128 _ _ _ _ h2 h3).trans h1
set_option maxRecDepth 100000 in
theorem test_hyp_OpverLinks_control : parseFrame (aFrame (.ctrl aHello)).bytes = some (aFrame (.ctrl aHello)) := by decide
set_option maxRecDepth 100000 in
theorem test_hyp_OpverLinks_idle :
    parseFrame (aFrame .idle).bytes = some (aFrame .idle) ∧
    ({ upPort with replay := [aFrame (.ctrl aHello)] } : OpvPort).replayAt 0 = some 0 := by decide
set_option maxRecDepth 100000 in
/-- A DATA frame of SEQ 1 is not the one a port awaits that expects SEQ 0; one of SEQ 0 is. -/
theorem test_hyp_OpverLinks_data :
    (aFrame (.data [])).bytes.length = 256 ∧ parseFrame (aFrame (.data [])).bytes = some (aFrame (.data [])) ∧
    parseFrame ({ aFrame (.data []) with seq := 1 } : Frame).bytes = some { aFrame (.data []) with seq := 1 } ∧ upPort.rxSeq = 0 := by decide
theorem test_hyp_OpverLinks_nak :
    ({ upPort with nakFrom := some 0, replay := [aFrame (.ctrl aHello)] } : OpvPort).nakFrom = some 0 := by decide

def sampledOpv : Opv := { Opv.reset with sampled := true, hasAddr := true }
theorem test_hyp_Chains_tokens :
    sampledOpv.final = false ∧ (0 : BitVec 4) ≠ 15 ∧ Opv.reset.head = false ∧
    tokenAddr [true, true, false, true, false, false, false, false] = some 1 ∧
    tokenAddr [true, true, false, true, false, false, false, true] = none := by decide
/-- Module 1 of a chain of two, its port 0 to module 0 with a message that waits to be acted on, its port 1 to module 2 and up. -/
def member (m : Ctrl) : State :=
  { State.reset with
    dev := { Dev.reset with addr := 1 }
    opv := { Opv.reset with
      p0 := { upPort with ctrl := [m], paddr := 0, pepoch := 5, ident := true, dir := some false }
      p1 := { upPort with paddr := 2, ident := true, dir := some true }
      straps := 0, sampled := true, hasAddr := true, final := true, chained := true, n := 3, members := 7 } }
theorem test_hyp_Chains_ident :
    ((member (.ident 0 true 0 6)).oport false).ctrl = [.ident 0 true 0 6] ∧ ((member aHello).oport false).pepoch ≠ 6 ∧
    (member aHello).leaveOk false = true ∧ (member aHello).leaveOk true = true ∧ ((member aHello).oport true).ready = true ∧
    ((member aHello).oport true).waiting = [] := by decide
/-- Module 1 before the chain forms: its neighbour below lies on port 0. -/
def joining : State := { member aHello with opv := { (member aHello).opv with final := false, chained := false, members := 0, n := 0 } }
theorem test_hyp_Chains_hello :
    joining.dev.addr ≠ 0 ∧ joining.dirPort false = some false ∧ (joining.oport false).ready = true ∧ (joining.oport false).waiting = [] ∧
    sampledOpv.hasAddr = true ∧ State.reset.dev.addr = 0 := by decide
/-- Module 0, its partner untrained below. -/
def forming : State :=
  { State.reset with opv := { Opv.reset with sampled := true, hasAddr := true, straps := 1, hellos := [⟨0, false, false, false, 0⟩] } }
theorem test_hyp_Chains_form :
    forming.mayForm = true ∧ forming.opv.head = true ∧ forming.opv.final = false ∧ (ported OpvPort.reset).opv.head = false := by decide
theorem test_hyp_Chains_chainUp :
    joining.opv.final = false ∧ joining.opv.hasAddr = true ∧ (7 : W16).getLsbD joining.dev.addr.toNat = true := by decide
def anArrive (m : Byte) : Arrive := ⟨m, false, false, false, 0xFF, 0, 0, 0⟩
/-- Module 0 of a chain of two that holds its own arrival. -/
def zeroth (arrived : Bool) : State :=
  { State.reset with opv := { Opv.reset with
      p0 := { upPort with ctrl := [.arrive 1 false false false false 0xFF 0 0 0] }, sampled := true, hasAddr := true, final := true
      chained := true, n := 2, members := 3, arrived := arrived, arrives := [anArrive 0] } }
theorem test_hyp_Chains_arrive :
    (zeroth true).opv.arrived = true ∧ (zeroth true).opv.released ≠ some (BitVec.ofNat 64 (zeroth true).chainSs) ∧
    (zeroth false).opv.arrived = false ∧ (∀ b ∈ (zeroth true).opv.arrives ++ [anArrive 1], b.ssnum.toNat = (zeroth true).chainSs) ∧
    (∀ m, m < 16 → (zeroth true).opv.member m = true → ∃ b ∈ (zeroth true).opv.arrives ++ [anArrive 1], b.addr.toNat = m) := by decide
/-- A RELEASE for the superstep of the module, one already acted on, and one for another. -/
theorem test_hyp_Chains_release :
    (member (.release true true false 0 0)).opv.released ≠ some 0 ∧ (0 : W64).toNat = (member aHello).chainSs ∧
    (5 : W64).toNat ≠ (member aHello).chainSs ∧ (member aHello).addrByte = 1 := by decide

/-- A state whose output 0 is `o`. -/
def output (o : LanOut) : State := { State.reset with lan0 := o }
/-- An output of 64 pixels and 2 lines that runs. -/
def running : LanOut := { LanOut.reset with st := .run, hpd := true, use := [(0, some 0x2C), (0x10, some 64), (0x20, some 2), (0x30, some 256)] }
def aSubmit : Cmd := cmdOf 5 [(0, 0x0C), (24, 0x10000)]
theorem test_hyp_LanternFrames_submit :
    (hosted aCtx [aSubmit] .lantern).unitHead 1 .lantern = some aSubmit ∧ aSubmit.num 16 1 % 2 = 0 ∧ aSubmit.num 24 6 % 256 = 0 ∧
    aSubmit.num 24 6 + running.pitch * running.vactive ≤ 2 ^ 40 ∧ running.orphan = false ∧ running.pend.length < 16 ∧
    ({ hosted aCtx [aSubmit] .lantern with lan0 := running } : State).act .lan (lanBase false + 0x40) ≠ (1 : BitVec 6).toNat := by decide
theorem test_hyp_LanternFrames_latch :
    running.pos = .stream ∧ ({ running with pos := .line 1 } : LanOut).pos = .line 1 ∧ 1 + 1 = running.vactive ∧
    ([⟨5, 0, 0⟩, ⟨6, 0, 9⟩] : List Submit).filter (fun p => decide (p.frame = 0 ∨ p.frame ≤ running.frame + 1)) = [⟨5, 0, 0⟩] := by decide
theorem test_hyp_LanternFrames_lines :
    LanQuiet (output running) false ∧ ({ running with pos := .line 0, cur := some 0 } : LanOut).missing 0 = true ∧ 0 + 1 < running.vactive := by
  refine ⟨?_, by decide, by decide⟩
  intro row _; rfl
theorem test_hyp_LanternLinks :
    ((output { running with st := .start }).lan false).hpd = true ∧ ((output running).lan false).st = .run ∧
    ((output { running with busy := some ⟨1, 0, 3⟩ }).lan false).busy = some ⟨1, 0, 3⟩ ∧ (1 % 2 = 1) ∧ (hosted aCtx [] .host).pwr.perst = false := by decide

/-! ## Hypotheses that can be met: power, registers, commits, the Keep -/

def powered (p : Pwr) : State := { State.reset with pwr := p }
def allUp : Pwr := { Pwr.reset with vin := true, pwrOk := true, strapped := true, perst := true, linkUp := true, flit256 := true, memact := true }
theorem test_hyp_PowerAndReset :
    State.reset.pwr.vin = false ∧ State.reset.pwr.tripped = false ∧ ({ Pwr.reset with tripped := true } : Pwr).lowSince = none ∧
    (powered { Pwr.reset with vin := true }).pwr.pwrOk = false ∧ (powered { Pwr.reset with pwrOk := true }).pwr.strapped = false ∧
    (powered { allUp with linkUp := false }).pwr.linkUp = false ∧ (powered allUp).pwr.phyTrained = false ∧ (powered allUp).pwr.ready = false ∧
    ({ powered allUp with keep := { Keep.reset with idReady := true }, opv := { Opv.reset with final := true } } : State).keep.idReady = true ∧
    ({ powered allUp with mem := { Mem.empty with clearing := true } } : State).mem.clearing = true ∧ State.reset.pwr.perst = false := by decide
/-- 95 degrees and 1,300 W: at the reset limits; 90 degrees and 1,000 W after 100 ms: cool. -/
def throttled (c : Nat) (last : Option Nat) : State :=
  { powered { allUp with ceil := c, evals := 200, lastChange := last } with regs := { Regs.reset with active := [(blkBase .pwr + 0x110, some 1300)] } }
theorem test_hyp_ThrottleActs :
    8 * ((throttled 4 none).act .pwr 0x118 : Int) ≤ max 760 0 ∧ (throttled 4 none).act .pwr 0x110 ≤ 1300 ∧
    max 720 0 ≤ 8 * ((throttled 4 none).act .pwr 0x118 : Int) - 40 ∧ 100 * 1000 ≤ 95 * (throttled 4 none).act .pwr 0x110 ∧
    (throttled 3 none).pwr.ceil < 4 ∧ (∀ t, (throttled 3 (some 101)).pwr.lastChange = some t → t + 100 ≤ (throttled 3 none).pwr.evals + 1) ∧
    ¬ (∀ t, (throttled 4 (some 195)).pwr.lastChange = some t → t + 10 ≤ (throttled 4 none).pwr.evals + 1) := by
  refine ⟨by decide, by decide, by decide, by decide, by decide, ?_, ?_⟩
  · intro t h; injection h with h; subst h; decide
  · intro h; exact absurd (h 195 rfl) (by decide)

theorem test_hyp_RegisterCommands :
    (powered allUp).pwr.perst = true ∧ blkAt 0x0B0100 = some .sch ∧ (0x0B0100 : Nat) % 0x10000 = 0x100 ∧ (rwcMask .sch 0x100).isSome = true ∧
    (State.reset.counterAt 0x004020) = some 0 ∧ ((0x40 : W32).toNat % 64 = 0) ∧
    (0x40 : W32).toNat < ({ State.reset with regs := { Regs.reset with active := [(blkBase .trg + 0x128, some 0x100)] } } : State).act .trg 0x128 ∧
    (State.reset.act .trg 0x128 ≤ (0x40 : W32).toNat) ∧ aWf Tile.empty State.reset.tiles = true := by decide
theorem test_hyp_RegisterCommands_window :
    (5 - ((engineAt 0).tile 3).sigC 7).toNat < 2 ^ 31 ∧ 2 ^ 31 ≤ ((0x80000000 : W32) - ((engineAt 0).tile 3).sigC 7).toNat := by decide

/-- A shadow that TRH accepts, and one that it refuses (R439: the period of refresh management is not 0). -/
def shadowed (n : W64) : State := { powered allUp with regs := { Regs.reset with shadow := [(blkBase .trh + 0x100, some n)] } }
theorem test_hyp_Commits :
    ((shadowed 0x101).cmt .trh).state ≠ .busy ∧ ((shadowed 0x101).cmt .trh).agen + 1 = 1 ∧ (1 : BitVec 31) ≠ 0x7FFFFFFF ∧
    (shadowed 0x101).check ((shadowed 0x101).view [⟨.trh, 1, (shadowed 0x101).regs.snapOf .trh⟩]) .trh = none ∧
    (shadowed 1).check ((shadowed 1).view [⟨.trh, 1, (shadowed 1).regs.snapOf .trh⟩]) .trh = some (4, 0xFFFF) ∧
    aWf none (shadowed 0x101).regs.shadow = true := by decide
/-- A CRC that matches, and one that does not. -/
theorem test_hyp_Commits_crc (b : Blk) (s : State) : ∃ good bad : W32, crcOf b (s.regs.shadowAt b) = good ∧ crcOf b (s.regs.shadowAt b) ≠ bad :=
  ⟨crcOf b (s.regs.shadowAt b), crcOf b (s.regs.shadowAt b) + 1, rfl, fun h => by
    have := congrArg (fun x => x - crcOf b (s.regs.shadowAt b)) h
    simp [BitVec.add_comm] at this⟩
/-- KEP locked, TRG with a run, and a generation that is not the next. -/
theorem test_hyp_Commits_refused :
    ({ State.reset with regs := { Regs.reset with active := [(blkBase .kep + 0x240, some 1)] } } : State).act .kep 0x240 % 2 = 1 ∧
    (runsWith (some (runIn .start))).trn.run ≠ none ∧ (2 : BitVec 31) ≠ 0 + 1 := by decide
/-- TRH held at generation 1, and a mask that names it. -/
def heldTrh (n : W64) : State :=
  { shadowed n with regs := { (shadowed n).regs with cmt := [(blkNum .trh, { Cmt.reset with held := some (1, [(blkBase .trh + 0x100, some n)]) })] } }
theorem test_hyp_Commits_global :
    (∀ k, k < 16 → (0x10 : W16).getLsbD k = true → ∃ b, Blk.setup b = true ∧ blkNum b = k) ∧ ((heldTrh 0x101).cmt .trh).held.isSome = true ∧
    (setupBlks.filter fun b => (0x10 : W16).getLsbD (blkNum b)) = [.trh] ∧
    (heldTrh 0x101).check ((heldTrh 0x101).view [⟨.trh, 1, [(blkBase .trh + 0x100, some 0x101)]⟩]) .trh = none ∧
    (heldTrh 1).check ((heldTrh 1).view [⟨.trh, 1, [(blkBase .trh + 0x100, some 1)]⟩]) .trh ≠ none := by
  refine ⟨?_, by decide, by decide, by decide, by decide⟩
  intro k hk h
  have : k = 4 := by revert h; revert hk; revert k; decide
  exact ⟨.trh, rfl, this.symm⟩
theorem test_hyp_Commits_work :
    ({ heldTrh 1 with regs := { Regs.reset with cmt := [(blkNum .trc, { Cmt.reset with work := true })] } } : State).workReady .trc = true ∧
    (({ heldTrh 1 with regs := { Regs.reset with cmt := [(blkNum .trc, { Cmt.reset with work := true })] } } : State).cmt .trc).work = true := by decide

theorem test_hyp_Commits_workFree (wr : List (Nat × Nat)) : HomesFree (heldTrh 1) [] wr := homesFree_idle _ _ _ rfl rfl

/-- The Keep with a connection of version 1.2, a session in its handshake and one established. -/
def keeping : State :=
  { powered allUp with keep := { Keep.reset with idReady := true, conn := 3, ver := 0x12, sessions := [(1, .handshake), (2, .established)], nextSession := 3 } }
theorem test_hyp_KeepAnswers :
    keeping.pwr.linkUp = true ∧ keeping.keep.conn = 3 ∧ keeping.keep.ver = 0x12 ∧ keeping.keep.session 1 = some .handshake ∧
    keeping.keep.session 2 = some .established ∧ keeping.keep.session 3 = none ∧ 2 ≤ keeping.keep.sessions.length ∧
    ({ keeping.keep with sessions := [] } : Keep).sessions.length < 2 ∧ (0x10 : Byte) ≠ 0x12 ∧ (0x10 : Byte) ≠ 0x13 ∧
    Keep.reset.conn < 1 ∧ ({ keeping.keep with conn := 2 } : Keep).conn < 3 ∧ keeping.keep.ver ≠ 0x13 := by decide

/-! ## The whole machine -/

theorem reset_reserved (b : Blk) (o m : Nat) (h : rwcMask b o = some m) : BitVec.ofNat 64 (rwcReset b o) &&& ~~~(BitVec.ofNat 64 m) = 0#64 := by
  by_cases hz : rwcReset b o = 0
  · rw [hz]; exact BitVec.zero_and
  · cases b <;> simp only [rwcMask, rwcReset] at h hz ⊢ <;> (repeat' split at h) <;> simp_all <;> (try subst h) <;> simp_all
theorem test_hyp_InvariantIsKept : Inv State.reset :=
  ⟨by decide, by decide, by decide, by decide, fun b o m _ h => reset_reserved b o m h⟩
theorem test_hyp_Tallied : State.reset.tallied := by intro kx h; cases h
theorem test_hyp_Tallied_tile : (oneTile 3 { engine 0 with ctr := { TCtr.zero with tally := 2, sSync := 1 } }).tallied := by
  intro kx h
  have : kx = (3, { engine 0 with ctr := { TCtr.zero with tally := 2, sSync := 1 } }) := by
    cases h with
    | head => rfl
    | tail _ h => cases h
  subst this; decide
set_option maxRecDepth 100000 in
/-- An empty queue: 10 ns pass, here while the straps are not yet sampled and no tile steps. -/
theorem test_idle_time : (match step { State.reset with pwr := { allUp with strapped := false } } with | .next s => s.dev.time | _ => 0) = 10 := by decide

/-! ## Ill-formed commands -/

/-- A link set-up whose only decoder does not begin on a 256 MiB boundary. -/
def badLink : LinkCfg := ⟨0, [⟨2 ^ 20, 0, 2 ^ 28⟩], []⟩
/-- Five corrected symbols of one codeword. -/
def badFix : List (Nat × Byte) := [(0, 1), (2, 1), (4, 1), (6, 1), (8, 1)]
/-- For each check of WellFormed: a command that it refuses. -/
def illFormed : List Instr :=
  [ .mxeOperationStart 0 [⟨.w, 2560, 0, .ue 1⟩], .initialLoadComplete 0 [⟨.p, 1024, 0, .ue 1⟩], .putRowTake 0 [⟨.a, 0, 8, .ue 1⟩]
  , .exchangeBegin 0 [⟨.a, 5, 1, .ue 1⟩, ⟨.a, 5, 1, .ce 2⟩], .vchLastGroupComplete 0 0 [], .vchLastGroupComplete 0 1 [⟨.w, 2560, 0, .ue 1⟩]
  , .rduResultWrite 0 [⟨.w, 2560, 0, .ue 1⟩], .sigPut 0 .ok ⟨6, 251, 500, 9, 10, 7⟩ [⟨.w, 2560, 0, .ue 1⟩], .send 0 .ok ⟨6, 2, 0, 3, 9, 7⟩ [⟨.w, 0, 8, .ue 1⟩]
  , .arrayWorkComplete 0 0, .rngLastWriteLands 0 [⟨.w, 2560, 0, .ue 1⟩], .flitRouterArrival 0 .west 1 [.payload 8]
  , .sumGroupForm 0 .west [[], [], [], [], []], .ringRefill 0 0 [⟨4, .ue 1⟩], .contextSaveComplete [(0, ⟨.w, 2560, 0, .ue 1⟩)]
  , .memoryRequestArrival ⟨false, false, 0⟩ [⟨4, .ue 1⟩], .tierReadResponse ⟨false, false, 0⟩ [⟨2 ^ 43, .ue 1⟩] false
  , .blockFetchComplete ⟨false, false, 0⟩ [⟨8, .ue 1⟩, ⟨8, .ce 1⟩] false, .blockWriteDownComplete ⟨false, false, 0⟩ [⟨4, .ue 1⟩] false
  , .patrolScrubRead 4 .ok, .patrolScrubRead (2 ^ 40) .ok, .moverReadIssue false [0] [], .updatePacketArrival 0 [⟨4, .ue 1⟩], .blockApply 0 0 [⟨4, .ue 1⟩]
  , .hostMemRead 32 false [], .hostMemRead 0 false [⟨4, .ue 1⟩], .hostMemWrite 0 [], .hostMemWrite 32 (List.replicate 8 0)
  , .backInvalidateResponse 64 false [0], .backInvalidateResponse 32 false [], .doorbellReadReturn 0 [0]
  , .descriptorBurstReturn 0 (List.replicate 17 (List.replicate 8 0)), .descriptorBurstReturn 0 [[0]], .loadImage 0 [] [⟨4, .ue 1⟩]
  , .recopy [(2 ^ 44, [])], .frameReceive false [] [], .frameReceive false (List.replicate 272 0) badFix, .tokenReceive [true], .counterRead 0x4028
  , .cxlLinkUp true badLink, .registerWrite 4 none 0 ]
set_option maxRecDepth 8000 in
theorem test_illFormed : ∀ c ∈ illFormed, c.wf = false := by decide
theorem test_illFormed_recopy : Instr.wf (.recopy [(5, [])]) = false ∧ noTwice [5, 5] = false := by decide
set_option maxRecDepth 8000 in
theorem test_wellFormed : ∀ c ∈ [Instr.exchangeBegin 0 [⟨.a, 5, 1, .ue 1⟩, ⟨.a, 5, 2, .ce 2⟩], .memoryRequestArrival ⟨false, false, 0⟩ [⟨8, .ue 1⟩],
    .hostMemRead 64 true [], .frameReceive false (List.replicate 272 0) [(0, 1), (1, 1)], .cxlLinkUp true ⟨0, [⟨2 ^ 28, 0, 2 ^ 28⟩], []⟩, .counterRead 0x4020, .nop 0 .ok], c.wf = true := by decide

end Sys2Proof.Tests
end

/-! # Every step keeps the invariant (O58)

`Inv` speaks of five tables of the state: the bytes and poison marks of memory, the tiles, and the shadow and active registers. The proof
has one lemma per operation of the model, in the order of the model's files: the invariant goes from the state before to the state after.
Each is named `Inv.<operation>` and takes the invariant before as its first argument, so that the proof of a composed operation reads as the
operation does: `h.log.alert.setTile` is the invariant of `((s.log …).alert …).setTile …`. Only the operations that write one of the five
tables use a law of tables; every other update is `Inv.frame`. -/

section
namespace Sys2Proof.Machine

/-! ## Outcomes -/

/-- Where command outcome `o` is a next state, that state has the invariant. -/
def Keeps (o : Out) : Prop := ∀ s', o = .next s' → Inv s'
/-- Where `o` is there, it has property `P`. -/
def Yields {β : Type} (P : β → Prop) (o : Option β) : Prop := ∀ b, o = some b → P b

section
variable {s : State} {α β : Type}

theorem Keeps.next (h : Inv s) : Keeps (.next s) := by rintro _ ⟨⟩; exact h
theorem Keeps.fault {r : Fault} : Keeps (.fault r) := by rintro _ ⟨⟩
theorem Keeps.ite {c : Prop} [Decidable c] {a b : Out} (ha : Keeps a) (hb : Keeps b) : Keeps (if c then a else b) := by
  split <;> assumption

theorem Yields.none {P : β → Prop} : Yields P none := nofun
theorem Yields.some {P : β → Prop} {b : β} (h : P b) : Yields P (some b) := by rintro _ ⟨⟩; exact h
theorem Yields.ite {P : β → Prop} {c : Prop} [Decidable c] {a b : Option β} (ha : Yields P a) (hb : Yields P b) :
    Yields P (if c then a else b) := by
  split <;> assumption
theorem Yields.bind {P : α → Prop} {Q : β → Prop} {o : Option α} {f : α → Option β} (ho : Yields P o) (hf : ∀ a, P a → Yields Q (f a)) :
    Yields Q (o.bind f) := by
  intro b hb
  obtain ⟨a, ha, hab⟩ := Option.bind_eq_some_iff.mp hb
  exact hf a (ho a ha) b hab
theorem Yields.map {P : α → Prop} {Q : β → Prop} {o : Option α} {f : α → β} (ho : Yields P o) (hf : ∀ a, P a → Q (f a)) :
    Yields Q (o.map f) := by
  intro b hb
  obtain ⟨a, ha, rfl⟩ := Option.map_eq_some_iff.mp hb
  exact hf a (ho a ha)
theorem Yields.mapAll {Q : β → Prop} {o : Option α} {f : α → β} (hf : ∀ a, Q (f a)) : Yields Q (o.map f) :=
  Yields.map (P := fun _ => True) (fun _ _ => trivial) fun a _ => hf a
theorem Yields.getD {P : β → Prop} {o : Option β} {d : β} (ho : Yields P o) (hd : P d) : P (o.getD d) := by
  cases o with
  | none => exact hd
  | some b => exact ho b rfl

/-! ## Branches and folds -/

theorem Inv.ite {c : Prop} [Decidable c] {a b : State} (ha : Inv a) (hb : Inv b) : Inv (if c then a else b) := by
  split <;> assumption
theorem Inv.iteFst {c : Prop} [Decidable c] {a b : State × β} (ha : Inv a.1) (hb : Inv b.1) : Inv (if c then a else b).1 := by
  split <;> assumption
theorem Inv.foldl (h : Inv s) {f : State → α → State} {l : List α} (hf : ∀ s x, Inv s → Inv (f s x)) : Inv (l.foldl f s) :=
  List.foldlRecOn l f h fun s hs x _ => hf s x hs
theorem Inv.foldlFst {p : State × β} (h : Inv p.1) {f : State × β → α → State × β} {l : List α}
    (hf : ∀ p x, Inv p.1 → Inv (f p x).1) : Inv (l.foldl f p).1 :=
  List.foldlRecOn (motive := fun p => Inv p.1) l f h fun p hp x _ => hf p x hp
theorem Inv.fst {p : State × β} {u : State} {b : β} (e : p = (u, b)) (h : Inv p.1) : Inv u := by subst e; exact h
theorem Inv.headD (h : Inv s) {l : List State} (hl : ∀ u ∈ l, Inv u) : Inv (l.headD s) := by
  cases l with
  | nil => exact h
  | cons u l => exact hl u List.mem_cons_self

/-! ## Tables -/

/-- A table whose entries are changed in place and whose entries equal to the default are then left out is canonical. -/
theorem aWfFrom_map_filter [DecidableEq α] {d : α} {f : Nat × α → Nat × α} (hf : ∀ kv, (f kv).1 = kv.1) {l : Assoc α} {b : Nat}
    (h : aWfFrom d b l = true) : aWfFrom d b ((l.map f).filter fun kv => decide (kv.2 ≠ d)) = true := by
  induction l generalizing b with
  | nil => rfl
  | cons kv l ih =>
    obtain ⟨k, v⟩ := kv
    simp only [aWfFrom, Bool.and_eq_true, decide_eq_true_eq] at h
    obtain ⟨⟨hk, -⟩, hl⟩ := h
    have hfk : (f (k, v)).1 = k := hf (k, v)
    rw [List.map_cons, List.filter_cons]
    split
    · next hd => simp only [aWfFrom, hfk, hk, of_decide_eq_true hd, ih hl, ne_eq, not_false_eq_true, decide_true, Bool.and_self]
    · exact ih (aWfFrom_mono d (by omega) l hl)
theorem aWf_map_filter [DecidableEq α] {d : α} {f : Nat × α → Nat × α} (hf : ∀ kv, (f kv).1 = kv.1) {l : Assoc α} (h : aWf d l = true) :
    aWf d ((l.map f).filter fun kv => decide (kv.2 ≠ d)) = true :=
  aWfFrom_map_filter hf h
theorem aWf_foldl_aSet [DecidableEq α] {d : α} {l : Assoc α} {kvs : List (Nat × α)} (h : aWf d l = true) :
    aWf d (kvs.foldl (fun a kv => aSet d a kv.1 kv.2) l) = true :=
  List.foldlRecOn (motive := fun a => aWf d a = true) kvs _ h fun a ha kv _ => aWf_aSet d a kv.1 kv.2 ha

/-! ## The shadow registers -/

/-- The offset of a register names its block (R424). -/
theorem blkAt_blkBase_add {b : Blk} {o : Nat} (ho : o < 0x10000) : blkAt (blkBase b + o) = some b := by
  have hdiv : (blkBase b + o) / 0x10000 = blkNum b := by cases b <;> simp only [blkBase, blkNum] <;> omega
  unfold blkAt
  rw [hdiv]
  cases b <;> rfl
theorem blkBase_add_mod {b : Blk} {o : Nat} (ho : o < 0x10000) : (blkBase b + o) % 0x10000 = o := by
  cases b <;> simp only [blkBase] <;> omega
theorem blkBase_add_lt_rsvAt {b : Blk} {o : Nat} (ho : o < 0x10000) : blkBase b + o < rsvAt := by
  cases b <;> simp only [blkBase, rsvAt] <;> omega
theorem eq_blkBase_add {a : Nat} {b : Blk} (h : blkAt a = some b) : a = blkBase b + a % 0x10000 := by
  unfold blkAt at h
  split at h
  case h_14 => cases h
  all_goals cases h; simp only [blkBase]; omega

/-- Nothing is left of a masked value outside its mask. -/
theorem and_and_not_self (v m : W64) : v &&& m &&& ~~~m = 0#64 := by
  rw [BitVec.and_assoc, BitVec.and_not_self]; exact BitVec.and_zero
/-- A table of shadow registers: canonical, and zero in every bit that a register's field map does not define. -/
structure ShadowOk (l : Assoc (Option W64)) : Prop where
  wf : aWf none l = true
  reserved : ∀ b o m, o < 0x10000 → rwcMask b o = some m →
    (aGet none l (blkBase b + o)).getD (BitVec.ofNat 64 (rwcReset b o)) &&& ~~~(BitVec.ofNat 64 m) = 0#64

theorem Inv.shadowOk (h : Inv s) : ShadowOk s.regs.shadow := ⟨h.shadow, h.reserved⟩
/-- A register is written with a value inside its field map. -/
theorem ShadowOk.set {l : Assoc (Option W64)} (h : ShadowOk l) {b : Blk} {o : Nat} {v : W64} (ho : o < 0x10000)
    (hv : ∀ m, rwcMask b o = some m → v &&& ~~~(BitVec.ofNat 64 m) = 0#64) : ShadowOk (aSet none l (blkBase b + o) (some v)) where
  wf := aWf_aSet _ _ _ _ h.wf
  reserved b' o' m' ho' hm' := by
    rw [aGet_aSet]
    split
    · next e =>
      have hb : b' = b := by simpa [blkAt_blkBase_add ho, blkAt_blkBase_add ho'] using congrArg blkAt e
      have ho'' : o' = o := by rw [← blkBase_add_mod (b := b') ho', e, blkBase_add_mod ho]
      subst hb ho''
      exact hv m' hm'
    · exact h.reserved b' o' m' ho' hm'
/-- The register at a BAR0 offset is written with what its field map leaves of a value (R422, R426). -/
theorem ShadowOk.setAt {l : Assoc (Option W64)} (h : ShadowOk l) {a m : Nat} {b : Blk} {v : W64} (hb : blkAt a = some b)
    (hm : rwcMask b (a % 0x10000) = some m) : ShadowOk (aSet none l a (some (v &&& BitVec.ofNat 64 m))) := by
  have hset := h.set (v := v &&& BitVec.ofNat 64 m) (Nat.mod_lt a (by decide)) fun m' hm' => by
    cases hm.symm.trans hm'
    exact and_and_not_self v _
  rwa [← eq_blkBase_add hb] at hset
/-- What lies above the registers is none of them (R370). -/
theorem ShadowOk.setAbove {l : Assoc (Option W64)} (h : ShadowOk l) {a : Nat} {v : Option W64} : ShadowOk (aSet none l (a + rsvAt) v) where
  wf := aWf_aSet _ _ _ _ h.wf
  reserved b o m ho hm := by
    have hlt := blkBase_add_lt_rsvAt (b := b) ho
    rw [aGet_aSet, if_neg (by omega)]
    exact h.reserved b o m ho hm
/-- Reset values lie inside the field maps. -/
theorem rwcReset_defined {b : Blk} {o m : Nat} (hm : rwcMask b o = some m) :
    BitVec.ofNat 64 (rwcReset b o) &&& ~~~(BitVec.ofNat 64 m) = 0#64 := by
  cases b
  case hst =>
    by_cases hcq : (o - 0x100) % 0x80 = 0x30
    · simp only [rwcMask, hcq] at hm
      split at hm <;> cases hm
      simp only [rwcReset, hcq]
      decide
    · simp [rwcReset, hcq]
  case pwr =>
    simp only [rwcMask] at hm
    split at hm <;> cases hm <;> decide
  case trh =>
    simp only [rwcMask] at hm
    split at hm <;> cases hm
    simp [rwcReset]
  case bel =>
    simp only [rwcMask] at hm
    split at hm
    · cases hm; decide
    · cases hm; decide
    · simp [rwcReset]
  case sch =>
    simp only [rwcMask] at hm
    split at hm
    · cases hm; decide
    · cases hm; decide
    · cases hm; decide
    · by_cases hw : (o - 0x200) % 0x40 = 8
      · simp only [hw] at hm
        split at hm <;> cases hm
        simp only [rwcReset, hw]
        split <;> decide
      · simp [rwcReset, hw]
  all_goals exact BitVec.zero_and
theorem ShadowOk.nil : ShadowOk [] := ⟨rfl, fun _ _ _ _ => rwcReset_defined⟩

/-! ## Updates of the state -/

/-- An update of memory, and of any field that the invariant does not speak of. -/
theorem Inv.withMem (h : Inv s) {mem : Mem} (hm : mem.wf = true)
    {pending dev err net pool0 pool1 opv belc waits sch obj gro host imgs trn sess lan0 lan1 keep pwr} :
    Inv ⟨pending, dev, s.regs, err, s.tiles, net, pool0, pool1, mem, opv, belc, waits, sch, obj, gro, host, imgs, trn, sess, lan0, lan1,
      keep, pwr⟩ :=
  ⟨hm, h.tiles, h.shadow, h.active, h.reserved⟩
/-- An update of fields that the invariant does not speak of. -/
theorem Inv.frame (h : Inv s) {pending dev err net pool0 pool1 opv belc waits sch obj gro host imgs trn sess lan0 lan1 keep pwr} :
    Inv ⟨pending, dev, s.regs, err, s.tiles, net, pool0, pool1, s.mem, opv, belc, waits, sch, obj, gro, host, imgs, trn, sess, lan0, lan1,
      keep, pwr⟩ :=
  h.withMem h.mem
/-- An update of the tiles, and of any field that the invariant does not speak of. -/
theorem Inv.withTiles (h : Inv s) {tiles : Assoc Tile} (ht : aWf Tile.empty tiles = true)
    {pending dev err net pool0 pool1 opv belc waits sch obj gro host imgs trn sess lan0 lan1 keep pwr} :
    Inv ⟨pending, dev, s.regs, err, tiles, net, pool0, pool1, s.mem, opv, belc, waits, sch, obj, gro, host, imgs, trn, sess, lan0, lan1,
      keep, pwr⟩ :=
  ⟨h.mem, ht, h.shadow, h.active, h.reserved⟩
/-- An update of the registers, and of any field that the invariant does not speak of. -/
theorem Inv.withRegs (h : Inv s) {shadow active : Assoc (Option W64)} (hs : ShadowOk shadow) (ha : aWf none active = true)
    {cmt epoch gstate gcause gdetail gmask gwait}
    {pending dev err net pool0 pool1 opv belc waits sch obj gro host imgs trn sess lan0 lan1 keep pwr} :
    Inv ⟨pending, dev, ⟨shadow, active, cmt, epoch, gstate, gcause, gdetail, gmask, gwait⟩, err, s.tiles, net, pool0, pool1,
      s.mem, opv, belc, waits, sch, obj, gro, host, imgs, trn, sess, lan0, lan1, keep, pwr⟩ :=
  ⟨h.mem, h.tiles, hs.wf, ha, hs.reserved⟩
/-- An update of the commit bookkeeping, and of any field that the invariant does not speak of. -/
theorem Inv.regsFrame (h : Inv s) {cmt epoch gstate gcause gdetail gmask gwait}
    {pending dev err net pool0 pool1 opv belc waits sch obj gro host imgs trn sess lan0 lan1 keep pwr} :
    Inv ⟨pending, dev, ⟨s.regs.shadow, s.regs.active, cmt, epoch, gstate, gcause, gdetail, gmask, gwait⟩, err, s.tiles, net, pool0, pool1,
      s.mem, opv, belc, waits, sch, obj, gro, host, imgs, trn, sess, lan0, lan1, keep, pwr⟩ :=
  h.withRegs h.shadowOk h.active
/-- A state without tiles whose registers are reset. -/
theorem Inv.ofReset (hm : s.mem.wf = true) (ht : s.tiles = []) (hr : s.regs = .reset) : Inv s where
  mem := hm
  tiles := ht ▸ rfl
  shadow := hr ▸ rfl
  active := hr ▸ rfl
  reserved := hr ▸ ShadowOk.nil.reserved
theorem Mem.wf_setSome (m : Mem) (a : Nat) (ws : List (PWord × Bool)) (h : m.wf = true) : (m.setSome a ws).wf = true := by
  induction ws generalizing m a with
  | nil => exact h
  | cons wc ws ih =>
    refine ih _ _ ?_
    split
    · exact Mem.wf_setWord _ _ _ h
    · exact h

/-! ## Memory and the host's copies -/

theorem Inv.modMem (h : Inv s) {f : Mem → Mem} (hf : ∀ m, m.wf = true → (f m).wf = true := by exact fun _ h => h) : Inv (s.modMem f) :=
  h.withMem (hf _ h.mem)
theorem Inv.memSetWord (h : Inv s) {a w} : Inv (s.modMem fun m => m.setWord a w) := h.modMem fun _ => Mem.wf_setWord _ _ _
theorem Inv.memSetWords (h : Inv s) {a ws} : Inv (s.modMem fun m => m.setWords a ws) := h.modMem fun _ => Mem.wf_setWords _ _ _
theorem Inv.memSetSome (h : Inv s) {a ws} : Inv (s.modMem fun m => m.setSome a ws) := h.modMem fun _ => Mem.wf_setSome _ _ _
theorem Inv.memSetBytes (h : Inv s) {a bs} : Inv (s.modMem fun m => m.setBytes a bs) := h.modMem fun _ => Mem.wf_setBytes _ _ _
theorem Inv.memPutMarked (h : Inv s) {a bs} : Inv (s.modMem fun m => m.putMarked a bs) := h.modMem fun _ => Mem.wf_putMarked _ _ _
theorem Inv.memClearRange (h : Inv s) {a n} : Inv (s.modMem fun m => m.clearRange a n) := h.modMem fun _ => Mem.wf_clearRange _ _ _
theorem Inv.sendSnoops (h : Inv s) {ls} : Inv (s.sendSnoops ls) := h.modMem
theorem Inv.putH (h : Inv s) {a bs} : Inv (s.putH a bs) := .ite h.memSetBytes h.sendSnoops.modMem
theorem Inv.putLate (h : Inv s) : Inv s.putLate := h.modMem.foldl fun _ _ h => h.putH

/-! ## Contexts and host commands -/

theorem Inv.setCtx (h : Inv s) {c x} : Inv (s.setCtx c x) := h.frame
theorem Inv.modCtx (h : Inv s) {c f} : Inv (s.modCtx c f) := h.setCtx
theorem Inv.setUnitQ (h : Inv s) {c u l} : Inv (s.setUnitQ c u l) := h.frame
theorem Inv.unqueue (h : Inv s) {c id} : Inv (s.unqueue c id) := by
  dsimp only [State.unqueue]
  exact h.frame.modCtx
theorem Inv.leave (h : Inv s) {id} : Inv (s.leave id) := h.frame
theorem Inv.touch (h : Inv s) {c} : Inv (s.touch c) := h.frame
theorem Inv.complete (h : Inv s) {id status result} : Inv (s.complete id status result) := by
  dsimp only [State.complete]
  split
  · exact h
  · have hc {c f} : Inv (((s.touch c).unqueue c.ctx id).modCtx c.ctx f) := h.touch.unqueue.modCtx
    exact .ite hc.leave (Inv.ite hc.frame hc).modCtx
theorem Inv.postEvicted (h : Inv s) {owner obj newBase cause} : Inv (s.postEvicted owner obj newBase cause) := h.modCtx
theorem Inv.send (h : Inv s) {o} : Inv (s.send o) := h.frame
theorem Inv.signalVec (h : Inv s) {n} : Inv (s.signalVec n) := .ite h.frame h.send
theorem Inv.errVector (h : Inv s) : Inv s.errVector := h.signalVec
theorem Inv.modObj (h : Inv s) {id f} : Inv (s.modObj id f) := h.frame
theorem Inv.setSession (h : Inv s) {c x} : Inv (s.setSession c x) := h.frame
theorem Inv.writeSeq (h : Inv s) {x slot} : Inv (s.writeSeq x slot) := h.putH
theorem Inv.writeScb (h : Inv s) {x isOpen} : Inv (s.writeScb x isOpen) := h.putH.putH
theorem Inv.clearRunning (h : Inv s) {tcb} : Inv (s.clearRunning tcb) := h.putH

/-! ## Tiles, logs and faults -/

theorem Inv.setTile (h : Inv s) {t x} : Inv (s.setTile t x) := h.withTiles (aWf_aSet _ _ _ _ h.tiles)
theorem Inv.modTile (h : Inv s) {t f} : Inv (s.modTile t f) := h.setTile
theorem Inv.alert (h : Inv s) {bit} : Inv (s.alert bit) := h.frame
theorem Inv.log (h : Inv s) {code k loc d0 d1 flags} : Inv (s.log code k loc d0 d1 flags) := .ite h.frame h.frame
theorem Inv.memCe (h : Inv s) {k loc addr syn} : Inv (s.memCe k loc addr syn) := .ite h.frame h.frame.frame.log
theorem Inv.memUe (h : Inv s) {k loc addr syn} : Inv (s.memUe k loc addr syn) := h.frame.log.alert
theorem Inv.clearCompute (h : Inv s) : Inv s.clearCompute := ⟨h.mem, rfl, h.shadow, h.active, h.reserved⟩
theorem Inv.writeEntry (h : Inv s) {g} : Inv (s.writeEntry g) := h.putH
theorem Inv.refuse (h : Inv s) {b cause detail} : Inv (s.refuse b cause detail) := h.regsFrame.log
theorem Inv.endGroups (h : Inv s) : Inv s.endGroups := by
  unfold State.endGroups
  extract_lets _ u _ _ s1
  have hu : Inv u := h.foldl fun _ _ h => h.writeEntry
  have h1 : Inv s1 := hu.withRegs hu.shadowOk (aWf_aSet _ _ _ _ hu.active)
  exact .ite h1.regsFrame.refuse h1
theorem Inv.endRuns (h : Inv s) : Inv s.endRuns := by
  dsimp only [State.endRuns]
  refine Inv.frame (Inv.foldl ?_ fun _ _ h => ?_)
  · split
    · exact h.clearRunning
    · exact h
  · split
    · exact (h.foldl fun _ _ h => h.writeSeq).writeScb
    · exact h
theorem Inv.endJobs (h : Inv s) {code} : Inv (s.endJobs code) := h.endGroups.endRuns.foldl fun _ _ h => h.complete
theorem Inv.raise (h : Inv s) {code k loc d0 d1} : Inv (s.raise code k loc d0 d1) := .ite h.log.frame h.log.frame.endJobs.clearCompute.frame
theorem Inv.raiseTile (h : Inv s) {t code d0 d1} : Inv (s.raiseTile t code d0 d1) := h.raise.modTile

/-! ## Operands and results -/

theorem Inv.storeErrs (h : Inv s) {t rd errs} : Inv (s.storeErrs t rd errs) := by
  dsimp only [State.storeErrs]
  refine h.foldl fun _ _ h => .ite ?_ h
  split
  · exact h
  · exact h.memCe
  · exact .ite h h.memUe.frame.modTile
theorem Inv.storeRange (h : Inv s) {t hd row} : Inv (s.storeRange t hd row) := h.raiseTile

/-! ## Memory slices -/

theorem Inv.setSlice (h : Inv s) {sl x} : Inv (s.setSlice sl x) := h.modMem

/-! ## Memory transactions -/

theorem Inv.setTag (h : Inv s) {blk t} : Inv (s.setTag blk t) := .ite h.memPutMarked h.modMem
theorem Inv.poisonTag (h : Inv s) {blk} : Inv (s.poisonTag blk) := .ite h.memSetWord.frame h.modMem
theorem Inv.pumpUio (h : Inv s) : Inv s.pumpUio := h.foldl fun _ _ h => .ite h h.modMem
theorem Inv.beginOp (h : Inv s) {sl o} : Inv (s.beginOp sl o) := h.setSlice
theorem Inv.beginOps (h : Inv s) {sl} : Inv (s.beginOps sl) := (h.foldl fun _ _ h => h.beginOp).pumpUio
theorem Inv.startDown (h : Inv s) {sl a} : Inv (s.startDown sl a) := .ite h.setSlice h.setSlice.beginOps
theorem Inv.cachePut (h : Inv s) {sl a dirty mru} : Inv (s.cachePut sl a dirty mru) := by
  dsimp only [State.cachePut]
  split
  · exact .ite h.setSlice.startDown h.setSlice
  · exact h.setSlice
theorem Inv.cacheWrite (h : Inv s) {a pol} : Inv (s.cacheWrite a pol) := .ite h h.cachePut
theorem Inv.endOp (h : Inv s) {sl o} : Inv (s.endOp sl o) := .ite h.setSlice.setSlice.beginOps h.setSlice.beginOps
theorem Inv.memErr (h : Inv s) {sl k loc e} : Inv (s.memErr sl k loc e) := by
  unfold State.memErr
  split
  · exact h
  · exact h.memCe.setSlice
  · exact .ite h (Inv.setSlice (h.memUe.withMem (Mem.wf_setWord _ _ _ h.memUe.mem)))
theorem Inv.lineErrs (h : Inv s) {sl k loc a errs} : Inv (s.lineErrs sl k loc a errs) := h.foldl fun _ _ h => h.memErr
theorem Inv.poisonBlk (h : Inv s) {sl blk took idx} : Inv (s.poisonBlk sl blk took idx) := by
  dsimp only [State.poisonBlk]
  refine h.withMem (List.foldlRecOn (motive := fun p : Mem × Nat => p.1.wf = true) _ _ h.mem fun p hp i _ => ?_)
  exact Mem.wf_setWord _ _ _ hp
theorem Inv.fetchErrs (h : Inv s) {sl o errs tagUe} : Inv (s.fetchErrs sl o errs tagUe) := by
  unfold State.fetchErrs
  extract_lets
  split
  extract_lets s1 _ s2 s3 _ _ s4
  have h1 : Inv s1 := h.foldl fun _ _ h => by split <;> [exact h.memErr; exact h]
  have h3 : Inv s3 := .ite h1.poisonBlk.poisonTag h1.poisonBlk
  have h4 : Inv s4 := .ite h3 h3.frame
  exact .ite h4 h4.modMem.log
theorem Inv.tierErrs (h : Inv s) {rs errs} : Inv (s.tierErrs rs errs) := by
  dsimp only [State.tierErrs]
  refine h.foldl fun _ _ h => .ite h ?_
  split
  · exact h
  · exact h.memErr
  · exact h.fetchErrs
theorem Inv.withSnoops (h : Inv s) {rd wr k} (hk : ∀ s, Inv s → Inv (k s)) : Inv (s.withSnoops rd wr k) :=
  .ite h.sendSnoops (.ite h (hk _ h))

/-! ## Barriers and flags -/

theorem Inv.issueEcc (h : Inv s) {t ecc} : Inv (s.issueEcc t ecc) := by
  unfold State.issueEcc
  split
  · exact .ite h h.memCe.modTile
  · exact h
theorem Inv.setPool (h : Inv s) {die p} : Inv (s.setPool die p) := .ite h.frame h.frame
theorem Inv.requestToken (h : Inv s) {t} : Inv (s.requestToken t) := .ite h h.setPool.setTile
theorem Inv.asksToken (h : Inv s) {t i} : Inv (s.asksToken t i) := .ite h.requestToken h
theorem Inv.keeps_issue (h : Inv s) {t ecc i act} (hact : ∀ s, Inv s → Inv (act s)) : Keeps (issue s t ecc i act) := by
  unfold issue
  split
  · exact .next h
  · exact .next h.issueEcc.raiseTile
  · exact .next h.issueEcc.asksToken.modTile
  · exact .next h.issueEcc.asksToken.modTile
  · exact .next (hact _ h.issueEcc)

/-! ## Opver links -/

theorem Inv.setOport (h : Inv s) {p x} : Inv (s.setOport p x) := .ite h.frame h.frame
theorem Inv.modOport (h : Inv s) {p f} : Inv (s.modOport p f) := h.setOport
theorem Inv.sendCtrl (h : Inv s) {p m} : Inv (s.sendCtrl p m) := h.modOport
theorem Inv.portCollect (h : Inv s) {p n acc} : Inv (State.portCollect p n s acc).1 := by
  induction n generalizing s acc with
  | zero => exact h
  | succ n ih =>
    rw [State.portCollect]
    split
    · exact h
    · exact ih h.setOport
    · exact h.raise
theorem Inv.portPump (h : Inv s) {p n} : Inv (State.portPump p n s) := by
  induction n generalizing s with
  | zero => exact h
  | succ n ih =>
    rw [State.portPump]
    refine .ite ?_ h
    have hc := h.portCollect (p := p) (n := 3) (acc := [])
    split
    · next e => rw [e] at hc; exact hc
    · next e => rw [e] at hc; exact ih hc.modOport
theorem Inv.pump (h : Inv s) {p} : Inv (s.pump p) := h.modOport.portPump
theorem Inv.portAccept (h : Inv s) {p vc row f} : Inv (s.portAccept p vc row f) := h.modOport.pump

/-! ## The network -/

theorem Inv.setLink (h : Inv s) {k l} : Inv (s.setLink k l) := h.frame
theorem Inv.setEject (h : Inv s) {t vc l} : Inv (s.setEject t vc l) := h.frame
theorem Inv.setEdgeQ (h : Inv s) {k l} : Inv (s.setEdgeQ k l) := h.frame
theorem Inv.inject (h : Inv s) {t fl} : Inv (s.inject t fl) := h.setLink
theorem Inv.injectAll (h : Inv s) {t fls} : Inv (s.injectAll t fls) := h.foldl fun _ _ h => h.inject
theorem Inv.injectEdge (h : Inv s) {r sd fl} : Inv (s.injectEdge r sd fl) := h.setLink
theorem Inv.passOn (h : Inv s) {r o vc fl} : Inv (s.passOn r o vc fl) := by
  unfold State.passOn
  split
  · exact h.setLink
  · split
    · exact .ite h h.setEject
    · exact .ite h.portAccept h.setEdgeQ
    · exact h.setEdgeQ
theorem Inv.countTaken (h : Inv s) {r i} : Inv (s.countTaken r i) := h.frame
theorem Inv.countSent (h : Inv s) {r o n} : Inv (s.countSent r o n) := h.frame
theorem Inv.xchgOrder (h : Inv s) {r inp expect got} : Inv (s.xchgOrder r inp expect got) := h.raiseTile

/-! ## The gallery: exchanges and flits -/

theorem Inv.freeSlot (h : Inv s) {r inp vc} : Inv (s.freeSlot r inp vc) := .ite h.modOport h
theorem Inv.flitCe (h : Inv s) {errs} : Inv (s.flitCe errs) := h.frame
theorem Inv.checkOps (h : Inv s) {l} : Inv (s.checkOps l).1 := by
  induction l generalizing s with
  | nil => exact h
  | cons f l ih => exact ih h.flitCe
theorem Inv.setWin (h : Inv s) {r o w} : Inv (s.setWin r o w) := h.frame
theorem Inv.ageHead (h : Inv s) {r sd} : Inv (s.ageHead r sd) := by
  unfold State.ageHead
  split
  · exact h.setLink
  · exact h
theorem Inv.slotGone (h : Inv s) {r o served} : Inv (s.slotGone r o served) := .ite h.setWin (h.foldl fun _ _ h => h.ageHead).setWin
theorem Inv.passFlit (h : Inv s) {r inp o vc fl rest} : Inv (s.passFlit r inp o vc fl rest) := h.setLink.freeSlot.passOn.slotGone
theorem Inv.passItem (h : Inv s) {r inp o errs fl rest} : Inv (s.passItem r inp o errs fl rest) := by
  dsimp only [State.passItem]
  split
  · exact h
  · exact .ite h (.ite h.flitCe.passFlit.countTaken.countSent h.flitCe.passFlit)
theorem Inv.keeps_execFlitRouterArrival (h : Inv s) {r inp vc errs} : Keeps (execFlitRouterArrival r inp vc errs s) := by
  unfold execFlitRouterArrival
  refine .ite (.next h) ?_
  split
  · exact .next h
  · split
    · exact .next h.setLink.freeSlot.raiseTile
    · split
      · exact .next h.setLink.freeSlot.raise
      · refine .ite (.next h.xchgOrder) ?_
        split
        · exact .next h.slotGone
        · exact .ite (.next h) (.ite (.next h.passItem) (.ite (.next h.flitCe.passFlit) (.next h)))
theorem Inv.keeps_execSumGroupForm (h : Inv s) {r out errs} : Keeps (execSumGroupForm r out errs s) := by
  unfold execSumGroupForm
  split
  · exact .next h
  · refine .ite (.next h) ?_
    extract_lets fs found
    clear_value fs found
    split
    · exact .next h.setLink.freeSlot.raiseTile
    · split
      · exact .next h.xchgOrder
      · split
        · exact .ite (.next h) (.next h.xchgOrder)
        · split
          · exact .next h
          · refine .ite (.next h.xchgOrder) (.ite (.next (.ite h.slotGone h)) ?_)
            split
            next u _ e =>
            extract_lets _ s1 s2
            have hu : Inv u := .fst e h.checkOps
            have h2 : Inv s2 := (hu.foldl fun _ _ h => h.setLink.freeSlot).passOn.slotGone
            exact .next (.ite (h2.foldl fun _ _ h => h.countTaken).countSent h2)
theorem Inv.keeps_execExchangeBegin (h : Inv s) {t errs} : Keeps (execExchangeBegin t errs s) := by
  dsimp only [execExchangeBegin]
  split
  · refine .ite (.next h) ?_
    split
    · exact .next h.storeRange
    · exact .next h.storeErrs.injectAll.modTile
  · exact .next h
theorem Inv.keeps_execExchangeFlitWrite (h : Inv s) {t} : Keeps (execExchangeFlitWrite t s) := by
  unfold execExchangeFlitWrite
  split
  · exact .next h
  · extract_lets _ s1 _ s2
    have h1 : Inv s1 := h.setEject
    have h2 : Inv s2 := .ite h1.countTaken h1
    exact .ite (.next h1.xchgOrder) (.ite (.next h2.storeRange) (.next h2.setTile))

/-! ## Scalar and control instructions -/

theorem Inv.aluWrite (h : Inv s) {t rd v} : Inv (s.aluWrite t rd v) := h.modTile
theorem Inv.aluRR (h : Inv s) {o t rd ra rb} : Inv (aluRR o t rd ra rb s) := h.aluWrite
theorem Inv.aluRI (h : Inv s) {o t rd ra imm} : Inv (aluRI o t rd ra imm s) := h.aluWrite
theorem Inv.keeps_execPopc (h : Inv s) {t ecc rd ra} : Keeps (execPopc t ecc rd ra s) := h.keeps_issue fun _ h => h.aluWrite
theorem Inv.keeps_execCtz (h : Inv s) {t ecc rd ra} : Keeps (execCtz t ecc rd ra s) := h.keeps_issue fun _ h => h.aluWrite
theorem Inv.keeps_execLi (h : Inv s) {t ecc rd imm} : Keeps (execLi t ecc rd imm s) := h.keeps_issue fun _ h => h.aluWrite
theorem Inv.keeps_execLih (h : Inv s) {t ecc rd ra imm} : Keeps (execLih t ecc rd ra imm s) := h.keeps_issue fun _ h => h.aluWrite
theorem Inv.keeps_execExt (h : Inv s) {t ecc rd ra lo len} : Keeps (execExt t ecc rd ra lo len s) := h.keeps_issue fun _ h => h.aluWrite
theorem Inv.branchRR (h : Inv s) {c t ra rb off} : Inv (branchRR c t ra rb off s) := h.modTile
theorem Inv.keeps_execJ (h : Inv s) {t ecc off} : Keeps (execJ t ecc off s) := h.keeps_issue fun _ h => h.modTile
theorem Inv.dbnzStep (h : Inv s) {t ra off} : Inv (dbnzStep t ra off s) := h.modTile
theorem Inv.keeps_execNop (h : Inv s) {t ecc} : Keeps (execNop t ecc s) := h.keeps_issue fun _ h => h.modTile
theorem Inv.illegal (h : Inv s) {t} : Inv (s.illegal t) := h.raiseTile
theorem Inv.endStep (h : Inv s) {t} : Inv (endStep t s) := .ite h.illegal h.modTile
theorem Inv.hsetStep (h : Inv s) {t ra hd} : Inv (hsetStep t ra hd s) := .ite h.setTile h.storeRange
theorem Inv.keeps_execHget (h : Inv s) {t ecc rd hd} : Keeps (execHget t ecc rd hd s) := h.keeps_issue fun _ h => h.aluWrite
theorem Inv.keeps_execRdtally (h : Inv s) {t ecc rd} : Keeps (execRdtally t ecc rd s) := h.keeps_issue fun _ h => h.aluWrite
theorem Inv.keeps_execRdid (h : Inv s) {t ecc rd} : Keeps (execRdid t ecc rd s) := h.keeps_issue fun _ h => h.aluWrite
theorem Inv.keeps_execRdss (h : Inv s) {t ecc rd} : Keeps (execRdss t ecc rd s) := h.keeps_issue fun _ h => h.aluWrite

/-! ## The belfry: signals and messages -/

theorem Inv.addSignal (h : Inv s) {t o inc} : Inv (s.addSignal t o inc) := .ite h.raiseTile h.setTile
theorem Inv.rowsFault (h : Inv s) {t hd lo} : Inv (s.rowsFault t hd lo) := h.storeRange
theorem Inv.takeRows (h : Inv s) {t seq keys errs} : Inv (s.takeRows t seq keys errs).1 := by
  dsimp only [State.takeRows]
  exact h.storeErrs.modTile
theorem Inv.keeps_execSignalArrival (h : Inv s) {t} : Keeps (execSignalArrival t s) := by
  dsimp only [execSignalArrival]
  split
  · exact .ite (.next h.setEject.addSignal) (.next h)
  · exact .next h
theorem Inv.keeps_execPutDataArrival (h : Inv s) {t} : Keeps (execPutDataArrival t s) := by
  dsimp only [execPutDataArrival]
  split
  · exact .ite (.ite (.next h.setEject.storeRange) (.next (.ite h.setEject.setTile.addSignal h.setEject.setTile))) (.next h)
  · exact .next h
theorem Inv.sendRecord (h : Inv s) {t m id ls} : Inv (s.sendRecord t m id ls) := by
  induction ls generalizing s with
  | nil => exact h
  | cons l ls ih => exact ih h.setTile.injectAll
theorem Inv.syncStep (h : Inv s) {t} : Yields Inv (s.syncStep t) := by
  dsimp only [State.syncStep]
  split
  · exact Yields.none
  · split
    · exact .mapAll fun _ => h.setTile.modTile
    · exact .some h.modTile.inject
    · exact .some h.modTile
    · exact .ite (.some h.modTile.takeRows.injectAll) Yields.none
    · exact .ite (.some h.modTile.takeRows.injectAll) Yields.none
    · exact .ite (.some h.modTile.takeRows.modTile.sendRecord) Yields.none
    · exact .ite Yields.none (.some h.modTile)
theorem Inv.drainSync (h : Inv s) {t n} : Inv (State.drainSync t n s) := by
  induction n generalizing s with
  | zero => exact h
  | succ n ih =>
    rw [State.drainSync]
    split
    · exact h
    · next e => exact ih (h.syncStep _ e)
theorem Inv.drain (h : Inv s) {t} : Inv (s.drain t) := h.drainSync
theorem Inv.keeps_execSigSignal (h : Inv s) {t ecc rt obj inc} : Keeps (execSigSignal t ecc rt obj inc s) :=
  h.keeps_issue fun _ h => h.modTile.drain
theorem Inv.putIssue (h : Inv s) {t f hx errs} : Inv (putIssue t f hx errs s) := .ite h.rowsFault h.setTile.drain
theorem Inv.waitIssue (h : Inv s) {t k f} : Inv (waitIssue t k f s) := .ite h.illegal (.ite h.raiseTile (.ite h.setTile h.setTile))
theorem Inv.keeps_execRecv (h : Inv s) {t ecc rt q so} : Keeps (execRecv t ecc rt q so s) := h.keeps_issue fun _ h => h.setTile.drain
theorem Inv.keeps_execPoll (h : Inv s) {t ecc} : Keeps (execPoll t ecc s) :=
  h.keeps_issue fun _ h => .ite h.illegal (.ite h (.ite h.setTile h.setTile))
theorem Inv.keeps_execHandlerEntry (h : Inv s) {t} : Keeps (execHandlerEntry t s) := by
  dsimp only [execHandlerEntry]
  refine .ite ?_ (.next h)
  split
  · exact .next h
  · exact .next h.setTile
theorem Inv.keeps_execHret (h : Inv s) {t ecc} : Keeps (execHret t ecc s) := by
  dsimp only [execHret]
  refine h.keeps_issue fun _ h => ?_
  split
  · exact h.illegal
  · exact .ite h h.setTile
theorem Inv.msgIssue (h : Inv s) {t kind rt q hx len hd so errs} : Inv (msgIssue t kind rt q hx len hd so errs s) :=
  .ite h.rowsFault h.inject.modTile
theorem Inv.ringPlace (h : Inv s) {t q src len act hidx} : Yields (fun p => Inv p.1) (s.ringPlace t q src len act hidx) := by
  dsimp only [State.ringPlace]
  split
  · exact .none
  · refine .ite .none (.some ?_)
    dsimp only
    exact Inv.modTile (.ite h h.memSetWords)
theorem Inv.answerMsg (h : Inv s) {t src q act hx len} : Inv (s.answerMsg t src q act hx len).1 := by
  refine .iteFst (.iteFst h.setTile h.setTile) ?_
  split
  · next s1 _ _ e =>
    have h1 : Inv s1 := h.ringPlace _ e
    dsimp only
    exact h1.modTile
  · exact .iteFst h h.setTile.frame.log
theorem Inv.answerCadd (h : Inv s) {t hx n} : Inv (s.answerCadd t hx n).1 := .iteFst h (.iteFst h.setTile (.iteFst h h))
theorem Inv.keeps_execReservationArrival (h : Inv s) {t} : Keeps (execReservationArrival t s) := by
  dsimp only [execReservationArrival]
  split
  · exact .ite (.ite (.next h.setEject.answerCadd.inject) (.next h.setEject.answerMsg.inject)) (.next h)
  · exact .next h
theorem Inv.keeps_execReservationAnswer (h : Inv s) {t} : Keeps (execReservationAnswer t s) := by
  dsimp only [execReservationAnswer]
  split
  · refine .ite ?_ (.next h)
    split
    · exact .next h.setEject
    · exact .ite (.next h.setEject.setTile) (.next h.setEject.setTile.drain)
  · exact .next h
theorem Inv.keeps_execBusyRetry (h : Inv s) {t} : Keeps (execBusyRetry t s) := by
  dsimp only [execBusyRetry]
  split
  · split
    · exact .ite (.next h.inject.modTile) (.next h)
    · exact .next h
  · exact .next h
theorem Inv.keeps_execQueueSpillStart (h : Inv s) {t q} : Keeps (execQueueSpillStart t q s) := by
  dsimp only [execQueueSpillStart]
  split
  · exact .ite (.next h.setTile.frame) (.next h)
  · exact .next h
theorem Inv.readable (h : Inv s) {t act hidx} : Inv (s.readable t act hidx) := (Inv.ite h.modTile h).drain
theorem Inv.ringUnit (h : Inv s) {a} : Inv (s.ringUnit a) := by
  dsimp only [State.ringUnit]
  refine .ite h ?_
  split
  · exact h
  · exact .ite h.setTile.addSignal h.setTile
theorem Inv.keeps_execMessageFlitArrival (h : Inv s) {t} : Keeps (execMessageFlitArrival t s) := by
  dsimp only [execMessageFlitArrival]
  split
  · refine .ite ?_ (.next h)
    split
    · exact .next h.setEject
    · exact .ite (.next h.setEject.setTile.addSignal.readable) (.next h.setEject.setTile)
  · exact .next h
theorem Inv.keeps_execRingRefill (h : Inv s) {t q errs} : Keeps (execRingRefill t q errs s) := by
  dsimp only [execRingRefill]
  split
  · exact .ite (.next (h.withSnoops fun _ h => h.tierErrs.setTile.readable)) (.next h)
  · exact .next h
theorem Inv.placeResult (h : Inv s) {t slot row} : Inv (s.placeResult t slot row) := .ite h.setTile.addSignal.drain h.setTile
theorem Inv.keeps_execContributionArrival (h : Inv s) {t} : Keeps (execContributionArrival t s) := by
  dsimp only [execContributionArrival]
  split
  · exact .ite (.ite (.next h) (.ite (.next h.setEject.setTile.placeResult) (.next h.setEject.setTile))) (.next h)
  · exact .next h
theorem Inv.keeps_execCombinedResultPlace (h : Inv s) {t slot} : Keeps (execCombinedResultPlace t slot s) := by
  unfold execCombinedResultPlace
  split
  · exact .next h.placeResult
  · exact .next h

/-! ## Update blocks -/

theorem Inv.updWrite (h : Inv s) {a req src ins} : Inv (s.updWrite a req src ins) := .ite h h.frame.log
theorem Inv.imageWrite (h : Inv s) {a req src ins} : Inv (s.imageWrite a req src ins) := .ite h h.frame.log
theorem Inv.unmapped (h : Inv s) {a req} : Inv (s.unmapped a req) := h.log
theorem Inv.pushPacket (h : Inv s) {p} : Inv (s.pushPacket p) := h.frame
theorem Inv.lineWrite (h : Inv s) {a ws carries pol upd req src ins} : Inv (s.lineWrite a ws carries pol upd req src ins) := by
  unfold State.lineWrite
  refine .ite h.unmapped (.ite h.imageWrite ?_)
  split
  · exact .ite h.pushPacket h.memSetSome.cacheWrite
  · exact h.updWrite
  · exact h.pushPacket
theorem Inv.polWords (h : Inv s) {pol req src ins n a ws} : Inv (s.polWords pol req src ins n a ws) := by
  induction n generalizing s a ws with
  | zero => exact h
  | succ n ih =>
    cases ws with
    | nil => exact h
    | cons w ws => exact ih h.lineWrite
theorem Inv.svcWords (h : Inv s) {req src ins n a ws} : Inv (s.svcWords req src ins n a ws) := h.polWords

/-! ## Memory commands -/

theorem Inv.sendFrom (h : Inv s) {sl fs} : Inv (s.sendFrom sl fs) := h.foldl fun _ _ h => h.injectEdge
theorem Inv.respond (h : Inv s) {sl r chit ws} : Inv (s.respond sl r chit ws) := h.sendFrom
theorem Inv.accepted (h : Inv s) {sl r} : Inv (s.accepted sl r) := h.sendFrom
theorem Inv.countHit (h : Inv s) : Inv s.countHit := h.modMem
theorem Inv.countMiss (h : Inv s) : Inv s.countMiss := h.modMem
theorem Inv.countDefer (h : Inv s) {die n} : Inv (s.countDefer die n) := .ite h.frame h.frame
theorem Inv.nearLan (h : Inv s) {sl die} : Inv (s.nearLan sl die) := by
  dsimp only [State.nearLan]
  exact h.modMem
theorem Inv.askStack (h : Inv s) {sl r} : Inv (s.askStack sl r) := .ite h.setSlice.countDefer.nearLan h.setSlice
theorem Inv.startFetch (h : Inv s) {sl r pol} : Inv (s.startFetch sl r pol) := h.setSlice.beginOps
theorem Inv.takeRead (h : Inv s) {sl errs r} : Inv (s.takeRead sl errs r) := by
  dsimp only [State.takeRead]
  split
  · exact h.unmapped.frame.respond
  · exact .ite h.countHit.setSlice.lineErrs.respond h.countMiss.askStack
  · split
    · exact h.setSlice
    · exact .ite h.startFetch (.ite h.countHit.setSlice.lineErrs.respond h.countMiss.startFetch)
theorem Inv.takeWrite (h : Inv s) {sl r upd d src ins} : Inv (s.takeWrite sl r upd d src ins) :=
  ((Inv.ite h (.ite h.countHit h.countMiss)).lineWrite.foldl fun _ _ h => h.ringUnit).accepted
theorem Inv.serveHead (h : Inv s) {sl errs lan fl rest} : Yields (fun p => Inv p.1) (s.serveHead sl errs lan fl rest) := by
  refine .ite (.some h) (.ite ?_ (.some (h.foldl fun _ _ h => h.takeRead)))
  split
  · exact .ite .none (.ite .none (.some h.takeWrite))
  · exact .some h
theorem Inv.serveVc (h : Inv s) {sl errs lan} : Yields Inv (s.serveVc sl errs lan) := by
  dsimp only [State.serveVc]
  split
  · exact .none
  · exact .ite (.ite .none (.some h.sendSnoops)) (h.serveHead.map fun _ h => h.setEdgeQ)
theorem Inv.keeps_execMemoryRequestArrival (h : Inv s) {sl errs} : Keeps (execMemoryRequestArrival sl errs s) := by
  unfold execMemoryRequestArrival
  split
  · next e => exact .next (h.serveVc _ e)
  · exact .next (h.serveVc.getD h)
theorem Inv.keeps_execTierReadResponse (h : Inv s) {sl errs lmark} : Keeps (execTierReadResponse sl errs lmark s) := by
  dsimp only [execTierReadResponse]
  split
  · exact .next h
  · exact .next (Inv.ite (Inv.ite h.countDefer h).setSlice.lineErrs (Inv.ite h.countDefer h).setSlice.lineErrs.cachePut).respond
theorem Inv.keeps_execBlockFetchComplete (h : Inv s) {sl errs tagUe} : Keeps (execBlockFetchComplete sl errs tagUe s) := by
  dsimp only [execBlockFetchComplete]
  split
  · exact .next h
  · exact .next ((Inv.ite h.fetchErrs.endOp (h.fetchErrs.endOp.foldl fun _ _ h => .ite h h.cachePut)).foldl fun _ _ h => h.respond)
theorem Inv.writeUnits (h : Inv s) {sl o} : Inv (s.writeUnits sl o) := h.setSlice.pumpUio
theorem Inv.endDown (h : Inv s) {sl o} : Inv (s.endDown sl o) :=
  Inv.foldl (h.setTag.modMem fun _ h => by split <;> exact h).setSlice.poisonBlk.endOp fun _ _ h => h.respond
theorem Inv.keeps_execBlockWriteDownComplete (h : Inv s) {sl errs tagUe} : Keeps (execBlockWriteDownComplete sl errs tagUe s) := by
  unfold execBlockWriteDownComplete
  split
  · exact .next h
  · refine .ite (.next (h.withSnoops fun _ h => h.endDown)) (.next (h.withSnoops fun _ h => ?_))
    extract_lets s1
    have h1 : Inv s1 := .ite h.fetchErrs h
    exact .ite h1.writeUnits h1.endDown
theorem Inv.keeps_execPatrolScrubRead (h : Inv s) {a ecc} : Keeps (execPatrolScrubRead a ecc s) := by
  dsimp only [execPatrolScrubRead]
  refine .ite (.next h) ?_
  split
  · exact .next h.modMem
  · exact .next h.modMem.memCe
  · exact .next h.modMem.memErr
theorem Inv.uioEnd (h : Inv s) {sl n fail} : Inv (s.uioEnd sl n fail) := by
  dsimp only [State.uioEnd]
  split
  · exact h
  · split
    · exact h.setSlice.pumpUio
    · exact h.modMem.setSlice.log.pumpUio

/-! ## Stream transfers -/

theorem Inv.strIssue (h : Inv s) {t put f} : Inv (strIssue t put f s) := by
  dsimp only [Machine.strIssue]
  split
  · exact h.illegal
  · exact h.storeRange
  · exact h.raiseTile
  · exact h.setTile
theorem Inv.formGet (h : Inv s) {t} : Yields Inv (s.formGet t) := by
  dsimp only [State.formGet]
  split
  · exact Yields.none
  · exact .ite (.some h) (.some h.setTile.injectAll)
theorem Inv.laPass (h : Inv s) {t} : Inv (s.laPass t) := by
  dsimp only [State.laPass]
  refine .ite h ?_
  split
  · exact h
  · exact h
  · exact .ite h (.ite h h.setTile)
theorem Inv.keeps_execLookaheadPass (h : Inv s) {t} : Keeps (execLookaheadPass t s) := by
  refine .ite (.next h) ?_
  split
  · next e => exact .next (h.formGet _ e)
  · exact .next (h.laPass.formGet.getD h.laPass)
theorem Inv.dropLine (h : Inv s) {t tag} : Inv (s.dropLine t tag) := h.setEject
theorem Inv.landTag (h : Inv s) {t tag r} : Yields Inv (s.landTag t tag r) := by
  dsimp only [State.landTag]
  refine .ite (.mapAll fun _ => h.dropLine.modTile) ?_
  split
  · exact Yields.none
  · split
    · exact .ite Yields.none (.ite Yields.none (.some (h.foldl fun _ _ h => h.dropLine).setTile))
    · exact Yields.none
theorem Inv.keeps_execLineLanding (h : Inv s) {t} : Keeps (execLineLanding t s) := by
  refine .next (h.headD fun u hu => ?_)
  obtain ⟨_, -, hu⟩ := List.mem_filterMap.mp hu
  obtain ⟨_, -, hu⟩ := Option.bind_eq_some_iff.mp hu
  exact h.landTag u hu
theorem Inv.sendLines (h : Inv s) {t e ls} : Inv (s.sendLines t e ls) := by
  induction ls generalizing s with
  | nil => exact h
  | cons l ls ih =>
    dsimp only [State.sendLines]
    exact ih h.setTile.injectAll
theorem Inv.keeps_execPutRowTake (h : Inv s) {t errs} : Keeps (execPutRowTake t errs s) := by
  dsimp only [execPutRowTake]
  split
  · exact .next h
  · split
    · exact .ite (.next h) (.ite (.next h.storeErrs.setTile.sendLines) (.next h.storeErrs.setTile))
    · exact .next h
theorem Inv.keeps_execPutLineAccepted (h : Inv s) {t} : Keeps (execPutLineAccepted t s) := by
  dsimp only [execPutLineAccepted]
  split
  · exact .next h
  · split
    · exact .next h.setEject
    · split <;> exact .next h.setEject.setTile
theorem Inv.keeps_execStorePoisonWriteback (h : Inv s) {t} : Keeps (execStorePoisonWriteback t s) := by
  dsimp only [execStorePoisonWriteback]
  split
  · exact .next h
  · exact .next h.setTile

/-! ## The grotto tier -/

theorem Inv.retag (h : Inv s) {blk} : Inv (s.retag blk) := h.setTag
theorem Inv.updLate (h : Inv s) {st a} : Inv (s.updLate st a) := h.log
theorem Inv.modGroup (h : Inv s) {k f} : Inv (s.modGroup k f) := h.frame
theorem Inv.setNf (h : Inv s) {st b} : Inv (s.setNf st b) := .ite h.frame h
theorem Inv.keeps_execUpdatePacketArrival (h : Inv s) {stack errs} : Keeps (execUpdatePacketArrival stack errs s) := by
  dsimp only [execUpdatePacketArrival]
  split
  · exact .next h
  · split
    · exact .next h
    · split
      · exact .next h.frame
      · exact .ite (.next h.frame.updLate) (.next h.frame.tierErrs.memSetWords.setNf.retag)
    · exact .next h.frame.updLate
theorem Inv.putInlet (h : Inv s) {k} : Inv (s.putInlet k) := by
  dsimp only [State.putInlet]
  split
  · exact h
  · exact h.memSetWords.retag
theorem Inv.keeps_execHealthInletWrite (h : Inv s) {stack} : Keeps (execHealthInletWrite stack s) := by
  dsimp only [execHealthInletWrite]
  split
  · exact .next h
  · split
    · exact .ite (.next h.frame.updLate) (.next h.frame.modGroup.putInlet)
    · exact .next h
theorem Inv.beginStep (h : Inv s) {t} : Inv (s.beginStep t) := h.frame.foldl fun _ _ h => h.putInlet
theorem Inv.judge (h : Inv s) {t finite} : Inv (s.judge t finite) := h.frame.foldl fun _ _ h => h.writeEntry
theorem Inv.putCopy (h : Inv s) {g b v ws} : Inv (s.putCopy g b v ws) := h.foldl fun _ _ h => h.svcWords
theorem Inv.doBlock (h : Inv s) {g b r} : Inv (s.doBlock g b r) :=
  .ite h.memSetWords.retag.putCopy.modGroup.writeEntry h.memSetWords.retag.putCopy.modGroup
theorem Inv.tryBlock (h : Inv s) {applied group blk errs} : Inv (s.tryBlock applied group blk errs) := by
  dsimp only [State.tryBlock]
  split
  · exact h
  · refine .ite h ?_
    split
    · exact h
    · exact .ite h (h.withSnoops fun _ h => h.tierErrs.doBlock)
theorem Inv.appendHealth (h : Inv s) {rec} : Inv (s.appendHealth rec) := .ite h.frame h.putH.frame
theorem Inv.healthRecords (h : Inv s) {t} : Inv (s.healthRecords t) := (h.foldl fun _ _ h => h.appendHealth).frame

/-! ## Barriers -/

theorem Inv.setWait (h : Inv s) {sc die w} : Inv (s.setWait sc die w) := h.frame
theorem Inv.dropToken (h : Inv s) {t} : Inv (s.dropToken t) := by
  dsimp only [State.dropToken]
  exact h.setPool.modTile
theorem Inv.holdArrive (h : Inv s) {a} : Inv (s.holdArrive a) := h.frame
theorem Inv.compared (h : Inv s) {as divmask} : Inv (s.compared as divmask) := by
  dsimp only [State.compared]
  split
  · exact h
  · split
    · exact h
    · exact .ite h.frame.log.alert h.frame
theorem Inv.actRelease (h : Inv s) {as nonfinite switch diverge divmask ss} : Inv (s.actRelease as nonfinite switch diverge divmask ss) :=
  (Inv.ite h.frame.setWait.frame h.frame.setWait).compared
theorem Inv.sendAll (h : Inv s) {m} : Inv (s.sendAll m) := h.foldl fun _ _ h => .ite h.sendCtrl h
theorem Inv.tryRelease (h : Inv s) : Inv s.tryRelease := by
  dsimp only [State.tryRelease]
  refine .ite h ?_
  split
  · exact h.sendAll.raise
  · exact .ite h.frame.sendAll.actRelease h
theorem Inv.tryArrive (h : Inv s) : Inv s.tryArrive := by
  dsimp only [State.tryArrive]
  refine .ite h ?_
  split
  · exact h
  · refine .ite h (.ite h.frame.holdArrive.tryRelease ?_)
    split
    · exact h.frame.sendCtrl
    · exact h.frame
theorem Inv.keeps_execBarrierArrival (h : Inv s) {t} : Keeps (execBarrierArrival t s) := by
  unfold execBarrierArrival
  refine .ite (.next h) ?_
  split
  · exact .next h
  · extract_lets _ s1 s2
    have h1 : Inv s1 := h.dropToken.modTile
    have h2 : Inv s2 := .ite h1 h1.setWait
    exact .ite (.next h2.tryArrive) (.next (.ite h2.setWait h2))
theorem Inv.sizePool (h : Inv s) {die} : Inv (s.sizePool die) := by
  dsimp only [State.sizePool]
  split
  · exact h.setPool
  · exact h
theorem Inv.clearLists (h : Inv s) {sc die} : Inv (s.clearLists sc die) := h.frame
theorem Inv.clearPortLists (h : Inv s) : Inv s.clearPortLists := by
  dsimp only [State.clearPortLists]
  exact h.modOport.modOport
theorem Inv.modScope (h : Inv s) {sc die f} : Inv (s.modScope sc die f) := h.foldl fun _ _ h => h.modTile
theorem Inv.releaseScope (h : Inv s) {sc die f} : Inv (s.releaseScope sc die f) :=
  .ite h.modScope.setWait.clearLists.clearPortLists.frame h.modScope.setWait.clearLists
theorem Inv.sizePools (h : Inv s) {sc die} : Inv (s.sizePools sc die) := .ite h.sizePool h.sizePool.sizePool
theorem Inv.keeps_execBarrierRelease (h : Inv s) {scope die} : Keeps (execBarrierRelease scope die s) := by
  dsimp only [execBarrierRelease]
  refine .ite (.next h) ?_
  split
  · exact .next h
  · exact .ite (.next h) (.ite (.next h.releaseScope) (.next h.releaseScope.sizePools))
theorem Inv.keeps_execBarrierSlow (h : Inv s) {scope die} : Keeps (execBarrierSlow scope die s) := by
  dsimp only [execBarrierSlow]
  split
  · exact .next h
  · exact .ite (.next h) (.next h.setWait.log.alert)

/-! ## Chains -/

theorem Inv.chainPin (h : Inv s) : Inv s.chainPin := h.frame
theorem Inv.popCtrl (h : Inv s) {p} : Inv (s.popCtrl p) := h.modOport
theorem Inv.passCtrl (h : Inv s) {p m} : Inv (s.passCtrl p m) := .ite h.sendCtrl h
theorem Inv.keepHello (h : Inv s) {hd} : Inv (s.keepHello hd) := h.frame
theorem Inv.tryHello (h : Inv s) : Inv s.tryHello := by
  dsimp only [State.tryHello]
  refine .ite h (.ite h.frame.keepHello ?_)
  split
  · exact h
  · exact h.frame.sendCtrl
theorem Inv.markStale (h : Inv s) {p} : Inv (s.markStale p) := .ite h.setOport.log h
theorem Inv.finish (h : Inv s) {n ring members} : Inv (s.finish n ring members) := h.frame.frame.markStale.markStale
theorem Inv.form (h : Inv s) : Inv s.form := by
  unfold State.form
  extract_lets _ _ _ _ _ _ s1 s2 _ s3
  have h1 : Inv s1 := .ite h.log h
  have h3 : Inv s3 := Inv.finish (.ite h1.log h1)
  refine .ite ?_ h3
  split
  · exact h3.sendCtrl
  · exact h3
theorem Inv.keeps_execTokenReceive (h : Inv s) {cells} : Keeps (execTokenReceive cells s) := by
  dsimp only [execTokenReceive]
  refine .ite (.next h) ?_
  split
  · exact .next h
  · exact .ite (.next h.frame.tryHello) (.next h.frame)
theorem Inv.chainLost (h : Inv s) {p left} : Inv (s.chainLost p left) := h.raise.alert
theorem Inv.keeps_execIdentReceive (h : Inv s) {port} : Keeps (execIdentReceive port s) := by
  dsimp only [execIdentReceive]
  split
  · exact .ite (.next h.popCtrl.modOport.modOport.log.passCtrl.chainLost) (.next h.popCtrl.modOport.markStale.tryHello.pump)
  · exact .next h
theorem Inv.keeps_execHelloReceive (h : Inv s) {port} : Keeps (execHelloReceive port s) := by
  unfold execHelloReceive
  split
  · refine .ite (.next h.popCtrl.keepHello) ?_
    split
    · exact .next h.popCtrl.sendCtrl
    · exact .next h
  · exact .next h
theorem Inv.keeps_execChainUpReceive (h : Inv s) {port} : Keeps (execChainUpReceive port s) := by
  dsimp only [execChainUpReceive]
  split
  · refine .ite (.next h.popCtrl) ?_
    split
    · exact .next (.ite h.popCtrl.finish.sendCtrl h.popCtrl.finish)
    · exact .next h.popCtrl.finish
  · exact .next h
theorem Inv.keeps_execArriveReceive (h : Inv s) {port} : Keeps (execArriveReceive port s) := by
  dsimp only [execArriveReceive]
  split
  · exact .ite (.next h.popCtrl.holdArrive.tryRelease) (.next h.popCtrl.passCtrl)
  · exact .next h
theorem Inv.keeps_execReleaseReceive (h : Inv s) {port} : Keeps (execReleaseReceive port s) := by
  dsimp only [execReleaseReceive]
  split
  · exact .ite (.next h.popCtrl) (.ite (.next h.popCtrl.passCtrl.raise.frame) (.next h.popCtrl.passCtrl.actRelease))
  · exact .next h
theorem Inv.keeps_execChainDownReceive (h : Inv s) {port} : Keeps (execChainDownReceive port s) := by
  dsimp only [execChainDownReceive]
  split
  · exact .ite (.next h.popCtrl) (.next h.popCtrl.passCtrl.chainLost)
  · exact .next h

/-! ## Services -/

theorem Inv.svcSeen (h : Inv s) {req a n} : Inv (s.svcSeen req a n) :=
  .ite (h.foldl fun _ _ h => h.unmapped) (h.foldl fun _ _ h => h.unmapped).frame
theorem Inv.svcWrite (h : Inv s) {a ins ws} : Inv (s.svcWrite a ins ws) := h.svcWords
theorem Inv.svcBytes (h : Inv s) {a ins bs} : Inv (s.svcBytes a ins bs) := h.svcWrite
theorem Inv.latchSch (h : Inv s) : Inv s.latchSch := h.frame
theorem Inv.startImage (h : Inv s) {img} : Inv (s.startImage img) := (h.foldl fun _ _ h => h.setTile).frame.clearLists.sizePools
theorem Inv.enterBody (h : Inv s) {img o sc counted} : Inv (s.enterBody img o sc counted) :=
  .ite (h.releaseScope.foldl fun _ _ h => h.modTile).sizePools (h.foldl fun _ _ h => h.modTile).clearLists.sizePools

/-! ## Objects -/

theorem Inv.beginStream (h : Inv s) {what ctx src dst len hostSrc hostDst pol} :
    Inv (s.beginStream what ctx src dst len hostSrc hostDst pol) := h.frame
theorem Inv.dropStream (h : Inv s) {what} : Inv (s.dropStream what) := h.frame
theorem Inv.setStream (h : Inv s) {m} : Inv (s.setStream m) := h.frame
theorem Inv.moveObj (h : Inv s) {id tier base} : Inv (s.moveObj id tier base) := h.modObj
theorem Inv.beginMove (h : Inv s) {ctx id base} : Inv (s.beginMove ctx id base) := by
  unfold State.beginMove
  split
  · exact h
  · exact h.beginStream
theorem Inv.freeObj (h : Inv s) {id} : Inv (s.freeObj id) := h.frame
theorem Inv.endJob (h : Inv s) {j} : Inv (s.endJob j) := by
  dsimp only [State.endJob]
  split
  · exact h.frame.frame.complete
  · exact h.frame.moveObj.complete
theorem Inv.nextMove (h : Inv s) {j} : Inv (s.nextMove j) := by
  dsimp only [State.nextMove]
  split
  · split
    · exact h.frame.endJob
    · exact h.frame.beginMove
  · split
    · exact h.frame.beginMove
    · exact h.frame
theorem Inv.keeps_execPlace (h : Inv s) {ctx} : Keeps (execPlace ctx s) := by
  dsimp only [execPlace]
  split
  · exact .next h
  · refine .ite (.next h.complete) ?_
    split
    · exact .next h.complete
    · exact .next h.nextMove
theorem Inv.keeps_execEvict (h : Inv s) {ctx} : Keeps (execEvict ctx s) := by
  dsimp only [execEvict]
  split
  · exact .next h
  · split
    · exact .next h.complete
    · refine .ite (.next h.complete) (.ite (.next h.freeObj.complete) (.ite (.next h.complete) ?_))
      split
      · exact .next h.complete
      · exact .next h.nextMove
theorem Inv.keeps_execObjectSpillComplete (h : Inv s) {obj} : Keeps (execObjectSpillComplete obj s) := by
  dsimp only [execObjectSpillComplete]
  split
  · exact .next h
  · split
    · refine .ite (.next h) (.next (Inv.nextMove (Inv.frame (Inv.postEvicted ?_))))
      split
      · exact h.dropStream.moveObj
      · exact h.freeObj
    · exact .next h
theorem Inv.keeps_execCopy (h : Inv s) {ctx} : Keeps (execCopy ctx s) := by
  dsimp only [execCopy]
  split
  · exact .next h
  · exact .ite (.next h) (.ite (.next h.complete) (.next h.beginStream))
theorem Inv.readStream (h : Inv s) {m data errs} : Inv (s.readStream m data errs) :=
  .ite (.ite h.setStream h) (h.withSnoops fun _ h => h.tierErrs.svcSeen.setStream)
theorem Inv.endStream (h : Inv s) {m} : Inv (s.endStream m) := by
  unfold State.endStream
  split
  · exact h.dropStream.complete
  · split
    · exact .ite h.dropStream.endJob h
    · exact h
theorem Inv.writeStream (h : Inv s) {m} : Inv (s.writeStream m) := by
  dsimp only [State.writeStream]
  split
  · exact h
  · refine .ite (.ite h.send.setStream.endStream h.send.setStream) (h.withSnoops fun _ h => ?_)
    exact .ite h.polWords.setStream.endStream h.polWords.setStream

/-! ## Lantern outputs -/

theorem Inv.setLan (h : Inv s) {n o} : Inv (s.setLan n o) := .ite h.frame h.frame
theorem Inv.modLan (h : Inv s) {n f} : Inv (s.modLan n f) := h.setLan
theorem Inv.endSubs (h : Inv s) {l status result} : Inv (s.endSubs l status result) := h.foldl fun _ _ h => h.complete
theorem Inv.lanStop (h : Inv s) {n} : Inv (s.lanStop n) := h.setLan.endSubs
theorem Inv.lanFail (h : Inv s) {n cause} : Inv (s.lanFail n cause) := h.lanStop.modLan.log.alert
theorem Inv.lanAccept (h : Inv s) {n} : Inv (s.lanAccept n) := .ite h.setLan h.setLan
theorem Inv.ownerLost (h : Inv s) {c} : Inv (s.ownerLost c) := h.foldl fun _ _ h => .ite (.ite h.setLan h.setLan.endSubs) h
theorem Inv.keeps_execFrameSubmit (h : Inv s) {ctx} : Keeps (execFrameSubmit ctx s) := by
  dsimp only [execFrameSubmit]
  split
  · exact .next h
  · exact .ite (.next h.complete) (.ite (.next h.complete) (.ite (.next h.complete) (.ite (.next h) (.next h.setLan.unqueue))))
theorem Inv.lanAsk (h : Inv s) {n p} : Inv (s.lanAsk n p) := by
  dsimp only [State.lanAsk]
  split
  · exact h.setLan.injectEdge
  · exact h.setLan
theorem Inv.lanPump (h : Inv s) {n} : Inv (s.lanPump n) := h.modLan.foldl fun _ _ h => h.lanAsk
theorem Inv.lanLine (h : Inv s) {n k} : Inv (s.lanLine n k) := .ite h.setLan.lanPump h
theorem Inv.lanTake (h : Inv s) {n} : Inv (s.lanTake n) := (h.foldl fun _ _ h => h.modLan.setEdgeQ).lanPump
theorem Inv.lineLate (h : Inv s) {n k} : Inv (s.lineLate n k) := .ite h (.ite h.setLan h.setLan.log)
theorem Inv.lineSent (h : Inv s) {n k} : Inv (s.lineSent n k) := by
  dsimp only [State.lineSent]
  exact h.lineLate.modLan
theorem Inv.keeps_execLatchPoint (h : Inv s) {out} : Keeps (execLatchPoint out s) := by
  unfold execLatchPoint
  extract_lets _ _ _ s2 _ _ _ _ _ s3
  have h2 : Inv s2 := by unfold s2; split <;> [exact h.lanTake.lineSent; exact h.lanTake]
  have h3 : Inv s3 := by unfold s3; split <;> [exact h2.setLan.endSubs; exact h2.setLan]
  exact .ite (.next h) (.ite (.next (.ite h2.lanStop.modLan.modLan h2.lanStop.modLan)) (.next h3.lanLine.lanLine))
theorem Inv.keeps_execFirstActivePixel (h : Inv s) {out} : Keeps (execFirstActivePixel out s) := by
  dsimp only [execFirstActivePixel]
  refine .ite (.next h) ?_
  split
  · exact .next h.setLan
  · exact .next h.setLan.complete
theorem Inv.keeps_execLineStart (h : Inv s) {out} : Keeps (execLineStart out s) := by
  dsimp only [execLineStart]
  refine .ite (.next h) ?_
  split
  · exact .next h.lanTake.modLan.lanLine
  · exact .ite (.next h.lanTake.lineSent.modLan.lanLine) (.next h)
  · exact .next h
theorem Inv.keeps_execLineUnderrun (h : Inv s) {out} : Keeps (execLineUnderrun out s) := by
  dsimp only [execLineUnderrun]
  split
  · exact .next (.ite h.lanTake.lineLate h)
  · exact .next h
theorem Inv.keeps_execOutputStartComplete (h : Inv s) {out res} : Keeps (execOutputStartComplete out res s) := by
  dsimp only [execOutputStartComplete]
  refine .ite (.next h) (.ite (.next h.lanFail) ?_)
  split
  · exact .next h.setLan
  · exact .next h.lanFail
  · exact .next h.lanFail
  · exact .next h.lanFail
theorem Inv.auxCmd (h : Inv s) {n op len addr} : Inv (s.auxCmd n op len addr) := .ite h h.modLan
theorem Inv.keeps_execAuxReply (h : Inv s) {out ans data0 data1} : Keeps (execAuxReply out ans data0 data1 s) := by
  dsimp only [execAuxReply]
  split
  · exact .next h
  · exact .ite (.next h) (.ite (.next h.setLan) (.next h.setLan))

/-! ## Opver frames -/

theorem Inv.portUp (h : Inv s) {p} : Inv (s.portUp p) := h.modOport.chainPin.pump
theorem Inv.portDown (h : Inv s) {p} : Inv (s.portDown p) := h.modOport.chainPin.log.alert
theorem Inv.keeps_execLinkRetrain (h : Inv s) {port ok} : Keeps (execLinkRetrain port ok s) :=
  .ite (.ite (.next h.portUp) (.next (.ite h.setOport.portDown h.setOport))) (.next h)
theorem Inv.freeNow (h : Inv s) {p vc} : Inv (s.freeNow p vc) := h.modOport
theorem Inv.deliver (h : Inv s) {p f} : Inv (s.deliver p f) :=
  .ite (.ite h.freeNow h.injectEdge) (.ite h.freeNow.portAccept h.freeNow.raise)
theorem Inv.keeps_execFrameReceive (h : Inv s) {port block fix} : Keeps (execFrameReceive port block fix s) := by
  dsimp only [execFrameReceive]
  refine .ite (.next h) ?_
  split
  · exact .next h.setOport
  · split
    · exact .next h.setOport.pump
    · exact .ite (.next h.setOport.pump) (by split <;> exact .next h.setOport)
    · exact .ite (.next (h.setOport.foldl fun _ _ h => h.deliver).pump) (.next h.setOport)
theorem Inv.keeps_execNakReceive (h : Inv s) {port} : Keeps (execNakReceive port s) := by
  dsimp only [execNakReceive]
  split
  · exact .next h
  · split
    · exact .next h.setOport
    · exact .ite (.next h) (.next h.setOport)

/-! ## Power and throttling -/

theorem Inv.strapRegs (h : Inv s) : Inv s.strapRegs := by
  dsimp only [State.strapRegs]
  refine .ite h (h.withRegs ((h.shadowOk.set (by decide) ?_).set (by decide) ?_) (aWf_aSet _ _ _ _ (aWf_aSet _ _ _ _ h.active)))
  · rintro _ ⟨⟩; split <;> decide
  · rintro _ ⟨⟩; split <;> decide
theorem Inv.thermPin (h : Inv s) : Inv s.thermPin := h.frame
theorem Inv.bridgePorts (h : Inv s) : Inv s.bridgePorts := h.frame
theorem Inv.setMemact (h : Inv s) : Inv s.setMemact := .ite h.frame h
theorem Inv.powerOff {vin tripped} : Inv (s.powerOff vin tripped) := .ofReset Mem.wf_empty rfl rfl
theorem Inv.keeps_execVin48Rise (h : Inv s) {decivolt} : Keeps (execVin48Rise decivolt s) :=
  .ite Keeps.fault (.ite (.next h) (.ite (.next h.frame) (.next h.frame)))
theorem Inv.keeps_execMemoryPhyTrained (h : Inv s) : Keeps (execMemoryPhyTrained s) := by
  refine .ite (.next h) (.next (h.withMem ?_))
  exact h.mem
theorem Inv.keeps_execMemoryClearComplete (h : Inv s) : Keeps (execMemoryClearComplete s) := by
  dsimp only [execMemoryClearComplete]
  refine .ite (.next h) (.next (Inv.setMemact (h.withMem ?_)))
  exact Mem.wf_clearRange _ 0 (3 * 2 ^ 40) h.mem
theorem Inv.keeps_execVin48Loss (_ : Inv s) : Keeps (execVin48Loss s) := .next .powerOff
theorem Inv.keeps_execThermalTrip (h : Inv s) : Keeps (execThermalTrip s) := .ite (.next h) (.next .powerOff)
theorem Inv.keeps_execPerstAssert (h : Inv s) : Keeps (execPerstAssert s) :=
  .ite (.next h) (.next (Inv.thermPin (Inv.strapRegs (.ofReset h.mem rfl rfl))))
theorem Inv.holdRegs (h : Inv s) : Inv s.holdRegs := ⟨h.mem, h.tiles, h.shadow, h.active, h.reserved⟩

/-! ## The matrix engine -/

theorem Inv.mmaIssue (h : Inv s) {t kind f} : Inv (mmaIssue t kind f s) := by
  dsimp only [Machine.mmaIssue]
  split
  · exact h.storeRange
  · exact h.setTile
theorem Inv.keeps_execTokenGrant (h : Inv s) {die} : Keeps (execTokenGrant die s) := by
  dsimp only [execTokenGrant]
  split
  · exact .next h
  · exact .ite (.next h.setPool.modTile) (.next h)
theorem Inv.keeps_execInitialLoadComplete (h : Inv s) {t errs} : Keeps (execInitialLoadComplete t errs s) := by
  dsimp only [execInitialLoadComplete]
  split
  · exact .ite (.next h.storeErrs.setTile) (.next h)
  · exact .next h
theorem Inv.keeps_execMxeOperationStart (h : Inv s) {t errs} : Keeps (execMxeOperationStart t errs s) := by
  dsimp only [execMxeOperationStart]
  split
  · exact .ite (.next h.storeErrs.setTile) (.next h)
  · exact .next h
theorem Inv.keeps_execArrayWorkComplete (h : Inv s) {t steps} : Keeps (execArrayWorkComplete t steps s) := by
  dsimp only [execArrayWorkComplete]
  split
  · exact .ite (.next h.setTile) (.next h)
  · exact .next h
theorem Inv.keeps_execDrainComplete (h : Inv s) {t} : Keeps (execDrainComplete t s) := by
  dsimp only [execDrainComplete]
  split
  · exact .ite (.next h.setTile) (.next h)
  · exact .next h

/-! ## Serving -/

theorem Inv.putSeq (h : Inv s) {c x slot} : Inv (s.putSeq c x slot) := h.setSession.writeSeq
theorem Inv.seqLeft (h : Inv s) {c x slot} : Inv (s.seqLeft c x slot).1 :=
  ((h.foldl fun _ _ h => h.complete).foldl fun _ _ h => h.complete).putSeq
theorem Inv.closeSession (h : Inv s) {c x id} : Inv (s.closeSession c x id) :=
  ((h.foldl fun _ _ h => h.complete).foldlFst fun _ _ h => h.seqLeft).writeScb.setSession.complete
theorem Inv.tryOpen (h : Inv s) {c} : Inv (s.tryOpen c) :=
  .ite h.complete (h.withSnoops fun _ h => h.memClearRange.setSession.writeScb.complete)
theorem Inv.keeps_execServeOpen (h : Inv s) {ctx errs} : Keeps (execServeOpen ctx errs s) := by
  dsimp only [execServeOpen]
  split
  · exact .next h
  · exact .ite (.next h.complete) (.ite (.next (h.withSnoops fun _ h => h.tierErrs.tryOpen)) (.next h.tryOpen))
theorem Inv.slotDone (h : Inv s) {c status} : Inv (s.slotDone c status) := h.complete
theorem Inv.keeps_execServeClose (h : Inv s) {ctx} : Keeps (execServeClose ctx s) := by
  unfold execServeClose
  split
  · exact .next h
  · split
    · exact .next h.complete
    · exact .ite (.ite (.next h) (.next h.unqueue.setSession)) (.next (h.withSnoops fun _ h => h.closeSession))
theorem Inv.keeps_execServeJoin (h : Inv s) {ctx} : Keeps (execServeJoin ctx s) := by
  dsimp only [execServeJoin]
  split
  · exact .next h
  · split
    · exact .next h.slotDone
    · exact .ite (.next h.slotDone) (.ite (.next h.slotDone) (.ite (.next h.slotDone) (.next (h.withSnoops fun _ h => h.unqueue.putSeq))))
theorem Inv.keeps_execServeCont (h : Inv s) {ctx} : Keeps (execServeCont ctx s) := by
  dsimp only [execServeCont]
  split
  · exact .next h
  · split
    · exact .next h.slotDone
    · exact .ite (.next h.slotDone) (.ite (.next h.slotDone) (.ite (.next h.slotDone) (.next (h.withSnoops fun _ h => h.unqueue.putSeq))))
theorem Inv.keeps_execServeLeave (h : Inv s) {ctx} : Keeps (execServeLeave ctx s) := by
  dsimp only [execServeLeave]
  split
  · exact .next h
  · split
    · exact .next h.slotDone
    · refine .ite (.next h.slotDone) (.next (h.withSnoops fun _ h => .ite ?_ ?_))
      · exact (h.foldl fun _ _ h => h.complete).putSeq.complete
      · exact .ite h.unqueue.putSeq h.unqueue.putSeq.seqLeft
theorem Inv.keeps_execGatherWindowExpiry (h : Inv s) : Keeps (execGatherWindowExpiry s) := by
  unfold execGatherWindowExpiry
  split
  · exact .next h
  · exact .ite (.next h.setSession) (.next h)
theorem Inv.addPages {p : State × Sess} (h : Inv p.1) {slot n} : Inv (State.addPages slot n p).1 := by
  induction n generalizing p with
  | zero => exact h
  | succ n ih => exact ih h.memSetBytes
theorem Inv.pageEnt {p : State × Sess} (h : Inv p.1) {b} : Inv (State.pageEnt p b).1 := h.addPages
theorem Inv.keeps_execAdmissionPoint (h : Inv s) : Keeps (execAdmissionPoint s) := by
  unfold execAdmissionPoint
  split
  · exact .next h
  · split
    · exact .next h
    · refine .ite (.next h) (.next (h.withSnoops fun _ h => ?_))
      extract_lets
      split
      next s2 _ e =>
      have h2 : Inv s2 := .fst e (h.foldlFst fun _ _ h => h.pageEnt)
      have hw {c x l} : Inv (List.foldl (fun s k => s.writeSeq x k) (s2.setSession c x) l) := h2.setSession.foldl fun _ _ h => h.writeSeq
      exact .ite hw hw.svcBytes.enterBody
theorem Inv.outHeader (h : Inv s) {x b} : Inv (s.outHeader x b) := h.svcBytes
theorem Inv.keeps_execBatchStepEnd (h : Inv s) : Keeps (execBatchStepEnd s) := by
  unfold execBatchStepEnd
  split
  · exact .next h
  · split
    · refine .ite (.next h) (.next (h.withSnoops fun _ h => ?_))
      extract_lets _ s1 _ _ _ _ s2 _
      have h2 : Inv s2 := (h.foldl fun _ _ h => h.outHeader).setSession.foldl fun _ _ h => h.writeSeq
      split
      next s3 _ e =>
      have h3 : Inv s3 := .fst e (h2.foldlFst fun _ _ h => h.seqLeft)
      extract_lets s4 s5
      have h4 : Inv s4 := h3.writeScb.foldl fun _ _ h => h.complete
      have h5 : Inv s5 := by unfold s5; split <;> [exact h4.closeSession; exact h4]
      exact .ite h5.latchSch h5.latchSch.releaseScope
    · exact .next h

/-! ## Training -/

theorem Inv.writeTcb (h : Inv s) {r} : Inv (s.writeTcb r) := h.svcBytes.svcBytes
theorem Inv.setRun (h : Inv s) {r} : Inv (s.setRun r) := h.frame
theorem Inv.tryRun (h : Inv s) {c} : Inv (s.tryRun c) := .ite h.complete (h.withSnoops fun _ h => h.setRun.writeTcb)
theorem Inv.keeps_execRunSteps (h : Inv s) {ctx errs} : Keeps (execRunSteps ctx errs s) := by
  unfold execRunSteps
  split
  · exact .next h
  · exact .ite (.next h) (.ite (.next (h.withSnoops fun _ h => h.tierErrs.tryRun)) (.next h.tryRun))
theorem Inv.endRun (h : Inv s) {status} : Inv (s.endRun status) := by
  dsimp only [State.endRun]
  split
  · exact h
  · exact ((Inv.ite h.releaseScope h).frame.clearRunning.foldl fun _ _ h => h.complete).complete
theorem Inv.feedEnd (h : Inv s) : Inv s.feedEnd := by
  unfold State.feedEnd
  split
  · exact .ite h.endRun h
  · exact h
theorem Inv.keeps_execFeedEntryFilled (h : Inv s) {fill errs} : Keeps (execFeedEntryFilled fill errs s) := by
  dsimp only [execFeedEntryFilled]
  split
  · exact .next h
  · split
    · exact .next h
    · split
      · exact .next h
      · exact .ite (.next h) (.next (h.withSnoops fun _ h => (h.tierErrs.foldl fun _ _ h => h.svcSeen).svcWrite.setRun.feedEnd))
theorem Inv.writeLine (h : Inv s) {r} : Inv (s.writeLine r) := h.svcBytes.setRun
theorem Inv.tryLine (h : Inv s) : Inv s.tryLine := by
  unfold State.tryLine
  split
  · exact .ite h (h.withSnoops fun _ h => h.writeLine)
  · exact h
theorem Inv.beginRunStep (h : Inv s) {r img held} : Inv (s.beginRunStep r img held) := h.setRun.beginStep.modScope.enterBody
theorem Inv.tryFirst (h : Inv s) : Inv s.tryFirst := by
  unfold State.tryFirst
  split
  · exact h
  · split
    · exact .ite h.beginRunStep h
    · exact h
theorem Inv.keeps_execRunFirstStepStart (h : Inv s) : Keeps (execRunFirstStepStart s) := by
  unfold execRunFirstStepStart
  split
  · exact .next h
  · exact .ite (.next h) (.ite (.next h.endRun) (.ite (.next h.tryLine.tryFirst) (.next h)))
theorem Inv.keeps_execStackFlagReport (h : Inv s) {stack} : Keeps (execStackFlagReport stack s) := by
  dsimp only [execStackFlagReport]
  split
  · exact .next h
  · exact .ite (.next h) (.next (.ite h.frame.tryArrive h.frame))
theorem Inv.keeps_execVerdictArrival (h : Inv s) : Keeps (execVerdictArrival s) := by
  dsimp only [execVerdictArrival]
  split
  · exact .next h
  · exact .ite (.next h) (.next h.judge.setRun)
theorem Inv.nbrWrite (h : Inv s) {m a tag ws} : Inv (s.nbrWrite m a tag ws) := h.foldl fun _ _ h => h.injectEdge
theorem Inv.nbrLines (h : Inv s) {m a ws} : Inv (s.nbrLines m a ws) := h.foldl fun _ _ h => h.nbrWrite
theorem Inv.sendHeader (h : Inv s) {c complete} : Inv (s.sendHeader c complete) := h.nbrLines
theorem Inv.beginCkpt (h : Inv s) {r t} : Inv (s.beginCkpt r t) := by
  dsimp only [State.beginCkpt]
  split
  · exact h
  · exact h.frame.sendHeader
theorem Inv.keeps_execCheckpointBlockRead (h : Inv s) {group blk errs} : Keeps (execCheckpointBlockRead group blk errs s) := by
  unfold execCheckpointBlockRead
  extract_lets
  split
  · exact .next h
  · extract_lets u _ _ _ s1
    have hu : Inv u := .ite h.tierErrs h
    have h1 : Inv s1 := by unfold s1; split <;> [exact hu; exact .ite hu.frame.modGroup.nbrLines hu]
    split
    · exact .next h1
    · split
      · exact .next h1
      · exact .ite (.next h1.setRun) (.next h1)
theorem Inv.keeps_execCheckpointComplete (h : Inv s) : Keeps (execCheckpointComplete s) := by
  dsimp only [execCheckpointComplete]
  split
  · exact .next h
  · exact .ite (.next h) (.ite (.next h.setEdgeQ.frame.sendHeader) (.next (h.setEdgeQ.frame.foldl fun _ _ h => h.complete)))
theorem Inv.keeps_execCheckpoint (h : Inv s) {ctx} : Keeps (execCheckpoint ctx s) := by
  unfold execCheckpoint
  split
  · exact .next h
  · refine .ite (.next h) ?_
    split
    · exact .ite (.next h.complete) (.ite (.next h.unqueue.setRun) (.next h.complete))
    · exact .next h.complete
    · exact .next h.complete
theorem Inv.keeps_execFingerprintComplete (h : Inv s) : Keeps (execFingerprintComplete s) := by
  unfold execFingerprintComplete
  split
  · exact .next h
  · split
    · exact .next h
    · exact .ite (.next h) (.next h.setRun.tryArrive)
theorem Inv.closeStep (h : Inv s) {r t} : Inv (s.closeStep r t) := by
  dsimp only [State.closeStep]
  split
  · exact (Inv.ite h.healthRecords.frame.beginCkpt h.healthRecords.frame).writeTcb
  · exact .ite h.healthRecords.frame.beginCkpt h.healthRecords.frame
theorem Inv.afterStep (h : Inv s) : Inv s.afterStep := by
  unfold State.afterStep
  split
  · exact h
  · exact .ite h.endRun (.ite h.endRun (.ite h.endRun (.ite h.endRun (.ite h.latchSch.setRun h.latchSch))))
theorem Inv.tryBegin (h : Inv s) : Inv s.tryBegin := by
  unfold State.tryBegin
  split
  · exact h
  · split
    · exact h
    · exact .ite h.beginRunStep h
theorem Inv.keeps_execStepEnd (h : Inv s) : Keeps (execStepEnd s) := by
  dsimp only [execStepEnd]
  split
  · exact .next h
  · exact .ite (.ite (.next (h.withSnoops fun _ h => h.closeStep.afterStep.tryLine.tryBegin)) (.next h)) (.next h.feedEnd.tryLine.tryBegin)
theorem Inv.recopyBlk (h : Inv s) {g b ws} : Inv (s.recopyBlk g b ws) := h.memSetWords.retag.putCopy.modGroup
theorem Inv.keeps_execRecopy (h : Inv s) {blocks} : Keeps (execRecopy blocks s) := by
  dsimp only [execRecopy]
  split
  · exact .next h
  · refine .ite (.next h) (.next (Inv.tryBegin (Inv.setRun (h.foldl fun _ _ h => ?_))))
    split
    · exact h.recopyBlk
    · exact h

/-! ## Scheduling and contexts -/

theorem Inv.restore (h : Inv s) {c img a} : Inv (s.restore c img a) :=
  .ite (h.foldl fun _ _ h => h.setTile).clearLists.frame (h.foldl fun _ _ h => h.setTile).clearLists
theorem Inv.setClient (h : Inv s) {c x} : Inv (s.setClient c x) := h.frame
theorem Inv.wakeClients (h : Inv s) : Inv s.wakeClients := h.foldl fun _ _ h => h.setClient
theorem Inv.resumeRun (h : Inv s) {c} : Inv (s.resumeRun c) := by
  unfold State.resumeRun
  split
  · exact .ite h.setRun h
  · exact h
theorem Inv.keeps_execPreemptionPoint (h : Inv s) : Keeps (execPreemptionPoint s) :=
  have hw := h.wakeClients
  .ite (.next hw) (.ite (.next (.ite hw.frame hw)) (.ite (.next hw.frame.resumeRun) (.next hw)))
theorem Inv.saveErrs (h : Inv s) {errs} : Inv (s.saveErrs errs) := h.foldl fun _ _ h => h.storeErrs
theorem Inv.keeps_execContextSaveComplete (h : Inv s) {errs} : Keeps (execContextSaveComplete errs s) := by
  dsimp only [execContextSaveComplete]
  refine .ite (.next h) ?_
  split
  · exact .next h.wakeClients.setClient.frame
  · exact .next (h.withSnoops fun _ h => h.saveErrs.svcWrite.wakeClients.setClient.frame)
theorem Inv.startClient (h : Inv s) {c} : Inv (s.startClient c) := h.setClient.latchSch.frame.resumeRun
theorem Inv.tryRestore (h : Inv s) {c img a errs k} (hk : ∀ s, Inv s → Inv (k s)) : Inv (s.tryRestore c img a errs k) :=
  h.withSnoops fun _ h => .ite h.tierErrs (hk _ h.tierErrs.restore.svcSeen)
theorem Inv.keeps_execContextRestoreComplete (h : Inv s) {errs} : Keeps (execContextRestoreComplete errs s) := by
  dsimp only [execContextRestoreComplete]
  refine .ite (.next h) ?_
  split
  · exact .next h.wakeClients
  · split
    · exact .next h.wakeClients
    · exact .ite (.next (h.wakeClients.tryRestore fun _ h => h.startClient)) (.next h.wakeClients.startImage.startClient)
theorem Inv.keeps_execPreemptLate (h : Inv s) : Keeps (execPreemptLate s) := by
  dsimp only [execPreemptLate]
  split
  · exact .next h
  · exact .ite (.next h) (.next h.setClient.frame.log.alert)
theorem Inv.keeps_execCtxSave (h : Inv s) {ctx errs} : Keeps (execCtxSave ctx errs s) := by
  dsimp only [execCtxSave]
  split
  · exact .ite (.next h) (.ite (.next h.complete.resumeRun) (.next (h.withSnoops fun _ h => h.saveErrs.svcWrite.complete.resumeRun)))
  · exact .next h
theorem Inv.putContext (h : Inv s) {c img a n} : Inv (s.putContext c img a n) :=
  .ite (.ite h.restore.complete h) (.ite h.complete (h.withSnoops fun _ h => h.svcWrite.setClient.complete))
theorem Inv.keeps_execCtxRestore (h : Inv s) {ctx errs} : Keeps (execCtxRestore ctx errs s) := by
  dsimp only [execCtxRestore]
  split
  · exact .next h
  · refine .ite (.next h) (.next (h.withSnoops fun _ h => ?_))
    split
    · exact h.tierErrs.complete.svcSeen
    · exact h.tierErrs.complete
    · exact h.tierErrs.putContext.svcSeen

/-! ## Registers -/

theorem Inv.keeps_execCounterRead (h : Inv s) {off} : Keeps (execCounterRead off s) := by
  dsimp only [execCounterRead]
  split
  · exact .next h
  · exact .next h.regsFrame
theorem Inv.snapTile (h : Inv s) {t} : Inv (s.snapTile t) := h.modTile
theorem Inv.sigOp (h : Inv s) {t obj add value} : Inv (s.sigOp t obj add value) := .ite h.setTile h.setTile.log

/-! ## Commits -/

theorem Inv.setCmt (h : Inv s) {b c} : Inv (s.setCmt b c) := h.regsFrame
theorem Inv.lanRefused (h : Inv s) {cause v} : Inv (s.lanRefused cause v) := by
  dsimp only [State.lanRefused]
  refine .ite h.modLan.modLan (.ite (h.foldl fun _ _ h => ?_) h)
  split
  · exact h.modLan
  · exact h
theorem Inv.refuseIn (h : Inv s) {v b cause detail} : Inv (s.refuseIn v b cause detail) := .ite h.refuse.lanRefused h.refuse
theorem Inv.hstAccept (h : Inv s) {old} : Inv (s.hstAccept old) := h.foldl fun _ _ h => .ite h (.ite h.setCtx h.modCtx.ownerLost)
theorem Inv.dropGroups (h : Inv s) {gs} : Inv (s.dropGroups gs) := by
  dsimp only [State.dropGroups]
  exact h.modMem
theorem Inv.trgAccept (h : Inv s) {ring} : Inv (s.trgAccept ring) := (h.dropGroups.foldl fun _ _ h => h.updLate).frame
theorem Inv.accept (h : Inv s) {old b} : Inv (s.accept old b) := by
  unfold State.accept
  split
  · exact h.hstAccept
  · exact h.thermPin
  · exact h.trgAccept
  · exact h.lanAccept.lanAccept
  · exact h
theorem Inv.activate (h : Inv s) {l} : Inv (s.activate l) := by
  dsimp only [State.activate]
  refine h.foldl fun _ _ h => Inv.setCmt (h.withRegs h.shadowOk ?_)
  exact aWf_foldl_aSet (aWf_filter _ _ _ h.active)
theorem Inv.applySet (h : Inv s) {l glob} : Inv (s.applySet l glob) := by
  unfold State.applySet
  extract_lets _ fails s1 _ s2
  have h1 : Inv s1 := h.foldl fun _ _ h => by split <;> exact h.refuseIn
  have h2 : Inv s2 := h.activate.foldl fun _ _ h => h.accept
  clear_value fails s1 s2
  split
  · exact .ite h1.regsFrame h1
  · exact .ite h2.regsFrame h2
theorem Inv.commitWrite (h : Inv s) {b crc hold gen} : Inv (s.commitWrite b crc hold gen) :=
  .ite h (.ite h.refuseIn (.ite h.refuseIn (.ite h.refuseIn (.ite h.refuseIn (.ite h.setCmt h.setCmt.applySet)))))
theorem Inv.gcommit (h : Inv s) {mask} : Inv (s.gcommit mask) := .ite h (.ite h.regsFrame.regsFrame h.regsFrame.applySet)
theorem Inv.openGroup (h : Inv s) {g} : Inv (s.openGroup g) := (h.foldl fun _ _ h => h.memSetWords.retag.putCopy).writeEntry
theorem Inv.doWork (h : Inv s) {b} : Inv (s.doWork b) := by
  unfold State.doWork
  split
  · exact h.foldl fun _ _ h => h.openGroup
  · exact .ite (h.modMem fun _ hm => Mem.wf_clearRange _ _ _ (Mem.wf_clearRange _ _ _ hm)) h
  · exact h
theorem Inv.keeps_execCommitWorkDone (h : Inv s) {b} : Keeps (execCommitWorkDone b s) :=
  .ite (.next h) (.next (h.withSnoops fun _ h => .ite h.doWork.setCmt.regsFrame h.doWork.setCmt))

/-! ## Images -/

theorem Inv.patch (h : Inv s) {b ids e} : Yields Inv (s.patch b ids e) := by
  dsimp only [State.patch]
  split
  · refine .ite .none ?_
    split
    · refine .ite .none ?_
      split
      · exact .ite (.some (h.modMem fun _ hm => Mem.wf_setWord _ _ _ (Mem.wf_setWord _ _ _ hm))) .none
      · exact .none
    · exact .ite .none (.some h.memSetWord)
    · exact .none
  · exact .none
theorem Inv.patches (h : Inv s) {b ids} : Yields Inv (s.patches b ids) :=
  List.foldlRecOn (motive := Yields Inv) _ _ (.some h) fun _ ho _ _ => ho.bind fun _ h => h.patch

/-! ## Loading an image -/

theorem Inv.stopTiles (h : Inv s) : Inv s.stopTiles := by
  dsimp only [State.stopTiles]
  refine h.clearCompute.withTiles (aWf_map_filter ?_ h.tiles)
  exact fun _ => rfl
theorem Inv.endLoad (h : Inv s) {id status result} : Inv (s.endLoad id status result) := h.complete.frame
theorem Inv.checkImage (h : Inv s) {ctx b size d p} (hp : s.checkImage ctx b size d = .inr p) : Inv p.1 := by
  unfold State.checkImage at hp
  iterate 4 (split at hp; · cases hp)
  split at hp
  · cases hp
  · split at hp
    · cases hp
    · next hu => cases hp; exact h.patches _ hu
theorem Inv.installImage (h : Inv s) {ctx o d ids} : Inv (s.installImage ctx o d ids) := by
  unfold State.installImage
  extract_lets s1 _ _ _ s4
  have h1 : Inv s1 := by unfold s1; split <;> [exact h.modObj; exact h]
  have h4 : Inv s4 := h1.modObj.frame.setClient
  exact .ite h4.stopTiles h4
theorem Inv.copyImage (h : Inv s) {ctx c o ws} : Inv (s.copyImage ctx c o ws) := by
  dsimp only [State.copyImage]
  split
  · exact h.svcWrite.endLoad
  · next hp => exact (h.svcWrite.checkImage hp).installImage.endLoad
theorem Inv.keeps_execLoadImage (h : Inv s) {ctx src errs} : Keeps (execLoadImage ctx src errs s) := by
  dsimp only [execLoadImage]
  split
  · exact .next h
  · split
    · exact .next h.endLoad
    · refine .ite (.next h.endLoad) (.ite (.next h) (.next (h.withSnoops fun _ h => ?_)))
      exact .ite (Inv.ite h.tierErrs h.tierErrs.svcSeen).endLoad (Inv.ite h.tierErrs h.tierErrs.svcSeen).copyImage

/-! ## Register writes -/

theorem Inv.healthHead (h : Inv s) {v} : Inv (s.healthHead v) := .ite h h.frame
theorem Inv.logHead (h : Inv s) {v} : Inv (s.logHead v) := .ite h h.frame
theorem Inv.clearAlert (h : Inv s) {mask} : Inv (s.clearAlert mask) := .ite h h.frame
theorem Inv.auxWrite (h : Inv s) {n v} : Inv (s.auxWrite n v) := .ite h.auxCmd h
theorem Inv.tileWrite (h : Inv s) {t o half v} : Inv (s.tileWrite t o half v) := by
  dsimp only [State.tileWrite]
  split
  · exact .ite h.snapTile h
  · exact h.modTile
  · exact h.sigOp
  · exact h
theorem Inv.lanWrite (h : Inv s) {n o half v} : Inv (s.lanWrite n o half v) := by
  dsimp only [State.lanWrite]
  split
  · exact .ite h h.auxWrite
  · exact h.modLan
  · exact h.modLan
  · exact .ite h.modLan h
  · exact h
theorem Inv.liveWrite (h : Inv s) {b o half v} : Inv (s.liveWrite b o half v) := by
  dsimp only [State.liveWrite]
  split
  · exact .ite h.gcommit h
  · exact .ite h.healthHead h
  · exact .ite h.logHead (.ite h.clearAlert h)
  · exact .ite h.lanWrite h
  · exact h
theorem Inv.keepReserved (h : Inv s) {a half v m} : Inv (s.keepReserved a half v m) := h.withRegs h.shadowOk.setAbove h.active
theorem Inv.writeReg (h : Inv s) {a half v} : Inv (s.writeReg a half v) := by
  dsimp only [State.writeReg]
  refine .ite h (.ite h.tileWrite ?_)
  split
  · exact h
  · next b hb =>
    split
    · next m hm =>
      refine .ite (Inv.keepReserved (h.withRegs ?_ h.active)) (h.withRegs ?_ h.active)
      · exact h.shadowOk.setAt hb hm
      · exact h.shadowOk.setAt hb hm
    · exact .ite (.ite h.commitWrite h) h.liveWrite
theorem Inv.keeps_execCdresetClear (h : Inv s) : Keeps (execCdresetClear s) := by
  dsimp only [execCdresetClear]
  refine .ite (.next h) (.next (h.withTiles (aWf_map_filter ?_ h.tiles)))
  exact fun _ => rfl

/-! ## The host link -/

theorem Inv.stopCtx (h : Inv s) {c why code d0} : Inv (s.stopCtx c why code d0) := h.modCtx.log.alert.errVector.ownerLost
theorem Inv.keeps_execDescriptorFetch (h : Inv s) : Keeps (execDescriptorFetch s) := by
  dsimp only [execDescriptorFetch]
  split
  · exact .next h
  · exact .next h.modCtx.frame
theorem Inv.keeps_execDescriptorBurstReturn (h : Inv s) {ctx descs} : Keeps (execDescriptorBurstReturn ctx descs s) := by
  dsimp only [execDescriptorBurstReturn]
  split
  · exact .next h
  · exact .ite (.next h) (.next h.setCtx.frame)
theorem Inv.keeps_execCommandDispatch (h : Inv s) {ctx} : Keeps (execCommandDispatch ctx s) := by
  dsimp only [execCommandDispatch]
  split
  · exact .next h
  · refine .ite (.next h) (.ite (.next h.complete) (.ite (.next h) (.next ?_)))
    exact .ite (Inv.ite h.setCtx.frame h.setCtx.setUnitQ).frame (.ite h.setCtx.frame h.setCtx.setUnitQ)
theorem Inv.endFence (h : Inv s) {c} : Inv (s.endFence c) := by
  unfold State.endFence
  split
  · exact h
  · exact .ite h h.complete
theorem Inv.leaveRec (h : Inv s) {r} : Inv (s.leaveRec r) := by
  unfold State.leaveRec
  cases r.cmd with
  | none => exact h
  | some id => exact h.leave
theorem Inv.keeps_execCompletionRecordWrite (h : Inv s) {ctx} : Keeps (execCompletionRecordWrite ctx s) := by
  dsimp only [execCompletionRecordWrite]
  split
  · exact .next h
  · exact .ite (.next h) (.next (.ite h.setCtx.send.leaveRec.signalVec h.setCtx.send.leaveRec))
theorem Inv.dropRec (h : Inv s) {c} : Inv (s.dropRec c) := by
  unfold State.dropRec
  split
  · exact h
  · exact h.modCtx.leaveRec
theorem Inv.keeps_execCtxXlate (h : Inv s) {ctx addr} : Keeps (execCtxXlate ctx addr s) := by
  unfold execCtxXlate
  extract_lets _ s1
  have h1 : Inv s1 := .ite h.dropRec (by split <;> [exact h.dropStream.endLoad; exact h])
  exact .ite (.next h) (.next (.ite h1 h1.stopCtx))
theorem Inv.hdmEarly (h : Inv s) {hpa} : Inv (s.hdmEarly hpa) := h.log.errVector
theorem Inv.countHost (h : Inv s) {a} : Inv (s.countHost a) := .ite h.countHit h.countMiss
theorem Inv.hostAnswer (h : Inv s) {hpa l snoop errs} : Inv (s.hostAnswer hpa l snoop errs) := h.tierErrs.modMem.countHost.send
theorem Inv.keeps_execHostMemRead (h : Inv s) {hpa own errs} : Keeps (execHostMemRead hpa own errs s) := by
  dsimp only [execHostMemRead]
  split
  · exact .next h
  · refine .ite (.next h) (.ite (.next h.frame.hdmEarly.send) (.ite (.next h) ?_))
    split
    · exact .ite (.next h.sendSnoops) (.next h.hostAnswer)
    · exact .next h.hostAnswer
theorem Inv.keeps_execHostMemWrite (h : Inv s) {hpa data} : Keeps (execHostMemWrite hpa data s) := by
  dsimp only [execHostMemWrite]
  split
  · exact .next h
  · exact .ite (.next h) (.ite (.next h.hdmEarly.send) (.ite (.next h) (.next h.countHost.svcWords.modMem.send)))

/-! ## Queries -/

theorem Inv.answerQuery (h : Inv s) {c n body} : Inv (s.answerQuery c n body) := h.send.complete
theorem Inv.query (h : Inv s) {ctx what f} : Inv (s.query ctx what f) := by
  unfold State.query
  split
  · exact h
  · exact h.answerQuery
theorem Inv.keeps_execQueryObject (h : Inv s) {ctx} : Keeps (execQueryObject ctx s) := by
  unfold execQueryObject
  split
  · exact .next h
  · split
    · exact .next h.complete
    · exact .next h.answerQuery

/-! ## The keep -/

theorem Inv.setKeep (h : Inv s) {k} : Inv (s.setKeep k) := h.frame
theorem Inv.signed (h : Inv s) {code payload f} : Inv (s.signed code payload f) := .ite h.frame.setKeep h.setKeep
theorem Inv.keeps_spdm (h : Inv s) {ver n f} (hf : ∀ s, Inv s → Inv (f s)) : Keeps (s.spdm ver n f) :=
  .next (.ite h (.ite h.setKeep (.ite h.setKeep (hf _ h))))
theorem Inv.keeps_execGetMeasurements (h : Inv s) {ver index sign} : Keeps (execGetMeasurements ver index sign s) :=
  h.keeps_spdm fun _ h => .ite h.setKeep (.ite h.setKeep (.ite h.signed h.setKeep))
theorem Inv.keeps_execFinish (h : Inv s) {ver session verify} : Keeps (execFinish ver session verify s) :=
  h.keeps_spdm fun _ h => .ite h.setKeep (.ite h.setKeep h.setKeep)
theorem Inv.inSession (h : Inv s) {session f} (hf : ∀ s, Inv s → Inv (f s)) : Inv (s.inSession session f) := .ite (hf _ h) h.setKeep
theorem Inv.keeps_execVendorDefinedRequest (h : Inv s) {ver session stream ideKm} :
    Keeps (execVendorDefinedRequest ver session stream ideKm s) := by
  dsimp only [execVendorDefinedRequest]
  refine h.keeps_spdm fun _ h => .ite h.setKeep ?_
  split
  · exact h.setKeep
  · exact h.inSession fun _ h => h.setKeep

/-! ## The movers -/

theorem Inv.readFeed (h : Inv s) : Inv s.readFeed := by
  unfold State.readFeed
  split
  · exact h
  · exact .ite h.setRun (.ite h.setRun h)
theorem Inv.keeps_execMoverReadIssue (h : Inv s) {die src errs} : Keeps (execMoverReadIssue die src errs s) := by
  unfold execMoverReadIssue
  refine .ite (.next h.readFeed) ?_
  split
  · exact .next h
  · exact .next h.readStream
theorem Inv.creditFeeds (h : Inv s) : Inv s.creditFeeds := by
  dsimp only [State.creditFeeds]
  split
  · exact h
  · exact h.setRun.feedEnd
theorem Inv.keeps_execMoverCreditReturn (h : Inv s) {die} : Keeps (execMoverCreditReturn die s) := by
  unfold execMoverCreditReturn
  refine .ite (.next h.creditFeeds) ?_
  split
  · exact .next h
  · exact .next h.writeStream

/-! ## The vector engine -/

theorem Inv.keeps_execVlen (h : Inv s) {t ecc ra imm} : Keeps (execVlen t ecc ra imm s) := h.keeps_issue fun _ h => h.modTile
theorem Inv.vchIssue (h : Inv s) {t f} : Inv (vchIssue t f s) := by
  dsimp only [Machine.vchIssue]
  refine .ite h.illegal ?_
  split
  · exact h.illegal
  · refine .ite h.illegal ?_
    split
    · exact h.storeRange
    · exact h.setTile
theorem Inv.rdxIssue (h : Inv s) {t op f} : Inv (rdxIssue t op f s) := .ite h.storeRange h.setTile
theorem Inv.runVch (h : Inv s) {o slot t} : Inv (runVch o slot s t) := h.setTile
theorem Inv.keeps_execVchLastGroupComplete (h : Inv s) {t steps errs} : Keeps (execVchLastGroupComplete t steps errs s) := by
  dsimp only [execVchLastGroupComplete]
  split
  · exact .next h
  · exact .ite (.next h.storeErrs.runVch) (.next h)
theorem Inv.keeps_execRduResultWrite (h : Inv s) {t errs} : Keeps (execRduResultWrite t errs s) := by
  dsimp only [execRduResultWrite]
  split
  · exact .next h
  · exact .ite (.next h) (.next (Inv.ite h.storeErrs h).setTile)

/-! ## The generator -/

theorem Inv.rngIssue (h : Inv s) {t fn f} : Inv (rngIssue t fn f s) := by
  dsimp only [Machine.rngIssue]
  split
  · exact h.storeRange
  · exact h.setTile
theorem Inv.keeps_execSeedset (h : Inv s) {t ecc sel rv} : Keeps (execSeedset t ecc sel rv s) := h.keeps_issue fun _ h => h.modTile
theorem Inv.keeps_execSeedget (h : Inv s) {t ecc sel rv} : Keeps (execSeedget t ecc sel rv s) := h.keeps_issue fun _ h => h.aluWrite
theorem Inv.keeps_execRngLastWriteLands (h : Inv s) {t errs} : Keeps (execRngLastWriteLands t errs s) := by
  dsimp only [execRngLastWriteLands]
  split
  · exact .next h
  · exact .ite (.next h.storeErrs.setTile.modTile) (.next h)

/-! ## Every command -/

theorem Inv.keeps_exec (h : Inv s) {i} : Keeps (exec i s) := by
  cases i with
  | add | sub | andR | orR | xorR | sll | srl | sra | slt | sltu | mul | mulhu | minR | maxR => exact h.keeps_issue fun _ h => h.aluRR
  | popc => exact h.keeps_execPopc
  | ctz => exact h.keeps_execCtz
  | addi | andi | ori | xori | slli | srli | srai | slti | sltiu => exact h.keeps_issue fun _ h => h.aluRI
  | li => exact h.keeps_execLi
  | lih => exact h.keeps_execLih
  | ext => exact h.keeps_execExt
  | beq | bne | blt | bge | bltu | bgeu => exact h.keeps_issue fun _ h => h.branchRR
  | j => exact h.keeps_execJ
  | dbnz => exact h.keeps_issue fun _ h => h.dbnzStep
  | nop => exact h.keeps_execNop
  | endC => exact h.keeps_issue fun _ h => h.endStep
  | hset => exact h.keeps_issue fun _ h => h.hsetStep
  | hget => exact h.keeps_execHget
  | rdtally => exact h.keeps_execRdtally
  | rdid => exact h.keeps_execRdid
  | rdss => exact h.keeps_execRdss
  | mmaF4 | mmaF8 | mmaB16 | mmsF4 => exact h.keeps_issue fun _ h => h.mmaIssue
  | tokenGrant => exact h.keeps_execTokenGrant
  | tokenIdleRelease => exact .ite (.next h.setTile) (.next h)
  | mxeOperationStart => exact h.keeps_execMxeOperationStart
  | initialLoadComplete => exact h.keeps_execInitialLoadComplete
  | drainComplete => exact h.keeps_execDrainComplete
  | vch => exact h.keeps_issue fun _ h => h.vchIssue
  | ftqRelease => exact .ite (.next h.setTile) (.next h)
  | vlen => exact h.keeps_execVlen
  | rdxSum | rdxSsq | rdxMax | rdxAmax => exact h.keeps_issue fun _ h => h.rdxIssue
  | rduResultWrite => exact h.keeps_execRduResultWrite
  | strGet | strPut => exact h.keeps_issue fun _ h => h.strIssue
  | lookaheadPass => exact h.keeps_execLookaheadPass
  | lineLanding => exact h.keeps_execLineLanding
  | putRowTake => exact h.keeps_execPutRowTake
  | putLineAccepted => exact h.keeps_execPutLineAccepted
  | storePoisonWriteback => exact h.keeps_execStorePoisonWriteback
  | rngBits | rngUni | rngMask => exact h.keeps_issue fun _ h => h.rngIssue
  | seedset => exact h.keeps_execSeedset
  | seedget => exact h.keeps_execSeedget
  | exchangeBegin => exact h.keeps_execExchangeBegin
  | flitRouterArrival => exact h.keeps_execFlitRouterArrival
  | sumGroupForm => exact h.keeps_execSumGroupForm
  | exchangeFlitWrite => exact h.keeps_execExchangeFlitWrite
  | barrierArrival => exact h.keeps_execBarrierArrival
  | barrierRelease => exact h.keeps_execBarrierRelease
  | sigSignal => exact h.keeps_execSigSignal
  | sigPut | sigPuth => exact h.keeps_issue fun _ h => h.putIssue
  | waitConsume | waitPeek | waitGe => exact h.keeps_issue fun _ h => h.waitIssue
  | signalArrival => exact h.keeps_execSignalArrival
  | putDataArrival => exact h.keeps_execPutDataArrival
  | send | asend | cadd => exact h.keeps_issue fun _ h => h.msgIssue
  | recv => exact h.keeps_execRecv
  | poll => exact h.keeps_execPoll
  | hret => exact h.keeps_execHret
  | reservationArrival => exact h.keeps_execReservationArrival
  | reservationAnswer => exact h.keeps_execReservationAnswer
  | busyRetry => exact h.keeps_execBusyRetry
  | queueSpillStart => exact h.keeps_execQueueSpillStart
  | messageFlitArrival => exact h.keeps_execMessageFlitArrival
  | ringRefill => exact h.keeps_execRingRefill
  | contributionArrival => exact h.keeps_execContributionArrival
  | combinedResultPlace => exact h.keeps_execCombinedResultPlace
  | handlerEntry => exact h.keeps_execHandlerEntry
  | memoryRequestArrival => exact h.keeps_execMemoryRequestArrival
  | tierReadResponse => exact h.keeps_execTierReadResponse
  | blockFetchComplete => exact h.keeps_execBlockFetchComplete
  | blockWriteDownComplete => exact h.keeps_execBlockWriteDownComplete
  | correctedWordWriteback | poisonWriteback => exact .next h.setSlice
  | hbmRefresh | refreshManagement | grottoRefresh => exact .next h.modMem
  | patrolScrubRead => exact h.keeps_execPatrolScrubRead
  | uioCompletion => exact .next h.uioEnd
  | uioTimeout => exact .ite (.next h) (.next h.frame.uioEnd)
  | moverReadIssue => exact h.keeps_execMoverReadIssue
  | moverCreditReturn => exact h.keeps_execMoverCreditReturn
  | updatePacketArrival => exact h.keeps_execUpdatePacketArrival
  | healthInletWrite => exact h.keeps_execHealthInletWrite
  | stackFlagReport => exact h.keeps_execStackFlagReport
  | verdictArrival => exact h.keeps_execVerdictArrival
  | blockApply | blockDiscard => exact .next h.tryBlock
  | hostMemRead => exact h.keeps_execHostMemRead
  | hostMemWrite => exact h.keeps_execHostMemWrite
  | backInvalidateResponse => exact .ite (.next h) (.next (Inv.ite h.modMem.svcWords h.modMem).putLate)
  | doorbellInvalidation => exact .next (.ite h.modCtx h)
  | doorbellReadReturn => exact .ite (.next h) (.ite (.next h.setCtx.stopCtx) (.next h.setCtx))
  | descriptorFetch => exact h.keeps_execDescriptorFetch
  | descriptorBurstReturn => exact h.keeps_execDescriptorBurstReturn
  | commandDispatch => exact h.keeps_execCommandDispatch
  | completionRecordWrite => exact h.keeps_execCompletionRecordWrite
  | moderationTimerExpiry => exact .ite (.next h.setCtx.signalVec) (.next h)
  | ctxXlate => exact h.keeps_execCtxXlate
  | hostLink => exact .ite (.next h) (.next h.raise.errVector.frame)
  | contextDisableComplete => exact .ite (.next h) (.next h.setCtx)
  | loadImage => exact h.keeps_execLoadImage
  | runSteps => exact h.keeps_execRunSteps
  | serveOpen => exact h.keeps_execServeOpen
  | serveClose => exact h.keeps_execServeClose
  | serveJoin => exact h.keeps_execServeJoin
  | serveCont => exact h.keeps_execServeCont
  | serveLeave => exact h.keeps_execServeLeave
  | copy => exact h.keeps_execCopy
  | place => exact h.keeps_execPlace
  | objectSpillComplete => exact h.keeps_execObjectSpillComplete
  | evict => exact h.keeps_execEvict
  | checkpoint => exact h.keeps_execCheckpoint
  | fence | fenceComplete => exact .next h.endFence
  | queryDevice | queryTile | queryClient => exact .next h.query
  | queryObject => exact h.keeps_execQueryObject
  | queryTierPool | queryErrorLog => exact .next h.query
  | ctxSave => exact h.keeps_execCtxSave
  | ctxRestore => exact h.keeps_execCtxRestore
  | frameSubmit => exact h.keeps_execFrameSubmit
  | runFirstStepStart => exact h.keeps_execRunFirstStepStart
  | stepEnd => exact h.keeps_execStepEnd
  | feedEntryFilled => exact h.keeps_execFeedEntryFilled
  | checkpointBlockRead => exact h.keeps_execCheckpointBlockRead
  | checkpointComplete => exact h.keeps_execCheckpointComplete
  | fingerprintComplete => exact h.keeps_execFingerprintComplete
  | recopy => exact h.keeps_execRecopy
  | gatherWindowExpiry => exact h.keeps_execGatherWindowExpiry
  | admissionPoint => exact h.keeps_execAdmissionPoint
  | batchStepEnd => exact h.keeps_execBatchStepEnd
  | sliceExpiry => exact .ite (.next h.wakeClients.frame) (.next h.wakeClients)
  | preemptionPoint => exact h.keeps_execPreemptionPoint
  | contextSaveComplete => exact h.keeps_execContextSaveComplete
  | contextRestoreComplete => exact h.keeps_execContextRestoreComplete
  | preemptLate => exact h.keeps_execPreemptLate
  | barrierSlow => exact h.keeps_execBarrierSlow
  | cdresetClear => exact h.keeps_execCdresetClear
  | linkTrainingComplete => exact .next (.ite h.portUp h)
  | trainingTimeout => exact .ite (.next h.setOport.tryHello) (.next h)
  | frameReceive => exact h.keeps_execFrameReceive
  | nakReceive => exact h.keeps_execNakReceive
  | linkRetrain => exact h.keeps_execLinkRetrain
  | linkTrainingRetry => exact .next (.ite h.setOport.chainPin h)
  | identReceive => exact h.keeps_execIdentReceive
  | helloReceive => exact h.keeps_execHelloReceive
  | chainFormation => exact .next (.ite h.form h)
  | chainUpReceive => exact h.keeps_execChainUpReceive
  | chainFormDeadline => exact .ite (.next h) (.ite (.next h.form) (.next h.frame.finish.log))
  | tokenSend => exact .ite (.next h.frame) (.next h)
  | tokenReceive => exact h.keeps_execTokenReceive
  | arriveReceive => exact h.keeps_execArriveReceive
  | releaseReceive => exact h.keeps_execReleaseReceive
  | chainDownReceive => exact h.keeps_execChainDownReceive
  | chainPulseReceive => exact .ite (.next h) (.ite (.next (.ite h.frame h)) (.next h.frame))
  | latchPoint => exact h.keeps_execLatchPoint
  | firstActivePixel => exact h.keeps_execFirstActivePixel
  | lineStart => exact h.keeps_execLineStart
  | lineUnderrun => exact h.keeps_execLineUnderrun
  | outputStartComplete => exact h.keeps_execOutputStartComplete
  | hpdLost | linkLost => exact .next (.ite h.modLan.lanFail h)
  | auxNativeWrite | auxNativeRead | auxI2cWrite | auxI2cRead | auxI2cWriteStopWithheld | auxI2cReadStopWithheld => exact .next h.auxCmd
  | auxReply => exact h.keeps_execAuxReply
  | auxTimeout => exact .next (.ite h.setLan h)
  | vin48Rise => exact h.keeps_execVin48Rise
  | strapWindowEnd => exact .ite (.next h) (.next h.frame.strapRegs.bridgePorts)
  | throttleEvaluation => exact .ite (.next h) (.next h.frame.thermPin)
  | blockCommit | blockCommitHold => exact .next h.commitWrite
  | globalCommit => exact .next h.gcommit
  | commitWorkDone => exact h.keeps_execCommitWorkDone
  | tilSnap => exact .next h.snapTile
  | tilDbgData0Read => exact .next h.modTile
  | sigOpSet | sigOpAdd => exact .next (.ite h.sigOp h)
  | counterRead => exact h.keeps_execCounterRead
  | trgHealthHeadWrite => exact .next h.healthHead
  | errLogHeadWrite => exact .next h.logHead
  | errAlertClear => exact .next h.clearAlert
  | registerWrite => exact .next h.writeReg
  | getCapabilities => exact h.keeps_spdm fun _ h => h.setKeep
  | negotiateAlgorithms => exact h.keeps_spdm fun _ h => .ite h.setKeep h.setKeep
  | getDigests => exact h.keeps_spdm fun _ h => h.setKeep
  | getCertificate => exact h.keeps_spdm fun _ h => .ite h.setKeep h.setKeep
  | challenge => exact h.keeps_spdm fun _ h => .ite h.setKeep h.signed
  | getMeasurements => exact h.keeps_execGetMeasurements
  | keyExchange => exact h.keeps_spdm fun _ h => .ite h.setKeep (.ite h.setKeep h.signed)
  | finish => exact h.keeps_execFinish
  | heartbeat | keyUpdate | endSession => exact h.keeps_spdm fun _ h => h.inSession fun _ h => h.setKeep
  | vendorDefinedRequest => exact h.keeps_execVendorDefinedRequest
  | spdmUnsupportedRequest => exact h.keeps_spdm fun _ h => h.setKeep
  | arrayWorkComplete => exact h.keeps_execArrayWorkComplete
  | vchLastGroupComplete => exact h.keeps_execVchLastGroupComplete
  | rngLastWriteLands => exact h.keeps_execRngLastWriteLands
  | cxlLinkUp => exact .ite (.next h) (.next h.frame.setMemact)
  | opverLaneFailure => exact .next (.ite h.portDown h)
  | hpdIrqPulse => exact .next h.modLan
  | hpdLevelChange => exact .next (.ite h h.modLan)
  | powerGood => exact .ite (.next h) (.next h.frame)
  | memoryPhyTrained => exact h.keeps_execMemoryPhyTrained
  | memoryClearComplete => exact h.keeps_execMemoryClearComplete
  | identityKeyReady => exact .next (.ite h.frame h)
  | deviceReady => exact .ite (.next h) (.next h.frame)
  | vin48Loss => exact h.keeps_execVin48Loss
  | thermalTrip => exact h.keeps_execThermalTrip
  | perstAssert => exact h.keeps_execPerstAssert
  | perstDeassert => exact .ite (.next h) (.next h.holdRegs.frame.bridgePorts)
  | getVersion => exact .next (.ite h.setKeep h)

/-! ## The passing of time -/

theorem Inv.tileSteps (h : Inv s) {t n} : Inv (s.tileSteps t n) := by
  dsimp only [State.tileSteps]
  exact (Inv.ite h h.drain).setTile.modTile
theorem Inv.allSteps (h : Inv s) : Inv s.allSteps := .ite (h.foldl fun _ _ h => h.tileSteps) h
theorem Inv.timePower (h : Inv s) : Inv s.timePower := .ite h.frame h
theorem Inv.timeTraining (h : Inv s) : Inv s.timeTraining := by
  dsimp only [State.timeTraining]
  split
  · exact h
  · split
    · exact .ite h.setRun h
    · exact .ite h h.setRun
    · exact h
    · exact .ite h (.ite (.ite h h.setRun) (.ite h.setRun h.frame))
theorem Inv.timeServing (h : Inv s) : Inv s.timeServing := by
  unfold State.timeServing
  refine h.foldl fun _ _ h => ?_
  split
  · exact h.setSession
  · exact h
theorem Inv.timeClients (h : Inv s) : Inv s.timeClients := h.wakeClients.foldl fun _ _ h => h.setClient
theorem Inv.timeDevice (h : Inv s) : Inv s.timeDevice := h.frame
theorem Inv.countTick (h : Inv s) : Inv s.countTick := h.frame
theorem Inv.tellPorts (h : Inv s) : Inv s.tellPorts := h.modOport.modOport
theorem Inv.tick (h : Inv s) : Inv s.tick :=
  .ite h.allSteps.tellPorts.countTick.timePower.timeTraining.timeServing.timeClients.timeDevice h.allSteps.tellPorts.countTick

/-! ## The step -/

theorem Inv.keeps_step (h : Inv s) : Keeps (step s) := by
  unfold step
  split
  · exact .next h.tick
  · exact h.frame.keeps_exec

end

/-- Settles O58: every command, and the passing of time, keeps the invariant (`Inv.keeps_step`). -/
theorem invariantIsKept : Obligations.InvariantIsKept := fun _ _ h e => h.keeps_step _ e

end Sys2Proof.Machine
end

/-! # What leaves the tiles as they are

An operation of the model that writes no tile keeps `State.tiles`. Each has a lemma `<operation>_tiles`, tagged `simp`, so that the frame of
a composed operation is one simplification; a command outcome is spoken of by `TilesKept`. Where the equation holds by unfolding, its proof
is written `(rfl)` and not `rfl`: simplification then uses it as a rewrite rule with a proof, which it can do under the binders of
`State.foldl_tiles` and which the kernel need not unfold again. -/

section
set_option Elab.async false
namespace Sys2Proof.Machine

/-! ## Outcomes, branches and folds -/

/-- Where command outcome `o` is a next state, its tiles are those of `s`. -/
def TilesKept (s : State) (o : Out) : Prop := ∀ s', o = .next s' → s'.tiles = s.tiles

section
variable {s : State}

@[simp] theorem tilesKept_next {s' : State} : TilesKept s (.next s') ↔ s'.tiles = s.tiles :=
  ⟨fun h => h s' rfl, fun h _ e => by cases e; exact h⟩
@[simp] theorem tilesKept_fault {r : Fault} : TilesKept s (.fault r) := by rintro _ ⟨⟩
@[simp] theorem tilesKept_ite {c : Prop} [Decidable c] {a b : Out} :
    TilesKept s (if c then a else b) ↔ (c → TilesKept s a) ∧ (¬c → TilesKept s b) := by
  split <;> simp_all
@[simp] theorem State.tiles_ite {c : Prop} [Decidable c] {a b : State} : (if c then a else b).tiles = if c then a.tiles else b.tiles :=
  apply_ite ..
@[simp] theorem State.foldl_tiles {α : Type} {s : State} {f : State → α → State} {l : List α} (hf : ∀ s x, (f s x).tiles = s.tiles) :
    (l.foldl f s).tiles = s.tiles :=
  List.foldlRecOn (motive := fun u => u.tiles = s.tiles) l f rfl fun u hu x _ => (hf u x).trans hu
@[simp] theorem State.foldl_fst_tiles {α β : Type} {p : State × β} {f : State × β → α → State × β} {l : List α}
    (hf : ∀ p x, (f p x).1.tiles = p.1.tiles) : (l.foldl f p).1.tiles = p.1.tiles :=
  List.foldlRecOn (motive := fun q => q.1.tiles = p.1.tiles) l f rfl fun q hq x _ => (hf q x).trans hq

/-! ## Memory and the host's copies -/

@[simp] theorem State.sendSnoops_tiles {ls} : (s.sendSnoops ls).tiles = s.tiles := (rfl)
@[simp] theorem State.putH_tiles {a bs} : (s.putH a bs).tiles = s.tiles := by simp [State.putH]
@[simp] theorem State.putLate_tiles : s.putLate.tiles = s.tiles := by simp [State.putLate]

/-! ## Contexts and host commands -/

@[simp] theorem State.modCtx_tiles {c f} : (s.modCtx c f).tiles = s.tiles := (rfl)
@[simp] theorem State.unqueue_tiles {c id} : (s.unqueue c id).tiles = s.tiles := (rfl)
@[simp] theorem State.leave_tiles {id} : (s.leave id).tiles = s.tiles := (rfl)
@[simp] theorem State.touch_tiles {c} : (s.touch c).tiles = s.tiles := (rfl)
@[simp] theorem State.complete_tiles {id status result} : (s.complete id status result).tiles = s.tiles := by
  unfold State.complete
  split <;> simp
@[simp] theorem State.postEvicted_tiles {owner obj newBase cause} : (s.postEvicted owner obj newBase cause).tiles = s.tiles := (rfl)
@[simp] theorem State.signalVec_tiles {n} : (s.signalVec n).tiles = s.tiles := by simp [State.signalVec]
@[simp] theorem State.errVector_tiles : s.errVector.tiles = s.tiles := by simp [State.errVector]
@[simp] theorem State.writeSeq_tiles {x slot} : (s.writeSeq x slot).tiles = s.tiles := by simp [State.writeSeq]
@[simp] theorem State.writeScb_tiles {x isOpen} : (s.writeScb x isOpen).tiles = s.tiles := by simp [State.writeScb]
@[simp] theorem State.clearRunning_tiles {tcb} : (s.clearRunning tcb).tiles = s.tiles := by simp [State.clearRunning]

/-! ## Tiles, logs and faults -/

@[simp] theorem State.writeEntry_tiles {g} : (s.writeEntry g).tiles = s.tiles := by simp [State.writeEntry]
@[simp] theorem State.refuse_tiles {b cause detail} : (s.refuse b cause detail).tiles = s.tiles := by simp [State.refuse]
@[simp] theorem State.endGroups_tiles : s.endGroups.tiles = s.tiles := by simp [State.endGroups]
@[simp] theorem State.endRuns_tiles : s.endRuns.tiles = s.tiles := by
  unfold State.endRuns
  refine (State.foldl_tiles fun _ _ => ?_).trans ?_
  · split <;> simp
  · split <;> simp
@[simp] theorem State.endJobs_tiles {code} : (s.endJobs code).tiles = s.tiles := by simp [State.endJobs]

/-! ## Memory transactions -/

@[simp] theorem State.setTag_tiles {blk t} : (s.setTag blk t).tiles = s.tiles := by
  unfold State.setTag
  rw [State.tiles_ite, State.modMem_tiles, State.modMem_tiles, ite_self]
@[simp] theorem State.poisonTag_tiles {blk} : (s.poisonTag blk).tiles = s.tiles := by simp [State.poisonTag]
@[simp] theorem State.pumpUio_tiles : s.pumpUio.tiles = s.tiles := by simp [State.pumpUio]
@[simp] theorem State.beginOp_tiles {sl o} : (s.beginOp sl o).tiles = s.tiles := (rfl)
@[simp] theorem State.beginOps_tiles {sl} : (s.beginOps sl).tiles = s.tiles := by simp [State.beginOps]
@[simp] theorem State.startDown_tiles {sl a} : (s.startDown sl a).tiles = s.tiles := by simp [State.startDown]
@[simp] theorem State.cachePut_tiles {sl a dirty mru} : (s.cachePut sl a dirty mru).tiles = s.tiles := by
  dsimp only [State.cachePut]
  split <;> simp
@[simp] theorem State.cacheWrite_tiles {a pol} : (s.cacheWrite a pol).tiles = s.tiles := by simp [State.cacheWrite]
@[simp] theorem State.endOp_tiles {sl o} : (s.endOp sl o).tiles = s.tiles := by simp [State.endOp]
@[simp] theorem State.memErr_tiles {sl k loc e} : (s.memErr sl k loc e).tiles = s.tiles := by unfold State.memErr; split <;> simp
@[simp] theorem State.lineErrs_tiles {sl k loc a errs} : (s.lineErrs sl k loc a errs).tiles = s.tiles := by simp [State.lineErrs]
@[simp] theorem State.poisonBlk_tiles {sl blk took idx} : (s.poisonBlk sl blk took idx).tiles = s.tiles := (rfl)
@[simp] theorem State.fetchErrs_tiles {sl o errs tagUe} : (s.fetchErrs sl o errs tagUe).tiles = s.tiles := by
  unfold State.fetchErrs
  extract_lets
  split
  extract_lets s1 _ s2 s3 _ _ s4
  have h1 : s1.tiles = s.tiles := State.foldl_tiles fun _ _ => by split <;> simp
  have h3 : s3.tiles = s.tiles := by simp [s3, s2, h1]
  have h4 : s4.tiles = s.tiles := by simp [s4, h3]
  simp [h4]
@[simp] theorem State.tierErrs_tiles {rs errs} : (s.tierErrs rs errs).tiles = s.tiles := by
  unfold State.tierErrs
  refine State.foldl_tiles fun _ _ => ?_
  dsimp only
  split
  · rfl
  · split <;> simp
@[simp] theorem State.withSnoops_tiles {rd wr k} (hk : ∀ s, (k s).tiles = s.tiles) : (s.withSnoops rd wr k).tiles = s.tiles := by
  unfold State.withSnoops
  (repeat' split) <;> simp [*]

/-! ## Opver links -/

@[simp] theorem State.modOport_tiles {p f} : (s.modOport p f).tiles = s.tiles := by simp [State.modOport]
@[simp] theorem State.sendCtrl_tiles {p m} : (s.sendCtrl p m).tiles = s.tiles := by simp [State.sendCtrl]

/-! ## The network -/

@[simp] theorem State.inject_tiles {t fl} : (s.inject t fl).tiles = s.tiles := (rfl)
@[simp] theorem State.injectAll_tiles {t fls} : (s.injectAll t fls).tiles = s.tiles := by simp [State.injectAll]
@[simp] theorem State.injectEdge_tiles {r sd fl} : (s.injectEdge r sd fl).tiles = s.tiles := (rfl)
@[simp] theorem State.countTaken_tiles {r i} : (s.countTaken r i).tiles = s.tiles := (rfl)
@[simp] theorem State.countSent_tiles {r o n} : (s.countSent r o n).tiles = s.tiles := (rfl)

/-! ## The gallery: exchanges and flits -/

@[simp] theorem State.freeSlot_tiles {r inp vc} : (s.freeSlot r inp vc).tiles = s.tiles := by simp [State.freeSlot]
@[simp] theorem State.flitCe_tiles {errs} : (s.flitCe errs).tiles = s.tiles := (rfl)
@[simp] theorem State.checkOps_tiles {l} : (s.checkOps l).1.tiles = s.tiles := by
  induction l generalizing s with
  | nil => rfl
  | cons f l ih => exact ih.trans State.flitCe_tiles
@[simp] theorem State.ageHead_tiles {r sd} : (s.ageHead r sd).tiles = s.tiles := by unfold State.ageHead; split <;> simp
@[simp] theorem State.slotGone_tiles {r o served} : (s.slotGone r o served).tiles = s.tiles := by simp [State.slotGone]

/-! ## Update blocks -/

@[simp] theorem State.updWrite_tiles {a req src ins} : (s.updWrite a req src ins).tiles = s.tiles := by simp [State.updWrite]
@[simp] theorem State.imageWrite_tiles {a req src ins} : (s.imageWrite a req src ins).tiles = s.tiles := by simp [State.imageWrite]
@[simp] theorem State.unmapped_tiles {a req} : (s.unmapped a req).tiles = s.tiles := by simp [State.unmapped]
@[simp] theorem State.pushPacket_tiles {p} : (s.pushPacket p).tiles = s.tiles := (rfl)
@[simp] theorem State.lineWrite_tiles {a ws carries pol upd req src ins} :
    (s.lineWrite a ws carries pol upd req src ins).tiles = s.tiles := by
  unfold State.lineWrite
  (repeat' split) <;> simp
@[simp] theorem State.polWords_tiles {pol req src ins n a ws} : (s.polWords pol req src ins n a ws).tiles = s.tiles := by
  induction n generalizing s a ws with
  | zero => rfl
  | succ n ih =>
    cases ws with
    | nil => rfl
    | cons w ws => exact ih.trans State.lineWrite_tiles
@[simp] theorem State.svcWords_tiles {req src ins n a ws} : (s.svcWords req src ins n a ws).tiles = s.tiles := by simp [State.svcWords]

/-! ## Memory commands -/

@[simp] theorem State.sendFrom_tiles {sl fs} : (s.sendFrom sl fs).tiles = s.tiles := by simp [State.sendFrom]
@[simp] theorem State.respond_tiles {sl r chit ws} : (s.respond sl r chit ws).tiles = s.tiles := (rfl)
@[simp] theorem State.accepted_tiles {sl r} : (s.accepted sl r).tiles = s.tiles := (rfl)
@[simp] theorem State.countHit_tiles : s.countHit.tiles = s.tiles := (rfl)
@[simp] theorem State.countMiss_tiles : s.countMiss.tiles = s.tiles := (rfl)
@[simp] theorem State.countDefer_tiles {die n} : (s.countDefer die n).tiles = s.tiles := by simp [State.countDefer]
@[simp] theorem State.nearLan_tiles {sl die} : (s.nearLan sl die).tiles = s.tiles := (rfl)
@[simp] theorem State.askStack_tiles {sl r} : (s.askStack sl r).tiles = s.tiles := by simp [State.askStack]
@[simp] theorem State.startFetch_tiles {sl r pol} : (s.startFetch sl r pol).tiles = s.tiles := by simp [State.startFetch]
@[simp] theorem State.takeRead_tiles {sl errs r} : (s.takeRead sl errs r).tiles = s.tiles := by
  dsimp only [State.takeRead]
  (repeat' split) <;> simp
@[simp] theorem execTierReadResponse_tiles {sl errs lmark} : TilesKept s (execTierReadResponse sl errs lmark s) := by
  dsimp only [execTierReadResponse]
  split <;> simp
@[simp] theorem execBlockFetchComplete_tiles {sl errs tagUe} : TilesKept s (execBlockFetchComplete sl errs tagUe s) := by
  unfold execBlockFetchComplete
  split <;> simp
@[simp] theorem State.writeUnits_tiles {sl o} : (s.writeUnits sl o).tiles = s.tiles := by simp [State.writeUnits]
@[simp] theorem State.endDown_tiles {sl o} : (s.endDown sl o).tiles = s.tiles := by simp [State.endDown]
@[simp] theorem execBlockWriteDownComplete_tiles {sl errs tagUe} : TilesKept s (execBlockWriteDownComplete sl errs tagUe s) := by
  unfold execBlockWriteDownComplete
  split <;> simp
@[simp] theorem execPatrolScrubRead_tiles {a ecc} : TilesKept s (execPatrolScrubRead a ecc s) := by
  unfold execPatrolScrubRead
  (repeat' split) <;> simp
@[simp] theorem State.uioEnd_tiles {sl n fail} : (s.uioEnd sl n fail).tiles = s.tiles := by
  dsimp only [State.uioEnd]
  (repeat' split) <;> simp

/-! ## Stream transfers -/

@[simp] theorem State.dropLine_tiles {t tag} : (s.dropLine t tag).tiles = s.tiles := (rfl)

/-! ## The grotto tier -/

@[simp] theorem State.retag_tiles {blk} : (s.retag blk).tiles = s.tiles := by simp [State.retag]
@[simp] theorem State.updLate_tiles {st a} : (s.updLate st a).tiles = s.tiles := by simp [State.updLate]
@[simp] theorem State.setNf_tiles {st b} : (s.setNf st b).tiles = s.tiles := by simp [State.setNf]
@[simp] theorem execUpdatePacketArrival_tiles {stack errs} : TilesKept s (execUpdatePacketArrival stack errs s) := by
  dsimp only [execUpdatePacketArrival]
  (repeat' split) <;> simp
@[simp] theorem State.putInlet_tiles {k} : (s.putInlet k).tiles = s.tiles := by unfold State.putInlet; split <;> simp
@[simp] theorem execHealthInletWrite_tiles {stack} : TilesKept s (execHealthInletWrite stack s) := by
  dsimp only [execHealthInletWrite]
  (repeat' split) <;> simp
@[simp] theorem State.beginStep_tiles {t} : (s.beginStep t).tiles = s.tiles := by simp [State.beginStep]
@[simp] theorem State.judge_tiles {t finite} : (s.judge t finite).tiles = s.tiles := by simp [State.judge]
@[simp] theorem State.putCopy_tiles {g b v ws} : (s.putCopy g b v ws).tiles = s.tiles := by simp [State.putCopy]
@[simp] theorem State.doBlock_tiles {g b r} : (s.doBlock g b r).tiles = s.tiles := by simp [State.doBlock]
@[simp] theorem State.tryBlock_tiles {applied group blk errs} : (s.tryBlock applied group blk errs).tiles = s.tiles := by
  dsimp only [State.tryBlock]
  (repeat' split) <;> simp
@[simp] theorem State.appendHealth_tiles {rec} : (s.appendHealth rec).tiles = s.tiles := by simp [State.appendHealth]
@[simp] theorem State.healthRecords_tiles {t} : (s.healthRecords t).tiles = s.tiles := by simp [State.healthRecords]

/-! ## Barriers -/

@[simp] theorem State.holdArrive_tiles {a} : (s.holdArrive a).tiles = s.tiles := (rfl)
@[simp] theorem State.compared_tiles {as divmask} : (s.compared as divmask).tiles = s.tiles := by
  unfold State.compared
  (repeat' split) <;> simp
@[simp] theorem State.actRelease_tiles {as nonfinite switch diverge divmask ss} :
    (s.actRelease as nonfinite switch diverge divmask ss).tiles = s.tiles := by
  simp [State.actRelease]
@[simp] theorem State.sendAll_tiles {m} : (s.sendAll m).tiles = s.tiles := by simp [State.sendAll]
@[simp] theorem State.sizePool_tiles {die} : (s.sizePool die).tiles = s.tiles := by unfold State.sizePool; split <;> simp
@[simp] theorem State.clearLists_tiles {sc die} : (s.clearLists sc die).tiles = s.tiles := (rfl)
@[simp] theorem State.clearPortLists_tiles : s.clearPortLists.tiles = s.tiles := (rfl)
@[simp] theorem State.sizePools_tiles {sc die} : (s.sizePools sc die).tiles = s.tiles := by simp [State.sizePools]
@[simp] theorem execBarrierSlow_tiles {scope die} : TilesKept s (execBarrierSlow scope die s) := by unfold execBarrierSlow; split <;> simp

/-! ## Chains -/

@[simp] theorem State.chainPin_tiles : s.chainPin.tiles = s.tiles := (rfl)
@[simp] theorem State.popCtrl_tiles {p} : (s.popCtrl p).tiles = s.tiles := by simp [State.popCtrl]
@[simp] theorem State.passCtrl_tiles {p m} : (s.passCtrl p m).tiles = s.tiles := by simp [State.passCtrl]
@[simp] theorem State.keepHello_tiles {hd} : (s.keepHello hd).tiles = s.tiles := (rfl)
@[simp] theorem State.tryHello_tiles : s.tryHello.tiles = s.tiles := by unfold State.tryHello; (repeat' split) <;> simp
@[simp] theorem State.markStale_tiles {p} : (s.markStale p).tiles = s.tiles := by simp [State.markStale]
@[simp] theorem State.finish_tiles {n ring members} : (s.finish n ring members).tiles = s.tiles := by simp [State.finish]
@[simp] theorem State.form_tiles : s.form.tiles = s.tiles := by dsimp only [State.form]; (repeat' split) <;> simp
@[simp] theorem execTokenReceive_tiles {cells} : TilesKept s (execTokenReceive cells s) := by
  unfold execTokenReceive
  (repeat' split) <;> simp
@[simp] theorem execHelloReceive_tiles {port} : TilesKept s (execHelloReceive port s) := by
  unfold execHelloReceive
  (repeat' split) <;> simp
@[simp] theorem execChainUpReceive_tiles {port} : TilesKept s (execChainUpReceive port s) := by
  dsimp only [execChainUpReceive]
  (repeat' split) <;> simp

/-! ## Services -/

@[simp] theorem State.svcSeen_tiles {req a n} : (s.svcSeen req a n).tiles = s.tiles := by simp [State.svcSeen]
@[simp] theorem State.svcWrite_tiles {a ins ws} : (s.svcWrite a ins ws).tiles = s.tiles := by simp [State.svcWrite]
@[simp] theorem State.svcBytes_tiles {a ins bs} : (s.svcBytes a ins bs).tiles = s.tiles := by simp [State.svcBytes]
@[simp] theorem State.latchSch_tiles : s.latchSch.tiles = s.tiles := (rfl)

/-! ## Objects -/

@[simp] theorem State.beginStream_tiles {what ctx src dst len hostSrc hostDst pol} :
    (s.beginStream what ctx src dst len hostSrc hostDst pol).tiles = s.tiles :=
  (rfl)
@[simp] theorem State.dropStream_tiles {what} : (s.dropStream what).tiles = s.tiles := (rfl)
@[simp] theorem State.moveObj_tiles {id tier base} : (s.moveObj id tier base).tiles = s.tiles := (rfl)
@[simp] theorem State.beginMove_tiles {ctx id base} : (s.beginMove ctx id base).tiles = s.tiles := by unfold State.beginMove; split <;> simp
@[simp] theorem State.freeObj_tiles {id} : (s.freeObj id).tiles = s.tiles := (rfl)
@[simp] theorem State.endJob_tiles {j} : (s.endJob j).tiles = s.tiles := by unfold State.endJob; split <;> simp
@[simp] theorem State.nextMove_tiles {j} : (s.nextMove j).tiles = s.tiles := by unfold State.nextMove; (repeat' split) <;> simp
@[simp] theorem execPlace_tiles {ctx} : TilesKept s (execPlace ctx s) := by dsimp only [execPlace]; (repeat' split) <;> simp
@[simp] theorem execEvict_tiles {ctx} : TilesKept s (execEvict ctx s) := by dsimp only [execEvict]; (repeat' split) <;> simp
@[simp] theorem execObjectSpillComplete_tiles {obj} : TilesKept s (execObjectSpillComplete obj s) := by
  unfold execObjectSpillComplete
  (repeat' split) <;> simp
@[simp] theorem execCopy_tiles {ctx} : TilesKept s (execCopy ctx s) := by unfold execCopy; split <;> simp
@[simp] theorem State.readStream_tiles {m data errs} : (s.readStream m data errs).tiles = s.tiles := by simp [State.readStream]
@[simp] theorem State.endStream_tiles {m} : (s.endStream m).tiles = s.tiles := by unfold State.endStream; (repeat' split) <;> simp
@[simp] theorem State.writeStream_tiles {m} : (s.writeStream m).tiles = s.tiles := by unfold State.writeStream; split <;> simp

/-! ## Lantern outputs -/

@[simp] theorem State.modLan_tiles {n f} : (s.modLan n f).tiles = s.tiles := by simp [State.modLan]
@[simp] theorem State.endSubs_tiles {l status result} : (s.endSubs l status result).tiles = s.tiles := by simp [State.endSubs]
@[simp] theorem State.lanStop_tiles {n} : (s.lanStop n).tiles = s.tiles := by simp [State.lanStop]
@[simp] theorem State.lanFail_tiles {n cause} : (s.lanFail n cause).tiles = s.tiles := by simp [State.lanFail]
@[simp] theorem State.lanAccept_tiles {n} : (s.lanAccept n).tiles = s.tiles := by simp [State.lanAccept]
@[simp] theorem State.ownerLost_tiles {c} : (s.ownerLost c).tiles = s.tiles := by simp [State.ownerLost]
@[simp] theorem execFrameSubmit_tiles {ctx} : TilesKept s (execFrameSubmit ctx s) := by unfold execFrameSubmit; split <;> simp
@[simp] theorem State.lanAsk_tiles {n p} : (s.lanAsk n p).tiles = s.tiles := by dsimp only [State.lanAsk]; split <;> simp
@[simp] theorem State.lanPump_tiles {n} : (s.lanPump n).tiles = s.tiles := by simp [State.lanPump]
@[simp] theorem State.lanLine_tiles {n k} : (s.lanLine n k).tiles = s.tiles := by simp [State.lanLine]
@[simp] theorem State.lanTake_tiles {n} : (s.lanTake n).tiles = s.tiles := by simp [State.lanTake]
@[simp] theorem State.lineLate_tiles {n k} : (s.lineLate n k).tiles = s.tiles := by simp [State.lineLate]
@[simp] theorem State.lineSent_tiles {n k} : (s.lineSent n k).tiles = s.tiles := by simp [State.lineSent]
@[simp] theorem execLatchPoint_tiles {out} : TilesKept s (execLatchPoint out s) := by dsimp only [execLatchPoint]; (repeat' split) <;> simp
@[simp] theorem execFirstActivePixel_tiles {out} : TilesKept s (execFirstActivePixel out s) := by
  dsimp only [execFirstActivePixel]
  (repeat' split) <;> simp
@[simp] theorem execLineStart_tiles {out} : TilesKept s (execLineStart out s) := by dsimp only [execLineStart]; (repeat' split) <;> simp
@[simp] theorem execLineUnderrun_tiles {out} : TilesKept s (execLineUnderrun out s) := by dsimp only [execLineUnderrun]; split <;> simp
@[simp] theorem execOutputStartComplete_tiles {out res} : TilesKept s (execOutputStartComplete out res s) := by
  unfold execOutputStartComplete
  split <;> simp
@[simp] theorem State.auxCmd_tiles {n op len addr} : (s.auxCmd n op len addr).tiles = s.tiles := by simp [State.auxCmd]
@[simp] theorem execAuxReply_tiles {out ans data0 data1} : TilesKept s (execAuxReply out ans data0 data1 s) := by
  dsimp only [execAuxReply]
  split <;> simp

/-! ## Opver frames -/

@[simp] theorem State.portDown_tiles {p} : (s.portDown p).tiles = s.tiles := by simp [State.portDown]
@[simp] theorem State.freeNow_tiles {p vc} : (s.freeNow p vc).tiles = s.tiles := by simp [State.freeNow]
@[simp] theorem execNakReceive_tiles {port} : TilesKept s (execNakReceive port s) := by
  dsimp only [execNakReceive]
  (repeat' split) <;> simp

/-! ## Power and throttling -/

@[simp] theorem State.strapRegs_tiles : s.strapRegs.tiles = s.tiles := by simp [State.strapRegs]
@[simp] theorem State.thermPin_tiles : s.thermPin.tiles = s.tiles := (rfl)
@[simp] theorem State.bridgePorts_tiles : s.bridgePorts.tiles = s.tiles := (rfl)
@[simp] theorem State.setMemact_tiles : s.setMemact.tiles = s.tiles := by simp [State.setMemact]
@[simp] theorem execVin48Rise_tiles {decivolt} : TilesKept s (execVin48Rise decivolt s) := by simp [execVin48Rise]
@[simp] theorem execMemoryPhyTrained_tiles : TilesKept s (execMemoryPhyTrained s) := by simp [execMemoryPhyTrained]
@[simp] theorem execMemoryClearComplete_tiles : TilesKept s (execMemoryClearComplete s) := by simp [execMemoryClearComplete]
@[simp] theorem State.holdRegs_tiles : s.holdRegs.tiles = s.tiles := (rfl)

/-! ## Serving -/

@[simp] theorem State.putSeq_tiles {c x slot} : (s.putSeq c x slot).tiles = s.tiles := by simp [State.putSeq]
@[simp] theorem State.seqLeft_tiles {c x slot} : (s.seqLeft c x slot).1.tiles = s.tiles := by
  unfold State.seqLeft
  dsimp only
  rw [State.putSeq_tiles, State.foldl_tiles fun _ _ => State.complete_tiles, State.foldl_tiles fun _ _ => State.complete_tiles]
@[simp] theorem State.closeSession_tiles {c x id} : (s.closeSession c x id).tiles = s.tiles := by simp [State.closeSession]
@[simp] theorem State.tryOpen_tiles {c} : (s.tryOpen c).tiles = s.tiles := by simp [State.tryOpen]
@[simp] theorem execServeOpen_tiles {ctx errs} : TilesKept s (execServeOpen ctx errs s) := by unfold execServeOpen; split <;> simp
@[simp] theorem State.slotDone_tiles {c status} : (s.slotDone c status).tiles = s.tiles := by simp [State.slotDone]
@[simp] theorem execServeClose_tiles {ctx} : TilesKept s (execServeClose ctx s) := by unfold execServeClose; (repeat' split) <;> simp
@[simp] theorem execServeJoin_tiles {ctx} : TilesKept s (execServeJoin ctx s) := by unfold execServeJoin; (repeat' split) <;> simp
@[simp] theorem execServeCont_tiles {ctx} : TilesKept s (execServeCont ctx s) := by unfold execServeCont; (repeat' split) <;> simp
@[simp] theorem execServeLeave_tiles {ctx} : TilesKept s (execServeLeave ctx s) := by unfold execServeLeave; (repeat' split) <;> simp
@[simp] theorem execGatherWindowExpiry_tiles : TilesKept s (execGatherWindowExpiry s) := by unfold execGatherWindowExpiry; split <;> simp
@[simp] theorem State.addPages_tiles {p : State × Sess} {slot n} : (State.addPages slot n p).1.tiles = p.1.tiles := by
  induction n generalizing p with
  | zero => rfl
  | succ n ih => exact ih
@[simp] theorem State.pageEnt_tiles {p : State × Sess} {b} : (State.pageEnt p b).1.tiles = p.1.tiles := by simp [State.pageEnt]
@[simp] theorem State.outHeader_tiles {x b} : (s.outHeader x b).tiles = s.tiles := by simp [State.outHeader]

/-! ## Training -/

@[simp] theorem State.writeTcb_tiles {r} : (s.writeTcb r).tiles = s.tiles := by simp [State.writeTcb]
@[simp] theorem State.tryRun_tiles {c} : (s.tryRun c).tiles = s.tiles := by simp [State.tryRun]
@[simp] theorem execRunSteps_tiles {ctx errs} : TilesKept s (execRunSteps ctx errs s) := by unfold execRunSteps; split <;> simp
@[simp] theorem State.writeLine_tiles {r} : (s.writeLine r).tiles = s.tiles := by simp [State.writeLine]
@[simp] theorem State.tryLine_tiles : s.tryLine.tiles = s.tiles := by unfold State.tryLine; split <;> simp
@[simp] theorem execVerdictArrival_tiles : TilesKept s (execVerdictArrival s) := by unfold execVerdictArrival; split <;> simp
@[simp] theorem State.nbrWrite_tiles {m a tag ws} : (s.nbrWrite m a tag ws).tiles = s.tiles := (rfl)
@[simp] theorem State.nbrLines_tiles {m a ws} : (s.nbrLines m a ws).tiles = s.tiles := by simp [State.nbrLines]
@[simp] theorem State.sendHeader_tiles {c complete} : (s.sendHeader c complete).tiles = s.tiles := by simp [State.sendHeader]
@[simp] theorem State.beginCkpt_tiles {r t} : (s.beginCkpt r t).tiles = s.tiles := by unfold State.beginCkpt; split <;> simp
@[simp] theorem execCheckpointBlockRead_tiles {group blk errs} : TilesKept s (execCheckpointBlockRead group blk errs s) := by
  unfold execCheckpointBlockRead
  extract_lets
  split
  · simp
  · extract_lets u _ _ _ s1
    have hu : u.tiles = s.tiles := by simp [u]
    have h1 : s1.tiles = s.tiles := by
      unfold s1
      split
      · exact hu
      · simp [hu]
    split
    · simp [h1]
    · split <;> simp [h1]
@[simp] theorem execCheckpointComplete_tiles : TilesKept s (execCheckpointComplete s) := by unfold execCheckpointComplete; split <;> simp
@[simp] theorem execCheckpoint_tiles {ctx} : TilesKept s (execCheckpoint ctx s) := by unfold execCheckpoint; (repeat' split) <;> simp
@[simp] theorem State.closeStep_tiles {r t} : (s.closeStep r t).tiles = s.tiles := by dsimp only [State.closeStep]; split <;> simp
@[simp] theorem State.recopyBlk_tiles {g b ws} : (s.recopyBlk g b ws).tiles = s.tiles := by simp [State.recopyBlk]

/-! ## Scheduling and contexts -/

@[simp] theorem State.wakeClients_tiles : s.wakeClients.tiles = s.tiles := State.foldl_tiles fun _ _ => rfl
@[simp] theorem State.resumeRun_tiles {c} : (s.resumeRun c).tiles = s.tiles := by unfold State.resumeRun; split <;> simp
@[simp] theorem execPreemptionPoint_tiles : TilesKept s (execPreemptionPoint s) := by simp [execPreemptionPoint]
@[simp] theorem State.startClient_tiles {c} : (s.startClient c).tiles = s.tiles := by simp [State.startClient]
@[simp] theorem execPreemptLate_tiles : TilesKept s (execPreemptLate s) := by unfold execPreemptLate; split <;> simp

/-! ## Registers -/

@[simp] theorem execCounterRead_tiles {off} : TilesKept s (execCounterRead off s) := by unfold execCounterRead; split <;> simp

/-! ## Commits -/

@[simp] theorem State.lanRefused_tiles {cause v} : (s.lanRefused cause v).tiles = s.tiles := by
  unfold State.lanRefused
  split
  · simp
  · split
    · exact State.foldl_tiles fun _ _ => by split <;> simp
    · rfl
@[simp] theorem State.refuseIn_tiles {v b cause detail} : (s.refuseIn v b cause detail).tiles = s.tiles := by simp [State.refuseIn]
@[simp] theorem State.hstAccept_tiles {old} : (s.hstAccept old).tiles = s.tiles := by simp [State.hstAccept]
@[simp] theorem State.dropGroups_tiles {gs} : (s.dropGroups gs).tiles = s.tiles := (rfl)
@[simp] theorem State.trgAccept_tiles {ring} : (s.trgAccept ring).tiles = s.tiles := by simp [State.trgAccept]
@[simp] theorem State.accept_tiles {old b} : (s.accept old b).tiles = s.tiles := by unfold State.accept; split <;> simp
@[simp] theorem State.activate_tiles {l} : (s.activate l).tiles = s.tiles := State.foldl_tiles fun _ _ => rfl
@[simp] theorem State.applySet_tiles {l glob} : (s.applySet l glob).tiles = s.tiles := by
  unfold State.applySet
  dsimp only
  split
  · rw [State.tiles_ite]
    exact (ite_self _).trans (State.foldl_tiles fun _ _ => by split <;> simp)
  · simp
@[simp] theorem State.commitWrite_tiles {b crc hold gen} : (s.commitWrite b crc hold gen).tiles = s.tiles := by simp [State.commitWrite]
@[simp] theorem State.gcommit_tiles {mask} : (s.gcommit mask).tiles = s.tiles := by simp [State.gcommit]
@[simp] theorem State.openGroup_tiles {g} : (s.openGroup g).tiles = s.tiles := by simp [State.openGroup]
@[simp] theorem State.doWork_tiles {b} : (s.doWork b).tiles = s.tiles := by unfold State.doWork; split <;> simp
@[simp] theorem execCommitWorkDone_tiles {b} : TilesKept s (execCommitWorkDone b s) := by simp [execCommitWorkDone]

/-! ## Loading an image -/

@[simp] theorem State.endLoad_tiles {id status result} : (s.endLoad id status result).tiles = s.tiles := by simp [State.endLoad]

/-! ## Register writes -/

@[simp] theorem State.healthHead_tiles {v} : (s.healthHead v).tiles = s.tiles := by simp [State.healthHead]
@[simp] theorem State.logHead_tiles {v} : (s.logHead v).tiles = s.tiles := by simp [State.logHead]
@[simp] theorem State.clearAlert_tiles {mask} : (s.clearAlert mask).tiles = s.tiles := by simp [State.clearAlert]
@[simp] theorem State.auxWrite_tiles {n v} : (s.auxWrite n v).tiles = s.tiles := by simp [State.auxWrite]
@[simp] theorem State.lanWrite_tiles {n o half v} : (s.lanWrite n o half v).tiles = s.tiles := by unfold State.lanWrite; split <;> simp
@[simp] theorem State.liveWrite_tiles {b o half v} : (s.liveWrite b o half v).tiles = s.tiles := by unfold State.liveWrite; split <;> simp
@[simp] theorem State.keepReserved_tiles {a half v m} : (s.keepReserved a half v m).tiles = s.tiles := (rfl)

/-! ## The host link -/

@[simp] theorem State.stopCtx_tiles {c why code d0} : (s.stopCtx c why code d0).tiles = s.tiles := by simp [State.stopCtx]
@[simp] theorem execDescriptorFetch_tiles : TilesKept s (execDescriptorFetch s) := by dsimp only [execDescriptorFetch]; split <;> simp
@[simp] theorem execDescriptorBurstReturn_tiles {ctx descs} : TilesKept s (execDescriptorBurstReturn ctx descs s) := by
  dsimp only [execDescriptorBurstReturn]
  split <;> simp
@[simp] theorem execCommandDispatch_tiles {ctx} : TilesKept s (execCommandDispatch ctx s) := by
  dsimp only [execCommandDispatch]
  split <;> simp
@[simp] theorem State.endFence_tiles {c} : (s.endFence c).tiles = s.tiles := by unfold State.endFence; split <;> simp
@[simp] theorem State.leaveRec_tiles {r} : (s.leaveRec r).tiles = s.tiles := by unfold State.leaveRec; cases r.cmd <;> rfl
@[simp] theorem execCompletionRecordWrite_tiles {ctx} : TilesKept s (execCompletionRecordWrite ctx s) := by
  dsimp only [execCompletionRecordWrite]
  split <;> simp
@[simp] theorem State.dropRec_tiles {c} : (s.dropRec c).tiles = s.tiles := by unfold State.dropRec; split <;> simp
@[simp] theorem execCtxXlate_tiles {ctx addr} : TilesKept s (execCtxXlate ctx addr s) := by unfold execCtxXlate; (repeat' split) <;> simp
@[simp] theorem State.hdmEarly_tiles {hpa} : (s.hdmEarly hpa).tiles = s.tiles := by simp [State.hdmEarly]
@[simp] theorem State.countHost_tiles {a} : (s.countHost a).tiles = s.tiles := by simp [State.countHost]
@[simp] theorem State.hostAnswer_tiles {hpa l snoop errs} : (s.hostAnswer hpa l snoop errs).tiles = s.tiles := by simp [State.hostAnswer]
@[simp] theorem execHostMemRead_tiles {hpa own errs} : TilesKept s (execHostMemRead hpa own errs s) := by
  unfold execHostMemRead
  (repeat' split) <;> simp
@[simp] theorem execHostMemWrite_tiles {hpa data} : TilesKept s (execHostMemWrite hpa data s) := by unfold execHostMemWrite; split <;> simp

/-! ## Queries -/

@[simp] theorem State.answerQuery_tiles {c n body} : (s.answerQuery c n body).tiles = s.tiles := by simp [State.answerQuery]
@[simp] theorem State.query_tiles {ctx what f} : (s.query ctx what f).tiles = s.tiles := by unfold State.query; split <;> simp
@[simp] theorem execQueryObject_tiles {ctx} : TilesKept s (execQueryObject ctx s) := by unfold execQueryObject; (repeat' split) <;> simp

/-! ## The keep -/

@[simp] theorem State.signed_tiles {code payload f} : (s.signed code payload f).tiles = s.tiles := by simp [State.signed]
@[simp] theorem State.spdm_tiles {ver n f} (hf : ∀ s, (f s).tiles = s.tiles) : TilesKept s (s.spdm ver n f) := by
  unfold State.spdm
  (repeat' split) <;> simp [*]
@[simp] theorem execGetMeasurements_tiles {ver index sign} : TilesKept s (execGetMeasurements ver index sign s) := by
  simp [execGetMeasurements]
@[simp] theorem execFinish_tiles {ver session verify} : TilesKept s (execFinish ver session verify s) := by simp [execFinish]
@[simp] theorem State.inSession_tiles {session f} (hf : ∀ s, (f s).tiles = s.tiles) : (s.inSession session f).tiles = s.tiles := by
  unfold State.inSession
  (repeat' split) <;> simp [*]
@[simp] theorem execVendorDefinedRequest_tiles {ver session stream ideKm} :
    TilesKept s (execVendorDefinedRequest ver session stream ideKm s) := by
  refine State.spdm_tiles fun _ => ?_
  dsimp only
  split
  · simp
  · split
    · simp
    · exact State.inSession_tiles fun _ => rfl

/-! ## The movers -/

@[simp] theorem State.readFeed_tiles : s.readFeed.tiles = s.tiles := by unfold State.readFeed; split <;> simp
@[simp] theorem execMoverReadIssue_tiles {die src errs} : TilesKept s (execMoverReadIssue die src errs s) := by
  unfold execMoverReadIssue
  (repeat' split) <;> simp

/-! ## The passing of time -/

@[simp] theorem State.timePower_tiles : s.timePower.tiles = s.tiles := by simp [State.timePower]
@[simp] theorem State.timeTraining_tiles : s.timeTraining.tiles = s.tiles := by unfold State.timeTraining; (repeat' split) <;> simp
@[simp] theorem State.timeServing_tiles : s.timeServing.tiles = s.tiles := State.foldl_tiles fun _ _ => by split <;> simp
@[simp] theorem State.timeClients_tiles : s.timeClients.tiles = s.tiles :=
  (State.foldl_tiles fun _ _ => State.setClient_tiles ..).trans State.wakeClients_tiles
@[simp] theorem State.timeDevice_tiles : s.timeDevice.tiles = s.tiles := (rfl)
@[simp] theorem State.countTick_tiles : s.countTick.tiles = s.tiles := (rfl)
@[simp] theorem State.tellPorts_tiles : s.tellPorts.tiles = s.tiles := (rfl)

/-! ## Loading an image -/

theorem State.patch_tiles {b ids e} : Yields (fun u => u.tiles = s.tiles) (s.patch b ids e) := by
  dsimp only [State.patch]
  split
  · refine .ite .none ?_
    split
    · refine .ite .none ?_
      split
      · exact .ite (.some rfl) .none
      · exact .none
    · exact .ite .none (.some rfl)
    · exact .none
  · exact .none
theorem State.patches_tiles {b ids} : Yields (fun u => u.tiles = s.tiles) (s.patches b ids) :=
  List.foldlRecOn (motive := Yields fun u => u.tiles = s.tiles) _ _ (.some rfl) fun _ ho _ _ =>
    ho.bind fun _ hu _ he => (State.patch_tiles _ he).trans hu
theorem State.checkImage_tiles {ctx b size d p} (hp : s.checkImage ctx b size d = .inr p) : p.1.tiles = s.tiles := by
  unfold State.checkImage at hp
  iterate 4 (split at hp; · cases hp)
  split at hp
  · cases hp
  · split at hp
    · cases hp
    · next hu => cases hp; exact State.patches_tiles _ hu
end

end Sys2Proof.Machine
end

/-! # The stall counters never exceed the tally (O59)

The counters of a tile change in two ways that matter: steps pass, which the tally counts, and a held step is charged to one stall counter
after the tally has counted it. The proof has one lemma per operation that writes tiles, in the order of the model's files, named
`State.tallied.<operation>`; the operations that write none are `State.tallied.keep` with the lemmas `<operation>_tiles`. A write of a tile
is `State.tallied.setTile` or `State.tallied.modTile`, whose condition on the tile's counters simplification settles where it is not given. -/

section
set_option Elab.async false
namespace Sys2Proof.Machine

/-! ## Tables -/

section
variable {α : Type} {P : α → Prop} {d : α} {l : Assoc α} {k : Nat}

/-- What holds of every entry of a table and of its default holds of what is read. -/
theorem aGet_of_forall (h : ∀ kv ∈ l, P kv.2) (hd : P d) : P (aGet d l k) := by
  induction l with
  | nil => exact hd
  | cons kv l ih =>
    obtain ⟨hkv, hl⟩ := List.forall_mem_cons.mp h
    rw [aGet]
    split
    · exact hkv
    · exact ih hl
theorem forall_mem_aInsert {v : α} (h : ∀ kv ∈ l, P kv.2) (hv : P v) : ∀ kv ∈ aInsert l k v, P kv.2 := by
  induction l with
  | nil => exact List.forall_mem_singleton.mpr hv
  | cons kv l ih =>
    obtain ⟨hkv, hl⟩ := List.forall_mem_cons.mp h
    rw [aInsert]
    split
    · exact List.forall_mem_cons.mpr ⟨hkv, ih hl⟩
    · split
      · exact List.forall_mem_cons.mpr ⟨hv, hl⟩
      · exact List.forall_mem_cons.mpr ⟨hv, h⟩
/-- What holds of every entry of a table and of the value written holds of every entry after the write. -/
theorem forall_mem_aSet [DecidableEq α] {v : α} (h : ∀ kv ∈ l, P kv.2) (hv : P v) : ∀ kv ∈ aSet d l k v, P kv.2 := by
  unfold aSet
  split
  · exact fun kv hkv => h kv (List.mem_filter.mp hkv).1
  · exact forall_mem_aInsert h hv
end

/-! ## Tiles

An update of a tile leaves its counters, lets steps pass, or counts an event. The lemmas tagged `simp` let simplification see which: the
counters after each operation are those before it, or are `Tallied` where those before it were. -/

/-- The stall counters do not exceed the tally (R30). -/
def TCtr.Tallied (c : TCtr) : Prop := c.stalls ≤ c.tally

/-- A charge of `n` steps makes the sum of the stall counters grow by `n`. -/
theorem TCtr.stalls_charge (c : TCtr) (k : Stall) (n : Nat) : (c.charge k n).stalls = c.stalls + n := by
  cases k <;> simp only [TCtr.charge, TCtr.stalls] <;> omega
theorem TCtr.tally_charge (c : TCtr) (k : Stall) (n : Nat) : (c.charge k n).tally = c.tally := by cases k <;> rfl
theorem Tile.tallied_empty : Tile.empty.ctr.Tallied := Nat.le_refl 0

section
variable {x : Tile} {n : Nat}

@[simp] theorem Tile.ite_ctr {c : Prop} [Decidable c] {y : Tile} : (if c then x else y).ctr = if c then x.ctr else y.ctr := apply_ite ..
@[simp] theorem Tile.foldl_ctr {α : Type} {f : Tile → α → Tile} {l : List α} (hf : ∀ x a, (f x a).ctr = x.ctr) :
    (l.foldl f x).ctr = x.ctr :=
  List.foldlRecOn (motive := fun y => y.ctr = x.ctr) l f rfl fun y hy a _ => (hf y a).trans hy
@[simp] theorem Tile.count_ctr {f} : (x.count f).ctr = f x.ctr := (rfl)
@[simp] theorem Tile.setReg_ctr {r v} : (x.setReg r v).ctr = x.ctr := by simp [Tile.setReg]
@[simp] theorem Tile.setPend_ctr {r b} : (x.setPend r b).ctr = x.ctr := by simp [Tile.setPend]
@[simp] theorem Tile.setStore_ctr {st m} : (x.setStore st m).ctr = x.ctr := by simp [Tile.setStore]
@[simp] theorem Tile.wrWord_ctr {st key v} : (x.wrWord st key v).ctr = x.ctr := by simp [Tile.wrWord]
@[simp] theorem Tile.wrRow_ctr {st row ws} : (x.wrRow st row ws).ctr = x.ctr := by simp [Tile.wrRow]
@[simp] theorem Tile.wrLanes_ctr {ws} : (x.wrLanes ws).ctr = x.ctr := by simp [Tile.wrLanes]
@[simp] theorem Tile.drainTo_ctr {k blk} : (x.drainTo k blk).ctr = x.ctr := by simp [Tile.drainTo]
@[simp] theorem Tile.addAccess_ctr {rd wr} : (x.addAccess rd wr).ctr = x.ctr := (rfl)
@[simp] theorem Tile.doneRows_ctr {seq rd wr} : (x.doneRows seq rd wr).ctr = x.ctr := (rfl)
@[simp] theorem Tile.dropAccess_ctr {seq} : (x.dropAccess seq).ctr = x.ctr := (rfl)
@[simp] theorem Tile.setWrites_ctr {seq wr} : (x.setWrites seq wr).ctr = x.ctr := (rfl)
@[simp] theorem Tile.allRead_ctr {seq} : (x.allRead seq).ctr = x.ctr := (rfl)
@[simp] theorem Tile.setP_ctr {o v} : (x.setP o v).ctr = x.ctr := (rfl)
@[simp] theorem Tile.setC_ctr {o v} : (x.setC o v).ctr = x.ctr := (rfl)
@[simp] theorem Tile.setQueue_ctr {q m} : (x.setQueue q m).ctr = x.ctr := (rfl)
@[simp] theorem Tile.setCslot_ctr {k c} : (x.setCslot k c).ctr = x.ctr := (rfl)
@[simp] theorem Tile.syncPush_ctr {o} : (x.syncPush o).ctr = x.ctr := (rfl)
@[simp] theorem Tile.syncPlace_ctr : x.syncPlace.ctr = x.ctr := by simp [Tile.syncPlace]
@[simp] theorem Tile.recvWords_ctr {rt ws} : (x.recvWords rt ws).ctr = x.ctr := by simp [Tile.recvWords]
@[simp] theorem Tile.recvNone_ctr {rt} : (x.recvNone rt).ctr = x.ctr := by simp [Tile.recvNone]
@[simp] theorem Tile.freeTag_ctr {tag} : (x.freeTag tag).ctr = x.ctr := (rfl)
@[simp] theorem Tile.strFinish_ctr {e} : (x.strFinish e).ctr = x.ctr := by unfold Tile.strFinish; (repeat' split) <;> simp
@[simp] theorem Tile.realign_ctr : x.realign.ctr = x.ctr := by simp [Tile.realign]
@[simp] theorem Tile.release_ctr {period} : (x.release period).ctr = x.ctr := by simp [Tile.release]
@[simp] theorem Tile.enter_ctr {hdr} : (x.enter hdr).ctr = x.ctr := (rfl)
@[simp] theorem Tile.nextWord_ctr : x.nextWord.ctr = x.ctr := (rfl)

@[simp] theorem rngRow_ctr {o r} : (rngRow o r x).ctr = x.ctr := by simp [rngRow]
@[simp] theorem TCtr.tallied_ite {c : Prop} [Decidable c] {a b : TCtr} (ha : a.Tallied) (hb : b.Tallied) :
    (if c then a else b).Tallied := by split <;> assumption
/-- The counters that are neither the tally nor a stall counter have no part in it. -/
@[simp] theorem TCtr.tallied_events {c : TCtr} {mxeBusy vxeBusy nOvf nNan poisonIn masked rngBlocks fp6Pad hMiss dbgSig bankConf rduBusy strBusy
    syncBusy} : TCtr.Tallied ⟨c.tally, c.sEcc, c.sLan, c.sMem, c.sXchg, c.sPower, c.sFtq, c.sQueue, c.sSync, mxeBusy, vxeBusy, nOvf, nNan,
      poisonIn, masked, rngBlocks, fp6Pad, hMiss, dbgSig, bankConf, rduBusy, strBusy, syncBusy⟩ ↔ c.Tallied := Iff.rfl

@[simp] theorem Tile.tallied_step (h : x.ctr.Tallied) : (x.step n).ctr.Tallied := Nat.le_trans h (Nat.le_add_right _ n)
/-- A held step is tallied before it is charged. -/
@[simp] theorem Tile.tallied_held (h : x.ctr.Tallied) {k} : (x.held k n).ctr.Tallied := by
  rw [TCtr.Tallied, Tile.held, Tile.count_ctr, TCtr.stalls_charge, TCtr.tally_charge]
  exact Nat.add_le_add_right h n
@[simp] theorem Tile.tallied_goTo (h : x.ctr.Tallied) {pc} : (x.goTo pc n).ctr.Tallied := Tile.tallied_step h
@[simp] theorem Tile.tallied_next (h : x.ctr.Tallied) : x.next.ctr.Tallied := Tile.tallied_goTo h
@[simp] theorem Tile.tallied_branch (h : x.ctr.Tallied) {taken off} : (x.branch taken off).ctr.Tallied := by
  unfold Tile.branch
  split <;> simp [h]
@[simp] theorem Tile.tallied_fixWord (h : x.ctr.Tallied) : x.fixWord.ctr.Tallied := Tile.tallied_held h
@[simp] theorem Tile.tallied_waitDone (h : x.ctr.Tallied) {k o v rd} : (x.waitDone k o v rd).ctr.Tallied := by simp [Tile.waitDone, h]
@[simp] theorem Tile.tallied_evalHeld (h : x.ctr.Tallied) : x.evalHeld.ctr.Tallied := by
  unfold Tile.evalHeld
  split
  · exact h
  · split <;> simp [h]
@[simp] theorem Tile.tallied_waitStep (h : x.ctr.Tallied) : (x.waitStep n).1.ctr.Tallied := by
  unfold Tile.waitStep
  split
  · split <;> simp [h]
  · exact h
theorem Tile.tallied_tryRecv (h : x.ctr.Tallied) {rt q so} : Yields (fun y => y.ctr.Tallied) (x.tryRecv rt q so) := by
  unfold Tile.tryRecv
  dsimp only
  split
  · exact .ite .none (.some (by simpa using h))
  · refine .ite (.some ?_) .none
    rw [Tile.setPend_ctr, Tile.setReg_ctr, Tile.recvWords_ctr]
    simp only [Tile.ite_ctr]
    repeat' split
    all_goals exact h
end

/-- Where command outcome `o` is a next state, no tile's stall counters exceed its tally there. -/
def KeepsTally (o : Out) : Prop := ∀ s', o = .next s' → s'.tallied

section
variable {s u : State} {α β : Type}

theorem KeepsTally.next (h : s.tallied) : KeepsTally (.next s) := by rintro _ ⟨⟩; exact h
theorem KeepsTally.ite {c : Prop} [Decidable c] {a b : Out} (ha : KeepsTally a) (hb : KeepsTally b) : KeepsTally (if c then a else b) := by
  split <;> assumption

theorem State.tallied.of_tiles (h : s.tallied) (e : u.tiles = s.tiles) : u.tallied := by unfold State.tallied; rw [e]; exact h
/-- An operation that leaves the tiles as they are. -/
theorem State.tallied.keep (h : s.tallied) (e : u.tiles = s.tiles := by simp) : u.tallied := h.of_tiles e
/-- A command that leaves the tiles as they are. -/
theorem State.tallied.keepOut (h : s.tallied) {o : Out} (e : TilesKept s o := by simp) : KeepsTally o := fun s' hs' => h.of_tiles (e s' hs')
theorem State.tallied.keeps_spdm (h : s.tallied) {ver n f} (hf : ∀ s, (f s).tiles = s.tiles := by simp) : KeepsTally (s.spdm ver n f) :=
  h.keepOut (State.spdm_tiles hf)
theorem State.tallied.tile (h : s.tallied) (t : TileId) : (s.tile t).ctr.Tallied :=
  aGet_of_forall (P := fun x : Tile => x.ctr.Tallied) h Tile.tallied_empty
theorem State.tallied.setTile (h : s.tallied) {t x} (hx : (s.tile t).ctr.Tallied → x.ctr.Tallied := by simp +contextual) :
    (s.setTile t x).tallied :=
  forall_mem_aSet (P := fun x : Tile => x.ctr.Tallied) h (hx (h.tile t))
theorem State.tallied.modTile (h : s.tallied) {t f} (hf : ∀ x, x.ctr.Tallied → (f x).ctr.Tallied := by simp +contextual) :
    (s.modTile t f).tallied :=
  h.setTile (hf _)
theorem State.tallied.ite {c : Prop} [Decidable c] {a b : State} (ha : a.tallied) (hb : b.tallied) : (if c then a else b).tallied := by
  split <;> assumption
theorem State.tallied.iteFst {c : Prop} [Decidable c] {a b : State × β} (ha : a.1.tallied) (hb : b.1.tallied) :
    (if c then a else b).1.tallied := by
  split <;> assumption
theorem State.tallied.foldl (h : s.tallied) {f : State → α → State} {l : List α} (hf : ∀ s x, s.tallied → (f s x).tallied) :
    (l.foldl f s).tallied :=
  List.foldlRecOn l f h fun s hs x _ => hf s x hs
theorem State.tallied.fst {p : State × β} {u : State} {b : β} (e : p = (u, b)) (h : p.1.tallied) : u.tallied := by subst e; exact h
theorem State.tallied.headD (h : s.tallied) {l : List State} (hl : ∀ u ∈ l, u.tallied) : (l.headD s).tallied := by
  cases l with
  | nil => exact h
  | cons u l => exact hl u List.mem_cons_self
/-- A table of tiles some of which are changed or left out. -/
theorem State.tallied.map_filter (h : s.tallied) {f : Nat × Tile → Nat × Tile} {p : Nat × Tile → Bool}
    (e : u.tiles = (s.tiles.map f).filter p) (hf : ∀ kx, kx.2.ctr.Tallied → (f kx).2.ctr.Tallied) : u.tallied := by
  intro kx hkx
  rw [e] at hkx
  obtain ⟨ky, hky, rfl⟩ := List.mem_map.mp (List.mem_filter.mp hkx).1
  exact hf ky (h ky hky)
theorem State.tallied_nil (e : s.tiles = []) : s.tallied := by simp [State.tallied, e]
theorem State.tallied.withSnoops (h : s.tallied) {rd wr k} (hk : (k s).tallied) : (s.withSnoops rd wr k).tallied :=
  .ite h.keep (.ite h hk)

/-! ## The groups of a vector chain -/

section
variable {u : Run} {o : VchOp}

@[simp] theorem Run.draw_x {bs} : (u.draw bs).x = u.x := (rfl)
theorem Run.Tallied.writeBlock (h : u.x.ctr.Tallied) {g v i blk es} : (writeBlock o g v u i blk es).x.ctr.Tallied := by
  unfold Machine.writeBlock
  dsimp only
  rw [Tile.count_ctr, TCtr.tallied_events]
  split
  · simpa using h
  · simpa using h
theorem Run.Tallied.writeBlocks (h : u.x.ctr.Tallied) {l} : (writeBlocks o u l).x.ctr.Tallied := by
  refine List.foldlRecOn (motive := fun u : Run => u.x.ctr.Tallied) _ _ h fun u hu k _ => ?_
  split
  · exact Run.Tallied.writeBlock hu
  · exact hu
theorem Run.Tallied.flush (h : u.x.ctr.Tallied) : (u.flush o).x.ctr.Tallied := Run.Tallied.writeBlocks h
theorem Run.Tallied.flushTbuf (h : u.x.ctr.Tallied) : (flushTbuf o u).x.ctr.Tallied := Run.Tallied.writeBlocks h
theorem Run.Tallied.storeGroup (h : u.x.ctr.Tallied) {idx g v ls} : (storeGroup o idx g v u ls).x.ctr.Tallied := by
  unfold Machine.storeGroup
  dsimp only
  split
  · split <;> exact h
  · split <;> simpa using h
theorem Run.Tallied.runStage (h : u.x.ctr.Tallied) {slot idx g v ids outs} : (runStage o slot idx g v ids outs u).1.x.ctr.Tallied := by
  unfold Machine.runStage
  extract_lets u1 kids src
  have h1 : u1.x.ctr.Tallied := by
    unfold u1
    split
    · exact Run.Tallied.flush h
    · exact h
  split
  · exact h1
  · exact Run.Tallied.storeGroup h1
  · exact h1
  · split <;> exact h1
theorem Run.Tallied.runStages (h : u.x.ctr.Tallied) {slot ids gs idx outs} : (runStages o slot ids gs idx outs u).1.x.ctr.Tallied := by
  induction gs generalizing u idx outs with
  | nil => exact h
  | cons g gs ih => exact ih (Run.Tallied.runStage h)
theorem Run.Tallied.runGroups (h : u.x.ctr.Tallied) {slot n g acc} : (runGroups o slot n g u acc).1.x.ctr.Tallied := by
  induction n generalizing u g acc with
  | zero => exact Run.Tallied.flushTbuf h
  | succ n ih =>
    refine ih ?_
    have hs {ids} : ((Machine.runStages o slot ids o.stages 0 [] u).1.flush o).x.ctr.Tallied := Run.Tallied.flush (Run.Tallied.runStages h)
    split
    · exact Run.Tallied.flushTbuf hs
    · exact hs
end

theorem State.imageTile_ctr {base tiles t} : (s.imageTile base tiles t).ctr = (s.tile t).ctr := rfl
theorem State.recordTile_ctr {c img tiles a ss resume t} : (s.recordTile c img tiles a ss resume t).ctr = (s.tile t).ctr :=
  List.foldlRecOn (motive := fun p : Tile × Nat => p.1.ctr = (s.tile t).ctr) _ _ rfl fun _ hp _ _ => Tile.setStore_ctr.trans hp

/-! ## Faults -/

theorem State.tallied.raise (h : s.tallied) {code k loc d0 d1} : (s.raise code k loc d0 d1).tallied := .ite h.keep (State.tallied_nil rfl)
theorem State.tallied.raiseTile (h : s.tallied) {t code d0 d1} : (s.raiseTile t code d0 d1).tallied := h.raise.modTile

/-! ## Operands and results -/

theorem State.tallied.storeErrs (h : s.tallied) {t rd errs} : (s.storeErrs t rd errs).tallied := by
  dsimp only [State.storeErrs]
  refine h.foldl fun _ _ h => .ite ?_ h
  split
  · exact h
  · exact h.keep
  · exact .ite h h.keep.modTile
theorem State.tallied.storeRange (h : s.tallied) {t hd row} : (s.storeRange t hd row).tallied := h.raiseTile

/-! ## Barriers and flags -/

theorem State.tallied.issueEcc (h : s.tallied) {t ecc} : (s.issueEcc t ecc).tallied := by
  unfold State.issueEcc
  split
  · exact .ite h h.keep.modTile
  · exact h
theorem State.tallied.requestToken (h : s.tallied) {t} : (s.requestToken t).tallied := by
  refine .ite h (State.tallied.setTile h.keep fun _ => ?_)
  exact h.tile t
theorem State.tallied.asksToken (h : s.tallied) {t i} : (s.asksToken t i).tallied := .ite h.requestToken h
theorem State.tallied.keeps_issue (h : s.tallied) {t ecc i act} (hact : ∀ s, s.tallied → (act s).tallied) :
    KeepsTally (issue s t ecc i act) := by
  unfold issue
  split
  · exact .next h
  · exact .next h.issueEcc.raiseTile
  · exact .next h.issueEcc.asksToken.modTile
  · exact .next h.issueEcc.asksToken.modTile
  · exact .next (hact _ h.issueEcc)

/-! ## Opver links -/

theorem State.tallied.portCollect (h : s.tallied) {p n acc} : (State.portCollect p n s acc).1.tallied := by
  induction n generalizing s acc with
  | zero => exact h
  | succ n ih =>
    rw [State.portCollect]
    split
    · exact h
    · exact ih h.keep
    · exact h.raise
theorem State.tallied.portPump (h : s.tallied) {p n} : (State.portPump p n s).tallied := by
  induction n generalizing s with
  | zero => exact h
  | succ n ih =>
    rw [State.portPump]
    refine .ite ?_ h
    have hc := h.portCollect (p := p) (n := 3) (acc := [])
    split
    · next e => rw [e] at hc; exact hc
    · next e => rw [e] at hc; exact ih hc.keep
theorem State.tallied.pump (h : s.tallied) {p} : (s.pump p).tallied := h.keep.portPump
theorem State.tallied.portAccept (h : s.tallied) {p vc row f} : (s.portAccept p vc row f).tallied := h.keep.pump

/-! ## The network -/

theorem State.tallied.passOn (h : s.tallied) {r o vc fl} : (s.passOn r o vc fl).tallied := by
  unfold State.passOn
  split
  · exact h.keep
  · split
    · exact .ite h h.keep
    · exact .ite h.portAccept h.keep
    · exact h.keep
theorem State.tallied.xchgOrder (h : s.tallied) {r inp expect got} : (s.xchgOrder r inp expect got).tallied := h.raiseTile

/-! ## The gallery: exchanges and flits -/

theorem State.tallied.passFlit (h : s.tallied) {r inp o vc fl rest} : (s.passFlit r inp o vc fl rest).tallied :=
  h.keep.passOn.of_tiles State.slotGone_tiles
theorem State.tallied.passItem (h : s.tallied) {r inp o errs fl rest} : (s.passItem r inp o errs fl rest).tallied := by
  dsimp only [State.passItem]
  split
  · exact h
  · exact .ite h (.ite (h.keep.passFlit.of_tiles rfl) h.keep.passFlit)
theorem State.tallied.keeps_execFlitRouterArrival (h : s.tallied) {r inp vc errs} : KeepsTally (execFlitRouterArrival r inp vc errs s) := by
  unfold execFlitRouterArrival
  refine .ite (.next h) ?_
  split
  · exact .next h
  · split
    · exact .next h.keep.raiseTile
    · split
      · exact .next h.keep.raise
      · refine .ite (.next h.xchgOrder) ?_
        split
        · exact .next h.keep
        · exact .ite (.next h) (.ite (.next h.passItem) (.ite (.next h.keep.passFlit) (.next h)))
theorem State.tallied.keeps_execSumGroupForm (h : s.tallied) {r out errs} : KeepsTally (execSumGroupForm r out errs s) := by
  unfold execSumGroupForm
  split
  · exact .next h
  · refine .ite (.next h) ?_
    extract_lets fs found
    clear_value fs found
    split
    · exact .next h.keep.raiseTile
    · split
      · exact .next h.xchgOrder
      · split
        · exact .ite (.next h) (.next h.xchgOrder)
        · split
          · exact .next h
          · refine .ite (.next h.xchgOrder) (.ite (.next (.ite h.keep h)) ?_)
            split
            next u _ e =>
            extract_lets _ s1 s2
            have hu : u.tallied := .fst e h.keep
            have h1 : s1.tallied := State.tallied.keep hu (by simp [s1])
            have h2 : s2.tallied := State.tallied.of_tiles h1.passOn State.slotGone_tiles
            exact .next (.ite h2.keep h2)
theorem State.tallied.keeps_execExchangeBegin (h : s.tallied) {t errs} : KeepsTally (execExchangeBegin t errs s) := by
  dsimp only [execExchangeBegin]
  split
  · refine .ite (.next h) ?_
    split
    · exact .next h.storeRange
    · exact .next (State.tallied.modTile (h.storeErrs.of_tiles State.injectAll_tiles))
  · exact .next h
theorem State.tallied.keeps_execExchangeFlitWrite (h : s.tallied) {t} : KeepsTally (execExchangeFlitWrite t s) := by
  unfold execExchangeFlitWrite
  split
  · exact .next h
  · extract_lets _ s1 _ s2 x _ _ y z
    have h1 : s1.tallied := h.of_tiles (State.setEject_tiles ..)
    have h2 : s2.tallied := .ite h1.keep h1
    refine .ite (.next h1.xchgOrder) (.ite (.next h2.storeRange) (.next (h2.setTile fun hx => ?_)))
    have hy : y.ctr.Tallied := by rw [Tile.wrRow_ctr]; exact hx
    unfold z
    split <;> exact hy

/-! ## Scalar and control instructions -/

theorem State.tallied.aluWrite (h : s.tallied) {t rd v} : (s.aluWrite t rd v).tallied := h.modTile
theorem State.tallied.aluRR (h : s.tallied) {o t rd ra rb} : (aluRR o t rd ra rb s).tallied := h.aluWrite
theorem State.tallied.aluRI (h : s.tallied) {o t rd ra imm} : (aluRI o t rd ra imm s).tallied := h.aluWrite
theorem State.tallied.keeps_execPopc (h : s.tallied) {t ecc rd ra} : KeepsTally (execPopc t ecc rd ra s) :=
  h.keeps_issue fun _ h => h.aluWrite
theorem State.tallied.keeps_execCtz (h : s.tallied) {t ecc rd ra} : KeepsTally (execCtz t ecc rd ra s) :=
  h.keeps_issue fun _ h => h.aluWrite
theorem State.tallied.keeps_execLi (h : s.tallied) {t ecc rd imm} : KeepsTally (execLi t ecc rd imm s) :=
  h.keeps_issue fun _ h => h.aluWrite
theorem State.tallied.keeps_execLih (h : s.tallied) {t ecc rd ra imm} : KeepsTally (execLih t ecc rd ra imm s) :=
  h.keeps_issue fun _ h => h.aluWrite
theorem State.tallied.keeps_execExt (h : s.tallied) {t ecc rd ra lo len} : KeepsTally (execExt t ecc rd ra lo len s) :=
  h.keeps_issue fun _ h => h.aluWrite
theorem State.tallied.branchRR (h : s.tallied) {c t ra rb off} : (branchRR c t ra rb off s).tallied := h.modTile
theorem State.tallied.keeps_execJ (h : s.tallied) {t ecc off} : KeepsTally (execJ t ecc off s) := h.keeps_issue fun _ h => h.modTile
theorem State.tallied.dbnzStep (h : s.tallied) {t ra off} : (dbnzStep t ra off s).tallied := h.modTile
theorem State.tallied.keeps_execNop (h : s.tallied) {t ecc} : KeepsTally (execNop t ecc s) := h.keeps_issue fun _ h => h.modTile
theorem State.tallied.illegal (h : s.tallied) {t} : (s.illegal t).tallied := h.raiseTile
theorem State.tallied.endStep (h : s.tallied) {t} : (endStep t s).tallied := .ite h.illegal h.modTile
theorem State.tallied.hsetStep (h : s.tallied) {t ra hd} : (hsetStep t ra hd s).tallied := .ite h.setTile h.storeRange
theorem State.tallied.keeps_execHget (h : s.tallied) {t ecc rd hd} : KeepsTally (execHget t ecc rd hd s) :=
  h.keeps_issue fun _ h => h.aluWrite
theorem State.tallied.keeps_execRdtally (h : s.tallied) {t ecc rd} : KeepsTally (execRdtally t ecc rd s) :=
  h.keeps_issue fun _ h => h.aluWrite
theorem State.tallied.keeps_execRdid (h : s.tallied) {t ecc rd} : KeepsTally (execRdid t ecc rd s) := h.keeps_issue fun _ h => h.aluWrite
theorem State.tallied.keeps_execRdss (h : s.tallied) {t ecc rd} : KeepsTally (execRdss t ecc rd s) := h.keeps_issue fun _ h => h.aluWrite

/-! ## The belfry: signals and messages -/

theorem State.tallied.addSignal (h : s.tallied) {t o inc} : (s.addSignal t o inc).tallied := .ite h.raiseTile h.setTile
theorem State.tallied.rowsFault (h : s.tallied) {t hd lo} : (s.rowsFault t hd lo).tallied := h.storeRange
theorem State.tallied.takeRows (h : s.tallied) {t seq keys errs} : (s.takeRows t seq keys errs).1.tallied := by
  dsimp only [State.takeRows]
  exact h.storeErrs.modTile
theorem State.tallied.keeps_execSignalArrival (h : s.tallied) {t} : KeepsTally (execSignalArrival t s) := by
  dsimp only [execSignalArrival]
  split
  · exact .ite (.next h.keep.addSignal) (.next h)
  · exact .next h
theorem State.tallied.keeps_execPutDataArrival (h : s.tallied) {t} : KeepsTally (execPutDataArrival t s) := by
  dsimp only [execPutDataArrival]
  split
  · next fs _ =>
    have hs : (s.setEject t 1 fs).tallied := h.keep
    exact .ite (.ite (.next hs.storeRange) (.next (.ite hs.setTile.addSignal hs.setTile))) (.next h)
  · exact .next h
theorem State.tallied.sendRecord (h : s.tallied) {t m id ls} : (s.sendRecord t m id ls).tallied := by
  induction ls generalizing s with
  | nil => exact h
  | cons l ls ih => exact ih (h.setTile.of_tiles State.injectAll_tiles)
theorem State.tallied.syncStep (h : s.tallied) {t} : Yields State.tallied (s.syncStep t) := by
  dsimp only [State.syncStep]
  split
  · exact .none
  · split
    · exact .map (Tile.tallied_tryRecv (h.tile t)) fun _ hy => (h.setTile fun _ => hy).modTile
    · exact .some (State.tallied.of_tiles h.modTile State.inject_tiles)
    · exact .some h.modTile
    · exact .ite (.some (h.modTile.takeRows.of_tiles State.injectAll_tiles)) .none
    · exact .ite (.some (h.modTile.takeRows.of_tiles State.injectAll_tiles)) .none
    · exact .ite (.some h.modTile.takeRows.modTile.sendRecord) .none
    · exact .ite .none (.some h.modTile)
theorem State.tallied.drainSync (h : s.tallied) {t n} : (State.drainSync t n s).tallied := by
  induction n generalizing s with
  | zero => exact h
  | succ n ih =>
    rw [State.drainSync]
    split
    · exact h
    · next e => exact ih (h.syncStep _ e)
theorem State.tallied.drain (h : s.tallied) {t} : (s.drain t).tallied := h.drainSync
theorem State.tallied.keeps_execSigSignal (h : s.tallied) {t ecc rt obj inc} : KeepsTally (execSigSignal t ecc rt obj inc s) :=
  h.keeps_issue fun _ h => h.modTile.drain
theorem State.tallied.putIssue (h : s.tallied) {t f hx errs} : (putIssue t f hx errs s).tallied :=
  .ite h.rowsFault h.setTile.drain
theorem State.tallied.waitIssue (h : s.tallied) {t k f} : (waitIssue t k f s).tallied :=
  .ite h.illegal (.ite h.raiseTile (.ite h.setTile h.setTile))
theorem State.tallied.keeps_execRecv (h : s.tallied) {t ecc rt q so} : KeepsTally (execRecv t ecc rt q so s) :=
  h.keeps_issue fun _ h => h.setTile.drain
theorem State.tallied.keeps_execPoll (h : s.tallied) {t ecc} : KeepsTally (execPoll t ecc s) :=
  h.keeps_issue fun _ h => .ite h.illegal (.ite h (.ite h.setTile h.setTile))
theorem State.tallied.keeps_execHandlerEntry (h : s.tallied) {t} : KeepsTally (execHandlerEntry t s) := by
  dsimp only [execHandlerEntry]
  refine .ite ?_ (.next h)
  split
  · exact .next h
  · exact .next h.setTile
theorem State.tallied.keeps_execHret (h : s.tallied) {t ecc} : KeepsTally (execHret t ecc s) := by
  dsimp only [execHret]
  refine h.keeps_issue fun _ h => ?_
  split
  · exact h.illegal
  · exact .ite h h.setTile
theorem State.tallied.msgIssue (h : s.tallied) {t kind rt q hx len hd so errs} : (msgIssue t kind rt q hx len hd so errs s).tallied :=
  .ite h.rowsFault h.keep.modTile
theorem State.tallied.ringPlace (h : s.tallied) {t q src len act hidx} :
    Yields (fun p => p.1.tallied) (s.ringPlace t q src len act hidx) := by
  dsimp only [State.ringPlace]
  split
  · exact .none
  · exact .ite .none (.some (State.tallied.modTile (.ite h h.keep)))
theorem State.tallied.answerMsg (h : s.tallied) {t src q act hx len} : (s.answerMsg t src q act hx len).1.tallied := by
  refine .iteFst (.iteFst h.setTile h.setTile) ?_
  split
  · next s1 _ _ e =>
    have h1 : s1.tallied := h.ringPlace _ e
    exact h1.modTile
  · exact .iteFst h (State.tallied.of_tiles h.setTile (State.log_tiles ..))
theorem State.tallied.answerCadd (h : s.tallied) {t hx n} : (s.answerCadd t hx n).1.tallied := .iteFst h (.iteFst h.setTile (.iteFst h h))
theorem State.tallied.keeps_execReservationArrival (h : s.tallied) {t} : KeepsTally (execReservationArrival t s) := by
  dsimp only [execReservationArrival]
  split
  · next fs _ =>
    have hs : (s.setEject t 1 fs).tallied := h.keep
    exact .ite (.ite (.next (hs.answerCadd.of_tiles State.inject_tiles)) (.next (hs.answerMsg.of_tiles State.inject_tiles))) (.next h)
  · exact .next h
theorem State.tallied.keeps_execReservationAnswer (h : s.tallied) {t} : KeepsTally (execReservationAnswer t s) := by
  dsimp only [execReservationAnswer]
  split
  · next fs _ =>
    have hs : (s.setEject t 1 fs).tallied := h.keep
    refine .ite ?_ (.next h)
    split
    · exact .next hs
    · exact .ite (.next hs.setTile) (.next hs.setTile.drain)
  · exact .next h
theorem State.tallied.keeps_execBusyRetry (h : s.tallied) {t} : KeepsTally (execBusyRetry t s) := by
  dsimp only [execBusyRetry]
  split
  · split
    · exact .ite (.next h.keep.modTile) (.next h)
    · exact .next h
  · exact .next h
theorem State.tallied.keeps_execQueueSpillStart (h : s.tallied) {t q} : KeepsTally (execQueueSpillStart t q s) := by
  dsimp only [execQueueSpillStart]
  split
  · exact .ite (.next (State.tallied.keep h.setTile rfl)) (.next h)
  · exact .next h
theorem State.tallied.readable (h : s.tallied) {t act hidx} : (s.readable t act hidx).tallied := (State.tallied.ite h.modTile h).drain
theorem State.tallied.ringUnit (h : s.tallied) {a} : (s.ringUnit a).tallied := by
  dsimp only [State.ringUnit]
  refine .ite h ?_
  split
  · exact h
  · exact .ite h.setTile.addSignal h.setTile
theorem State.tallied.keeps_execMessageFlitArrival (h : s.tallied) {t} : KeepsTally (execMessageFlitArrival t s) := by
  dsimp only [execMessageFlitArrival]
  split
  · next fs _ =>
    have hs : (s.setEject t 1 fs).tallied := h.keep
    refine .ite ?_ (.next h)
    split
    · exact .next hs
    · exact .ite (.next hs.setTile.addSignal.readable) (.next hs.setTile)
  · exact .next h
theorem State.tallied.keeps_execRingRefill (h : s.tallied) {t q errs} : KeepsTally (execRingRefill t q errs s) := by
  dsimp only [execRingRefill]
  split
  · exact .ite (.next (h.withSnoops (h.keep.setTile fun _ => by simpa using h.tile t).readable)) (.next h)
  · exact .next h
theorem State.tallied.placeResult (h : s.tallied) {t slot row} : (s.placeResult t slot row).tallied :=
  .ite h.setTile.addSignal.drain h.setTile
theorem State.tallied.keeps_execContributionArrival (h : s.tallied) {t} : KeepsTally (execContributionArrival t s) := by
  dsimp only [execContributionArrival]
  split
  · next fs _ =>
    have hs : (s.setEject t 1 fs).tallied := h.keep
    have hset {x : Tile} (hx : x.ctr = (s.tile t).ctr) : ((s.setEject t 1 fs).setTile t x).tallied :=
      hs.setTile fun _ => hx ▸ h.tile t
    exact .ite (.ite (.next h) (.ite (.next (hset (by simp)).placeResult) (.next (hset (by simp))))) (.next h)
  · exact .next h
theorem State.tallied.keeps_execCombinedResultPlace (h : s.tallied) {t slot} : KeepsTally (execCombinedResultPlace t slot s) := by
  unfold execCombinedResultPlace
  split
  · exact .next h.placeResult
  · exact .next h

/-! ## Memory commands -/

theorem State.tallied.takeWrite (h : s.tallied) {sl r upd d src ins} : (s.takeWrite sl r upd d src ins).tallied := by
  refine State.tallied.of_tiles (State.tallied.foldl (State.tallied.keep h ?_) fun _ _ h => h.ringUnit) State.accepted_tiles
  simp
theorem State.tallied.serveHead (h : s.tallied) {sl errs lan fl rest} :
    Yields (fun p => p.1.tallied) (s.serveHead sl errs lan fl rest) := by
  refine .ite (.some h) (.ite ?_ (.some h.keep))
  split
  · exact .ite .none (.ite .none (.some h.takeWrite))
  · exact .some h
theorem State.tallied.serveVc (h : s.tallied) {sl errs lan} : Yields State.tallied (s.serveVc sl errs lan) := by
  dsimp only [State.serveVc]
  split
  · exact .none
  · exact .ite (.ite .none (.some h.keep)) (h.serveHead.map fun _ h => h.keep)
theorem State.tallied.keeps_execMemoryRequestArrival (h : s.tallied) {sl errs} : KeepsTally (execMemoryRequestArrival sl errs s) := by
  unfold execMemoryRequestArrival
  split
  · next e => exact .next (h.serveVc _ e)
  · exact .next (h.serveVc.getD h)

/-! ## Stream transfers -/

theorem State.tallied.strIssue (h : s.tallied) {t put f} : (strIssue t put f s).tallied := by
  dsimp only [Machine.strIssue]
  split
  · exact h.illegal
  · exact h.storeRange
  · exact h.raiseTile
  · refine h.setTile fun h => ?_
    rw [Tile.nextWord_ctr]
    split <;> exact Tile.tallied_step (n := 1) h
theorem State.tallied.formGet (h : s.tallied) {t} : Yields State.tallied (s.formGet t) := by
  dsimp only [State.formGet]
  split
  · exact .none
  · exact .ite (.some h) (.some (State.tallied.of_tiles h.setTile State.injectAll_tiles))
theorem State.tallied.laPass (h : s.tallied) {t} : (s.laPass t).tallied := by
  dsimp only [State.laPass]
  refine .ite h ?_
  split
  · exact h
  · exact h
  · exact .ite h (.ite h h.setTile)
theorem State.tallied.keeps_execLookaheadPass (h : s.tallied) {t} : KeepsTally (execLookaheadPass t s) := by
  refine .ite (.next h) ?_
  split
  · next e => exact .next (h.formGet _ e)
  · exact .next (h.laPass.formGet.getD h.laPass)
theorem State.tallied.landTag (h : s.tallied) {t tag r} : Yields State.tallied (s.landTag t tag r) := by
  dsimp only [State.landTag]
  refine .ite (.mapAll fun _ => h.keep.modTile) ?_
  split
  · exact .none
  · split
    · refine .ite .none (.ite .none (.some (h.keep.setTile fun _ => ?_)))
      simpa using h.tile t
    · exact .none
theorem State.tallied.keeps_execLineLanding (h : s.tallied) {t} : KeepsTally (execLineLanding t s) := by
  refine .next (h.headD fun u hu => ?_)
  obtain ⟨_, -, hu⟩ := List.mem_filterMap.mp hu
  obtain ⟨_, -, hu⟩ := Option.bind_eq_some_iff.mp hu
  exact h.landTag u hu
theorem State.tallied.sendLines (h : s.tallied) {t e ls} : (s.sendLines t e ls).tallied := by
  induction ls generalizing s with
  | nil => exact h
  | cons l ls ih =>
    dsimp only [State.sendLines]
    exact ih (State.tallied.of_tiles h.setTile State.injectAll_tiles)
theorem State.tallied.keeps_execPutRowTake (h : s.tallied) {t errs} : KeepsTally (execPutRowTake t errs s) := by
  unfold execPutRowTake
  extract_lets
  split
  · exact .next h
  · extract_lets _ _ _ _ _ _ s1 x _ _ _ _ y
    split
    · refine .ite (.next h) ?_
      extract_lets _ _ _ s2
      have h2 : s2.tallied := h.storeErrs.setTile fun hx => by
        have hy : y.ctr.Tallied := by unfold y; split <;> exact hx
        exact hy
      exact .ite (.next h2.sendLines) (.next h2)
    · exact .next h
theorem State.tallied.keeps_execPutLineAccepted (h : s.tallied) {t} : KeepsTally (execPutLineAccepted t s) := by
  dsimp only [execPutLineAccepted]
  split
  · exact .next h
  · split
    · exact .next h.keep
    · split <;> exact .next h.keep.setTile
theorem State.tallied.keeps_execStorePoisonWriteback (h : s.tallied) {t} : KeepsTally (execStorePoisonWriteback t s) := by
  dsimp only [execStorePoisonWriteback]
  split
  · exact .next h
  · exact .next h.setTile

/-! ## Barriers -/

theorem State.tallied.dropToken (h : s.tallied) {t} : (s.dropToken t).tallied := by
  dsimp only [State.dropToken]
  exact h.keep.modTile
theorem State.tallied.tryRelease (h : s.tallied) : s.tryRelease.tallied := by
  dsimp only [State.tryRelease]
  refine .ite h ?_
  split
  · exact h.keep.raise
  · exact .ite h.keep h
theorem State.tallied.tryArrive (h : s.tallied) : s.tryArrive.tallied := by
  dsimp only [State.tryArrive]
  refine .ite h ?_
  split
  · exact h
  · refine .ite h (.ite h.keep.tryRelease ?_)
    split
    · exact h.keep
    · exact h.keep
theorem State.tallied.keeps_execBarrierArrival (h : s.tallied) {t} : KeepsTally (execBarrierArrival t s) := by
  unfold execBarrierArrival
  refine .ite (.next h) ?_
  split
  · exact .next h
  · extract_lets _ s1 s2
    have h1 : s1.tallied := h.dropToken.modTile
    have h2 : s2.tallied := .ite h1 h1.keep
    exact .ite (.next h2.tryArrive) (.next (.ite h2.keep h2))
theorem State.tallied.modScope (h : s.tallied) {sc die f} (hf : ∀ x, x.ctr.Tallied → (f x).ctr.Tallied := by simp +contextual) :
    (s.modScope sc die f).tallied :=
  h.foldl fun _ _ h => h.modTile hf
theorem State.tallied.releaseScope (h : s.tallied) {sc die f} (hf : ∀ x, x.ctr.Tallied → (f x).ctr.Tallied := by simp +contextual) :
    (s.releaseScope sc die f).tallied := by
  have hm : (s.modScope sc die fun x => f (x.release (s.act .bel 0x108))).tallied :=
    h.modScope fun x hx => hf _ (by simpa using hx)
  exact .ite (State.tallied.of_tiles hm rfl) (State.tallied.of_tiles hm rfl)
theorem State.tallied.keeps_execBarrierRelease (h : s.tallied) {scope die} : KeepsTally (execBarrierRelease scope die s) := by
  dsimp only [execBarrierRelease]
  refine .ite (.next h) ?_
  split
  · exact .next h
  · exact .ite (.next h) (.ite (.next h.releaseScope) (.next (State.tallied.of_tiles h.releaseScope State.sizePools_tiles)))

/-! ## Chains -/

theorem State.tallied.chainLost (h : s.tallied) {p left} : (s.chainLost p left).tallied :=
  State.tallied.of_tiles h.raise (State.alert_tiles ..)
theorem State.tallied.keeps_execIdentReceive (h : s.tallied) {port} : KeepsTally (execIdentReceive port s) := by
  dsimp only [execIdentReceive]
  split
  · exact .ite (.next h.keep.chainLost) (.next h.keep.pump)
  · exact .next h
theorem State.tallied.keeps_execArriveReceive (h : s.tallied) {port} : KeepsTally (execArriveReceive port s) := by
  dsimp only [execArriveReceive]
  split
  · exact .ite (.next h.keep.tryRelease) (.next h.keep)
  · exact .next h
theorem State.tallied.keeps_execReleaseReceive (h : s.tallied) {port} : KeepsTally (execReleaseReceive port s) := by
  dsimp only [execReleaseReceive]
  split
  · exact .ite (.next h.keep) (.ite (.next (State.tallied.of_tiles h.keep.raise rfl)) (.next h.keep))
  · exact .next h
theorem State.tallied.keeps_execChainDownReceive (h : s.tallied) {port} : KeepsTally (execChainDownReceive port s) := by
  dsimp only [execChainDownReceive]
  split
  · exact .ite (.next h.keep) (.next h.keep.chainLost)
  · exact .next h

/-! ## Services -/

theorem State.tallied.startImage (h : s.tallied) {img} : (s.startImage img).tallied := by
  unfold State.startImage
  extract_lets tiles s1 _ s2
  have h1 : s1.tallied := h.foldl fun _ _ h' => h'.setTile fun _ => by
    rw [Tile.enter_ctr, State.imageTile_ctr]
    exact h.tile _
  clear_value s1
  have h2 : s2.tallied := h1.of_tiles rfl
  exact h2.keep
theorem State.tallied.enterBody (h : s.tallied) {img o sc counted} : (s.enterBody img o sc counted).tallied := by
  have hgo {u : State} (hu : u.tallied) : ((scopeTiles .module false).foldl (fun u t =>
      u.modTile t fun x => x.enter (s.tileEntry (s.tilesAt img.dst) t o)) u).tallied :=
    hu.foldl fun _ _ h => h.modTile
  exact .ite (State.tallied.of_tiles (hgo (h.releaseScope fun _ hx => hx)) State.sizePools_tiles)
    (State.tallied.of_tiles (hgo h) (State.sizePools_tiles.trans State.clearLists_tiles))

/-! ## Opver frames -/

theorem State.tallied.portUp (h : s.tallied) {p} : (s.portUp p).tallied := h.keep.pump
theorem State.tallied.keeps_execLinkRetrain (h : s.tallied) {port ok} : KeepsTally (execLinkRetrain port ok s) :=
  .ite (.ite (.next h.portUp) (.next (.ite h.keep h.keep))) (.next h)
theorem State.tallied.deliver (h : s.tallied) {p f} : (s.deliver p f).tallied :=
  .ite (.ite h.keep h.keep) (.ite h.keep.portAccept h.keep.raise)
theorem State.tallied.keeps_execFrameReceive (h : s.tallied) {port block fix} : KeepsTally (execFrameReceive port block fix s) := by
  dsimp only [execFrameReceive]
  refine .ite (.next h) ?_
  split
  · exact .next h.keep
  · split
    · exact .next h.keep.pump
    · exact .ite (.next h.keep.pump) (by split <;> exact .next h.keep)
    · exact .ite (.next (h.keep.foldl fun _ _ h => h.deliver).pump) (.next h.keep)

/-! ## Power and throttling -/

theorem State.tallied.powerOff {vin tripped} : (s.powerOff vin tripped).tallied := State.tallied_nil rfl
theorem State.tallied.keeps_execVin48Loss (_ : s.tallied) : KeepsTally (execVin48Loss s) := .next .powerOff
theorem State.tallied.keeps_execThermalTrip (h : s.tallied) : KeepsTally (execThermalTrip s) := .ite (.next h) (.next .powerOff)
theorem State.tallied.keeps_execPerstAssert (h : s.tallied) : KeepsTally (execPerstAssert s) :=
  .ite (.next h) (.next (State.tallied_nil (State.thermPin_tiles.trans State.strapRegs_tiles)))

/-! ## The matrix engine -/

theorem State.tallied.mmaIssue (h : s.tallied) {t kind f} : (mmaIssue t kind f s).tallied := by
  dsimp only [Machine.mmaIssue]
  split
  · exact h.storeRange
  · exact h.setTile
theorem State.tallied.keeps_execTokenGrant (h : s.tallied) {die} : KeepsTally (execTokenGrant die s) := by
  dsimp only [execTokenGrant]
  split
  · exact .next h
  · exact .ite (.next h.keep.modTile) (.next h)
theorem State.tallied.keeps_execInitialLoadComplete (h : s.tallied) {t errs} : KeepsTally (execInitialLoadComplete t errs s) := by
  dsimp only [execInitialLoadComplete]
  split
  · exact .ite (.next h.storeErrs.setTile) (.next h)
  · exact .next h
theorem State.tallied.keeps_execMxeOperationStart (h : s.tallied) {t errs} : KeepsTally (execMxeOperationStart t errs s) := by
  dsimp only [execMxeOperationStart]
  split
  · exact .ite (.next h.storeErrs.setTile) (.next h)
  · exact .next h
theorem State.tallied.keeps_execArrayWorkComplete (h : s.tallied) {t steps} : KeepsTally (execArrayWorkComplete t steps s) := by
  dsimp only [execArrayWorkComplete]
  split
  · exact .ite (.next h.setTile) (.next h)
  · exact .next h
theorem State.tallied.keeps_execDrainComplete (h : s.tallied) {t} : KeepsTally (execDrainComplete t s) := by
  dsimp only [execDrainComplete]
  split
  · exact .ite (.next h.setTile) (.next h)
  · exact .next h

/-! ## Serving -/

theorem State.tallied.keeps_execAdmissionPoint (h : s.tallied) : KeepsTally (execAdmissionPoint s) := by
  unfold execAdmissionPoint
  split
  · exact .next h
  · split
    · exact .next h
    · refine .ite (.next h) (.next (h.withSnoops ?_))
      extract_lets
      split
      next s2 _ e =>
      have h2 : s2.tallied := .fst e h.keep
      exact .ite h2.keep h2.keep.enterBody
theorem State.tallied.keeps_execBatchStepEnd (h : s.tallied) : KeepsTally (execBatchStepEnd s) := by
  unfold execBatchStepEnd
  split
  · exact .next h
  · split
    · refine .ite (.next h) (.next (h.withSnoops ?_))
      extract_lets _ s1 _ _ _ _ s2 _
      have h2 : s2.tallied := State.tallied.keep h (by simp [s2, s1])
      split
      next s3 _ e =>
      have h3 : s3.tallied := .fst e h2.keep
      extract_lets s4 s5 s6
      have h5 : s5.tallied := by unfold s5; split <;> exact State.tallied.keep h3 (by simp [s4])
      have h6 : s6.tallied := h5.of_tiles State.latchSch_tiles
      exact .ite h6 h6.releaseScope
    · exact .next h

/-! ## Training -/

theorem State.tallied.endRun (h : s.tallied) {status} : (s.endRun status).tallied := by
  dsimp only [State.endRun]
  split
  · exact h
  · next r _ =>
    have h1 : (if r.phase = .wait then s.releaseScope r.scope false fun x => { x with core := { x.core with phase := .parked } }
        else s).tallied := .ite h.releaseScope h
    exact h1.keep
theorem State.tallied.feedEnd (h : s.tallied) : s.feedEnd.tallied := by
  unfold State.feedEnd
  split
  · exact .ite h.endRun h
  · exact h
theorem State.tallied.keeps_execFeedEntryFilled (h : s.tallied) {fill errs} : KeepsTally (execFeedEntryFilled fill errs s) := by
  dsimp only [execFeedEntryFilled]
  split
  · exact .next h
  · split
    · exact .next h
    · split
      · exact .next h
      · exact .ite (.next h) (.next (h.withSnoops h.keep.feedEnd))
theorem State.tallied.beginRunStep (h : s.tallied) {r img held} : (s.beginRunStep r img held).tallied := h.keep.modScope.enterBody
theorem State.tallied.tryFirst (h : s.tallied) : s.tryFirst.tallied := by
  unfold State.tryFirst
  split
  · exact h
  · split
    · exact .ite h.beginRunStep h
    · exact h
theorem State.tallied.keeps_execRunFirstStepStart (h : s.tallied) : KeepsTally (execRunFirstStepStart s) := by
  unfold execRunFirstStepStart
  split
  · exact .next h
  · exact .ite (.next h) (.ite (.next h.endRun) (.ite (.next h.keep.tryFirst) (.next h)))
theorem State.tallied.keeps_execStackFlagReport (h : s.tallied) {stack} : KeepsTally (execStackFlagReport stack s) := by
  dsimp only [execStackFlagReport]
  split
  · exact .next h
  · exact .ite (.next h) (.next (.ite h.keep.tryArrive h.keep))
theorem State.tallied.keeps_execFingerprintComplete (h : s.tallied) : KeepsTally (execFingerprintComplete s) := by
  unfold execFingerprintComplete
  split
  · exact .next h
  · split
    · exact .next h
    · exact .ite (.next h) (.next h.keep.tryArrive)
theorem State.tallied.afterStep (h : s.tallied) : s.afterStep.tallied := by
  unfold State.afterStep
  split
  · exact h
  · exact .ite h.endRun (.ite h.endRun (.ite h.endRun (.ite h.endRun (.ite h.keep h.keep))))
theorem State.tallied.tryBegin (h : s.tallied) : s.tryBegin.tallied := by
  unfold State.tryBegin
  split
  · exact h
  · split
    · exact h
    · exact .ite h.beginRunStep h
theorem State.tallied.keeps_execStepEnd (h : s.tallied) : KeepsTally (execStepEnd s) := by
  dsimp only [execStepEnd]
  split
  · exact .next h
  · have ht {u : State} (hu : u.tallied) : u.tryLine.tallied := hu.keep
    exact .ite (.ite (.next (h.withSnoops (ht h.keep.afterStep).tryBegin)) (.next h)) (.next (ht h.feedEnd).tryBegin)
theorem State.tallied.keeps_execRecopy (h : s.tallied) {blocks} : KeepsTally (execRecopy blocks s) := by
  dsimp only [execRecopy]
  split
  · exact .next h
  · refine .ite (.next h) (.next (State.tallied.tryBegin (State.tallied.keep h ?_)))
    refine (State.setRun_tiles ..).trans (State.foldl_tiles fun _ _ => ?_)
    split <;> simp

/-! ## Scheduling and contexts -/

theorem State.tallied.restore (h : s.tallied) {c img a} : (s.restore c img a).tallied := by
  unfold State.restore
  extract_lets tiles ss resume s1 s2
  have h1 : s1.tallied := h.foldl fun _ _ h' => h'.setTile fun _ => by
    rw [State.recordTile_ctr]
    exact h.tile _
  clear_value s1
  have h2 : s2.tallied := h1.of_tiles State.clearLists_tiles
  clear_value s2
  exact .ite (h2.of_tiles rfl) h2
theorem State.tallied.saveErrs (h : s.tallied) {errs} : (s.saveErrs errs).tallied := h.foldl fun _ _ h => h.storeErrs
theorem State.tallied.keeps_execContextSaveComplete (h : s.tallied) {errs} : KeepsTally (execContextSaveComplete errs s) := by
  unfold execContextSaveComplete
  split
  · exact .next h
  extract_lets c done
  have hd {u : State} (hu : u.tallied) : (done u).tallied := by
    unfold done
    extract_lets s0 x s1
    have h0 : s0.tallied := hu.of_tiles State.wakeClients_tiles
    clear_value s0
    have h1 : s1.tallied := h0.of_tiles (State.setClient_tiles ..)
    clear_value s1
    exact h1.of_tiles rfl
  clear_value done
  split
  · exact .next (hd h)
  · exact .next (h.withSnoops (hd (State.tallied.of_tiles h.saveErrs State.svcWrite_tiles)))
theorem State.tallied.tryRestore (h : s.tallied) {c img a errs k} (hk : ∀ s, s.tallied → (k s).tallied) :
    (s.tryRestore c img a errs k).tallied := by
  have ht : (s.tierErrs [(a, ctxMost)] errs).tallied := h.keep
  exact h.withSnoops (.ite ht (hk _ (State.tallied.of_tiles ht.restore State.svcSeen_tiles)))
theorem State.tallied.keeps_execContextRestoreComplete (h : s.tallied) {errs} : KeepsTally (execContextRestoreComplete errs s) := by
  have hw : s.wakeClients.tallied := h.keep
  dsimp only [execContextRestoreComplete]
  refine .ite (.next h) ?_
  split
  · exact .next hw
  · split
    · exact .next hw
    · exact .ite (.next (hw.tryRestore fun _ h => h.keep)) (.next (State.tallied.of_tiles hw.startImage State.startClient_tiles))
theorem State.tallied.keeps_execCtxSave (h : s.tallied) {ctx errs} : KeepsTally (execCtxSave ctx errs s) := by
  have hs : (s.saveErrs errs).tallied := h.saveErrs
  dsimp only [execCtxSave]
  split
  · exact .ite (.next h) (.ite (.next h.keep) (.next (h.withSnoops hs.keep)))
  · exact .next h
theorem State.tallied.putContext (h : s.tallied) {c img a n} : (s.putContext c img a n).tallied :=
  .ite (.ite (State.tallied.of_tiles h.restore State.complete_tiles) h) (.ite h.keep (h.withSnoops h.keep))
theorem State.tallied.keeps_execCtxRestore (h : s.tallied) {ctx errs} : KeepsTally (execCtxRestore ctx errs s) := by
  dsimp only [execCtxRestore]
  split
  · exact .next h
  · refine .ite (.next h) (.next (h.withSnoops ?_))
    split
    · exact h.keep
    · exact h.keep
    · exact State.tallied.of_tiles h.keep.putContext State.svcSeen_tiles

/-! ## Registers -/

theorem State.tallied.snapTile (h : s.tallied) {t} : (s.snapTile t).tallied := h.modTile
theorem State.tallied.sigOp (h : s.tallied) {t obj add value} : (s.sigOp t obj add value).tallied :=
  .ite h.setTile (State.tallied.of_tiles h.setTile (State.log_tiles ..))

/-! ## Loading an image -/

theorem State.tallied.stopTiles (h : s.tallied) : s.stopTiles.tallied := h.map_filter rfl fun _ hx => hx
theorem State.tallied.installImage (h : s.tallied) {ctx o d ids} : (s.installImage ctx o d ids).tallied := by
  unfold State.installImage
  extract_lets s1 _ _ _ s4
  have h1 : s1.tallied := by unfold s1; split <;> [exact h.keep; exact h]
  have h4 : s4.tallied := State.tallied.of_tiles h1 rfl
  exact .ite h4.stopTiles h4
theorem State.tallied.copyImage (h : s.tallied) {ctx c o ws} : (s.copyImage ctx c o ws).tallied := by
  dsimp only [State.copyImage]
  split
  · exact h.keep
  · next u _ hp =>
    have hu : u.tallied := h.of_tiles ((State.checkImage_tiles hp).trans State.svcWrite_tiles)
    exact State.tallied.of_tiles hu.installImage State.endLoad_tiles
theorem State.tallied.keeps_execLoadImage (h : s.tallied) {ctx src errs} : KeepsTally (execLoadImage ctx src errs s) := by
  dsimp only [execLoadImage]
  split
  · exact .next h
  · split
    · exact .next h.keep
    · refine .ite (.next h.keep) (.ite (.next h) (.next (h.withSnoops ?_)))
      exact .ite h.keep h.keep.copyImage

/-! ## Register writes -/

theorem State.tallied.tileWrite (h : s.tallied) {t o half v} : (s.tileWrite t o half v).tallied := by
  dsimp only [State.tileWrite]
  split
  · exact .ite h.snapTile h
  · exact h.modTile
  · exact h.sigOp
  · exact h
theorem State.tallied.writeReg (h : s.tallied) {a half v} : (s.writeReg a half v).tallied := by
  dsimp only [State.writeReg]
  refine .ite h (.ite h.tileWrite ?_)
  split
  · exact h
  · split
    · exact h.keep
    · exact .ite h.keep h.keep
theorem State.tallied.keeps_execCdresetClear (h : s.tallied) : KeepsTally (execCdresetClear s) :=
  .ite (.next h) (.next (h.map_filter rfl fun _ hx => hx))

/-! ## The movers -/

theorem State.tallied.creditFeeds (h : s.tallied) : s.creditFeeds.tallied := by
  dsimp only [State.creditFeeds]
  split
  · exact h
  · exact h.keep.feedEnd
theorem State.tallied.keeps_execMoverCreditReturn (h : s.tallied) {die} : KeepsTally (execMoverCreditReturn die s) := by
  unfold execMoverCreditReturn
  refine .ite (.next h.creditFeeds) ?_
  split
  · exact .next h
  · exact .next h.keep

/-! ## The vector engine -/

theorem State.tallied.keeps_execVlen (h : s.tallied) {t ecc ra imm} : KeepsTally (execVlen t ecc ra imm s) :=
  h.keeps_issue fun _ h => h.modTile
theorem State.tallied.vchIssue (h : s.tallied) {t f} : (vchIssue t f s).tallied := by
  dsimp only [Machine.vchIssue]
  refine .ite h.illegal ?_
  split
  · exact h.illegal
  · refine .ite h.illegal ?_
    split
    · exact h.storeRange
    · refine h.setTile fun h => ?_
      rw [Tile.nextWord_ctr]
      split <;> exact Tile.tallied_step (n := 1) h
theorem State.tallied.rdxIssue (h : s.tallied) {t op f} : (rdxIssue t op f s).tallied := .ite h.storeRange h.setTile
theorem State.tallied.runVch (h : s.tallied) {o slot t} : (runVch o slot s t).tallied := by
  refine h.setTile fun h => ?_
  have hr := Run.Tallied.runGroups (u := ⟨s.tile t, [], [], [], []⟩) h (o := o) (slot := slot)
    (n := groupCount o.f.wb o.nr o.vlen) (g := 0) (acc := [])
  simp only [Tile.count_ctr]
  split
  · split <;> simpa using hr
  · simpa using hr
theorem State.tallied.keeps_execVchLastGroupComplete (h : s.tallied) {t steps errs} :
    KeepsTally (execVchLastGroupComplete t steps errs s) := by
  dsimp only [execVchLastGroupComplete]
  split
  · exact .next h
  · exact .ite (.next h.storeErrs.runVch) (.next h)
theorem State.tallied.keeps_execRduResultWrite (h : s.tallied) {t errs} : KeepsTally (execRduResultWrite t errs s) := by
  unfold execRduResultWrite
  split
  · exact .next h
  · refine .ite (.next h) ?_
    extract_lets u
    have hu : u.tallied := .ite h.storeErrs h
    clear_value u
    exact .next (hu.setTile fun hx => by simp +zetaDelta [hx])

/-! ## The generator -/

theorem State.tallied.rngIssue (h : s.tallied) {t fn f} : (rngIssue t fn f s).tallied := by
  dsimp only [Machine.rngIssue]
  split
  · exact h.storeRange
  · exact h.setTile
theorem State.tallied.keeps_execSeedset (h : s.tallied) {t ecc sel rv} : KeepsTally (execSeedset t ecc sel rv s) :=
  h.keeps_issue fun _ h => h.modTile
theorem State.tallied.keeps_execSeedget (h : s.tallied) {t ecc sel rv} : KeepsTally (execSeedget t ecc sel rv s) :=
  h.keeps_issue fun _ h => h.aluWrite
theorem State.tallied.keeps_execRngLastWriteLands (h : s.tallied) {t errs} : KeepsTally (execRngLastWriteLands t errs s) := by
  dsimp only [execRngLastWriteLands]
  split
  · exact .next h
  · exact .ite (.next h.storeErrs.setTile.modTile) (.next h)

/-! ## Every command -/

theorem State.tallied.keeps_exec (h : s.tallied) {i} : KeepsTally (exec i s) := by
  cases i with
  | add | sub | andR | orR | xorR | sll | srl | sra | slt | sltu | mul | mulhu | minR | maxR => exact h.keeps_issue fun _ h => h.aluRR
  | popc => exact h.keeps_execPopc
  | ctz => exact h.keeps_execCtz
  | addi | andi | ori | xori | slli | srli | srai | slti | sltiu => exact h.keeps_issue fun _ h => h.aluRI
  | li => exact h.keeps_execLi
  | lih => exact h.keeps_execLih
  | ext => exact h.keeps_execExt
  | beq | bne | blt | bge | bltu | bgeu => exact h.keeps_issue fun _ h => h.branchRR
  | j => exact h.keeps_execJ
  | dbnz => exact h.keeps_issue fun _ h => h.dbnzStep
  | nop => exact h.keeps_execNop
  | endC => exact h.keeps_issue fun _ h => h.endStep
  | hset => exact h.keeps_issue fun _ h => h.hsetStep
  | hget => exact h.keeps_execHget
  | rdtally => exact h.keeps_execRdtally
  | rdid => exact h.keeps_execRdid
  | rdss => exact h.keeps_execRdss
  | mmaF4 | mmaF8 | mmaB16 | mmsF4 => exact h.keeps_issue fun _ h => h.mmaIssue
  | tokenGrant => exact h.keeps_execTokenGrant
  | tokenIdleRelease => exact .ite (.next h.setTile) (.next h)
  | mxeOperationStart => exact h.keeps_execMxeOperationStart
  | initialLoadComplete => exact h.keeps_execInitialLoadComplete
  | drainComplete => exact h.keeps_execDrainComplete
  | vch => exact h.keeps_issue fun _ h => h.vchIssue
  | ftqRelease => exact .ite (.next h.setTile) (.next h)
  | vlen => exact h.keeps_execVlen
  | rdxSum | rdxSsq | rdxMax | rdxAmax => exact h.keeps_issue fun _ h => h.rdxIssue
  | rduResultWrite => exact h.keeps_execRduResultWrite
  | strGet | strPut => exact h.keeps_issue fun _ h => h.strIssue
  | lookaheadPass => exact h.keeps_execLookaheadPass
  | lineLanding => exact h.keeps_execLineLanding
  | putRowTake => exact h.keeps_execPutRowTake
  | putLineAccepted => exact h.keeps_execPutLineAccepted
  | storePoisonWriteback => exact h.keeps_execStorePoisonWriteback
  | rngBits | rngUni | rngMask => exact h.keeps_issue fun _ h => h.rngIssue
  | seedset => exact h.keeps_execSeedset
  | seedget => exact h.keeps_execSeedget
  | exchangeBegin => exact h.keeps_execExchangeBegin
  | flitRouterArrival => exact h.keeps_execFlitRouterArrival
  | sumGroupForm => exact h.keeps_execSumGroupForm
  | exchangeFlitWrite => exact h.keeps_execExchangeFlitWrite
  | barrierArrival => exact h.keeps_execBarrierArrival
  | barrierRelease => exact h.keeps_execBarrierRelease
  | sigSignal => exact h.keeps_execSigSignal
  | sigPut | sigPuth => exact h.keeps_issue fun _ h => h.putIssue
  | waitConsume | waitPeek | waitGe => exact h.keeps_issue fun _ h => h.waitIssue
  | signalArrival => exact h.keeps_execSignalArrival
  | putDataArrival => exact h.keeps_execPutDataArrival
  | send | asend | cadd => exact h.keeps_issue fun _ h => h.msgIssue
  | recv => exact h.keeps_execRecv
  | poll => exact h.keeps_execPoll
  | hret => exact h.keeps_execHret
  | reservationArrival => exact h.keeps_execReservationArrival
  | reservationAnswer => exact h.keeps_execReservationAnswer
  | busyRetry => exact h.keeps_execBusyRetry
  | queueSpillStart => exact h.keeps_execQueueSpillStart
  | messageFlitArrival => exact h.keeps_execMessageFlitArrival
  | ringRefill => exact h.keeps_execRingRefill
  | contributionArrival => exact h.keeps_execContributionArrival
  | combinedResultPlace => exact h.keeps_execCombinedResultPlace
  | handlerEntry => exact h.keeps_execHandlerEntry
  | memoryRequestArrival => exact h.keeps_execMemoryRequestArrival
  | moverCreditReturn => exact h.keeps_execMoverCreditReturn
  | stackFlagReport => exact h.keeps_execStackFlagReport
  | hostLink => exact .ite (.next h) (.next (State.tallied.of_tiles h.raise State.errVector_tiles))
  | loadImage => exact h.keeps_execLoadImage
  | ctxSave => exact h.keeps_execCtxSave
  | ctxRestore => exact h.keeps_execCtxRestore
  | runFirstStepStart => exact h.keeps_execRunFirstStepStart
  | stepEnd => exact h.keeps_execStepEnd
  | feedEntryFilled => exact h.keeps_execFeedEntryFilled
  | fingerprintComplete => exact h.keeps_execFingerprintComplete
  | recopy => exact h.keeps_execRecopy
  | admissionPoint => exact h.keeps_execAdmissionPoint
  | batchStepEnd => exact h.keeps_execBatchStepEnd
  | contextSaveComplete => exact h.keeps_execContextSaveComplete
  | contextRestoreComplete => exact h.keeps_execContextRestoreComplete
  | cdresetClear => exact h.keeps_execCdresetClear
  | linkTrainingComplete => exact .next (.ite h.portUp h)
  | frameReceive => exact h.keeps_execFrameReceive
  | linkRetrain => exact h.keeps_execLinkRetrain
  | identReceive => exact h.keeps_execIdentReceive
  | arriveReceive => exact h.keeps_execArriveReceive
  | releaseReceive => exact h.keeps_execReleaseReceive
  | chainDownReceive => exact h.keeps_execChainDownReceive
  | tilSnap => exact .next h.snapTile
  | tilDbgData0Read => exact .next h.modTile
  | sigOpSet | sigOpAdd => exact .next (.ite h.sigOp h)
  | registerWrite => exact .next h.writeReg
  | arrayWorkComplete => exact h.keeps_execArrayWorkComplete
  | vchLastGroupComplete => exact h.keeps_execVchLastGroupComplete
  | rngLastWriteLands => exact h.keeps_execRngLastWriteLands
  | vin48Loss => exact h.keeps_execVin48Loss
  | thermalTrip => exact h.keeps_execThermalTrip
  | perstAssert => exact h.keeps_execPerstAssert
  | tierReadResponse | blockFetchComplete | blockWriteDownComplete | patrolScrubRead | moverReadIssue | updatePacketArrival |
    healthInletWrite | verdictArrival | hostMemRead | hostMemWrite | descriptorFetch | descriptorBurstReturn | commandDispatch |
    completionRecordWrite | ctxXlate | runSteps | serveOpen | serveClose | serveJoin | serveCont | serveLeave | copy | place |
    objectSpillComplete | evict | checkpoint | queryObject | frameSubmit | checkpointBlockRead | checkpointComplete | gatherWindowExpiry |
    preemptionPoint | preemptLate | barrierSlow | nakReceive | helloReceive | chainUpReceive | tokenReceive | latchPoint | firstActivePixel
    | lineStart | lineUnderrun | outputStartComplete | auxReply | vin48Rise | commitWorkDone | counterRead | getMeasurements | finish |
    vendorDefinedRequest | memoryPhyTrained | memoryClearComplete =>
    exact h.keepOut (by dsimp only [exec]; simp)
  | correctedWordWriteback | poisonWriteback | hbmRefresh | refreshManagement | grottoRefresh | uioCompletion | uioTimeout | blockApply |
    blockDiscard | backInvalidateResponse | doorbellInvalidation | doorbellReadReturn | moderationTimerExpiry | contextDisableComplete |
    fence | fenceComplete | queryDevice | queryTile | queryClient | queryTierPool | queryErrorLog | sliceExpiry | trainingTimeout |
    linkTrainingRetry | chainFormation | chainFormDeadline | tokenSend | chainPulseReceive | hpdLost | linkLost | auxNativeWrite |
    auxNativeRead | auxI2cWrite | auxI2cRead | auxI2cWriteStopWithheld | auxI2cReadStopWithheld | auxTimeout | strapWindowEnd |
    throttleEvaluation | blockCommit | blockCommitHold | globalCommit | trgHealthHeadWrite | errLogHeadWrite | errAlertClear | cxlLinkUp |
    opverLaneFailure | hpdIrqPulse | hpdLevelChange | powerGood | identityKeyReady | deviceReady | perstDeassert | getVersion =>
    exact h.keepOut (by
      simp [exec, execCorrectedWordWriteback, execPoisonWriteback, execHbmRefresh, execRefreshManagement, execGrottoRefresh,
        execUioCompletion, execUioTimeout, execBlockApply, execBlockDiscard, execBackInvalidateResponse, execDoorbellInvalidation,
        execDoorbellReadReturn, execModerationTimerExpiry, execContextDisableComplete, execFence, execFenceComplete, execQueryDevice,
        execQueryTile, execQueryClient, execQueryTierPool, execQueryErrorLog, execSliceExpiry, execTrainingTimeout, execLinkTrainingRetry,
        execChainFormation, execChainFormDeadline, execTokenSend, execChainPulseReceive, execHpdLost, execLinkLost, execAuxNativeWrite,
        execAuxNativeRead, execAuxI2cWrite, execAuxI2cRead, execAuxI2cWriteStopWithheld, execAuxI2cReadStopWithheld, execAuxTimeout,
        execStrapWindowEnd, execThrottleEvaluation, execBlockCommit, execBlockCommitHold, execGlobalCommit, execTrgHealthHeadWrite,
        execErrLogHeadWrite, execErrAlertClear, execCxlLinkUp, execOpverLaneFailure, execHpdIrqPulse, execHpdLevelChange, execPowerGood,
        execIdentityKeyReady, execDeviceReady, execPerstDeassert, execGetVersion])
  | getCapabilities | negotiateAlgorithms | getDigests | getCertificate | challenge | keyExchange | spdmUnsupportedRequest =>
    simp only [exec, execGetCapabilities, execNegotiateAlgorithms, execGetDigests, execGetCertificate, execChallenge, execKeyExchange,
      execSpdmUnsupportedRequest]
    exact h.keeps_spdm
  | heartbeat | keyUpdate | endSession =>
    simp only [exec, execHeartbeat, execKeyUpdate, execEndSession]
    exact h.keeps_spdm fun _ => State.inSession_tiles fun _ => rfl

/-! ## The passing of time -/

theorem State.tallied.tileSteps (h : s.tallied) {t n} : (s.tileSteps t n).tallied := by
  have h1 : (if n = 0 then s else s.drain t).tallied := .ite h h.drain
  refine State.tallied.modTile (h1.setTile fun h => Tile.tallied_waitStep h) fun x hx => ?_
  rw [Tile.count_ctr, TCtr.tallied_events]
  split
  · exact Tile.tallied_held hx
  · exact Tile.tallied_step hx
theorem State.tallied.allSteps (h : s.tallied) : s.allSteps.tallied := .ite (h.foldl fun _ _ h => h.tileSteps) h
theorem State.tallied.tick (h : s.tallied) : s.tick.tallied :=
  .ite h.allSteps.keep h.allSteps.keep

/-! ## The step -/

theorem State.tallied.keeps_step (h : s.tallied) : KeepsTally (step s) := by
  unfold step
  split
  · exact .next h.tick
  · exact h.keep.keeps_exec

/-! ## The counters as they are read -/

/-- The tally and the eight stall counters, in the order of the tile's window. -/
def TCtr.stallList (c : TCtr) : List Nat := [c.tally, c.sEcc, c.sLan, c.sMem, c.sXchg, c.sPower, c.sFtq, c.sQueue, c.sSync]

theorem TCtr.flatMap_list (c : TCtr) (f : Nat → List Byte) : c.list.flatMap f = c.stallList.flatMap f ++ (c.list.drop 9).flatMap f := by
  rw [← List.flatMap_append]
  rfl
theorem toNat_epochBit (n : Nat) : (epochBit n).toNat = n / 2 ^ 64 % 2 := by
  have : n / 2 ^ 64 % 2 < 2 := Nat.mod_lt _ (by decide)
  unfold epochBit
  interval_cases n / 2 ^ 64 % 2 <;> rfl
/-- A counter register of a tile's window (R448): the value that the last TIL_SNAP latched. -/
theorem Tile.window_counter (x : Tile) {k : Nat} (hk : k < 20) : x.window (0x10 + 8 * k) = x.dbg.snap.getD k 0 % 2 ^ 64 := by
  have hd : (0x10 + 8 * k - 0x10) / 8 = k := by omega
  have hin : decide (0x10 ≤ 0x10 + 8 * k) && decide (0x10 + 8 * k < 0xB0) := by
    simp only [Bool.and_eq_true, decide_eq_true_eq]
    omega
  unfold Tile.window
  rw [if_neg (by omega), if_pos hin, hd]
/-- A read inside a tile's window (R422). -/
theorem State.readReg_window (t : TileId) {o : Nat} (ho : o < 0x100) :
    s.readReg (0x100000 + 0x100 * t.toNat + o) = BitVec.ofNat 64 ((s.tile t).window o) := by
  have ht : t.toNat < 2048 := t.isLt
  have hin : decide (0x100000 ≤ 0x100000 + 0x100 * t.toNat + o) && decide (0x100000 + 0x100 * t.toNat + o < 0x180000) := by
    simp only [Bool.and_eq_true, decide_eq_true_eq]
    omega
  have hdiv : (0x100000 + 0x100 * t.toNat + o - 0x100000) / 0x100 = t.toNat := by omega
  have hmod : (0x100000 + 0x100 * t.toNat + o) % 0x100 = o := by omega
  rw [State.readReg, if_pos hin, hdiv, hmod, BitVec.ofNat_toNat, BitVec.setWidth_eq]
theorem State.readReg_snapTile (t : TileId) {k : Nat} (hk : k < 9) :
    (s.snapTile t).readReg (0x100010 + 0x100 * t.toNat + 8 * k) = BitVec.ofNat 64 ((s.tile t).ctr.stallList.getD k 0) := by
  have ha : 0x100010 + 0x100 * t.toNat + 8 * k = 0x100000 + 0x100 * t.toNat + (0x10 + 8 * k) := by omega
  have hl : ((s.tile t).ctr.list.take 20).getD k 0 = (s.tile t).ctr.stallList.getD k 0 := by
    interval_cases k <;> rfl
  rw [ha, State.readReg_window t (by omega), Tile.window_counter _ (by omega), State.snapTile, State.tile_modTile_self, hl]
  exact BitVec.eq_of_toNat_eq (by simp)

@[simp] theorem State.complete_out {id status result} : (s.complete id status result).host.out = s.host.out := by
  unfold State.complete
  split
  · rfl
  · dsimp only
    split
    · rfl
    · split <;> rfl
theorem length_count16 (n : Nat) : (count16 n).length = 16 := by
  rw [count16, cnt8, List.length_append, toBytes_length, toBytes_length]
/-- A counter and its epoch bit in 16 bytes (R461). -/
theorem count16_eq : count16 = fun n => toBytes 8 (n % 2 ^ 64) ++ toBytes 8 (n / 2 ^ 64 % 2) := by
  funext n
  rw [count16, cnt8, toNat_epochBit]
theorem TCtr.length_flatMap_stallList (c : TCtr) : (c.stallList.flatMap count16).length = 144 := by
  simp [TCtr.stallList, length_count16]
/-- The answer to a QUERY: its 16-byte header, then the body as far as LEN reaches (R462). -/
theorem State.answerQuery_out {c : Cmd} {n : Nat} {bs rest : List Byte} (hn : 16 + bs.length ≤ c.num 32 4) :
    ∃ h r, h.length = 16 ∧ (s.answerQuery c n (bs ++ rest)).host.out = s.host.out ++ [.bytes c.ctx (c.num 24 8) (h ++ (bs ++ r))] := by
  have hh : (cnt8 s.dev.time ++ toBytes 4 n ++ toBytes 4 0).length = 16 := by
    rw [cnt8, List.length_append, List.length_append, toBytes_length, toBytes_length, toBytes_length]
  refine ⟨_, rest.take (c.num 32 4 - (16 + bs.length)), hh, ?_⟩
  have hb : (cnt8 s.dev.time ++ toBytes 4 n ++ toBytes 4 0 ++ bs).length = 16 + bs.length := by rw [List.length_append, hh]
  rw [State.answerQuery, State.complete_out, ← List.append_assoc, List.take_append, List.take_of_length_le (by omega), hb,
    List.append_assoc _ bs]
  rfl
/-- The answer to a QUERY of a tile: after the header, its tally and its stall counters, each with its epoch bit (R461). -/
theorem execQueryTile_out {x : BitVec 6} {c : Cmd} (hc : s.queryCmd x 1 = some c) (hn : 160 ≤ c.num 32 4) :
    Completes (.queryTile x) s fun s' => ∃ h r, h.length = 16 ∧ s'.host.out = s.host.out ++
      [.bytes c.ctx (c.num 24 8) (h ++ ((s.tile (BitVec.ofNat 11 (c.num 18 2))).ctr.stallList.flatMap count16 ++ r))] := by
  have hlen := (s.tile (BitVec.ofNat 11 (c.num 18 2))).ctr.length_flatMap_stallList
  refine ⟨_, rfl, ?_⟩
  simp only [State.query, hc, TCtr.flatMap_list, List.append_assoc]
  exact State.answerQuery_out (by rw [hlen]; omega)
end

/-- Settles O59: every step keeps it (`State.tallied.keeps_step`); the window's registers are `State.readReg_snapTile`, the answer to a QUERY
`execQueryTile_out`. -/
theorem stallCountersNeverExceedTheTally : Obligations.StallCountersNeverExceedTheTally := by
  unfold Obligations.StallCountersNeverExceedTheTally
  refine ⟨fun s s' h e => h.keeps_step s' e, fun s t l hl => ⟨?_, fun x c hc ht hn => ?_⟩⟩
  · subst hl
    exact ⟨s.snapTile t, rfl, fun k hk => State.readReg_snapTile t hk⟩
  · subst hl ht
    obtain ⟨s', he, h, r, hh, hout⟩ := execQueryTile_out hc hn
    exact ⟨s', he, h, _, r, hh, by rw [hout, List.append_assoc], by rw [count16_eq]; rfl⟩

end Sys2Proof.Machine
end

/-! # WAIT at issue (O16)

A satisfied WAIT completes at once and an unsatisfied one holds the core; both take a place behind a RECV that waits in the sync port. -/
section
set_option Elab.async false
namespace Sys2Proof.Machine

/-! ## A WAIT's tile -/

section
variable {x : Tile} {k : WaitKind} {o o' : BitVec 8} {n v : W32} {rd r : Reg}

theorem Tile.sigC_setC : (x.setC o v).sigC o' = if o' = o then v else x.sigC o' := by
  simp only [Tile.sigC, Tile.setC, aGet_aSet, ← BitVec.toNat_inj]
/-- A write of a scalar register changes the scalar registers only. -/
theorem Tile.setReg_eq {v : W64} : x.setReg r v = { x with core := { x.core with regs := (x.setReg r v).core.regs } } := by
  unfold Tile.setReg
  split <;> rfl
/-- The lanes of the VXE work whatever the core and the belfry do, and whether or not a token is asked for. -/
theorem Tile.vxeActive_core_bel_requested {c : TCore} {b : Belfry} {q : Bool} :
    ({ x with core := c, bel := b, mxe := { x.mxe with requested := q } } : Tile).vxeActive = x.vxeActive := by
  unfold Tile.vxeActive
  cases x.vxe.ops with
  | nil => rfl
  | cons p _ =>
    have hf : ({ x with core := c, bel := b, mxe := { x.mxe with requested := q } } : Tile).vchFree p = x.vchFree p := by
      unfold Tile.vchFree
      cases p.rdx <;> rfl
    simp only [hf]
/-- What the counters count in a step depends on the core not at all, and on the belfry only through its sync port. -/
theorem Tile.stepCtr_core_bel {c : TCore} {b : Belfry} {m : Nat} (h : ({ x with core := c, bel := b } : Tile).syncActive = x.syncActive) :
    ({ x with core := c, bel := b } : Tile).stepCtr m = x.stepCtr m := by
  have hv : ({ x with core := c, bel := b } : Tile).vxeActive = x.vxeActive :=
    Tile.vxeActive_core_bel_requested (q := x.mxe.requested)
  simp only [Tile.stepCtr, hv, h]
  rfl

/-- The place of a WAIT behind what waits in the sync port (R191). -/
theorem Tile.syncPlace_bel :
    x.syncPlace.bel = { x.bel with syncq := x.bel.syncq ++ if 0 < x.syncQueued then [SyncOp.place] else [] } := by
  unfold Tile.syncPlace
  split
  · rfl
  · rw [List.append_nil]
theorem Tile.syncPlace_p : x.syncPlace.bel.p = x.bel.p := by
  rw [Tile.syncPlace_bel]
theorem Tile.syncPlace_c : x.syncPlace.bel.c = x.bel.c := by
  rw [Tile.syncPlace_bel]
theorem Tile.syncPlace_syncq : x.syncPlace.bel.syncq = x.bel.syncq ++ if 0 < x.syncQueued then [SyncOp.place] else [] := by
  rw [Tile.syncPlace_bel]
theorem Tile.sigC_syncPlace : x.syncPlace.sigC o = x.sigC o := by
  simp only [Tile.sigC, Tile.syncPlace_c]
theorem Tile.syncPlace_eq : x.syncPlace = { x with bel := x.syncPlace.bel } := by
  unfold Tile.syncPlace
  split <;> rfl
/-- A place is taken only where the sync port is active already. -/
theorem Tile.syncPlace_syncActive : x.syncPlace.syncActive = x.syncActive := by
  unfold Tile.syncPlace
  split
  · next h =>
    obtain ⟨p, hp, hc⟩ : ∃ p ∈ x.bel.syncq, p.complete = false := by
      unfold Tile.syncQueued at h
      obtain ⟨p, hp⟩ := List.exists_mem_of_length_pos h
      obtain ⟨hm, hc⟩ := List.mem_filter.mp hp
      exact ⟨p, hm, by simpa using hc⟩
    have hb : (x.bel.syncq.any fun p => !p.complete) = true := List.any_eq_true.mpr ⟨p, hp, by simp [hc]⟩
    simp only [Tile.syncActive, Tile.syncPush, List.any_append, hb, Bool.true_or]
  · rfl
/-- A WAIT that has taken its place, where CONSUME has consumed. -/
def Tile.waitTaken (x : Tile) (k : WaitKind) (o : BitVec 8) (n : W32) : Tile :=
  if k = .consume then x.syncPlace.setC o (x.sigC o + n) else x.syncPlace

theorem Tile.waitTaken_eq : x.waitTaken k o n = { x with bel := (x.waitTaken k o n).bel } := by
  unfold Tile.waitTaken
  rw [Tile.syncPlace_eq]
  split <;> rfl
theorem Tile.waitTaken_syncActive : (x.waitTaken k o n).syncActive = x.syncActive := by
  unfold Tile.waitTaken
  split <;> exact Tile.syncPlace_syncActive
theorem Tile.waitTaken_p : (x.waitTaken k o n).bel.p = x.bel.p := by
  unfold Tile.waitTaken
  split <;> exact Tile.syncPlace_p
theorem Tile.waitTaken_syncq : (x.waitTaken k o n).bel.syncq = x.bel.syncq ++ if 0 < x.syncQueued then [SyncOp.place] else [] := by
  unfold Tile.waitTaken
  split <;> exact Tile.syncPlace_syncq
theorem Tile.sigC_waitTaken : (x.waitTaken k o n).sigC o' = if k = .consume ∧ o' = o then x.sigC o' + n else x.sigC o' := by
  unfold Tile.waitTaken
  by_cases hk : k = .consume
  · rw [if_pos hk, Tile.sigC_setC]
    by_cases ho : o' = o
    · rw [if_pos ho, if_pos ⟨hk, ho⟩, ho]
    · rw [if_neg ho, if_neg fun h => ho h.2, Tile.sigC_syncPlace]
  · rw [if_neg hk, if_neg fun h => hk h.1, Tile.sigC_syncPlace]
/-- A completed WAIT: RD has what is then available, the core is no longer held and goes on. -/
theorem Tile.waitDone_syncPlace : x.syncPlace.waitDone k o n rd = ({ x with
    core := { x.core with regs := (x.setReg rd (((x.waitTaken k o n).avail o).setWidth 64)).core.regs, held := none }
    bel := (x.waitTaken k o n).bel } : Tile).next := by
  have hr (v : W64) : (x.waitTaken k o n).setReg rd v = { x with
      core := { x.core with regs := (x.setReg rd v).core.regs }, bel := (x.waitTaken k o n).bel } := by
    rw [Tile.waitTaken_eq]
    unfold Tile.setReg
    split <;> rfl
  have hw : x.syncPlace.waitDone k o n rd = ({ (x.waitTaken k o n).setReg rd (((x.waitTaken k o n).avail o).setWidth 64) with
      core := { ((x.waitTaken k o n).setReg rd (((x.waitTaken k o n).avail o).setWidth 64)).core with held := none } } : Tile).next := by
    unfold Tile.waitDone Tile.waitTaken
    rw [Tile.sigC_syncPlace]
  rw [hw, hr]
end

/-! ## WAIT (O16) -/

/-- A WAIT that issues outside a handler, with n below 2^31 where it consumes. -/
theorem waitIssue_eq {s : State} {t : TileId} {k : WaitKind} {f : WaitF} (hh : (s.tile t).core.hnd = none)
    (hn : k = .consume → ((s.tile t).waitN f).toNat < 2 ^ 31) : waitIssue t k f s = s.setTile t
      (if (s.tile t).satisfied k f.obj ((s.tile t).waitN f) then (s.tile t).syncPlace.waitDone k f.obj ((s.tile t).waitN f) f.rd
      else ({ (s.tile t).syncPlace with
        core := { (s.tile t).core with held := some ⟨k, f.obj, (s.tile t).waitN f, f.rd⟩ } } : Tile).held .sync 1) := by
  have hsmall : (decide (k = .consume) && decide (2 ^ 31 ≤ ((s.tile t).waitN f).toNat)) = false := by
    rw [Bool.and_eq_false_iff, decide_eq_false_iff_not, decide_eq_false_iff_not]
    by_cases hk : k = .consume
    · exact .inr (Nat.not_le.mpr (hn hk))
    · exact .inl hk
  dsimp only [waitIssue]
  rw [show (s.tile t).core.hnd.isSome = false from by rw [hh]; rfl, hsmall]
  simp only [Bool.false_eq_true, if_false]
  split <;> rfl
/-- The three WAIT instructions are one, by their kind. -/
theorem exec_wait {s : State} {t : TileId} {e : Ecc} {f : WaitF} {i : Instr} {k : WaitKind}
    (hi : (i, k) ∈ [(Instr.waitConsume t e f, WaitKind.consume), (.waitPeek t e f, .peek), (.waitGe t e f, .ge)]) :
    exec i s = issue s t e i (waitIssue t k f) := by
  simp only [List.mem_cons, Prod.mk.injEq, List.not_mem_nil, or_false] at hi
  obtain ⟨rfl, rfl⟩ | ⟨rfl, rfl⟩ | ⟨rfl, rfl⟩ := hi <;> rfl

/-- Settles O16: a WAIT that is ready issues (`issue_ready`) as `waitIssue_eq` says; what it leaves of the tile where it completes is
`Tile.waitDone_syncPlace`, where it holds the core `Tile.syncPlace_eq`. -/
theorem waitInstructions : Obligations.WaitInstructions := by
  unfold Obligations.WaitInstructions
  intro s t e f i k hi hready x hx hh hn
  subst hx
  refine ⟨_, (exec_wait hi).trans (issue_ready _ hready), ?_⟩
  rw [waitIssue_eq hh hn]
  generalize (s.issueEcc t e).tile t = x
  refine ⟨_, rfl, ?_⟩
  cases hsat : x.satisfied k f.obj (x.waitN f) with
  | true =>
    have hactive {c : TCore} : ({ x with core := c, bel := (x.waitTaken k f.obj (x.waitN f)).bel } : Tile).syncActive = x.syncActive :=
      Tile.waitTaken_syncActive
    rw [if_pos rfl, Tile.waitDone_syncPlace]
    refine ⟨⟨rfl, rfl, rfl, rfl⟩, Tile.waitTaken_p, Tile.waitTaken_syncq, fun _ => ⟨fun o => ?_, fun r => ?_, rfl, rfl, ?_⟩, nofun⟩
    · exact Tile.sigC_waitTaken
    · exact Tile.reg_setReg ..
    · exact Tile.stepCtr_core_bel hactive
  | false =>
    rw [if_neg nofun, Tile.syncPlace_eq]
    have hactive {c : TCore} : ({ x with core := c, bel := x.syncPlace.bel } : Tile).syncActive = x.syncActive := Tile.syncPlace_syncActive
    refine ⟨⟨rfl, rfl, rfl, rfl⟩, x.syncPlace_p, x.syncPlace_syncq, nofun, fun _ => ⟨rfl, x.syncPlace_c, ?_⟩⟩
    exact congrArg (TCtr.charge · .sync 1) (Tile.stepCtr_core_bel hactive)
end Sys2Proof.Machine
end

/-! # Arrival at a barrier (O13)

A tile arrives and gives its token up; its scope's wait begins with the first arrival and ends, but for CHAIN, with the last (R17,
R33, R67). -/
section
set_option Elab.async false
namespace Sys2Proof.Machine

variable {s s' : State} {t u : TileId} {sc : Scope} {die : Bool}

/-! ## What a barrier waits for -/

theorem State.atBarrier_of_tile (h : s'.tile u = s.tile u) : s'.atBarrier sc u = s.atBarrier sc u := by
  unfold State.atBarrier
  rw [h]
theorem State.gathered_of_tiles (h : s'.tiles = s.tiles) : s'.gathered sc die = s.gathered sc die :=
  congrArg (scopeTiles sc die).all (funext fun _ => State.atBarrier_of_tile (State.tile_of_tiles _ _ h _))
theorem State.not_gathered (hu : u ∈ scopeTiles sc die) (h : s.atBarrier sc u = false) : s.gathered sc die = false :=
  List.all_eq_false.mpr ⟨u, hu, by rw [h]; exact Bool.false_ne_true⟩
/-- The module does not arrive before its tiles have. -/
theorem State.tryArrive_of_not_gathered (h : s.gathered .chain false = false) : s.tryArrive = s := by
  unfold State.tryArrive
  rw [h, Bool.not_false, Bool.or_true, if_pos rfl]

/-! ## A tile's arrival -/

/-- A tile with its core at the barrier and no hold on a heavy-unit token (R17, R67). -/
def Tile.arrived (x : Tile) : Tile :=
  { x with core := { x.core with phase := .arrived }, mxe := { x.mxe with token := false, requested := false } }
/-- The state with tile `t` arrived, before its scope's wait is looked at. -/
def State.arriveCore (s : State) (t : TileId) : State :=
  (s.dropToken t).modTile t fun x => { x with core := { x.core with phase := .arrived } }
/-- The state with tile `t` arrived, and the wait of its scope begun where none was (R33). -/
def State.arriveTile (s : State) (t : TileId) (sc : Scope) : State :=
  if (aGet none (s.arriveCore t).waits (waitKey sc (t.getLsbD 10))).isSome then s.arriveCore t
  else (s.arriveCore t).setWait sc (t.getLsbD 10) (some ⟨s.dev.time, false⟩)

theorem State.tile_arriveCore_self : (s.arriveCore t).tile t = (s.tile t).arrived := by
  simp only [State.arriveCore, State.dropToken, State.tile_modTile_self, State.tile_of_tiles _ _ (State.setPool_tiles ..) t]
  rfl
theorem State.tile_arriveCore_other (h : u ≠ t) : (s.arriveCore t).tile u = s.tile u := by
  simp only [State.arriveCore, State.dropToken, State.tile_modTile_other _ _ _ _ h, State.tile_of_tiles _ _ (State.setPool_tiles ..) u]
theorem State.arriveCore_mem : (s.arriveCore t).mem = s.mem := by
  simp [State.arriveCore, State.dropToken, State.modTile]
theorem State.arriveCore_net : (s.arriveCore t).net = s.net := by
  simp [State.arriveCore, State.dropToken, State.modTile]

theorem State.arriveTile_tiles : (s.arriveTile t sc).tiles = (s.arriveCore t).tiles := by
  unfold State.arriveTile
  split <;> rfl
theorem State.arriveTile_mem : (s.arriveTile t sc).mem = s.mem := by
  unfold State.arriveTile
  split <;> exact State.arriveCore_mem
theorem State.arriveTile_net : (s.arriveTile t sc).net = s.net := by
  unfold State.arriveTile
  split <;> exact State.arriveCore_net
theorem State.isSome_arriveTile_waits : (aGet none (s.arriveTile t sc).waits (waitKey sc (t.getLsbD 10))).isSome = true := by
  unfold State.arriveTile
  split
  · assumption
  · simp only [State.setWait, aGet_aSet_self, Option.isSome_some]

theorem execBarrierArrival_arriveTile {h : SsHdr} (hm : s.mayArrive t = true) (hh : (s.tile t).ssHdr = some h) :
    execBarrierArrival t s = if h.scope = .chain then .next (s.arriveTile t h.scope).tryArrive
      else .next (if (s.arriveTile t h.scope).gathered h.scope (t.getLsbD 10)
        then (s.arriveTile t h.scope).setWait h.scope (t.getLsbD 10) none else s.arriveTile t h.scope) := by
  unfold execBarrierArrival
  rw [hm, hh]
  rfl
/-- While the scope is not gathered but for this tile, an arrival leaves the wait begun; else it ends the wait of a DIE or
MODULE barrier. -/
theorem execBarrierArrival_eq {h : SsHdr} (hm : s.mayArrive t = true) (hh : (s.tile t).ssHdr = some h)
    (hc : h.scope = .chain → ∃ u ∈ scopeTiles .chain false, u ≠ t ∧ s.atBarrier .chain u = false) :
    execBarrierArrival t s = .next (if (s.arriveTile t h.scope).gathered h.scope (t.getLsbD 10)
      then (s.arriveTile t h.scope).setWait h.scope (t.getLsbD 10) none else s.arriveTile t h.scope) := by
  rw [execBarrierArrival_arriveTile hm hh]
  split
  · next hs =>
    obtain ⟨u, hu, hne, hat⟩ := hc hs
    have hat' : (s.arriveTile t h.scope).atBarrier .chain u = false :=
      (State.atBarrier_of_tile ((State.tile_of_tiles _ _ State.arriveTile_tiles u).trans (State.tile_arriveCore_other hne))).trans hat
    have hg (die : Bool) : (s.arriveTile t h.scope).gathered .chain die = false := State.not_gathered hu hat'
    rw [hs] at hg ⊢
    rw [State.tryArrive_of_not_gathered (hg false), hg, if_neg nofun]
  · rfl

/-- Settles O13: what `execBarrierArrival_eq` leaves, whether it ends the wait or not. -/
theorem barrierArrives : Obligations.BarrierArrives := by
  unfold Obligations.BarrierArrives
  intro s t h hm hh hc
  refine ⟨_, execBarrierArrival_eq hm hh hc, ?_⟩
  generalize he : (if (s.arriveTile t h.scope).gathered h.scope (t.getLsbD 10) then _ else _) = s'
  have htiles : s'.tiles = (s.arriveTile t h.scope).tiles := by
    subst he
    split <;> simp only [State.setWait_tiles]
  have hself : s'.tile t = (s.tile t).arrived :=
    (State.tile_of_tiles _ _ (htiles.trans State.arriveTile_tiles) t).trans State.tile_arriveCore_self
  have hother (u : TileId) (hu : u ≠ t) : s'.tile u = s.tile u :=
    (State.tile_of_tiles _ _ (htiles.trans State.arriveTile_tiles) u).trans (State.tile_arriveCore_other hu)
  have hmem : s'.mem = s.mem := by
    subst he
    split <;> exact State.arriveTile_mem
  have hnet : s'.net = s.net := by
    subst he
    split <;> exact State.arriveTile_net
  have hwait (hg : s'.gathered h.scope (t.getLsbD 10) = false) : (aGet none s'.waits (waitKey h.scope (t.getLsbD 10))).isSome = true := by
    rw [State.gathered_of_tiles htiles] at hg
    rw [hg, if_neg nofun] at he
    exact he ▸ State.isSome_arriveTile_waits
  dsimp only
  rw [hself]
  exact ⟨rfl, rfl, rfl, ⟨rfl, rfl, rfl, rfl⟩, hother, hmem, hnet, hwait⟩
end Sys2Proof.Machine
end

/-! # Release of a barrier, and a slow wait (O14)

A release reaches every tile of its scope once and no other tile (R18, R187, R389); a wait that has lasted too long is
reported once (R33). -/
section
set_option Elab.async false
namespace Sys2Proof.Machine

section
variable {s s' : State} {t u : TileId} {sc : Scope} {die : Bool}

/-! ## The tiles of a scope -/

theorem nodup_scopeTiles : (scopeTiles sc die).Nodup := by
  have hinj {b n : Nat} (h : b + n ≤ 2048) : ((List.range n).map fun k => BitVec.ofNat 11 (b + k)).Nodup :=
    List.nodup_range.map_on fun i hi j hj he => by
      rw [List.mem_range] at hi hj
      have := congrArg BitVec.toNat he
      simp only [BitVec.toNat_ofNat] at this
      omega
  have hfull : ((List.range 2048).map (BitVec.ofNat 11)).Nodup := by simpa only [Nat.zero_add] using hinj (b := 0) (n := 2048) (by decide)
  cases sc with
  | die => cases die <;> exact hinj (by decide)
  | module => exact hfull
  | chain => exact hfull
/-- An update of each tile of a list once updates those tiles and no other. -/
theorem State.tile_foldl_modTile {f : Tile → Tile} {l : List TileId} (hl : l.Nodup) :
    (l.foldl (fun s t => s.modTile t f) s).tile t = if t ∈ l then f (s.tile t) else s.tile t := by
  induction l generalizing s with
  | nil => rfl
  | cons u l ih =>
    obtain ⟨hu, hl⟩ := List.nodup_cons.mp hl
    rw [List.foldl_cons, ih hl]
    by_cases h : t = u
    · subst h
      rw [if_neg hu, if_pos List.mem_cons_self, State.tile_modTile_self]
    · rw [State.tile_modTile_other _ _ _ _ h]
      simp only [List.mem_cons, h, false_or]
theorem State.tile_modScope {f : Tile → Tile} :
    (s.modScope sc die f).tile t = if t ∈ scopeTiles sc die then f (s.tile t) else s.tile t :=
  State.tile_foldl_modTile nodup_scopeTiles
theorem State.modScope_mem {f : Tile → Tile} : (s.modScope sc die f).mem = s.mem :=
  List.foldlRecOn (motive := fun s' : State => s'.mem = s.mem) _ _ rfl fun _ h _ _ => h

/-! ## Release -/

theorem State.aGet_setWait {w : Option BarWait} : aGet none (s.setWait sc die w).waits (waitKey sc die) = w :=
  aGet_aSet_self ..
theorem State.clearLists_waits : (s.clearLists sc die).waits = s.waits := rfl
theorem State.clearPortLists_mem : s.clearPortLists.mem = s.mem := by
  simp [State.clearPortLists, State.modOport]
theorem State.clearPortLists_waits : s.clearPortLists.waits = s.waits := by
  simp [State.clearPortLists, State.modOport]

theorem Tile.realign_eq {x : Tile} : x.realign = { x with bel := x.realign.bel } :=
  List.foldlRecOn (motive := fun y : Tile => y = { x with bel := y.bel }) _ _ rfl fun y hy _ _ => by
    rw [hy]
    rfl
/-- A release is counted, ends a held WAIT and a POLL, and may re-align the signal objects (R187). -/
theorem Tile.release_eq {x : Tile} {period : Nat} : x.release period =
    { x with core := { x.core with ss := x.core.ss + 1, held := none, poll := false }, bel := (x.release period).bel } := by
  dsimp only [Tile.release]
  split
  · exact Tile.realign_eq
  · rfl

theorem State.releaseScope_tiles {f : Tile → Tile} :
    (s.releaseScope sc die f).tiles = (s.modScope sc die fun x => f (x.release (s.act .bel 0x108))).tiles := by
  dsimp only [State.releaseScope]
  split
  · exact State.clearPortLists_tiles
  · rfl
theorem State.releaseScope_mem {f : Tile → Tile} : (s.releaseScope sc die f).mem = s.mem := by
  dsimp only [State.releaseScope]
  split
  · exact State.clearPortLists_mem.trans State.modScope_mem
  · exact State.modScope_mem
theorem State.releaseScope_waits {f : Tile → Tile} : aGet none (s.releaseScope sc die f).waits (waitKey sc die) = none := by
  dsimp only [State.releaseScope]
  split
  · simp only [State.clearPortLists_waits, State.clearLists_waits, State.aGet_setWait]
  · rw [State.clearLists_waits, State.aGet_setWait]
theorem State.sizePool_mem : (s.sizePool die).mem = s.mem := by
  unfold State.sizePool
  split
  · exact State.setPool_mem ..
  · rfl
theorem State.sizePool_waits : (s.sizePool die).waits = s.waits := by
  unfold State.sizePool
  split
  · exact State.setPool_waits ..
  · rfl
theorem State.sizePools_mem : (s.sizePools sc die).mem = s.mem := by
  unfold State.sizePools
  split <;> simp only [State.sizePool_mem]
theorem State.sizePools_waits : (s.sizePools sc die).waits = s.waits := by
  unfold State.sizePools
  split <;> simp only [State.sizePool_waits]

/-- The tile of a scope that its release reaches, and then `f` (R18, R187). -/
theorem State.tile_of_release {f : Tile → Tile} (h : s'.tiles = (s.releaseScope sc die f).tiles) :
    s'.tile t = if t ∈ scopeTiles sc die then f ((s.tile t).release (s.act .bel 0x108)) else s.tile t :=
  (State.tile_of_tiles _ _ (h.trans State.releaseScope_tiles) t).trans State.tile_modScope

/-- What every tile of a scope has after a release that is not a closing barrier's (R18, R57, R389). -/
def Tile.nextSuperstep (park : Bool) (x : Tile) : Tile :=
  if park then { x with core := { x.core with phase := .parked } } else x.enter x.core.pc
/-- One release is counted, and the tile issues behind the next header or, behind PARK, waits; its stores and registers are as before. -/
def Released (park : Bool) (x y : Tile) : Prop :=
  y.core.ss = x.core.ss + 1 ∧
  (if park then y.core.phase = .parked else y.core.phase = .issue ∧ y.core.hdr = x.core.pc ∧ y.core.pc = x.core.pc + 4) ∧
  StoresKept x y ∧ ∀ r, y.reg r = x.reg r
theorem Tile.released {x : Tile} {park : Bool} {period : Nat} : Released park x ((x.release period).nextSuperstep park) := by
  rw [Tile.release_eq]
  cases park with
  | true => exact ⟨rfl, rfl, ⟨rfl, rfl, rfl, rfl⟩, fun _ => rfl⟩
  | false => exact ⟨rfl, ⟨rfl, rfl, rfl⟩, ⟨rfl, rfl, rfl, rfl⟩, fun _ => rfl⟩

/-- A release that no service closes: the scope's tiles go on, and pools are sized where they begin a superstep (R65). -/
theorem execBarrierRelease_eq {h : SsHdr} (hr : s.releasable sc die = true) (hh : (s.tile (scopeHead sc die)).ssHdr = some h)
    (hc : h.close = false) : execBarrierRelease sc die s = .next (if h.park then s.releaseScope sc die (Tile.nextSuperstep true)
      else (s.releaseScope sc die (Tile.nextSuperstep false)).sizePools sc die) := by
  dsimp only [execBarrierRelease]
  rw [hr, hh]
  dsimp only
  rw [hc]
  cases h.park <;> rfl

/-! ## A slow wait -/

/-- A wait that is due is marked and reported (R33). -/
theorem execBarrierSlow_due {w : BarWait} (hw : aGet none s.waits (waitKey sc die) = some w) (hr : w.raised = false)
    (hb : s.act .sch 0x110 ≠ 0) (hd : w.start + s.act .sch 0x110 ≤ s.dev.time) : ∃ ss missing, execBarrierSlow sc die s =
      .next (((s.setWait sc die (some ⟨w.start, true⟩)).log 0x1001 .dev 0 ss missing).alert 1) := by
  unfold execBarrierSlow
  rw [hw]
  dsimp only
  rw [hr, decide_eq_false hb, decide_eq_false (Nat.not_lt.mpr hd)]
  exact ⟨_, _, rfl⟩
/-- A wait that has been reported is reported no more. -/
theorem execBarrierSlow_raised {w : BarWait} (hw : aGet none s.waits (waitKey sc die) = some w) (hr : w.raised = true) :
    execBarrierSlow sc die s = .next s := by
  unfold execBarrierSlow
  rw [hw]
  dsimp only
  rw [hr]
  rfl
theorem State.getLsbD_alert {n : Nat} (hn : n < 9) : (s.alert n).err.alert.getLsbD n = true := by
  simp only [State.alert, BitVec.getLsbD_or, BitVec.getLsbD_ofNat, Nat.testBit_two_pow_self, hn, decide_true, Bool.and_self, Bool.or_true]
end

/-- Settles O14: a release is `execBarrierRelease_eq` and reaches each tile of the scope as `Tile.released` says; a slow wait is
`execBarrierSlow_due`, and then `execBarrierSlow_raised`. -/
theorem barrierReleases : Obligations.BarrierReleases := by
  unfold Obligations.BarrierReleases
  constructor
  · intro s sc die h hr hh hc
    refine ⟨_, execBarrierRelease_eq hr hh hc, ?_⟩
    generalize he : (if h.park = true then _ else _) = s'
    have htiles : s'.tiles = (s.releaseScope sc die (Tile.nextSuperstep h.park)).tiles := by
      subst he
      cases h.park
      · exact State.sizePools_tiles
      · rfl
    have hmem : s'.mem = s.mem := by
      subst he
      cases h.park
      · exact State.sizePools_mem.trans State.releaseScope_mem
      · exact State.releaseScope_mem
    have hwaits : aGet none s'.waits (waitKey sc die) = none := by
      subst he
      cases h.park
      · exact (congrArg (aGet none · _) State.sizePools_waits).trans State.releaseScope_waits
      · exact State.releaseScope_waits
    refine ⟨fun t ht => ?_, fun t ht => ?_, hmem, hwaits⟩
    · rw [State.tile_of_release htiles, if_pos ht]
      exact Tile.released
    · rw [State.tile_of_release htiles, if_neg ht]
  · intro s sc die w hw hr hb hd
    obtain ⟨ss, missing, he⟩ := execBarrierSlow_due hw hr hb hd
    have hmarked : aGet none (((s.setWait sc die (some ⟨w.start, true⟩)).log 0x1001 .dev 0 ss missing).alert 1).waits (waitKey sc die) =
        some ⟨w.start, true⟩ := by
      rw [State.alert_waits, State.log_waits]
      exact State.aGet_setWait
    exact ⟨_, he, State.getLsbD_alert (by decide), hmarked, by simp, by simp, execBarrierSlow_raised hmarked rfl⟩
end Sys2Proof.Machine
end

/-! # Exchange rows (O12)

A tile past END offers its send list in order; a row that arrives is written whole and counted off its handle (R16, R57, R163, R164). -/
section
set_option Elab.async false
namespace Sys2Proof.Machine

/-! ## Reading a store after a write -/

section
variable {x : Tile} {st st' key key' row base a : Nat} {v : PWord} {m : Assoc PWord} {ws : List PWord}

theorem storeOf_inj (h : st < 3) (h' : st' < 3) : storeOf st' = storeOf st ↔ st' = st := by
  obtain rfl | rfl | rfl : st = 0 ∨ st = 1 ∨ st = 2 := by omega
  all_goals obtain rfl | rfl | rfl : st' = 0 ∨ st' = 1 ∨ st' = 2 := by omega
  all_goals decide
theorem Tile.store_setStore (h : st < 3) (h' : st' < 3) : (x.setStore st m).store st' = if st' = st then m else x.store st' := by
  obtain rfl | rfl | rfl : st = 0 ∨ st = 1 ∨ st = 2 := by omega
  all_goals obtain rfl | rfl | rfl : st' = 0 ∨ st' = 1 ∨ st' = 2 := by omega
  all_goals rfl
theorem Tile.setStore_ue : (x.setStore st m).ue = x.ue := by
  unfold Tile.setStore
  (repeat' split) <;> rfl
theorem Tile.store_wrWord : (x.wrWord st key v).store st' = (x.setStore st (aSet pw0 (x.store st) key v)).store st' := rfl
theorem Tile.wrWord_ue : (x.wrWord st key v).ue = x.ue.filter fun u => decide (u ≠ (storeOf st, key)) := by
  simp only [Tile.wrWord, Tile.setStore_ue]
/-- A store reads what was written, with fresh check bits, and every other word is as before (R58). -/
theorem Tile.rdWord_wrWord (h : st < 3) (h' : st' < 3) :
    (x.wrWord st key v).rdWord st' key' = if st' = st ∧ key' = key then v else x.rdWord st' key' := by
  have hm : (storeOf st', key') ∈ (x.wrWord st key v).ue ↔ (storeOf st', key') ∈ x.ue ∧ ¬(st' = st ∧ key' = key) := by
    rw [Tile.wrWord_ue, List.mem_filter, decide_eq_true_eq, ne_eq, Prod.mk.injEq, storeOf_inj h h']
  simp only [Tile.rdWord, hm, Tile.store_wrWord, Tile.store_setStore h h']
  by_cases hs : st' = st
  · subst hs
    by_cases hk : key' = key
    · subst hk
      simp
    · simp [hk, aGet_aSet_other]
  · simp [hs]

theorem Tile.rdWord_foldl_wrWord (h : st < 3) (h' : st' < 3) :
    (((List.range' a ws.length).zip ws).foldl (fun x kv => x.wrWord st (base + kv.1) kv.2) x).rdWord st' key =
      if st' = st ∧ base + a ≤ key ∧ key < base + a + ws.length then ws.getD (key - (base + a)) pw0 else x.rdWord st' key := by
  induction ws generalizing x a with
  | nil =>
    rw [if_neg (by simp only [List.length_nil]; omega)]
    rfl
  | cons w ws ih =>
    rw [List.length_cons, List.range'_succ, List.zip_cons_cons, List.foldl_cons, ih, Tile.rdWord_wrWord h h']
    by_cases hs : st' = st
    · by_cases hk : key = base + a
      · subst hk
        rw [if_neg (by omega), if_pos ⟨hs, rfl⟩, if_pos ⟨hs, by omega, by omega⟩, Nat.sub_self, List.getD_cons_zero]
      · by_cases hin : base + a < key ∧ key < base + a + (ws.length + 1)
        · rw [if_pos ⟨hs, by omega, by omega⟩, if_pos ⟨hs, by omega, by omega⟩,
            show key - (base + a) = key - (base + (a + 1)) + 1 by omega, List.getD_cons_succ]
        · rw [if_neg (by omega), if_neg (by omega), if_neg (by omega)]
    · simp only [hs, false_and, if_false]
theorem Tile.wrRow_eq (hl : ws.length = 8) :
    x.wrRow st row ws = ((List.range' 0 ws.length).zip ws).foldl (fun x kv => x.wrWord st (8 * row + kv.1) kv.2) x := by
  rw [hl, ← List.range_eq_range']
  rfl
theorem Tile.rdWord_wrRow (h : st < 3) (h' : st' < 3) (hl : ws.length = 8) :
    (x.wrRow st row ws).rdWord st' key = if st' = st ∧ key / 8 = row then ws.getD (key % 8) pw0 else x.rdWord st' key := by
  rw [Tile.wrRow_eq hl, Tile.rdWord_foldl_wrWord h h', hl]
  by_cases hk : st' = st ∧ key / 8 = row
  · rw [if_pos ⟨hk.1, by omega, by omega⟩, if_pos hk, show key - (8 * row + 0) = key % 8 by omega]
  · rw [if_neg (by omega), if_neg hk]
theorem Tile.rdRow_wrRow (h : st < 3) (hl : ws.length = 8) : (x.wrRow st row ws).rdRow st row = ws := by
  refine List.ext_getElem (by simp [Tile.rdRow, hl]) fun k hk hk' => ?_
  have hk8 : k < 8 := hl ▸ hk'
  simp only [Tile.rdRow, List.getElem_map, List.getElem_range, Tile.rdWord_wrRow h h hl]
  rw [if_pos ⟨trivial, by omega⟩, show (8 * row + k) % 8 = k by omega, List.getD_eq_getElem _ _ hk']

theorem Tile.wrWord_core : (x.wrWord st key v).core = x.core := by
  unfold Tile.wrWord Tile.setStore
  (repeat' split) <;> rfl
theorem Tile.wrWord_expct : (x.wrWord st key v).expct = x.expct := by
  unfold Tile.wrWord Tile.setStore
  (repeat' split) <;> rfl
theorem Tile.wrRow_core : (x.wrRow st row ws).core = x.core :=
  List.foldlRecOn (motive := fun y : Tile => y.core = x.core) _ _ rfl fun _ h _ _ => Tile.wrWord_core.trans h
theorem Tile.wrRow_expct : (x.wrRow st row ws).expct = x.expct :=
  List.foldlRecOn (motive := fun y : Tile => y.expct = x.expct) _ _ rfl fun _ h _ _ => Tile.wrWord_expct.trans h
/-- A row that a handle holds lies in one of the three stores (R60). -/
theorem Tile.store_lt_of_offsetOk {h : Hdl} {o : Nat} (ho : x.offsetOk h o = true) : (hdOf (x.hword h)).store < 3 := by
  simp only [Tile.offsetOk, Hd.legal, Bool.and_eq_true, Bool.or_eq_true, decide_eq_true_eq, Bool.not_eq_true'] at ho
  obtain ⟨⟨hv, hl⟩, -⟩ := ho
  have hne : (hdOf (x.hword h)).store ≠ 3 := by
    rw [hv] at hl
    exact (hl.resolve_left nofun).1.1.1
  have hlt : (hdOf (x.hword h)).store < 4 := Nat.mod_lt _ (by decide)
  omega
end

/-! ## Offering the send list (R163) -/

section
variable {s : State} {t u : TileId}

theorem State.injectAll_mem {fls : List Flit} : (s.injectAll t fls).mem = s.mem :=
  List.foldlRecOn (motive := fun s' : State => s'.mem = s.mem) _ _ rfl fun _ h _ _ => h
theorem execExchangeBegin_offers {errs : List StoreErr} {h : SsHdr} (hp : (s.tile t).core.phase = .ended)
    (hb : (s.tile t).core.xbegun = false) (hh : (s.tile t).ssHdr = some h)
    (ha : ∀ a ∈ (s.tile t).acc, meets a.wr ((s.tile t).sendRows ((s.tile t).sendList h)) = false)
    (hr : (s.tile t).badSend ((s.tile t).sendList h) = none) :
    execExchangeBegin t errs s =
      let s1 := s.storeErrs t ((s.tile t).sendRows ((s.tile t).sendList h)) errs
      .next ((s1.injectAll t (((s.tile t).sendList h).mapIdx fun i e => (s1.tile t).itemFlits i e).flatten).modTile t fun x =>
        { x with core := { x.core with xbegun := true } }) := by
  have hany : ((s.tile t).acc.any fun a => meets a.wr ((s.tile t).sendRows ((s.tile t).sendList h))) = false :=
    List.any_eq_false.mpr fun a hm => by rw [ha a hm]; exact Bool.false_ne_true
  dsimp only [execExchangeBegin]
  rw [hp, hb, hh]
  dsimp only
  rw [hany, hr]
  rfl

/-! ## Taking a flit (R164) -/

/-- A tile that has taken an exchange flit: its row written, and the item counted off its handle with the last of its flits (R57). -/
def Tile.takeFlit (x : Tile) (fl : Flit) (dh : Hdl) : Tile :=
  let y := x.wrRow (hdOf (x.hword dh)).store ((hdOf (x.hword dh)).base + (hdrOf fl.hdr).drow) fl.pay
  if (hdrOf fl.hdr).last then { y with expct := aSet 0 y.expct (hdrOf fl.hdr).dh (y.expected dh - 1) } else y
/-- The state without the flit at the head of an ejection port, counted where it is an item's last. -/
def State.takenFlit (s : State) (t : TileId) (fl : Flit) (rest : List Flit) : State :=
  if (hdrOf fl.hdr).last then (s.setEject t 2 rest).countTaken t 9 else s.setEject t 2 rest

section
variable {x : Tile} {fl : Flit} {rest : List Flit} {dh : Hdl} {st key : Nat}

theorem Tile.takeFlit_rdWord :
    (x.takeFlit fl dh).rdWord st key =
      (x.wrRow (hdOf (x.hword dh)).store ((hdOf (x.hword dh)).base + (hdrOf fl.hdr).drow) fl.pay).rdWord st key := by
  dsimp only [Tile.takeFlit]
  split <;> rfl
theorem Tile.takeFlit_rdRow :
    (x.takeFlit fl dh).rdRow st key =
      (x.wrRow (hdOf (x.hword dh)).store ((hdOf (x.hword dh)).base + (hdrOf fl.hdr).drow) fl.pay).rdRow st key := by
  dsimp only [Tile.takeFlit]
  split <;> rfl
theorem Tile.takeFlit_core : (x.takeFlit fl dh).core = x.core := by
  dsimp only [Tile.takeFlit]
  split <;> exact Tile.wrRow_core
theorem Tile.takeFlit_expected (hd : dh = BitVec.ofNat 6 (hdrOf fl.hdr).dh) :
    (x.takeFlit fl dh).expected dh = if (hdrOf fl.hdr).last then x.expected dh - 1 else x.expected dh := by
  have hdh : (hdrOf fl.hdr).dh = dh.toNat := by
    rw [hd, BitVec.toNat_ofNat]
    exact (Nat.mod_eq_of_lt (Nat.mod_lt _ (by decide))).symm
  dsimp only [Tile.takeFlit]
  split
  · simp only [Tile.expected, hdh, aGet_aSet_self, Tile.wrRow_expct]
  · simp only [Tile.expected, Tile.wrRow_expct]
theorem State.tile_takenFlit : (s.takenFlit t fl rest).tile u = s.tile u := by
  unfold State.takenFlit
  split <;> rfl
theorem State.takenFlit_mem : (s.takenFlit t fl rest).mem = s.mem := by
  unfold State.takenFlit
  split <;> rfl
theorem State.eject_takenFlit : (s.takenFlit t fl rest).eject t 2 = rest := by
  unfold State.takenFlit
  split <;> exact aGet_aSet_self ..
theorem execExchangeFlitWrite_takes (he : s.eject t 2 = fl :: rest) (hs : (hdrOf fl.hdr).slot = s.takenAt t 9)
    (hd : dh = BitVec.ofNat 6 (hdrOf fl.hdr).dh) (ho : (s.tile t).offsetOk dh (hdrOf fl.hdr).drow = true) :
    execExchangeFlitWrite t s = .next ((s.takenFlit t fl rest).setTile t ((s.tile t).takeFlit fl dh)) := by
  subst hd
  unfold execExchangeFlitWrite
  rw [he]
  dsimp only
  rw [if_neg (not_not.mpr hs)]
  change ((if !((s.takenFlit t fl rest).tile t).offsetOk _ _ then _ else .next ((s.takenFlit t fl rest).setTile t
    (((s.takenFlit t fl rest).tile t).takeFlit fl _))) : Out) = _
  rw [State.tile_takenFlit, ho]
  rfl
end
end

/-- Settles O12: the send list is offered as `execExchangeBegin_offers` says; of a flit that is taken (`execExchangeFlitWrite_takes`) the
row is read back by `Tile.rdRow_wrRow`, and every other word as before by `Tile.rdWord_wrRow`. -/
theorem exchangeRowsMove : Obligations.ExchangeRowsMove := by
  unfold Obligations.ExchangeRowsMove
  constructor
  · intro s t errs h hp hb hh ha hr
    refine ⟨_, execExchangeBegin_offers hp hb hh ha hr, ?_⟩
    generalize s.storeErrs t _ errs = s1
    have htile {fls : List Flit} : (s1.injectAll t fls).tile t = s1.tile t := State.tile_of_tiles _ _ State.injectAll_tiles t
    dsimp only
    rw [State.tile_modTile_self, htile]
    exact ⟨rfl, rfl, ⟨rfl, rfl, rfl, rfl⟩, State.injectAll_mem⟩
  · intro s t fl rest dh he hs hd hl ho
    have hst := Tile.store_lt_of_offsetOk ho
    refine ⟨_, execExchangeFlitWrite_takes he hs hd ho, ?_⟩
    dsimp only
    rw [State.tile_setTile_self]
    refine ⟨State.eject_takenFlit, ?_, fun st key hne hlt => ?_, Tile.takeFlit_expected hd, Tile.takeFlit_core, fun u hu => ?_,
      State.takenFlit_mem⟩
    · rw [Tile.takeFlit_rdRow]
      exact Tile.rdRow_wrRow hst hl
    · rw [Tile.takeFlit_rdWord, Tile.rdWord_wrRow hst hlt hl, if_neg fun hk => hne (Prod.ext hk.1 hk.2)]
    · rw [State.tile_setTile_other _ _ _ _ hu, State.tile_takenFlit]
end Sys2Proof.Machine
end

/-! # Held steps and illegal words (O4)

A tile instruction's command runs through the issue stage as the instruction its word spells; a cause of R29 holds it, and an illegal word
raises a fault (R93, R458). -/
section
set_option Elab.async false
namespace Sys2Proof.Machine

/-! ## What a fault leaves of the error state

The jobs that a fault ends write to memory and to the host's records; of the error state only the refusal of a commit is logged, behind the
fault's own entry. -/

section
variable {s s' : State}

@[simp] theorem State.foldl_err {α : Type} {f : State → α → State} {l : List α} (hf : ∀ s a, (f s a).err = s.err) :
    (l.foldl f s).err = s.err :=
  List.foldlRecOn (motive := fun s' : State => s'.err = s.err) l f rfl fun s' h a _ => (hf s' a).trans h
@[simp] theorem State.putH_err {a bs} : (s.putH a bs).err = s.err := by
  dsimp only [State.putH]
  split <;> rfl
@[simp] theorem State.complete_err {id status result} : (s.complete id status result).err = s.err := by
  dsimp only [State.complete]
  (repeat' split) <;> rfl
@[simp] theorem State.writeSeq_err {x slot} : (s.writeSeq x slot).err = s.err := by simp [State.writeSeq]
@[simp] theorem State.writeScb_err {x isOpen} : (s.writeScb x isOpen).err = s.err := by simp [State.writeScb]
@[simp] theorem State.clearRunning_err {tcb} : (s.clearRunning tcb).err = s.err := by simp [State.clearRunning]
@[simp] theorem State.writeEntry_err {g} : (s.writeEntry g).err = s.err := by simp [State.writeEntry]
@[simp] theorem State.endRuns_err : s.endRuns.err = s.err := by
  unfold State.endRuns
  refine (State.foldl_err fun _ _ => ?_).trans ?_
  · split <;> simp
  · split <;> simp
/-- From one error state to another no fault is counted, a fault's alert is not taken back, and the log is as before but for what may have
been added behind its end. -/
def ErrKept (e e' : Err) : Prop :=
  e'.faults = e.faults ∧ (e.alert.getLsbD 0 = true → e'.alert.getLsbD 0 = true) ∧ ∀ j, j ≠ e.tail → aGet none e'.log j = aGet none e.log j

theorem ErrKept.of_eq {e e' : Err} (h : e' = e) : ErrKept e e' := by
  subst h
  exact ⟨rfl, id, fun _ _ => rfl⟩
theorem ErrKept.log {code k loc d0 d1 flags} : ErrKept s.err (s.log code k loc d0 d1 flags).err := by
  dsimp only [State.log]
  split
  · refine ⟨rfl, fun h => ?_, fun _ _ => rfl⟩
    rw [BitVec.getLsbD_or, h, Bool.true_or]
  · exact ⟨rfl, id, fun j hj => by simp only [aGet_aSet_other _ _ _ _ _ hj]⟩
theorem ErrKept.refuse {b cause detail} (h : s'.err = s.err) : ErrKept s.err (s'.refuse b cause detail).err :=
  h ▸ ErrKept.log
theorem ErrKept.endGroups : ErrKept s.err s.endGroups.err := by
  have hs {l : List Group} {g : Group → Group} : (l.foldl (fun s k => s.writeEntry (g k)) s).err = s.err :=
    State.foldl_err fun _ _ => State.writeEntry_err
  dsimp only [State.endGroups]
  split
  · exact .refuse hs
  · exact .of_eq hs
theorem ErrKept.endJobs {code} : ErrKept s.err (s.endJobs code).err := by
  have he : (s.endJobs code).err = s.endGroups.err := (State.foldl_err fun _ _ => State.complete_err).trans State.endRuns_err
  rw [he]
  exact .endGroups

/-! ## A fault (R458) -/

/-- The state with a fault logged, counted and signalled, and nothing stopped yet. -/
def State.logFault (s : State) (code : Nat) (k : LK) (loc d0 d1 : Nat) : State :=
  let first := decide (s.err.firstCode = 0)
  let s1 := s.log code k loc d0 d1 ((if s.dev.cdreset then 0 else 1) + (if first then 2 else 0))
  { s1 with err := { s1.err with
      faults := s1.err.faults + 1, alert := s1.err.alert ||| 1#9
      firstCode := if first then BitVec.ofNat 16 code else s1.err.firstCode
      firstLoc := if first then BitVec.ofNat 32 loc else s1.err.firstLoc } }

section
variable {code : Nat} {k : LK} {loc d0 d1 : Nat}

theorem State.raise_of_cdreset (h : s.dev.cdreset = true) : s.raise code k loc d0 d1 = s.logFault code k loc d0 d1 := by
  unfold State.raise
  exact if_pos h
theorem State.raise_of_running (h : s.dev.cdreset = false) : s.raise code k loc d0 d1 =
    { ((s.logFault code k loc d0 d1).endJobs code).clearCompute with
      dev := { ((s.logFault code k loc d0 d1).endJobs code).clearCompute.dev with cdreset := true } } := by
  unfold State.raise
  exact if_neg (ne_true_of_eq_false h)
theorem State.raise_cdreset : (s.raise code k loc d0 d1).dev.cdreset = true := by
  cases h : s.dev.cdreset with
  | true =>
    rw [State.raise_of_cdreset h]
    exact (congrArg Dev.cdreset (State.log_dev ..)).trans h
  | false => rw [State.raise_of_running h]
/-- What a fault does to the jobs of the module keeps its count, its alert and its entry. -/
theorem State.errKept_raise : ErrKept (s.logFault code k loc d0 d1).err (s.raise code k loc d0 d1).err := by
  cases h : s.dev.cdreset with
  | true => rw [State.raise_of_cdreset h]; exact .of_eq rfl
  | false => rw [State.raise_of_running h]; exact .endJobs
theorem State.log_faults {flags} : (s.log code k loc d0 d1 flags).err.faults = s.err.faults := by
  unfold State.log
  split <;> rfl
theorem State.logFault_alert : (s.logFault code k loc d0 d1).err.alert.getLsbD 0 = true := by
  refine (BitVec.getLsbD_or ..).trans ?_
  rw [show (1#9).getLsbD 0 = true from rfl, Bool.or_true]
/-- Where the log has room, the fault's entry stands at its end, and the end has moved. -/
theorem State.logFault_entry (h : (s.err.tail + 1) % 512 ≠ s.err.head) : s.err.tail ≠ (s.logFault code k loc d0 d1).err.tail ∧
    ∃ e, aGet none (s.logFault code k loc d0 d1).err.log s.err.tail = some e ∧ e.code = BitVec.ofNat 16 code ∧
      e.lkind = BitVec.ofNat 8 k.num ∧ e.loc = BitVec.ofNat 32 loc ∧ e.d0 = BitVec.ofNat 64 d0 := by
  simp only [State.logFault, State.log, if_neg h, aGet_aSet_self]
  exact ⟨by omega, _, rfl, rfl, rfl, rfl, rfl⟩
end

/-- `State.raiseTile` raises a fault of the tile, whether or not a reset held before. -/
theorem State.faultRaised_raiseTile {t : TileId} {code d0 d1 : Nat} : FaultRaised s (s.raiseTile t code d0 d1) t code d0 := by
  obtain ⟨hfaults, halert, hlog⟩ : ErrKept _ (s.raiseTile t code d0 d1).err := State.errKept_raise
  refine ⟨State.raise_cdreset, hfaults.trans (congrArg (· + 1) State.log_faults), halert State.logFault_alert, ?_, fun hr u => ?_,
    fun hroom => ?_⟩
  · rw [State.raiseTile, State.tile_modTile_self]
  · have hempty : (s.raise code .tile (s.gta t).toNat d0 d1).tile u = Tile.empty := by
      rw [State.raise_of_running hr]
      rfl
    by_cases hu : u = t
    · subst hu
      rw [State.raiseTile, State.tile_modTile_self, hempty, decide_eq_true rfl]
    · rw [State.raiseTile, State.tile_modTile_other _ _ _ _ hu, hempty, decide_eq_false hu]
      rfl
  · obtain ⟨htail, e, he, hfields⟩ := State.logFault_entry hroom
    exact ⟨e, (hlog _ htail).trans he, hfields⟩
end

/-! ## The instruction that a word spells

A command that reads store rows may carry findings on them; what the decoder answers carries none. -/

/-- An instruction without findings on the rows it reads. -/
def plainOf : Instr → Instr
  | .sigPut t e f _ => .sigPut t e f []
  | .sigPuth t e f _ => .sigPuth t e f []
  | .send t e f _ => .send t e f []
  | .asend t e f _ => .asend t e f []
  | .cadd t e f _ => .cadd t e f []
  | i => i
/-- Does a decoder answer no instruction but one without findings? -/
def SpellsPlain (o : Option Instr) : Prop := ∀ i, o = some i → plainOf i = i

section
variable {t : TileId} {e : Ecc} {w : W64} {i : Instr}

theorem SpellsPlain.none : SpellsPlain none := nofun
theorem SpellsPlain.some (h : plainOf i = i) : SpellsPlain (some i) := by
  rintro _ ⟨⟩
  exact h
theorem SpellsPlain.whenZero {z : Nat} (h : plainOf i = i) : SpellsPlain (whenZero z i) := by
  unfold Sys2Proof.whenZero
  split
  · exact .some h
  · exact .none
theorem spellsPlain_decodeSca : SpellsPlain (decodeSca t e w) := by
  unfold decodeSca
  split
  case h_17 => exact .none
  all_goals exact .whenZero rfl
theorem spellsPlain_decodeSci : SpellsPlain (decodeSci t e w) := by
  unfold decodeSci
  split
  case h_13 => exact .none
  case h_5 | h_6 | h_7 | h_10 | h_11 | h_12 => exact .whenZero rfl
  all_goals exact .some rfl
theorem spellsPlain_decodeBra : SpellsPlain (decodeBra t e w) := by
  unfold decodeBra
  split
  case h_9 => exact .none
  all_goals exact .whenZero rfl
theorem spellsPlain_decodeCtl : SpellsPlain (decodeCtl t e w) := by
  unfold decodeCtl
  split
  case h_8 => exact .none
  all_goals exact .whenZero rfl
theorem SpellsPlain.ite {c : Prop} [Decidable c] {o : Option Instr} (h : SpellsPlain o) : SpellsPlain (if c then o else Option.none) := by
  split
  · exact h
  · exact .none
theorem spellsPlain_decodeMma {sparse : Bool} : SpellsPlain (decodeMma t e w sparse) := by
  unfold decodeMma
  split
  case h_5 => exact .none
  all_goals exact .ite (.some rfl)
theorem spellsPlain_decodeRdx : SpellsPlain (decodeRdx t e w) := by
  unfold decodeRdx
  refine .ite ?_
  split
  case h_5 => exact .none
  all_goals exact .some rfl
theorem spellsPlain_decodeStr : SpellsPlain (decodeStr t e w) := by
  unfold decodeStr
  refine .ite (.some ?_)
  split <;> rfl
theorem spellsPlain_decodeSig : SpellsPlain (decodeSig t e w) := by
  unfold decodeSig
  refine .ite ?_
  split
  · exact .whenZero rfl
  · exact .some rfl
  · exact .ite (.some rfl)
  · exact .none
theorem spellsPlain_decodeWait : SpellsPlain (decodeWait t e w) := by
  unfold decodeWait
  refine .ite ?_
  split
  case h_4 => exact .none
  all_goals exact .some rfl
theorem spellsPlain_decodeMsg : SpellsPlain (decodeMsg t e w) := by
  unfold decodeMsg
  refine .ite ?_
  split
  · exact .whenZero rfl
  · exact .some rfl
  · exact .ite (.some rfl)
  · exact .ite (.some rfl)
  · exact .whenZero rfl
  · exact .whenZero rfl
  · exact .none
theorem spellsPlain_decodeRng : SpellsPlain (decodeRng t e w) := by
  unfold decodeRng
  refine .ite ?_
  split
  · exact .some rfl
  · exact .some rfl
  · exact .some rfl
  · exact .whenZero rfl
  · exact .whenZero rfl
  · exact .none
/-- What a word spells carries no findings. -/
theorem spellsPlain_decodeWord : SpellsPlain (decodeWord t e w) := by
  unfold decodeWord
  split
  · exact spellsPlain_decodeSca
  · exact spellsPlain_decodeSci
  · exact spellsPlain_decodeBra
  · exact spellsPlain_decodeCtl
  · exact spellsPlain_decodeMma
  · exact spellsPlain_decodeMma
  · exact .ite (.some rfl)
  · exact .ite (.some rfl)
  · exact spellsPlain_decodeRdx
  · exact spellsPlain_decodeStr
  · exact spellsPlain_decodeSig
  · exact spellsPlain_decodeWait
  · exact spellsPlain_decodeMsg
  · exact spellsPlain_decodeRng
  · exact .none
end

/-! ## The command of a tile instruction -/

section
variable {s : State} {t t' : TileId} {e e' : Ecc} {w : W64} {i : Instr} {dep : Bool} {act : State → State}

theorem withFields_eq_some {c : Nat} {l : List (Nat × Nat)} (h : withFields t' e' c dep l = some (t, e, w)) : t' = t ∧ e' = e := by
  simp only [withFields, Option.some.injEq, Prod.mk.injEq] at h
  exact ⟨h.1, h.2.1⟩
/-- Outcome `o` is that of instruction `i` at the issue stage of tile `t`, whatever `i` does once it issues. -/
def IssuedAs (s : State) (t : TileId) (e : Ecc) (i : Instr) (o : Out) : Prop := ∃ act, o = issue s t e i act
theorem IssuedAs.issue : IssuedAs s t e i (issue s t e i act) := ⟨act, rfl⟩

/-- A command that has a word goes through the issue stage of its tile, with the finding on the word, as the word's instruction (R93). -/
theorem issuedAs_exec (h : encodeWord dep i = some (t, e, w)) : IssuedAs s t e (plainOf i) (exec i s) := by
  delta exec
  cases i with
  | add | sub | andR | orR | xorR | sll | srl | sra | slt | sltu | mul | mulhu | minR | maxR | popc | ctz | addi | andi | ori | xori | slli
  | srli | srai | slti | sltiu | li | lih | ext | beq | bne | blt | bge | bltu | bgeu | j | dbnz | nop | endC | hset | hget | rdtally | rdid
  | rdss | vlen | waitConsume | waitPeek | waitGe | asend | poll | hret | rngBits | rngUni | rngMask | seedset | seedget =>
    obtain ⟨rfl, rfl⟩ := withFields_eq_some h
    exact .issue
  | mmaF4 | mmaF8 | mmaB16 | mmsF4 | rdxSum | rdxSsq | rdxMax | rdxAmax | send =>
    obtain ⟨rfl, rfl⟩ := withFields_eq_some (Option.ite_none_right_eq_some.mp h).2
    exact .issue
  | vch | strGet | strPut | sigSignal | sigPut | sigPuth | cadd | recv =>
    simp only [encodeWord] at h
    obtain ⟨rfl, rfl⟩ := withFields_eq_some (Option.ite_none_left_eq_some.mp h).2
    exact .issue
  | _ => exact nomatch h
end

/-! ## A correction of the word at issue (R25, R29, R94) -/

section
variable {s : State} {t u : TileId} {e : Ecc} {i : Instr}

theorem State.issueEcc_of_no_ce (h : (s.tile t).core.fixed = true ∨ ∀ syn, e ≠ .ce syn) : s.issueEcc t e = s := by
  cases e with
  | ok => rfl
  | ce syn => exact if_pos (h.resolve_right fun h => h syn rfl)
  | ue syn => rfl
theorem State.issueEcc_of_ce {syn : Byte} (h : (s.tile t).core.fixed = false) :
    s.issueEcc t (.ce syn) = (s.memCe .tile (s.gta t).toNat (s.tile t).core.pc syn).modTile t Tile.fixWord :=
  if_neg (ne_true_of_eq_false h)
theorem State.memCe_ce {k : LK} {loc addr : Nat} {syn : Byte} : (s.memCe k loc addr syn).err.ce = s.err.ce + 1 := by
  dsimp only [State.memCe, State.log]
  (repeat' split) <;> rfl
theorem State.tile_issueEcc_other (h : u ≠ t) : (s.issueEcc t e).tile u = s.tile u := by
  cases e with
  | ok => rfl
  | ce syn =>
    dsimp only [State.issueEcc]
    split
    · rfl
    · rw [State.tile_modTile_other _ _ _ _ h]
      exact State.tile_of_tiles _ _ (State.memCe_tiles ..) u
  | ue syn => rfl
/-- The two steps of STALL_ECC of a newly corrected word, and its count. -/
theorem State.issueEcc_ce {syn : Byte} (h : (s.tile t).core.fixed = false) :
    (s.issueEcc t (.ce syn)).tile t = (s.tile t).fixWord ∧ (s.issueEcc t (.ce syn)).err.ce = s.err.ce + 1 := by
  rw [State.issueEcc_of_ce h, State.tile_modTile_self, State.tile_of_tiles _ _ (State.memCe_tiles ..)]
  exact ⟨rfl, State.memCe_ce⟩

/-! ## The request for a heavy-unit token (R66) -/

theorem State.asksToken_of_none (h : mmaOf i = none) : s.asksToken t i = s := by
  unfold State.asksToken
  rw [h]
  rfl
/-- A matrix instruction whose tile has neither a token nor a request for one adds the request, and the tile to the list of its die. -/
theorem State.asksToken_cases :
    s.asksToken t i = s ∧ ((mmaOf i).isSome = true → (s.tile t).mxe.token = true ∨ (s.tile t).mxe.requested = true) ∨
    ∃ p, s.asksToken t i = (s.setPool (t.getLsbD 10) p).setTile t { s.tile t with mxe := { (s.tile t).mxe with requested := true } } := by
  unfold State.asksToken
  split
  · dsimp only [State.requestToken]
    split
    · next h => exact .inl ⟨rfl, fun _ => by simpa only [Bool.or_eq_true] using h⟩
    · exact .inr ⟨_, rfl⟩
  · next h => exact .inl ⟨rfl, fun hm => absurd hm h⟩
/-- The request changes nothing else of its tile. -/
theorem State.tile_asksToken : (s.asksToken t i).tile t =
    { s.tile t with mxe := { (s.tile t).mxe with requested := ((s.asksToken t i).tile t).mxe.requested } } := by
  obtain ⟨h, -⟩ | ⟨p, h⟩ := State.asksToken_cases (s := s) (t := t) (i := i)
  · rw [h]
  · rw [h, State.tile_setTile_self]
theorem State.tile_asksToken_other (hu : u ≠ t) : (s.asksToken t i).tile u = s.tile u := by
  obtain ⟨h, -⟩ | ⟨p, h⟩ := State.asksToken_cases (s := s) (t := t) (i := i)
  · rw [h]
  · rw [h, State.tile_setTile_other _ _ _ _ hu, State.tile_of_tiles _ _ (State.setPool_tiles ..)]
theorem State.asksToken_frame : (s.asksToken t i).mem = s.mem ∧ (s.asksToken t i).net = s.net ∧ (s.asksToken t i).err = s.err ∧
    (s.asksToken t i).regs = s.regs := by
  obtain ⟨h, -⟩ | ⟨p, h⟩ := State.asksToken_cases (s := s) (t := t) (i := i)
  · rw [h]
    exact ⟨rfl, rfl, rfl, rfl⟩
  · rw [h]
    simp
theorem State.requested_asksToken (hm : (mmaOf i).isSome = true) :
    ((s.asksToken t i).tile t).mxe.requested = true ∨ (s.tile t).mxe.token = true := by
  obtain ⟨h, ht⟩ | ⟨p, h⟩ := State.asksToken_cases (s := s) (t := t) (i := i)
  · rw [h]
    exact (ht hm).symm
  · rw [h, State.tile_setTile_self]
    exact .inl rfl
theorem Tile.stepCtr_requested {x : Tile} {b : Bool} {n : Nat} :
    ({ x with mxe := { x.mxe with requested := b } } : Tile).stepCtr n = x.stepCtr n := by
  have hv : ({ x with mxe := { x.mxe with requested := b } } : Tile).vxeActive = x.vxeActive := Tile.vxeActive_core_bel_requested
  unfold Tile.stepCtr
  rw [hv]
  rfl

/-! ## What the issue stage finds -/

theorem issueCheck_stall_word {k : Stall} (h : issueCheck s t e i = .stall k) :
    decodeWord t e (aGet 0 (s.tile t).imem (s.tile t).core.pc) = some i := by
  dsimp only [issueCheck] at h
  split at h
  · cases h
  · split at h
    · cases h
    · split at h
      · cases h
      · split at h
        · cases h
        · split at h
          · cases h
          · next j hj =>
            split at h
            · cases h
            · next hji => rw [hj, not_not.mp hji]
theorem issueCheck_illegal {w : W64} (hp : (s.tile t).core.phase = .issue) (hr : s.dev.cdreset = false) (hpc : (s.tile t).core.pc ≤ 6143)
    (he : ∀ syn, e ≠ .ue syn) (hw : w = aGet 0 (s.tile t).imem (s.tile t).core.pc) (hq : queueFull (s.tile t) w = false)
    (hd : decodeWord t e w = none) : issueCheck s t e i = .fault 0x8001 w.toNat := by
  subst hw
  have hinside : ¬6143 < (s.tile t).core.pc := Nat.not_lt.mpr hpc
  unfold issueCheck
  simp only [hp, hr, hq, hd]
  cases e with
  | ok => simp [hinside]
  | ce syn => simp [hinside]
  | ue syn => exact absurd rfl (he syn)

/-- A held step of a tile: its state after the correction of its word and the request of a token. -/
theorem exec_stall {dep : Bool} {w : W64} {k : Stall} (hw : encodeWord dep i = some (t, e, w)) (hk : issueCheck s t e i = .stall k) :
    exec i s = .next (((s.issueEcc t e).asksToken t i).modTile t fun x => x.held k 1) := by
  obtain ⟨act, h⟩ := issuedAs_exec (s := s) hw
  rw [h, spellsPlain_decodeWord i (issueCheck_stall_word hk)]
  unfold issue
  rw [hk]
theorem exec_illegal {dep : Bool} {v w : W64} (hi : encodeWord dep i = some (t, e, v)) (hp : (s.tile t).core.phase = .issue)
    (hr : s.dev.cdreset = false) (hpc : (s.tile t).core.pc ≤ 6143) (he : ∀ syn, e ≠ .ue syn)
    (hw : w = aGet 0 (s.tile t).imem (s.tile t).core.pc) (hq : queueFull (s.tile t) w = false) (hd : decodeWord t e w = none) :
    exec i s = .next ((s.issueEcc t e).raiseTile t 0x8001 (s.tile t).core.pc w.toNat) := by
  obtain ⟨act, h⟩ := issuedAs_exec (s := s) hi
  rw [h]
  unfold issue
  rw [issueCheck_illegal hp hr hpc he hw hq hd]
/-- What a held step leaves of the tile: but for its counters, and the request for a token, it is as the correction of its word left it. -/
theorem State.tile_held {k : Stall} : ((s.asksToken t i).modTile t fun x => x.held k 1).tile t =
    { s.tile t with
      ctr := TCtr.charge ((s.tile t).stepCtr 1) k 1
      mxe := { (s.tile t).mxe with requested := ((s.asksToken t i).tile t).mxe.requested } } := by
  rw [State.tile_modTile_self]
  conv_lhs => rw [State.tile_asksToken]
  unfold Tile.held Tile.step Tile.count
  rw [Tile.stepCtr_requested]

end

/-- Settles O4: a held command is `exec_stall`, and what it leaves follows from `State.tile_held` for its tile and from
`State.asksToken_frame` for the rest; an illegal word is `exec_illegal`, with the fault of `State.faultRaised_raiseTile`. -/
theorem heldStepsAndIllegalWords : Obligations.HeldStepsAndIllegalWords := by
  unfold Obligations.HeldStepsAndIllegalWords
  constructor
  · rintro s u t e dep i w k hw hk rfl
    refine ⟨State.issueEcc_of_no_ce, fun syn he hfixed => ?_, _, exec_stall hw hk, ?_⟩
    · subst he
      obtain ⟨htile, hce⟩ := State.issueEcc_ce (s := s) (t := t) (syn := syn) hfixed
      rw [htile]
      exact ⟨rfl, rfl, hce, fun v hv => State.tile_issueEcc_other hv⟩
    · obtain ⟨hmem, hnet, herr, hregs⟩ := State.asksToken_frame (s := s.issueEcc t e) (t := t) (i := i)
      have hu := State.tile_issueEcc s t e
      have hkept : StoresKept (s.tile t) ((s.issueEcc t e).tile t) := by
        rw [hu]
        exact ⟨rfl, rfl, rfl, rfl⟩
      have hbel : ((s.issueEcc t e).tile t).bel = (s.tile t).bel := by rw [hu]
      have hmxe : ((s.issueEcc t e).tile t).mxe = (s.tile t).mxe := by rw [hu]
      rw [State.tile_held]
      refine ⟨rfl, rfl, hkept, hbel, fun v hv => ?_, hmem.trans (State.issueEcc_mem ..), hnet.trans (State.issueEcc_net ..), herr,
        hregs.trans (State.issueEcc_regs ..), fun hm => ?_, fun hm => ?_⟩
      · rw [State.tile_modTile_other _ _ _ _ hv, State.tile_asksToken_other hv, State.tile_issueEcc_other hv]
      · rw [State.asksToken_of_none hm]
        exact ⟨State.issueEcc_pool0 .., State.issueEcc_pool1 .., hmxe⟩
      · exact (State.requested_asksToken hm).imp_right fun ht => hmxe ▸ ht
  · intro s t e dep i v w hi hp hr hpc he hw hq hd
    exact ⟨_, exec_illegal hi hp hr hpc he hw hq hd, State.faultRaised_raiseTile, rfl⟩
end Sys2Proof.Machine
end

/-! # Scalar arithmetic and control (O1, O3)

An instruction of the core takes its operands at issue, writes one register at the most, and goes on with the next word (R38, R95, R96). -/
section
set_option Elab.async false
namespace Sys2Proof.Machine

/-! ## What a correction of the word at issue leaves -/

section
variable {s : State} {t : TileId} {e : Ecc} {r : Reg} {h : Hdl}

@[simp] theorem State.reg_issueEcc : ((s.issueEcc t e).tile t).reg r = (s.tile t).reg r := by
  rw [State.tile_issueEcc]
  rfl
@[simp] theorem State.hword_issueEcc : ((s.issueEcc t e).tile t).hword h = (s.tile t).hword h := by
  rw [State.tile_issueEcc]
  rfl
@[simp] theorem State.pc_issueEcc : ((s.issueEcc t e).tile t).core.pc = (s.tile t).core.pc := by
  rw [State.tile_issueEcc]
@[simp] theorem State.mask_issueEcc : ((s.issueEcc t e).tile t).mask = (s.tile t).mask := by
  rw [State.tile_issueEcc]
@[simp] theorem State.gta_issueEcc : (s.issueEcc t e).gta t = s.gta t := by
  rw [State.gta, State.issueEcc_dev, State.gta]
end

/-! ## Values (R95, R96) -/

section
variable {a b : W64}

/-- A field of a word, as its shifted and cut value. -/
theorem fld_eq (w : W64) (hi lo : Nat) : fld w hi lo = w.toNat / 2 ^ lo % 2 ^ (hi + 1 - lo) := by
  rw [fld, bitsOf, Nat.shiftRight_eq_div_pow]
/-- A shift amount of six bits is taken as it is. -/
theorem toNat_shift_imm {sh : BitVec 6} : (sh.setWidth 64).toNat % 64 = sh.toNat := by
  have h : sh.toNat < 2 ^ 6 := sh.isLt
  rw [BitVec.toNat_setWidth]
  omega
theorem slt_eq_decide : a.slt b = decide (a.toInt < b.toInt) := by
  rfl
theorem ult_eq_decide : a.ult b = decide (a.toNat < b.toNat) := rfl
theorem alu_slt : alu .slt a b = if a.toInt < b.toInt then 1 else 0 := by
  simp [alu, boolW, slt_eq_decide]
theorem alu_sltu : alu .sltu a b = if a.toNat < b.toNat then 1 else 0 := by
  simp [alu, boolW, ult_eq_decide]
theorem alu_min : alu .min a b = if a.toInt < b.toInt then a else b := by
  simp [alu, slt_eq_decide]
theorem alu_max : alu .max a b = if a.toInt < b.toInt then b else a := by
  simp [alu, slt_eq_decide]
theorem alu_sll_imm {sh : BitVec 6} : alu .sll a (sh.setWidth 64) = a <<< sh.toNat := by
  rw [alu, toNat_shift_imm]
theorem alu_srl_imm {sh : BitVec 6} : alu .srl a (sh.setWidth 64) = a >>> sh.toNat := by
  rw [alu, toNat_shift_imm]
theorem alu_sra_imm {sh : BitVec 6} : alu .sra a (sh.setWidth 64) = a.sshiftRight sh.toNat := by
  rw [alu, toNat_shift_imm]
theorem popcount_eq_countP : popcount a = (List.range 64).countP fun k => a.getLsbD k := by
  have hfold (l : List Nat) (n : Nat) : l.foldl (fun n i => if a.getLsbD i then n + 1 else n) n = n + l.countP fun k => a.getLsbD k := by
    induction l generalizing n with
    | nil => rfl
    | cons i l ih => rw [List.foldl_cons, ih, List.countP_cons]; split <;> omega
  rw [popcount, hfold, Nat.zero_add]
theorem length_takeWhile_range' (p : Nat → Bool) (m n : Nat) :
    m + ((List.range' m n).takeWhile fun k => !p k).length = ((List.range' m n).find? p).getD (m + n) := by
  induction n generalizing m with
  | zero => rfl
  | succ n ih =>
    rw [List.range'_succ, List.takeWhile_cons, List.find?_cons]
    cases hp : p m with
    | true => simp
    | false =>
      rw [show (!false) = true from rfl, if_pos rfl, List.length_cons, show m + (n + 1) = m + 1 + n by omega]
      have := ih (m + 1)
      simp only at this ⊢
      omega
theorem trailingZeros_eq_find : trailingZeros a = ((List.range 64).find? fun k => a.getLsbD k).getD 64 := by
  have h := length_takeWhile_range' a.getLsbD 0 64
  rwa [Nat.zero_add, Nat.zero_add, ← List.range_eq_range'] at h
theorem lihValue_eq {top : BitVec 22} : lihValue a top = BitVec.ofNat 64 (top.toNat * 2 ^ 42 + a.toNat % 2 ^ 42) := by
  apply BitVec.eq_of_toNat_eq
  have hlow : a.toNat % 2 ^ 42 < 2 ^ 42 := Nat.mod_lt _ (by decide)
  have htop : top.toNat < 2 ^ 22 := top.isLt
  rw [lihValue, BitVec.toNat_append, BitVec.toNat_setWidth, BitVec.toNat_ofNat, ← Nat.shiftLeft_add_eq_or_of_lt hlow, Nat.shiftLeft_eq,
    Nat.mod_eq_of_lt (a := top.toNat * 2 ^ 42 + _) (by omega)]
end

/-! ## The core's step -/

section
variable {s : State} {t : TileId} {e : Ecc} {i : Instr} {act : State → State} {n : Nat}

/-- An instruction that is ready and moves its core on, with a register written or none. -/
theorem coreStep_of_goTo {d : Option (Reg × W64)} (hr : Ready s t e i) (hi : exec i s = issue s t e i act)
    (ha : act (s.issueEcc t e) = (s.issueEcc t e).modTile t fun x => (match d with | some (rd, v) => x.setReg rd v | none => x).goTo ((s.tile t).core.pc + 1) n) :
    CoreStep s t e i ((s.tile t).core.pc + 1) n d :=
  ⟨_, hi.trans (issue_ready act hr), _, ha, coreWent_goTo ..⟩
theorem Tile.pc_setReg {x : Tile} {rd : Reg} {v : W64} : (x.setReg rd v).core.pc = x.core.pc := by
  rw [Tile.setReg_eq]
/-- An instruction that is ready and writes one register with a value `f` of the state at issue. -/
theorem coreStep_of_aluWrite {rd : Reg} {v : W64} (f : State → W64) (hr : Ready s t e i)
    (hi : exec i s = issue s t e i fun u => u.aluWrite t rd (f u)) (hv : f (s.issueEcc t e) = v) :
    CoreStep s t e i ((s.tile t).core.pc + 1) 1 (some (rd, v)) := by
  refine coreStep_of_goTo hr hi ?_
  rw [hv, State.aluWrite, State.modTile, Tile.next, Tile.pc_setReg, State.pc_issueEcc]
  rfl
end

/-! ## SCA and SCI (O1) -/

section
variable {s : State} {t : TileId} {e : Ecc} {rd ra rb : Reg} {i : Instr} {imm v : W64}

theorem coreStep_aluRR (o : Alu) (hr : Ready s t e i) (hi : exec i s = issue s t e i (aluRR o t rd ra rb))
    (hv : alu o ((s.tile t).reg ra) ((s.tile t).reg rb) = v) : CoreStep s t e i ((s.tile t).core.pc + 1) 1 (some (rd, v)) :=
  coreStep_of_aluWrite (fun u => alu o ((u.tile t).reg ra) ((u.tile t).reg rb)) hr hi (by simpa only [State.reg_issueEcc])
theorem coreStep_aluRI (o : Alu) (hr : Ready s t e i) (hi : exec i s = issue s t e i (aluRI o t rd ra imm))
    (hv : alu o ((s.tile t).reg ra) imm = v) : CoreStep s t e i ((s.tile t).core.pc + 1) 1 (some (rd, v)) :=
  coreStep_of_aluWrite (fun u => alu o ((u.tile t).reg ra) imm) hr hi (by simpa only [State.reg_issueEcc])
/-- An instruction that writes a value of one register. -/
theorem coreStep_unary (f : W64 → W64) (hr : Ready s t e i)
    (hi : exec i s = issue s t e i fun u => u.aluWrite t rd (f ((u.tile t).reg ra))) (hv : f ((s.tile t).reg ra) = v) :
    CoreStep s t e i ((s.tile t).core.pc + 1) 1 (some (rd, v)) :=
  coreStep_of_aluWrite (fun u => f ((u.tile t).reg ra)) hr hi (by simpa only [State.reg_issueEcc])
end

/-- Settles O1: each instruction is a register or an immediate form of `alu`, or writes a value of one register; where the model spells
the value of R96 otherwise, the lemmas on `alu`, `popcount`, `trailingZeros` and `lihValue` say it is the same. -/
theorem scalarArithmeticResults : Obligations.ScalarArithmeticResults := by
  unfold Obligations.ScalarArithmeticResults
  constructor
  · intro s t e rd ra rb i v h hr
    simp only [List.mem_cons, Prod.mk.injEq, List.not_mem_nil, or_false] at h
    obtain ⟨rfl, rfl⟩ | ⟨rfl, rfl⟩ | ⟨rfl, rfl⟩ | ⟨rfl, rfl⟩ | ⟨rfl, rfl⟩ | ⟨rfl, rfl⟩ | ⟨rfl, rfl⟩ | ⟨rfl, rfl⟩ | ⟨rfl, rfl⟩ | ⟨rfl, rfl⟩ |
      ⟨rfl, rfl⟩ | ⟨rfl, rfl⟩ | ⟨rfl, rfl⟩ | ⟨rfl, rfl⟩ | ⟨rfl, rfl⟩ | ⟨rfl, rfl⟩ := h
    · exact coreStep_aluRR .add hr rfl rfl
    · exact coreStep_aluRR .sub hr rfl rfl
    · exact coreStep_aluRR .and hr rfl rfl
    · exact coreStep_aluRR .or hr rfl rfl
    · exact coreStep_aluRR .xor hr rfl rfl
    · exact coreStep_aluRR .sll hr rfl rfl
    · exact coreStep_aluRR .srl hr rfl rfl
    · exact coreStep_aluRR .sra hr rfl rfl
    · exact coreStep_aluRR .slt hr rfl alu_slt
    · exact coreStep_aluRR .sltu hr rfl alu_sltu
    · exact coreStep_aluRR .mul hr rfl rfl
    · exact coreStep_aluRR .mulhu hr rfl rfl
    · exact coreStep_aluRR .min hr rfl alu_min
    · exact coreStep_aluRR .max hr rfl alu_max
    · exact coreStep_unary (fun a => BitVec.ofNat 64 (popcount a)) hr rfl (congrArg _ popcount_eq_countP)
    · exact coreStep_unary (fun a => BitVec.ofNat 64 (trailingZeros a)) hr rfl (congrArg _ trailingZeros_eq_find)
  · intro s t e rd ra imm sh lo len top i v h hr
    simp only [List.mem_cons, Prod.mk.injEq, List.not_mem_nil, or_false] at h
    obtain ⟨rfl, rfl⟩ | ⟨rfl, rfl⟩ | ⟨rfl, rfl⟩ | ⟨rfl, rfl⟩ | ⟨rfl, rfl⟩ | ⟨rfl, rfl⟩ | ⟨rfl, rfl⟩ | ⟨rfl, rfl⟩ | ⟨rfl, rfl⟩ | ⟨rfl, rfl⟩ |
      ⟨rfl, rfl⟩ | ⟨rfl, rfl⟩ := h
    · exact coreStep_aluRI .add hr rfl rfl
    · exact coreStep_aluRI .and hr rfl rfl
    · exact coreStep_aluRI .or hr rfl rfl
    · exact coreStep_aluRI .xor hr rfl rfl
    · exact coreStep_aluRI .slt hr rfl (alu_slt.trans (by rw [sext42, BitVec.toInt_signExtend_of_le (by decide)]))
    · exact coreStep_aluRI .sltu hr rfl alu_sltu
    · exact coreStep_aluRI .sll hr rfl alu_sll_imm
    · exact coreStep_aluRI .srl hr rfl alu_srl_imm
    · exact coreStep_aluRI .sra hr rfl alu_sra_imm
    · exact coreStep_of_aluWrite (fun _ => sext42 imm) hr rfl rfl
    · exact coreStep_unary (fun a => lihValue a top) hr rfl lihValue_eq
    · exact coreStep_unary (fun a => extValue a lo len) hr rfl rfl

/-! ## Control (O3) -/

section
variable {s : State} {t : TileId} {e : Ecc} {r : Reg} {h : Hdl} {x : Tile}

/-- END outside a handler ends the compute phase. -/
theorem endStep_eq (hh : (s.tile t).core.hnd = none) :
    endStep t s = s.setTile t { (s.tile t).next with core := { (s.tile t).next.core with phase := .ended } } := by
  rw [endStep, hh]
  rfl
theorem storesKept_next {y : Tile} (h : StoresKept x y) : StoresKept x y.next := h
theorem storesKept_htab {m : Assoc W64} : StoresKept x { x with htab := m } := ⟨rfl, rfl, rfl, rfl⟩
/-- The tile after an HSET of an entry that R61 allows. -/
def Tile.hset (x : Tile) (r : Reg) (h : Hdl) : Tile := ({ x with htab := aSet 0 x.htab h.toNat (x.reg r >>> 14 <<< 14) } : Tile).next

theorem hsetStep_eq (hl : (hdOf ((s.tile t).reg r)).legal (s.tile t).mask = true) :
    hsetStep t r h s = s.setTile t ((s.tile t).hset r h) := by
  dsimp only [hsetStep]
  rw [if_pos hl]
  rfl
/-- The reserved bits [13:0] of an entry written by HSET read as zero (R59). -/
theorem shiftLeft_ushiftRight_14 {v : W64} : v >>> 14 <<< 14 = BitVec.ofNat 64 (v.toNat / 2 ^ 14 * 2 ^ 14) := by
  apply BitVec.eq_of_toNat_eq
  simp only [BitVec.toNat_shiftLeft, BitVec.toNat_ushiftRight, BitVec.toNat_ofNat, Nat.shiftLeft_eq, Nat.shiftRight_eq_div_pow]
theorem Tile.hword_hset {k : Hdl} : (x.hset r h).hword k = if k = h then x.reg r >>> 14 <<< 14 else x.hword k := by
  simp only [Tile.hset, Tile.hword, Tile.next, Tile.goTo, Tile.jump, Tile.step, aGet_aSet, BitVec.toNat_inj]
theorem Tile.hset_spec (x : Tile) (r : Reg) (h : Hdl) : (x.hset r h).core = { x.core with pc := x.core.pc + 1, fixed := false } ∧
    StoresKept x (x.hset r h) ∧ (x.hset r h).hword h = BitVec.ofNat 64 ((x.reg r).toNat / 2 ^ 14 * 2 ^ 14) ∧
    ∀ k, k ≠ h → (x.hset r h).hword k = x.hword k := by
  refine ⟨rfl, storesKept_next storesKept_htab, ?_, fun k hk => ?_⟩
  · rw [Tile.hword_hset, if_pos rfl, shiftLeft_ushiftRight_14]
  · rw [Tile.hword_hset, if_neg hk]
theorem setWidth_gta : (s.gta t).setWidth 64 = BitVec.ofNat 64 (s.dev.addr.toNat * 2 ^ 11 + t.toNat) := by
  have ht : t.toNat < 2 ^ 11 := t.isLt
  rw [← BitVec.ofNat_toNat, State.gta, BitVec.toNat_append, ← Nat.shiftLeft_add_eq_or_of_lt ht, Nat.shiftLeft_eq]
end

/-- Settles O3: the reading instructions write a register (`coreStep_of_aluWrite`); END and HSET are `endStep_eq` and `hsetStep_eq`. -/
theorem controlResults : Obligations.ControlResults := by
  unfold Obligations.ControlResults
  intro s t e r h x n
  have hn : x.core.pc + 1 = n := congrArg (· + 1) State.pc_issueEcc
  refine ⟨fun hr => ?_, fun hr => ?_, fun hr => ?_, fun hr => ?_, fun hr => ?_, fun hr hh => ?_, fun hr hl => ?_⟩
  · refine coreStep_of_goTo (act := fun u => u.modTile t Tile.next) hr rfl ?_
    rw [State.modTile, Tile.next, hn]
    rfl
  · exact coreStep_of_aluWrite (fun u => (u.tile t).hword h) hr rfl rfl
  · exact coreStep_of_aluWrite (fun u => BitVec.ofNat 64 (u.tile t).ctr.tally) hr rfl rfl
  · refine coreStep_of_aluWrite (fun u => (u.gta t).setWidth 64) hr rfl ?_
    rw [State.gta_issueEcc, setWidth_gta]
  · exact coreStep_of_aluWrite (fun u => BitVec.ofNat 64 (u.tile t).core.ss) hr rfl rfl
  · refine ⟨_, issue_ready (endStep t) hr, _, endStep_eq hh, ?_, ⟨rfl, rfl, rfl, rfl⟩, rfl, rfl⟩
    rw [← hn]
    rfl
  · obtain ⟨hcore, hstores, hself, hother⟩ := Tile.hset_spec x r h
    exact ⟨_, issue_ready (hsetStep t r h) hr, _, hsetStep_eq hl, hn ▸ hcore, hstores, hself, hother⟩
end Sys2Proof.Machine
end

/-! # Heavy-unit tokens, and the issue of MXE, VXE, RDU and stream instructions (O6, O5, O8, O23)

A grant takes the oldest tile off the list and never exceeds the pool (R66); an engine's instruction takes its place in the engine's queue
with the values of that moment (R38). -/
section
set_option Elab.async false
namespace Sys2Proof.Machine

/-! ## Tokens (O6) -/

section
variable {s s' : State} {t : TileId} {ts : List TileId} {die : Bool} {x : Tile}

theorem length_filter_aErase_le {α : Type} (p : Nat × α → Bool) (l : Assoc α) (k : Nat) :
    ((aErase l k).filter p).length ≤ (l.filter p).length :=
  ((List.filter_sublist).filter p).length_le
theorem length_filter_aInsert_le {α : Type} (p : Nat × α → Bool) (l : Assoc α) (k : Nat) (v : α) :
    ((aInsert l k v).filter p).length ≤ (l.filter p).length + 1 := by
  have hcons (kv : Nat × α) (l : Assoc α) :
      (l.filter p).length ≤ ((kv :: l).filter p).length ∧ ((kv :: l).filter p).length ≤ (l.filter p).length + 1 := by
    rw [List.filter_cons]
    split <;> simp
  induction l with
  | nil => exact (hcons _ _).2
  | cons kv l ih =>
    rw [aInsert]
    split
    · rw [List.filter_cons, List.filter_cons]
      split
      · exact Nat.succ_le_succ ih
      · exact ih
    · split
      · exact (hcons _ _).2.trans (Nat.succ_le_succ (hcons kv l).1)
      · exact (hcons _ _).2
/-- A change of one tile gives its die one token more at the most. -/
theorem State.tokensHeld_setTile_le : (s.setTile t x).tokensHeld die ≤ s.tokensHeld die + 1 := by
  unfold State.tokensHeld State.setTile aSet
  dsimp only
  split
  · exact (length_filter_aErase_le ..).trans (Nat.le_succ _)
  · exact length_filter_aInsert_le ..
theorem State.tokensHeld_of_tiles (h : s'.tiles = s.tiles) : s'.tokensHeld die = s.tokensHeld die := by
  rw [State.tokensHeld, h, State.tokensHeld]
theorem State.pool_setTile : (s.setTile t x).pool die = s.pool die := rfl

theorem execTokenGrant_grants (hw : (s.pool die).wait = t :: ts) (hf : s.tokensHeld die < (s.pool die).size) :
    execTokenGrant die s = .next ((s.setPool die { s.pool die with wait := ts }).setTile t
      { s.tile t with mxe := { (s.tile t).mxe with token := true, requested := false, idleFrom := (s.tile t).ctr.tally } }) := by
  dsimp only [execTokenGrant]
  rw [hw]
  dsimp only
  rw [if_pos hf, State.modTile, State.tile_of_tiles _ _ (State.setPool_tiles ..)]
/-- A grant that is not due, since no tile waits or no token is free, changes nothing. -/
theorem execTokenGrant_idle (h : (s.pool die).wait = [] ∨ (s.pool die).size ≤ s.tokensHeld die) : execTokenGrant die s = .next s := by
  dsimp only [execTokenGrant]
  split
  · rfl
  · next hw => rw [if_neg (Nat.not_lt.mpr (h.resolve_left (by rw [hw]; exact nofun)))]
theorem execTokenGrant_tokensHeld (hle : s.tokensHeld die ≤ (s.pool die).size) (h : execTokenGrant die s = .next s') :
    s'.tokensHeld die ≤ (s'.pool die).size := by
  by_cases hf : s.tokensHeld die < (s.pool die).size
  · cases hw : (s.pool die).wait with
    | nil =>
      rw [execTokenGrant_idle (.inl hw)] at h
      cases h
      exact hle
    | cons t ts =>
      rw [execTokenGrant_grants hw hf] at h
      cases h
      rw [State.pool_setTile, State.pool_setPool_self]
      refine State.tokensHeld_setTile_le.trans ?_
      rw [State.tokensHeld_of_tiles (State.setPool_tiles ..)]
      exact hf
  · rw [execTokenGrant_idle (.inr (Nat.not_lt.mp hf))] at h
    cases h
    exact hle
end

/-- Settles O6: a grant that is due is `execTokenGrant_grants`, and raises the tokens held by one at the most
(`State.tokensHeld_setTile_le`) where one was free. -/
theorem heavyUnitTokens : Obligations.HeavyUnitTokens := by
  unfold Obligations.HeavyUnitTokens
  refine ⟨fun s die t ts hw hf => execTokenGrant_grants hw hf, fun s t ht ho hi => ?_, fun s s' die hle h => execTokenGrant_tokensHeld hle h⟩
  change execTokenIdleRelease t s = _
  dsimp only [execTokenIdleRelease]
  rw [ht, ho, decide_eq_true hi]
  rfl

/-! ## An engine's instruction at issue -/

section
variable {s : State} {t : TileId} {e : Ecc} {i : Instr} {act : State → State} {x x' y : Tile} {r : Reg} {P : Tile → Tile → Prop}

/-- Whatever its engine takes of it, the core goes on with the next word once the step has been counted (R38, R39). -/
theorem engineIssued_nextWord {pend : Assoc Bool} {seq : Nat} {acc : List Access} {land : Assoc Nat} {mxe : Mxe} {vxe : Vxe} {rdu : Rdu}
    {str : StreamU} :
    EngineIssued x ({ x with
      core := { x.core with pend := pend }, ctr := x.stepCtr 1, seq := seq, acc := acc, land := land, mxe := mxe, vxe := vxe, rdu := rdu
      str := str } : Tile).nextWord :=
  ⟨rfl, rfl, rfl, rfl, rfl, rfl, rfl, rfl, rfl⟩
theorem issuesWith_of_setTile (hr : Ready s t e i) (hi : exec i s = issue s t e i act)
    (ha : act (s.issueEcc t e) = (s.issueEcc t e).setTile t x') (hx : EngineIssued ((s.issueEcc t e).tile t) x')
    (hp : P ((s.issueEcc t e).tile t) x') : IssuesWith s t e i P :=
  ⟨_, hi.trans (issue_ready act hr), x', ha, hx, hp⟩
end

/-! ## Matrix instructions (O5) -/

section
variable {s : State} {t : TileId} {x : Tile} {k : MmaKind} {f : MmaF}

/-- The tile after a matrix instruction has issued. -/
def Tile.mmaQueued (x : Tile) (k : MmaKind) (f : MmaF) : Tile :=
  let o := mmaOp x k f
  let y := (x.step 1).addAccess ((if f.init then slotRows f.islot else []) ++ o.readRows) (slotRows f.dslot)
  ({ y with mxe := { x.mxe with ops := x.mxe.ops ++ [o], nextAcc := !x.mxe.nextAcc } } : Tile).nextWord

theorem mmaIssue_eq (hc : mmaCheck (s.tile t).mask (mmaOp (s.tile t) k f) = none) :
    mmaIssue t k f s = s.setTile t ((s.tile t).mmaQueued k f) := by
  dsimp only [mmaIssue]
  rw [hc]
  rfl
theorem Tile.engineIssued_mmaQueued : EngineIssued x (x.mmaQueued k f) := engineIssued_nextWord
theorem Tile.mmaQueued_mxe :
    (x.mmaQueued k f).mxe = { x.mxe with ops := x.mxe.ops ++ [mmaOp x k f], nextAcc := !x.mxe.nextAcc } := rfl
theorem Tile.mmaQueued_ftq : (x.mmaQueued k f).ftq = x.ftq := rfl
theorem mmaOp_aoff : (mmaOp x k f).aoff = (x.reg f.sx).toNat % 2 ^ 16 := by
  change fld (x.reg f.sx) 15 0 = _
  rw [fld_eq, pow_zero, Nat.div_one]
theorem mmaOp_woff : (mmaOp x k f).woff = (x.reg f.sx).toNat / 2 ^ 16 % 2 ^ 16 := fld_eq (x.reg f.sx) 31 16
theorem mmaOp_mv : (mmaOp x k f).mv = if f.rte then min ((x.reg f.sx).toNat / 2 ^ 32 % 128) 64 else 64 := by
  change (if f.rte then min (fld (x.reg f.sx) 38 32) 64 else 64) = _
  rw [fld_eq]
  rfl
/-- The four matrix instructions are one, by their element form. -/
theorem exec_mma {e : Ecc} {i : Instr} (hi : (i, k) ∈ [(Instr.mmaF4 t e f, MmaKind.f4), (.mmaF8 t e f, .f8), (.mmaB16 t e f, .b16), (.mmsF4 t e f, .s4)]) :
    exec i s = issue s t e i (mmaIssue t k f) := by
  simp only [List.mem_cons, Prod.mk.injEq, List.not_mem_nil, or_false] at hi
  obtain ⟨rfl, rfl⟩ | ⟨rfl, rfl⟩ | ⟨rfl, rfl⟩ | ⟨rfl, rfl⟩ := hi <;> rfl
end

/-- Settles O5: a matrix instruction whose checks pass issues as `mmaIssue_eq` says, with the operation that `mmaOp` forms. -/
theorem matrixInstructionsIssue : Obligations.MatrixInstructionsIssue := by
  unfold Obligations.MatrixInstructionsIssue
  intro s t e f i k hi hr hc
  have hmask : ((s.issueEcc t e).tile t).mask = (s.tile t).mask := State.mask_issueEcc
  refine issuesWith_of_setTile hr (exec_mma hi) (mmaIssue_eq (hmask ▸ hc)) Tile.engineIssued_mmaQueued ?_
  rw [Tile.mmaQueued_mxe]
  exact ⟨⟨_, rfl, rfl, rfl, rfl, rfl, rfl, rfl, rfl, rfl, mmaOp_aoff, mmaOp_woff, mmaOp_mv, rfl⟩, rfl, rfl, rfl, Tile.mmaQueued_ftq⟩

/-! ## VLEN, VCH and RDX (O8) -/

section
variable {x y : Tile}

/-- The lanes of the VXE work whatever has changed but its queue, the rows in use, the MXE and the FTQ. -/
theorem Tile.vxeActive_congr (ho : y.vxe.ops = x.vxe.ops) (hd : y.vxe.relDue = x.vxe.relDue) (ha : y.acc = x.acc) (hm : y.mxe = x.mxe)
    (hf : y.ftq = x.ftq) : y.vxeActive = x.vxeActive := by
  have hfree (o : VchOp) : y.vchFree o = x.vchFree o := by
    unfold Tile.vchFree
    cases o.rdx <;> simp only [Tile.vchRows, Tile.accessOf, Tile.rowsFree, Tile.headReads, ho, hd, ha, hm, hf]
  unfold Tile.vxeActive
  rw [ho]
  simp only [hfree]
theorem vlenIssue_engineIssued {n : Nat} : EngineIssued x ({ x with vxe := { x.vxe with vlen := n } } : Tile).next := by
  have hactive : ({ x with vxe := { x.vxe with vlen := n } } : Tile).vxeActive = x.vxeActive := Tile.vxeActive_congr rfl rfl rfl rfl rfl
  refine ⟨rfl, ?_, rfl, rfl, rfl, rfl, rfl, rfl, rfl⟩
  change Tile.stepCtr _ 1 = x.stepCtr 1
  simp only [Tile.stepCtr, hactive]
  rfl
end

section
variable {s : State} {t : TileId} {e : Ecc} {x : Tile} {f : VchF} {ss : List Stage}

/-- The RDX that a VCH takes with it: the one that waits, where RDT asks for one (R133). -/
def Tile.pairedRdx (x : Tile) (f : VchF) : Option RdxEnt := if f.rdt then x.rdu.unpaired.head? else none
/-- A VCH of the stages `ss` with the values it takes at issue (R38, R117). -/
def Tile.vchOp (x : Tile) (f : VchF) (ss : List Stage) : VchOp :=
  { seq := x.seq, pc := x.core.pc, f := f, stages := ss.map fun g => (g, stageVals x g)
    b := [x.reg f.sb0, x.reg f.sb1, x.reg f.sb2, x.reg f.sb3].map fun w => w.setWidth 32
    nr := fld (x.reg f.sn) 15 0, vlen := x.vxe.vlen, groups := groupCount f.wb (fld (x.reg f.sn) 15 0) x.vxe.vlen
    sc := x.reg f.sc, seed := aGet 0 x.seeds 0, rdx := x.pairedRdx f, nfs := x.nfs }
/-- The tile after a VCH has issued: its rows have their place in program order, and its RDX no longer waits. -/
def Tile.vchQueued (x : Tile) (f : VchF) (ss : List Stage) : Tile :=
  let nr := fld (x.reg f.sn) 15 0
  let rows := (ss.map fun g => (g, stageVals x g)).map fun gv => stageRows gv.1 gv.2 nr x.vxe.vlen
  let y := (x.step 1).addAccess (rows.flatMap (·.1)).dedup (rows.flatMap (·.2)).dedup
  let z := match x.pairedRdx f with
    | some e => { y.setWrites e.seq (rdxRows e nr) with rdu := { y.rdu with unpaired := [] } }
    | none => y
  ({ z with vxe := { z.vxe with
    ops := z.vxe.ops ++ [x.vchOp f ss], busy0 := if z.vxe.ops.isEmpty then z.ctr.vxeBusy else z.vxe.busy0 } } : Tile).nextWord

theorem vchIssue_eq (hw : f.caddr.toNat + f.nst.toNat ≤ 6143) (hc : (s.tile t).chain f = some ss)
    (hr : f.rdt = true → (s.tile t).rdu.unpaired.length = 1)
    (hg : ∀ g ∈ ss, stageFault g (stageVals (s.tile t) g) (s.tile t).mask (fld ((s.tile t).reg f.sn) 15 0) (s.tile t).vxe.vlen = none)
    (hx : f.rdt = true → ∀ r ∈ (s.tile t).rdu.unpaired, rdxFault r (fld ((s.tile t).reg f.sn) 15 0) = none) :
    vchIssue t f s = s.setTile t ((s.tile t).vchQueued f ss) := by
  have hpair : (f.rdt && decide ((s.tile t).rdu.unpaired.length ≠ 1)) = false := by
    cases hf : f.rdt with
    | false => rfl
    | true => simp [hr hf]
  have hstages : ((ss.map fun g => (g, stageVals (s.tile t) g)).findSome? fun gv =>
      stageFault gv.1 gv.2 (s.tile t).mask (fld ((s.tile t).reg f.sn) 15 0) (s.tile t).vxe.vlen) = none := by
    rw [List.findSome?_eq_none_iff]
    rintro _ hm
    obtain ⟨g, hgs, rfl⟩ := List.mem_map.mp hm
    exact hg g hgs
  have hrdx : (((s.tile t).pairedRdx f).bind fun e => rdxFault e (fld ((s.tile t).reg f.sn) 15 0)) = none := by
    rw [Option.bind_eq_none_iff]
    intro r hm
    obtain ⟨hf, hm⟩ := Option.ite_none_right_eq_some.mp hm
    exact hx hf r (List.mem_of_head? hm)
  dsimp only [vchIssue]
  rw [if_neg (Nat.not_lt.mpr hw), hc]
  dsimp only
  rw [hpair, hstages]
  rw [Option.none_or, show ((if f.rdt then (s.tile t).rdu.unpaired.head? else none).bind fun e => _) = none from hrdx]
  rfl
theorem Tile.engineIssued_vchQueued : EngineIssued x (x.vchQueued f ss) := by
  dsimp only [Tile.vchQueued]
  cases x.pairedRdx f with
  | none => exact engineIssued_nextWord
  | some e => exact engineIssued_nextWord
theorem Tile.vchQueued_ops : (x.vchQueued f ss).vxe.ops = x.vxe.ops ++ [x.vchOp f ss] := by
  dsimp only [Tile.vchQueued]
  cases x.pairedRdx f <;> rfl
theorem Tile.vchQueued_vlen : (x.vchQueued f ss).vxe.vlen = x.vxe.vlen := by
  dsimp only [Tile.vchQueued]
  cases x.pairedRdx f <;> rfl
theorem Tile.vchQueued_pend : (x.vchQueued f ss).core.pend = x.core.pend := by
  dsimp only [Tile.vchQueued]
  cases x.pairedRdx f <;> rfl
theorem Tile.vchQueued_unpaired : (x.vchQueued f ss).rdu.unpaired = if (x.pairedRdx f).isSome then [] else x.rdu.unpaired := by
  dsimp only [Tile.vchQueued]
  cases x.pairedRdx f <;> rfl
theorem Tile.isSome_pairedRdx (h : f.rdt = true → x.rdu.unpaired.length = 1) : (x.pairedRdx f).isSome = f.rdt := by
  unfold Tile.pairedRdx
  cases hf : f.rdt with
  | false => rfl
  | true =>
    obtain ⟨r, hr⟩ := List.length_eq_one_iff.mp (h hf)
    rw [hr]
    rfl
theorem Tile.vchOp_nr : (x.vchOp f ss).nr = (x.reg f.sn).toNat % 2 ^ 16 := by
  change fld (x.reg f.sn) 15 0 = _
  rw [fld_eq, pow_zero, Nat.div_one]
theorem Tile.vchOp_stages : (x.vchOp f ss).stages.map (·.1) = ss := by
  rw [Tile.vchOp, List.map_map]
  exact List.map_id ss
end

section
variable {s : State} {t : TileId} {x : Tile} {op : RdxOp} {f : RdxF} {r r' : Reg} {b : Bool}

theorem Tile.isPend_setPend : (x.setPend r b).isPend r' = if r' = r ∧ r ≠ 0 then b else x.isPend r' := by
  unfold Tile.setPend
  by_cases hr : r = 0
  · simp [hr]
  · simp only [hr, if_false, Tile.isPend, aGet_aSet, BitVec.toNat_inj, ne_eq, not_false_eq_true, and_true]
/-- An RDX with the values it takes at issue (R132). -/
def Tile.rdxEnt (x : Tile) (op : RdxOp) (f : RdxF) : RdxEnt :=
  { seq := x.seq, op := op, f := f, he := x.hword f.h, off := x.reg f.so }
/-- The tile after an RDX has issued: it waits unpaired, and under TOS its register has a write pending (R133). -/
def Tile.rdxQueued (x : Tile) (op : RdxOp) (f : RdxF) : Tile :=
  let y : Tile := { (x.step 1).addAccess [] (rdxMayRows (x.rdxEnt op f)) with rdu := { x.rdu with unpaired := x.rdu.unpaired ++ [x.rdxEnt op f] } }
  (if f.tos then y.setPend f.rd true else y).nextWord

theorem rdxIssue_eq (h : f.toh = true → (hdOf ((s.tile t).hword f.h)).v = true ∧ (hdOf ((s.tile t).hword f.h)).legal (s.tile t).mask = true) :
    rdxIssue t op f s = s.setTile t ((s.tile t).rdxQueued op f) := by
  have hok : (f.toh && !((hdOf ((s.tile t).hword f.h)).v && (hdOf ((s.tile t).hword f.h)).legal (s.tile t).mask)) = false := by
    cases hf : f.toh with
    | false => rfl
    | true =>
      obtain ⟨hv, hl⟩ := h hf
      rw [hv, hl]
      rfl
  dsimp only [rdxIssue]
  rw [hok]
  rfl
theorem Tile.engineIssued_rdxQueued : EngineIssued x (x.rdxQueued op f) := by
  unfold Tile.rdxQueued Tile.setPend
  dsimp only
  split
  · split
    · exact engineIssued_nextWord
    · exact engineIssued_nextWord
  · exact engineIssued_nextWord
theorem Tile.rdxQueued_rdu : (x.rdxQueued op f).rdu = { x.rdu with unpaired := x.rdu.unpaired ++ [x.rdxEnt op f] } := by
  unfold Tile.rdxQueued Tile.setPend
  dsimp only
  (repeat' split) <;> rfl
theorem Tile.isPend_rdxQueued : (x.rdxQueued op f).isPend r = (x.isPend r || (f.tos && decide (r = f.rd) && decide (r ≠ 0))) := by
  have hnext {y : Tile} : y.nextWord.isPend r = y.isPend r := rfl
  have hy {rows : List Nat} {u : Rdu} : ({ (x.step 1).addAccess [] rows with rdu := u } : Tile).isPend r = x.isPend r := rfl
  dsimp only [Tile.rdxQueued]
  rw [hnext]
  cases f.tos with
  | false => rw [if_neg Bool.false_ne_true, hy, Bool.and_assoc, Bool.false_and, Bool.or_false]
  | true =>
    rw [if_pos rfl, Tile.isPend_setPend, hy, Bool.true_and, ← Bool.decide_and]
    by_cases hrd : r = f.rd ∧ f.rd ≠ 0
    · rw [if_pos hrd, decide_eq_true ⟨hrd.1, hrd.1 ▸ hrd.2⟩, Bool.or_true]
    · rw [if_neg hrd, decide_eq_false fun h : r = f.rd ∧ r ≠ 0 => hrd ⟨h.1, h.1 ▸ h.2⟩, Bool.or_false]
/-- The four RDX instructions are one, by their reduction. -/
theorem exec_rdx {e : Ecc} {i : Instr}
    (hi : (i, op) ∈ [(Instr.rdxSum t e f, RdxOp.sum), (.rdxSsq t e f, .ssq), (.rdxMax t e f, .max), (.rdxAmax t e f, .amax)]) :
    exec i s = issue s t e i (rdxIssue t op f) := by
  simp only [List.mem_cons, Prod.mk.injEq, List.not_mem_nil, or_false] at hi
  obtain ⟨rfl, rfl⟩ | ⟨rfl, rfl⟩ | ⟨rfl, rfl⟩ | ⟨rfl, rfl⟩ := hi <;> rfl
end

/-- Settles O8: VLEN by `vlenIssue_engineIssued`; a VCH and an RDX that R117 and R132 allow issue as `vchIssue_eq` and `rdxIssue_eq`
say, with the operations `Tile.vchOp` and `Tile.rdxEnt`. -/
theorem vectorInstructionsIssue : Obligations.VectorInstructionsIssue := by
  unfold Obligations.VectorInstructionsIssue
  have hmask (s : State) (t : TileId) (e : Ecc) : ((s.issueEcc t e).tile t).mask = (s.tile t).mask := State.mask_issueEcc
  refine ⟨fun s t e ra imm hr => ?_, fun s t e f ss hr hw hc hrd hg hx => ?_, fun s t e f i op hi hr h => ?_⟩
  · exact issuesWith_of_setTile hr (rfl : exec _ s = issue s t e _ fun u => u.modTile t fun x =>
      ({ x with vxe := { x.vxe with vlen := min ((x.reg ra).toNat + imm.toNat) 65535 } } : Tile).next) rfl vlenIssue_engineIssued ⟨rfl, rfl⟩
  · have hu := State.tile_issueEcc s t e
    have hnr : fld (((s.issueEcc t e).tile t).reg f.sn) 15 0 = ((s.tile t).reg f.sn).toNat % 2 ^ 16 := by
      rw [State.reg_issueEcc]
      exact Tile.vchOp_nr (ss := ss)
    have hunp : ((s.issueEcc t e).tile t).rdu = (s.tile t).rdu := by rw [hu]
    have hrd' : f.rdt = true → ((s.issueEcc t e).tile t).rdu.unpaired.length = 1 := hunp ▸ hrd
    have heq : vchIssue t f (s.issueEcc t e) = (s.issueEcc t e).setTile t (((s.issueEcc t e).tile t).vchQueued f ss) := by
      refine vchIssue_eq hw ?_ hrd' ?_ ?_
      · rw [hu]
        exact hc
      · rw [hnr, hu]
        exact hg
      · rw [hnr, hunp]
        exact hx
    refine issuesWith_of_setTile hr (rfl : exec _ s = issue s t e _ (vchIssue t f)) heq Tile.engineIssued_vchQueued ?_
    refine ⟨⟨_, Tile.vchQueued_ops, rfl, Tile.vchOp_stages, Tile.vchOp_nr, rfl, rfl, rfl, Tile.isSome_pairedRdx hrd', rfl⟩,
      Tile.vchQueued_vlen, ?_, Tile.vchQueued_pend⟩
    rw [Tile.vchQueued_unpaired, Tile.isSome_pairedRdx hrd']
  · refine issuesWith_of_setTile hr (exec_rdx hi) (rdxIssue_eq ?_) Tile.engineIssued_rdxQueued ?_
    · rw [State.hword_issueEcc, hmask]
      exact h
    · rw [Tile.rdxQueued_rdu]
      exact ⟨⟨_, rfl, rfl, rfl, rfl, rfl⟩, rfl, fun r => Tile.isPend_rdxQueued⟩

/-! ## Stream instructions (O23) -/

section
variable {s : State} {t : TileId} {x : Tile} {put : Bool} {f : StrF} {en : StrEnt}

/-- Is the entry one that the look-ahead pointer formed for the word at issue (R46)? -/
def Tile.sameStr (x : Tile) (en : StrEnt) : Bool := en.seq.isNone && decide (en.pc = x.core.pc)
/-- The tier address of a stream instruction at issue. -/
def Tile.strAddr (x : Tile) (f : StrF) : Nat := fld (x.reg f.sa) 47 0
/-- The entries that issue keeps: one formed ahead for the word with other values is dropped. -/
def Tile.strKept (x : Tile) (f : StrF) : List StrEnt :=
  x.str.ents.filter fun en => !(x.sameStr en) || (decide (en.sa = x.strAddr f) && decide (en.desc = x.reg f.sd))
/-- The transfer of an instruction that was not formed ahead (R220). -/
def Tile.strNew (x : Tile) (put : Bool) (f : StrF) : StrEnt :=
  ⟨x.str.nextId, x.core.pc, put, some x.seq, f.h, x.hword f.h, x.strAddr f, x.reg f.sd, f.pol, f.p6, 0, [], [], false⟩
/-- The transfers of the unit once the instruction has issued. -/
def Tile.strEnts (x : Tile) (put : Bool) (f : StrF) : List StrEnt :=
  if (x.strKept f).any x.sameStr then (x.strKept f).map fun en => if x.sameStr en then { en with seq := some x.seq, he := x.hword f.h } else en
  else x.strKept f ++ [x.strNew put f]
/-- The tile after a stream instruction has issued. -/
def Tile.strTaken (x : Tile) (put : Bool) (f : StrF) : Tile :=
  let rows := allRows (hdOf (x.hword f.h)) (x.reg f.sd) f.p6
  let kept : Tile := { x with str := { x.str with ents := x.strKept f } }
  let y := (kept.step 1).addAccess (if put then rows else []) (if put then [] else rows)
  let z : Tile := { y with str := { y.str with
    ents := x.strEnts put f, nextId := if (x.strKept f).any x.sameStr then x.str.nextId else x.str.nextId + 1 } }
  (if put then z else { z with land := aSet 0 x.land f.h.toNat (x.landing f.h + (x.strNew put f).total) }).nextWord

theorem strIssue_eq (hc : strCheck (s.tile t) f.h ((s.tile t).strAddr f) ((s.tile t).reg f.sd) f.p6 = none) :
    strIssue t put f s = s.setTile t ((s.tile t).strTaken put f) := by
  dsimp only [strIssue]
  rw [show strCheck (s.tile t) f.h (fld ((s.tile t).reg f.sa) 47 0) ((s.tile t).reg f.sd) f.p6 = none from hc]
  cases put <;> rfl
/-- An entry formed ahead is no PUT in progress, so what issue drops of them does not change whether the unit works (R138). -/
theorem Tile.strActive_strKept : ({ x with str := { x.str with ents := x.strKept f } } : Tile).strActive = x.strActive := by
  have hany : (x.strKept f).any (fun en => en.put && en.seq.isSome) = x.str.ents.any fun en => en.put && en.seq.isSome := by
    rw [Tile.strKept, List.any_filter]
    congr 1
    funext en
    cases hs : en.seq <;> simp [Tile.sameStr, hs]
  simp only [Tile.strActive, hany]
theorem Tile.stepCtr_strKept : ({ x with str := { x.str with ents := x.strKept f } } : Tile).stepCtr 1 = x.stepCtr 1 := by
  have hv : ({ x with str := { x.str with ents := x.strKept f } } : Tile).vxeActive = x.vxeActive := Tile.vxeActive_congr rfl rfl rfl rfl rfl
  simp only [Tile.stepCtr, hv, Tile.strActive_strKept]
  rfl
theorem Tile.engineIssued_strTaken : EngineIssued x (x.strTaken put f) := by
  have h {seq : Nat} {acc : List Access} {land : Assoc Nat} {str : StreamU} {c : TCtr} (hc : c = x.stepCtr 1) :
      EngineIssued x ({ x with ctr := c, seq := seq, acc := acc, land := land, str := str } : Tile).nextWord := by
    subst hc
    exact engineIssued_nextWord
  cases put with
  | true => exact h Tile.stepCtr_strKept
  | false => exact h Tile.stepCtr_strKept
theorem Tile.mem_ents_jump {pc : Nat} (hm : en ∈ x.str.ents) (hs : en.seq.isSome = true) : en ∈ (x.jump pc).str.ents := by
  have hf : en ∈ x.str.ents.filter fun en => en.seq.isSome := List.mem_filter.mpr ⟨hm, hs⟩
  unfold Tile.jump
  dsimp only
  (repeat' split) <;> assumption
theorem Tile.mem_ents_strTaken (hm : en ∈ x.strEnts put f) (hs : en.seq.isSome = true) : en ∈ (x.strTaken put f).str.ents := by
  refine Tile.mem_ents_jump ?_ hs
  cases put <;> exact hm
theorem Tile.landing_strTaken : (x.strTaken put f).landing f.h =
    if put then x.landing f.h else x.landing f.h + dRuns (x.reg f.sd) * dLines (x.reg f.sd) := by
  cases put with
  | true => rfl
  | false =>
    rw [if_neg Bool.false_ne_true]
    change aGet 0 (aSet 0 x.land f.h.toNat (x.landing f.h + (x.strNew false f).total)) f.h.toNat = _
    rw [aGet_aSet_self]
    rfl
/-- A transfer formed ahead for the word, with the same address and descriptor, is the instruction's own; where there is none, the
instruction brings its own (R46, R220). -/
theorem Tile.exists_mem_strEnts : ∃ en ∈ x.strEnts put f, en.seq = some x.seq ∧ en.he = x.hword f.h ∧ en.sa = x.strAddr f ∧
    en.desc = x.reg f.sd ∧ ((∀ g ∈ x.str.ents, g.seq ≠ none) → en = x.strNew put f) := by
  unfold Tile.strEnts
  split
  · next hk =>
    obtain ⟨en, hm, hs⟩ := List.any_eq_true.mp hk
    obtain ⟨hx, hkept⟩ := List.mem_filter.mp hm
    rw [hs] at hkept
    simp only [Bool.not_true, Bool.false_or, Bool.and_eq_true, decide_eq_true_eq] at hkept
    refine ⟨_, List.mem_map.mpr ⟨en, hm, if_pos hs⟩, rfl, rfl, hkept.1, hkept.2, fun h => absurd ?_ (h en hx)⟩
    simp only [Tile.sameStr, Bool.and_eq_true, Option.isNone_iff_eq_none] at hs
    exact hs.1
  · exact ⟨_, List.mem_append_right _ (List.mem_singleton_self _), rfl, rfl, rfl, rfl, fun _ => rfl⟩
theorem exec_str {e : Ecc} {i : Instr} (hi : (i, put) ∈ [(Instr.strGet t e f, false), (.strPut t e f, true)]) :
    exec i s = issue s t e i (strIssue t put f) := by
  simp only [List.mem_cons, Prod.mk.injEq, List.not_mem_nil, or_false] at hi
  obtain ⟨rfl, rfl⟩ | ⟨rfl, rfl⟩ := hi <;> rfl
end

/-- Settles O23: a stream instruction whose checks pass issues as `strIssue_eq` says; its transfer is the one of
`Tile.exists_mem_strEnts`. -/
theorem streamInstructions : Obligations.StreamInstructions := by
  unfold Obligations.StreamInstructions
  rintro s t e f i put hi hr _ _ rfl rfl hc
  have hu := State.tile_issueEcc s t e
  have hsa : ((s.issueEcc t e).tile t).strAddr f = ((s.tile t).reg f.sa).toNat % 2 ^ 48 := by
    rw [Tile.strAddr, State.reg_issueEcc, fld_eq, pow_zero, Nat.div_one]
  have hd : ((s.issueEcc t e).tile t).reg f.sd = (s.tile t).reg f.sd := State.reg_issueEcc
  refine issuesWith_of_setTile hr (exec_str hi) (strIssue_eq ?_) Tile.engineIssued_strTaken ?_
  · rw [hsa, hd, hu]
    exact hc
  · obtain ⟨en, hm, hs, hhe, hensa, hdesc, hnew⟩ := ((s.issueEcc t e).tile t).exists_mem_strEnts (put := put) (f := f)
    refine ⟨⟨en, Tile.mem_ents_strTaken hm (by rw [hs]; rfl), hs, hhe, hensa.trans hsa, hdesc.trans hd, fun h => ?_⟩, ?_, ?_⟩
    · rw [hnew h]
      exact ⟨rfl, rfl, rfl, rfl, rfl⟩
    · rw [Tile.landing_strTaken, hd, dRuns, dLines, fld_eq, fld_eq]
    · cases put <;> rfl
end Sys2Proof.Machine
end

/-! # The sync port, and SIG instructions (O15)

What an instruction of the sync port does is done at once where nothing stands before it, and waits behind what cannot go on (R191). -/
section
set_option Elab.async false
namespace Sys2Proof.Machine

/-! ## Findings on the rows that an engine reads (R25, R58) -/

/-- State `s'` is `s` with findings on store rows of tile `t` applied: of the tiles only the stores of `t` and their marks differ, and the
network is as before. -/
structure Found (t : TileId) (s s' : State) : Prop where
  net : s'.net = s.net
  addr : s'.dev.addr = s.dev.addr
  other : ∀ u, u ≠ t → s'.tile u = s.tile u
  self : s'.tile t = { s.tile t with w := (s'.tile t).w, a := (s'.tile t).a, p := (s'.tile t).p, ue := (s'.tile t).ue }

section
variable {s s' s'' : State} {t u : TileId} {rd : List Nat} {errs : List StoreErr} {e : StoreErr} {x y z : Tile}

theorem Found.refl : Found t s s := ⟨rfl, rfl, fun _ _ => rfl, rfl⟩
theorem Found.trans (h : Found t s s') (h' : Found t s' s'') : Found t s s'' :=
  ⟨h'.net.trans h.net, h'.addr.trans h.addr, fun u hu => (h'.other u hu).trans (h.other u hu), by
    rw [h'.self, h.self]⟩
theorem Found.of_tiles (ht : s'.tiles = s.tiles) (hn : s'.net = s.net) (hd : s'.dev.addr = s.dev.addr) : Found t s s' :=
  ⟨hn, hd, fun u _ => State.tile_of_tiles _ _ ht u, by rw [State.tile_of_tiles _ _ ht]⟩
theorem Found.modTile {f : Tile → Tile} (hf : f (s.tile t) = { s.tile t with
    w := (f (s.tile t)).w, a := (f (s.tile t)).a, p := (f (s.tile t)).p, ue := (f (s.tile t)).ue }) : Found t s (s.modTile t f) :=
  ⟨rfl, rfl, fun u hu => State.tile_modTile_other _ _ _ _ hu, by
    rw [State.tile_modTile_self]
    exact hf⟩
theorem Tile.setStore_eq {st : Nat} {m : Assoc PWord} {l : List (StoreSel × Nat)} :
    ({ x.setStore st m with ue := l } : Tile) = { x with w := (x.setStore st m).w, a := (x.setStore st m).a, p := (x.setStore st m).p, ue := l } := by
  unfold Tile.setStore
  (repeat' split) <;> rfl
theorem State.found_storeErrs : Found t s (s.storeErrs t rd errs) := by
  refine List.foldlRecOn (motive := fun u : State => Found t s u) _ _ Found.refl fun u hu e _ => ?_
  dsimp only
  split
  · split
    · exact hu
    · exact hu.trans (.of_tiles (State.memCe_tiles ..) (State.memCe_net ..) (by rw [State.memCe_dev]))
    · split
      · exact hu
      · refine hu.trans (Found.trans (s' := { u.memUe .tile (u.gta t).toNat e.row _ with dev := _ }) ?_ (.modTile Tile.setStore_eq))
        exact .of_tiles (State.memUe_tiles ..) (State.memUe_net ..) rfl
  · exact hu

/-! ### Tiles with the same stores -/

/-- A word found uncorrectable: its data is a free value from then on, and it reads as poison (R58). -/
def Tile.foundUe (x : Tile) (e : StoreErr) (v : W64) : Tile :=
  let y := x.setStore (selNum e.store) (aSet pw0 (x.store (selNum e.store)) (8 * e.row + e.word) ⟨v, false⟩)
  { y with ue := y.ue ++ [(e.store, 8 * e.row + e.word)] }

theorem StoresKept.trans (h : StoresKept x y) (h' : StoresKept y z) : StoresKept x z :=
  ⟨h'.1.trans h.1, h'.2.1.trans h.2.1, h'.2.2.1.trans h.2.2.1, h'.2.2.2.trans h.2.2.2⟩
theorem StoresKept.store {st : Nat} (h : StoresKept x y) : y.store st = x.store st := by
  obtain ⟨hw, ha, hp, -⟩ := h
  rw [Tile.store, hw, ha, hp, Tile.store]
theorem StoresKept.rdWord {st key : Nat} (h : StoresKept x y) : y.rdWord st key = x.rdWord st key := by
  have hue : y.ue = x.ue := h.2.2.2
  rw [Tile.rdWord, h.store, hue, Tile.rdWord]
theorem StoresKept.rdRow {st row : Nat} (h : StoresKept x y) : y.rdRow st row = x.rdRow st row := by
  simp only [Tile.rdRow, h.rdWord]
theorem StoresKept.rowsAt {keys : List Nat} (h : StoresKept x y) : y.rowsAt keys = x.rowsAt keys := by
  simp only [Tile.rowsAt, h.rdRow]
theorem StoresKept.foundUe {e : StoreErr} {v : W64} (h : StoresKept x y) : StoresKept (x.foundUe e v) (y.foundUe e v) := by
  have hstore : y.store (selNum e.store) = x.store (selNum e.store) := h.store
  obtain ⟨hw, ha, hp, hue⟩ := h
  unfold Tile.foundUe Tile.setStore
  rw [hstore]
  dsimp only
  split
  · exact ⟨rfl, ha, hp, congrArg (· ++ _) hue⟩
  · split
    · exact ⟨hw, rfl, hp, congrArg (· ++ _) hue⟩
    · exact ⟨hw, ha, rfl, congrArg (· ++ _) hue⟩

theorem storesKept_storeErr (hf : s'.dev.free = s.dev.free) (hs : StoresKept (s.tile t) (s'.tile t)) :
    (s'.storeErrs t rd [e]).dev.free = (s.storeErrs t rd [e]).dev.free ∧
      StoresKept ((s.storeErrs t rd [e]).tile t) ((s'.storeErrs t rd [e]).tile t) := by
  have hue {v : State} {syn : Byte} {d : Dev} : ({ v.memUe .tile (v.gta t).toNat e.row syn with dev := d } : State).tile t = v.tile t :=
    State.tile_of_tiles _ _ (State.memUe_tiles ..) t
  dsimp only [State.storeErrs, List.foldl_cons, List.foldl_nil]
  split
  · split
    · exact ⟨hf, hs⟩
    · rw [State.memCe_dev, State.memCe_dev, State.tile_of_tiles _ _ (State.memCe_tiles ..), State.tile_of_tiles _ _ (State.memCe_tiles ..)]
      exact ⟨hf, hs⟩
    · rw [hs.rdWord]
      split
      · exact ⟨hf, hs⟩
      · refine ⟨congrArg (· + 1) hf, ?_⟩
        rw [State.tile_modTile_self, State.tile_modTile_self, hue, hue, hf]
        exact hs.foundUe
  · exact ⟨hf, hs⟩
/-- Findings fall alike on equal stores. -/
theorem storesKept_storeErrs (hf : s'.dev.free = s.dev.free) (hs : StoresKept (s.tile t) (s'.tile t)) :
    StoresKept ((s.storeErrs t rd errs).tile t) ((s'.storeErrs t rd errs).tile t) := by
  induction errs generalizing s s' with
  | nil => exact hs
  | cons e errs ih =>
    obtain ⟨hf1, hs1⟩ := storesKept_storeErr (rd := rd) (e := e) hf hs
    exact ih hf1 hs1
end

/-! ## What a tile offers (R197) -/

section
variable {s s' : State} {t : TileId} {fl : Flit} {fls : List Flit} {m : BitVec 4} {id : Nat} {ls : List (Nat × List (List PWord))}

theorem State.inject_net_congr (h : s'.net = s.net) : (s'.inject t fl).net = (s.inject t fl).net := by
  simp only [State.inject, State.setLink, State.link, h]
/-- What is offered does to the network the same on the same network. -/
theorem State.injectAll_net_congr (h : s'.net = s.net) : (s'.injectAll t fls).net = (s.injectAll t fls).net := by
  induction fls generalizing s s' with
  | nil => exact h
  | cons fl fls ih => exact ih (State.inject_net_congr h)
theorem State.tile_inject {u : TileId} : (s.inject t fl).tile u = s.tile u := rfl
theorem State.tile_injectAll {u : TileId} : (s.injectAll t fls).tile u = s.tile u := State.tile_of_tiles _ _ State.injectAll_tiles u
theorem State.injectAll_dev : (s.injectAll t fls).dev = s.dev :=
  List.foldlRecOn (motive := fun s' : State => s'.dev = s.dev) _ _ rfl fun _ h _ _ => h
theorem State.gta_congr (h : s'.dev.addr = s.dev.addr) : s'.gta t = s.gta t := by
  rw [State.gta, h, State.gta]
/-- Only the tags of the stream unit and their counter change in a tile that sends a ring record. -/
theorem State.tile_sendRecord_self : ∃ tags n, (s.sendRecord t m id ls).tile t =
    { s.tile t with str := { (s.tile t).str with tags := tags, nextTag := n } } := by
  induction ls generalizing s with
  | nil => exact ⟨_, _, rfl⟩
  | cons l ls ih =>
    obtain ⟨tags, n, h⟩ := ih (s := _)
    refine ⟨tags, n, h.trans ?_⟩
    rw [State.tile_injectAll, State.tile_setTile_self]
theorem State.tile_sendRecord_other {u : TileId} (hu : u ≠ t) : (s.sendRecord t m id ls).tile u = s.tile u := by
  induction ls generalizing s with
  | nil => rfl
  | cons l ls ih => exact ih.trans (State.tile_injectAll.trans (State.tile_setTile_other _ _ _ _ hu))
/-- What a ring record does to the network depends on the network, on the sender's address and on the next of its tags. -/
theorem State.sendRecord_net_congr (hn : s'.net = s.net) (ha : s'.dev.addr = s.dev.addr)
    (ht : (s'.tile t).str.nextTag = (s.tile t).str.nextTag) : (s'.sendRecord t m id ls).net = (s.sendRecord t m id ls).net := by
  induction ls generalizing s s' with
  | nil => exact hn
  | cons l ls ih =>
    obtain ⟨a, us⟩ := l
    dsimp only [State.sendRecord]
    rw [ht, State.gta_congr (s := s) ha]
    refine ih (State.injectAll_net_congr hn) ?_ ?_
    · rw [State.injectAll_dev, State.injectAll_dev]
      exact ha
    · rw [State.tile_injectAll, State.tile_injectAll, State.tile_setTile_self, State.tile_setTile_self]
end

/-! ## The sync port (R191) -/

/-- May the sync port not perform `o` yet: a RECV without a message to take, rows that an earlier instruction has still to write, no free
tag, or acceptances that have not all come (R55, R181, R191)? The tile's global address is `g`. -/
def Tile.syncHeld (x : Tile) (g : Gta) : SyncOp → Bool
  | .recv _ q _ => match (x.queue q).msgs with
    | [] => x.bel.ring.has q
    | m :: _ => !m.complete
  | .send _ | .place => false
  | .put seq _ _ _ _ keys _ => !x.rowsFree seq keys []
  | .msg r none => !x.rowsFree r.seq r.keys []
  | .msg r (some (a, sq)) => !(x.rowsFree r.seq r.keys [] &&
      (List.range (recordLines g r a sq (r.keys.map fun _ => [])).length).all fun k => (aGet none x.str.tags ((x.str.nextTag + k) % 64)).isNone)
  | .acks id => x.str.tags.any fun kv => kv.2.any fun l => decide (l.ent = id)

section
variable {s s' : State} {t : TileId} {x y : Tile} {o : SyncOp} {ops : List SyncOp} {rt so : Reg} {q : BitVec 2} {g : Gta}

theorem Tile.tryRecv_eq_none_iff : x.tryRecv rt q so = none ↔ x.syncHeld g (.recv rt q so) = true := by
  dsimp only [Tile.tryRecv, Tile.syncHeld]
  cases (x.queue q).msgs with
  | nil => cases x.bel.ring.has q <;> simp
  | cons m ms => cases m.complete <;> simp
theorem State.syncStep_eq_none_iff (h : (s.tile t).bel.syncq = o :: ops) : s.syncStep t = none ↔ (s.tile t).syncHeld (s.gta t) o = true := by
  have hsome {b : Bool} {v : State} : (if b then some v else none) = none ↔ (!b) = true := by cases b <;> simp
  dsimp only [State.syncStep]
  rw [h]
  cases o with
  | recv rt q so => exact Option.map_eq_none_iff.trans Tile.tryRecv_eq_none_iff
  | send fl => exact ⟨nofun, nofun⟩
  | place => exact ⟨nofun, nofun⟩
  | put seq hx f dst drow keys errs => exact hsome
  | msg r ring =>
    cases ring with
    | none => exact hsome
    | some p => exact hsome
  | acks id => simp [Tile.syncHeld]

/-- Tile `y` is `x` with `l` behind what waits in the sync port: what the head of the port waits for is not there yet. -/
structure QueuedBehind (x y : Tile) (l : List SyncOp) : Prop where
  syncq : y.bel.syncq = x.bel.syncq ++ l
  q : y.bel.q = x.bel.q
  ring : y.bel.ring = x.bel.ring
  tags : y.str.tags = x.str.tags
  nextTag : y.str.nextTag = x.str.nextTag
  rows : ∀ seq rd, x.rowsFree seq rd [] = false → y.rowsFree seq rd [] = false

theorem QueuedBehind.syncHeld {l : List SyncOp} (h : QueuedBehind x y l) (ho : x.syncHeld g o = true) : y.syncHeld g o = true := by
  obtain ⟨-, hq, hring, htags, hnext, hrows⟩ := h
  cases o with
  | recv rt q so =>
    simp only [Tile.syncHeld, Tile.queue, hq, hring] at ho ⊢
    exact ho
  | send fl => exact ho
  | place => exact ho
  | put seq hx f dst drow keys errs =>
    simp only [Tile.syncHeld, Bool.not_eq_true'] at ho ⊢
    exact hrows _ _ ho
  | msg r ring =>
    cases ring with
    | none =>
      simp only [Tile.syncHeld, Bool.not_eq_true'] at ho ⊢
      exact hrows _ _ ho
    | some p =>
      simp only [Tile.syncHeld, htags, hnext, Bool.not_eq_true', Bool.and_eq_false_iff] at ho ⊢
      exact ho.imp_left (hrows _ _)
  | acks id =>
    simp only [Tile.syncHeld, htags] at ho ⊢
    exact ho
theorem State.drainSync_of_held {n : Nat} (h : s.syncStep t = none) : State.drainSync t n s = s := by
  cases n with
  | zero => rfl
  | succ n => rw [State.drainSync, h]
/-- Behind what cannot go on, nothing goes on. -/
theorem State.drain_behind {l : List SyncOp} (hw : SyncWaits s t) (hne : (s.tile t).bel.syncq ≠ []) (hb : QueuedBehind (s.tile t) (s'.tile t) l)
    (hg : s'.gta t = s.gta t) : s'.drain t = s' := by
  obtain ⟨o, ops, ho⟩ := List.exists_cons_of_ne_nil hne
  have hheld : (s.tile t).syncHeld (s.gta t) o = true := (State.syncStep_eq_none_iff ho).mp (hw.resolve_left hne)
  have ho' : (s'.tile t).bel.syncq = o :: (ops ++ l) := by rw [hb.syncq, ho, List.cons_append]
  exact State.drainSync_of_held ((State.syncStep_eq_none_iff ho').mpr (hg ▸ hb.syncHeld hheld))
theorem State.drain_held (h : (s.tile t).bel.syncq = [o]) (ho : (s.tile t).syncHeld (s.gta t) o = true) : s.drain t = s :=
  State.drainSync_of_held ((State.syncStep_eq_none_iff h).mpr ho)
/-- What stands alone in the sync port and can be performed is performed, and no more. -/
theorem State.drain_single (h : (s.tile t).bel.syncq = [o]) (hs : s.syncStep t = some s') : s.drain t = s' := by
  rw [State.drain, h, List.length_singleton, State.drainSync, hs]
  rfl

/-- The sync port of tile `t` has `ops` left. -/
def State.syncDone (s : State) (t : TileId) (ops : List SyncOp) : State := s.modTile t fun x => { x with bel := { x.bel with syncq := ops } }

theorem State.syncStep_send {fl : Flit} (h : (s.tile t).bel.syncq = .send fl :: ops) : s.syncStep t = some ((s.syncDone t ops).inject t fl) := by
  dsimp only [State.syncStep]
  rw [h]
  rfl
theorem State.syncStep_put {seq drow : Nat} {hx : Bool} {f : PutF} {dst : Gta} {keys : List Nat} {errs : List StoreErr}
    (h : (s.tile t).bel.syncq = .put seq hx f dst drow keys errs :: ops) (hr : (s.tile t).rowsFree seq keys [] = true) :
    s.syncStep t = some (((s.syncDone t ops).takeRows t seq keys errs).1.injectAll t
      (putFlits dst f drow ((s.syncDone t ops).takeRows t seq keys errs).2 hx)) := by
  dsimp only [State.syncStep]
  rw [h]
  exact if_pos hr
theorem State.syncStep_msg {r : Resv} (h : (s.tile t).bel.syncq = .msg r none :: ops) (hr : (s.tile t).rowsFree r.seq r.keys [] = true) :
    s.syncStep t = some (((s.syncDone t ops).takeRows t r.seq r.keys r.errs).1.injectAll t
      (messageFlits (s.gta t) r ((s.syncDone t ops).takeRows t r.seq r.keys r.errs).2)) := by
  dsimp only [State.syncStep]
  rw [h]
  exact if_pos hr
theorem State.syncStep_record {r : Resv} {a sq : Nat} (h : (s.tile t).bel.syncq = .msg r (some (a, sq)) :: ops)
    (hf : (s.tile t).syncHeld (s.gta t) (.msg r (some (a, sq))) = false) :
    s.syncStep t = some ((((s.syncDone t (.acks (s.tile t).str.nextId :: ops)).takeRows t r.seq r.keys r.errs).1.modTile t fun x =>
      { x with str := { x.str with nextId := (s.tile t).str.nextId + 1 } }).sendRecord t (gtaMod r.dst) (s.tile t).str.nextId
        (recordLines (s.gta t) r a sq ((s.syncDone t (.acks (s.tile t).str.nextId :: ops)).takeRows t r.seq r.keys r.errs).2)) := by
  dsimp only [State.syncStep]
  rw [h]
  exact if_pos (Bool.not_inj (y := true) hf)
end

/-! ## Rows that the sync port takes (R55, R58) -/

section
variable {s s' : State} {t u : TileId} {seq : Nat} {keys : List Nat} {errs : List StoreErr}

theorem State.tile_takeRows : (s.takeRows t seq keys errs).1.tile t = { s.tile t with
    w := ((s.takeRows t seq keys errs).1.tile t).w, a := ((s.takeRows t seq keys errs).1.tile t).a
    p := ((s.takeRows t seq keys errs).1.tile t).p, ue := ((s.takeRows t seq keys errs).1.tile t).ue
    acc := ((s.takeRows t seq keys errs).1.tile t).acc } := by
  have h := (State.found_storeErrs (s := s) (t := t) (rd := keys) (errs := errs)).self
  dsimp only [State.takeRows]
  rw [State.tile_modTile_self, Tile.dropAccess, h]
theorem State.tile_takeRows_other (hu : u ≠ t) : (s.takeRows t seq keys errs).1.tile u = s.tile u :=
  (State.tile_modTile_other _ _ _ _ hu).trans (State.found_storeErrs.other u hu)
theorem State.takeRows_net : (s.takeRows t seq keys errs).1.net = s.net := State.found_storeErrs.net
theorem State.takeRows_addr : (s.takeRows t seq keys errs).1.dev.addr = s.dev.addr := State.found_storeErrs.addr
/-- The rows are read, and the stores left, as the findings leave them in any state with the same stores. -/
theorem State.takeRows_rows (hf : s'.dev.free = s.dev.free) (hs : StoresKept (s.tile t) (s'.tile t)) :
    (s'.takeRows t seq keys errs).2 = ((s.storeErrs t keys errs).tile t).rowsAt keys :=
  (storesKept_storeErrs hf hs).rowsAt
theorem State.storesKept_takeRows (hf : s'.dev.free = s.dev.free) (hs : StoresKept (s.tile t) (s'.tile t)) :
    StoresKept ((s.storeErrs t keys errs).tile t) ((s'.takeRows t seq keys errs).1.tile t) := by
  dsimp only [State.takeRows]
  rw [State.tile_modTile_self]
  exact storesKept_storeErrs hf hs
end

/-! ## An instruction that joins the sync port -/

section
variable {s : State} {t : TileId} {x : Tile} {o : SyncOp} {acc : List Access} {seq : Nat} {keys rd : List Nat} {c : TCtr}

/-- The tile after an instruction has joined the sync port: the core goes on with the next word. -/
def Tile.sigIssued (x : Tile) (c : TCtr) (seq : Nat) (acc : List Access) (o : SyncOp) : Tile :=
  ({ x with ctr := c, seq := seq, acc := acc, bel := { x.bel with syncq := x.bel.syncq ++ [o] } } : Tile).nextWord

theorem Tile.sigIssued_bel : (x.sigIssued c seq acc o).bel = { x.bel with syncq := x.bel.syncq ++ [o] } := rfl
theorem Tile.sigIssued_core : (x.sigIssued c seq acc o).core = { x.core with pc := x.core.pc + 1, fixed := false } := rfl
theorem Tile.sigIssued_ctr : (x.sigIssued c seq acc o).ctr = c := rfl
theorem Tile.storesKept_sigIssued : StoresKept x (x.sigIssued c seq acc o) := ⟨rfl, rfl, rfl, rfl⟩
theorem Tile.jump_str {pc : Nat} : (x.jump pc).str =
    { x.str with la := (x.jump pc).str.la, path := (x.jump pc).str.path, ents := (x.jump pc).str.ents } := by
  unfold Tile.jump
  dsimp only
  (repeat' split) <;> rfl
theorem Tile.sigIssued_str : (x.sigIssued c seq acc o).str = { x.str with
    la := (x.sigIssued c seq acc o).str.la, path := (x.sigIssued c seq acc o).str.path, ents := (x.sigIssued c seq acc o).str.ents } :=
  Tile.jump_str
/-- A record that only reads, of an instruction issued now, does not stand in the way of its own reads or of those before it. -/
theorem Tile.rowsFree_sigIssued : (x.sigIssued c seq (x.acc ++ [⟨x.seq, keys, []⟩]) o).rowsFree x.seq rd [] = x.rowsFree x.seq rd [] := by
  have hhead : (x.sigIssued c seq (x.acc ++ [⟨x.seq, keys, []⟩]) o).headReads = x.headReads := rfl
  rw [Tile.rowsFree, hhead]
  change ((x.acc ++ [(⟨x.seq, keys, []⟩ : Access)]) ++ x.headReads).all _ = _
  simp [Tile.rowsFree]
theorem Tile.queuedBehind_sigIssued {l : List Access} (h : acc = x.acc ++ l) : QueuedBehind x (x.sigIssued c seq acc o) [o] := by
  refine ⟨rfl, rfl, rfl, ?_, ?_, fun q rd hr => ?_⟩
  · rw [Tile.sigIssued_str]
  · rw [Tile.sigIssued_str]
  · have hhead : (x.sigIssued c seq acc o).headReads = x.headReads := rfl
    subst h
    rw [Tile.rowsFree, hhead]
    change ((x.acc ++ l) ++ x.headReads).all _ = false
    rw [Tile.rowsFree, List.all_append, Bool.and_eq_false_iff] at hr
    rw [List.all_append, List.all_append, Bool.and_eq_false_iff, Bool.and_eq_false_iff]
    exact hr.imp_left .inl
end

/-! ## SIG (O15) -/

section
variable {s s' u : State} {t v : TileId} {e : Ecc} {x : Tile} {f : PutF} {hx : Bool} {errs : List StoreErr} {c : TCtr} {seq : Nat}
  {acc : List Access} {o : SyncOp} {ops : List SyncOp} {fl : Flit}

theorem Belfry.with_syncq {b : Belfry} (h : b.syncq = ops) : { b with syncq := ops } = b := by
  subst h
  rfl
/-- A correction of the word at issue does not touch the sync port. -/
theorem SyncWaits.issueEcc (h : SyncWaits s t) : SyncWaits (s.issueEcc t e) t := by
  have hu := State.tile_issueEcc s t e
  have hbel : ((s.issueEcc t e).tile t).bel = (s.tile t).bel := by rw [hu]
  have hb : QueuedBehind (s.tile t) ((s.issueEcc t e).tile t) [] := by
    rw [hu]
    exact ⟨(List.append_nil _).symm, rfl, rfl, rfl, rfl, fun _ _ h => h⟩
  cases hq : (s.tile t).bel.syncq with
  | nil => exact .inl (hbel ▸ hq)
  | cons o ops =>
    have hstep : s.syncStep t = none := h.resolve_left (by rw [hq]; exact nofun)
    refine .inr ((State.syncStep_eq_none_iff (hbel ▸ hq)).mpr ?_)
    rw [State.gta_issueEcc]
    exact hb.syncHeld ((State.syncStep_eq_none_iff hq).mp hstep)
theorem State.tile_syncDone_self : (s.syncDone t ops).tile t = { s.tile t with bel := { (s.tile t).bel with syncq := ops } } :=
  State.tile_modTile_self ..
theorem State.tile_syncDone_other (h : v ≠ t) : (s.syncDone t ops).tile v = s.tile v := State.tile_modTile_other _ _ _ _ h
/-- What waits behind the instructions that joined before it. -/
theorem State.drain_sigIssued_waits {l : List Access} (hw : SyncWaits s t) (hq : (s.tile t).bel.syncq ≠ []) (ha : acc = (s.tile t).acc ++ l) :
    (s.setTile t ((s.tile t).sigIssued c seq acc o)).drain t = s.setTile t ((s.tile t).sigIssued c seq acc o) := by
  refine State.drain_behind (l := [o]) hw hq ?_ rfl
  rw [State.tile_setTile_self]
  exact Tile.queuedBehind_sigIssued ha

/-- A SIGNAL that has issued, as it is or with its flit offered. -/
theorem signal_performed (hq : (s.tile t).bel.syncq = []) :
    (s.setTile t ((s.tile t).sigIssued c seq acc (.send fl))).drain t =
      ((s.setTile t ((s.tile t).sigIssued c seq acc (.send fl))).syncDone t []).inject t fl := by
  have hone : ((s.setTile t ((s.tile t).sigIssued c seq acc (.send fl))).tile t).bel.syncq = [.send fl] := by
    rw [State.tile_setTile_self, Tile.sigIssued_bel, hq]
    rfl
  exact State.drain_single hone (State.syncStep_send hone)

/-- The place in the stores of a put's source rows, as they stand at issue. -/
def Tile.putKeys (x : Tile) (f : PutF) : List Nat := x.srcKeys f.sh (fld (x.reg f.so) 11 0) (fld (x.reg f.so) 33 28 + 1)
/-- The put that an instruction hands to the sync port. -/
def Tile.putOp (x : Tile) (f : PutF) (hx : Bool) (errs : List StoreErr) : SyncOp :=
  .put x.seq hx f ((x.reg f.rt).setWidth 15) (fld (x.reg f.so) 27 16) (x.putKeys f) errs
/-- The tile after a put has joined the sync port: its source rows have their place in program order (R55). -/
def Tile.putIssued (x : Tile) (f : PutF) (hx : Bool) (errs : List StoreErr) : Tile :=
  x.sigIssued (x.stepCtr 1) (x.seq + 1) (x.acc ++ [⟨x.seq, x.putKeys f, []⟩]) (x.putOp f hx errs)

theorem putIssue_eq (h : (s.tile t).rowsOk f.sh (fld ((s.tile t).reg f.so) 11 0) (fld ((s.tile t).reg f.so) 33 28 + 1) = true) :
    putIssue t f hx errs s = (s.setTile t ((s.tile t).putIssued f hx errs)).drain t := by
  dsimp only [putIssue]
  rw [h]
  rfl
theorem put_waits (hw : SyncWaits s t) (h : (s.tile t).bel.syncq ≠ [] ∨ (s.tile t).rowsFree (s.tile t).seq ((s.tile t).putKeys f) [] = false) :
    (s.setTile t ((s.tile t).putIssued f hx errs)).drain t = s.setTile t ((s.tile t).putIssued f hx errs) := by
  by_cases hq : (s.tile t).bel.syncq = []
  · refine State.drain_held (o := (s.tile t).putOp f hx errs) ?_ ?_
    · rw [State.tile_setTile_self, Tile.putIssued, Tile.sigIssued_bel, hq]
      rfl
    · rw [State.tile_setTile_self, Tile.putIssued, Tile.putOp, Tile.syncHeld, Tile.rowsFree_sigIssued, h.resolve_left (not_not.mpr hq)]
      rfl
  · exact State.drain_sigIssued_waits hw hq rfl
/-- A put that is performed at once: its rows are read as the findings leave them, and its flits are offered. -/
theorem put_performed (hq : (s.tile t).bel.syncq = []) (hr : (s.tile t).rowsFree (s.tile t).seq ((s.tile t).putKeys f) [] = true)
    (hs' : s' = (s.setTile t ((s.tile t).putIssued f hx errs)).drain t) (hu : u = s.storeErrs t ((s.tile t).putKeys f) errs) :
    s'.net = (s.injectAll t (putFlits (((s.tile t).reg f.rt).setWidth 15) f (fld ((s.tile t).reg f.so) 27 16)
      ((u.tile t).rowsAt ((s.tile t).putKeys f)) hx)).net ∧
    s'.tile t = { (s.tile t).putIssued f hx errs with
      w := (s'.tile t).w, a := (s'.tile t).a, p := (s'.tile t).p, ue := (s'.tile t).ue, acc := (s'.tile t).acc, bel := (s.tile t).bel } ∧
    StoresKept (u.tile t) (s'.tile t) ∧ ∀ v, v ≠ t → s'.tile v = s.tile v := by
  have hone : ((s.setTile t ((s.tile t).putIssued f hx errs)).tile t).bel.syncq = [(s.tile t).putOp f hx errs] := by
    rw [State.tile_setTile_self, Tile.putIssued, Tile.sigIssued_bel, hq]
    rfl
  have hfree : ((s.setTile t ((s.tile t).putIssued f hx errs)).tile t).rowsFree (s.tile t).seq ((s.tile t).putKeys f) [] = true := by
    rw [State.tile_setTile_self, Tile.putIssued, Tile.rowsFree_sigIssued, hr]
  rw [State.drain_single hone (State.syncStep_put hone hfree)] at hs'
  generalize hz : (s.setTile t ((s.tile t).putIssued f hx errs)).syncDone t [] = z at hs'
  have hztile : z.tile t = { (s.tile t).putIssued f hx errs with bel := (s.tile t).bel } := by
    rw [← hz, State.tile_syncDone_self, State.tile_setTile_self, ← Belfry.with_syncq hq]
    rfl
  have hkept : StoresKept (s.tile t) (z.tile t) := by
    rw [hztile]
    exact ⟨rfl, rfl, rfl, rfl⟩
  have hdev : z.dev.free = s.dev.free := by rw [← hz]; rfl
  subst hs' hu
  rw [State.tile_injectAll]
  refine ⟨?_, ?_, State.storesKept_takeRows hdev hkept, fun v hv => ?_⟩
  · rw [State.takeRows_rows hdev hkept]
    exact State.injectAll_net_congr (State.takeRows_net.trans (by rw [← hz]; rfl))
  · have h := State.tile_takeRows (s := z) (t := t) (seq := (s.tile t).seq) (keys := (s.tile t).putKeys f) (errs := errs)
    rw [hztile] at h
    exact h
  · rw [State.tile_injectAll, State.tile_takeRows_other hv, ← hz, State.tile_syncDone_other hv, State.tile_setTile_other _ _ _ _ hv]
end

/-- A SIGNAL by its flit, at once or behind what waits. -/
theorem sigSignal_issue {s : State} {t : TileId} {e : Ecc} {rt : Reg} {obj : BitVec 8} {inc : W16} (hr : Ready s t e (.sigSignal t e rt obj inc)) :
    exec (.sigSignal t e rt obj inc) s = .next (((s.issueEcc t e).setTile t (((s.issueEcc t e).tile t).sigIssued
      (((s.issueEcc t e).tile t).stepCtr 1) ((s.issueEcc t e).tile t).seq ((s.issueEcc t e).tile t).acc
      (.send (signalFlit ((((s.issueEcc t e).tile t).reg rt).setWidth 15) obj inc.toNat)))).drain t) :=
  issue_ready (fun s => (s.modTile t fun x =>
    ((x.step 1).syncPush (.send (signalFlit ((x.reg rt).setWidth 15) obj inc.toNat))).nextWord).drain t) hr
/-- PUT and PUTH are one, by whether the last row carries the signal. -/
theorem exec_put {s : State} {t : TileId} {e : Ecc} {f : PutF} {er : List StoreErr} {i j : Instr} {last : Bool}
    (hi : (i, j, last) ∈ [(Instr.sigPut t e f er, Instr.sigPut t e f [], false), (.sigPuth t e f er, .sigPuth t e f [], true)]) :
    exec i s = issue s t e j (putIssue t f last er) := by
  simp only [List.mem_cons, Prod.mk.injEq, List.not_mem_nil, or_false] at hi
  obtain ⟨rfl, rfl, rfl⟩ | ⟨rfl, rfl, rfl⟩ := hi <;> rfl

/-- Settles O15: an instruction that is ready joins the sync port (`sigSignal_issue`, `putIssue_eq`); alone there it is performed
(`signal_performed`, `put_performed`), else it waits (`State.drain_sigIssued_waits`, `put_waits`). -/
theorem signalInstructions : Obligations.SignalInstructions := by
  unfold Obligations.SignalInstructions
  constructor
  · intro s t e rt obj inc hr hw
    refine ⟨_, sigSignal_issue hr, ?_⟩
    have hw' : SyncWaits (s.issueEcc t e) t := hw.issueEcc
    have hnet : (s.issueEcc t e).net = s.net := State.issueEcc_net ..
    have hothers {v : TileId} (hv : v ≠ t) : (s.issueEcc t e).tile v = s.tile v := State.tile_issueEcc_other hv
    generalize s.issueEcc t e = u at hw' hnet hothers
    dsimp only
    generalize signalFlit (((u.tile t).reg rt).setWidth 15) obj inc.toNat = fl
    by_cases hq : (u.tile t).bel.syncq = []
    · rw [signal_performed hq]
      simp only [State.tile_inject, State.tile_syncDone_self, State.tile_setTile_self]
      refine ⟨fun _ => ⟨State.inject_net_congr hnet, ?_⟩, fun hne => absurd hq hne, rfl, rfl, ⟨rfl, rfl, rfl, rfl⟩, fun v hv => ?_⟩
      · rw [Tile.sigIssued_bel]
        exact Belfry.with_syncq hq
      · rw [State.tile_syncDone_other hv, State.tile_setTile_other _ _ _ _ hv, hothers hv]
    · rw [State.drain_sigIssued_waits (l := []) hw' hq (List.append_nil _).symm, State.tile_setTile_self]
      refine ⟨fun h => absurd h hq, fun _ => ⟨hnet, rfl⟩, rfl, rfl, Tile.storesKept_sigIssued, fun v hv => ?_⟩
      rw [State.tile_setTile_other _ _ _ _ hv, hothers hv]
  · rintro s t e f er i j last hi hr hw lo n drow keys dst hlo hdrow hn hok hok' hkeys hdst x u rfl rfl
    have hw' : SyncWaits (s.issueEcc t e) t := hw.issueEcc
    have hnet : (s.issueEcc t e).net = s.net := State.issueEcc_net ..
    have hothers {v : TileId} (hv : v ≠ t) : (s.issueEcc t e).tile v = s.tile v := State.tile_issueEcc_other hv
    have hu := State.tile_issueEcc s t e
    have hflo : fld (((s.issueEcc t e).tile t).reg f.so) 11 0 = lo := by rw [State.reg_issueEcc, fld_eq, hlo, pow_zero, Nat.div_one]
    have hfn : fld (((s.issueEcc t e).tile t).reg f.so) 33 28 + 1 = n := by rw [State.reg_issueEcc, fld_eq, hn]
    have hfd : fld (((s.issueEcc t e).tile t).reg f.so) 27 16 = drow := by rw [State.reg_issueEcc, fld_eq, hdrow]
    have hfk : ((s.issueEcc t e).tile t).putKeys f = keys := by
      rw [Tile.putKeys, hflo, hfn, hkeys, Tile.srcKeys, State.hword_issueEcc, Tile.srcKeys]
    have hrows : ((s.issueEcc t e).tile t).rowsOk f.sh lo n = true := by
      rw [hu]
      exact (Bool.and_eq_true _ _).mpr ⟨hok, hok'⟩
    have hreg : ((s.issueEcc t e).tile t).reg f.rt = (s.tile t).reg f.rt := State.reg_issueEcc
    refine ⟨_, (exec_put hi).trans (issue_ready _ hr), ?_⟩
    rw [putIssue_eq (by rw [hflo, hfn, hrows])]
    generalize s.issueEcc t e = u at hw' hnet hothers hfd hfk hreg
    rw [hdst, ← hreg, ← hfd, ← hfk]
    by_cases h : (u.tile t).bel.syncq = [] ∧ (u.tile t).rowsFree (u.tile t).seq ((u.tile t).putKeys f) [] = true
    · obtain ⟨hq, hfree⟩ := h
      obtain ⟨hpnet, hptile, hpstores, hpothers⟩ := put_performed (hx := last) (errs := er) hq hfree rfl rfl
      refine ⟨fun _ _ => ⟨hpnet.trans (State.injectAll_net_congr hnet), by rw [hptile], hpstores⟩, fun hor => ?_, by rw [hptile]; rfl,
        by rw [hptile]; rfl, fun v hv => (hpothers v hv).trans (hothers hv)⟩
      exact absurd hor (by rw [hq, hfree]; simp)
    · have hor : (u.tile t).bel.syncq ≠ [] ∨ (u.tile t).rowsFree (u.tile t).seq ((u.tile t).putKeys f) [] = false := by
        rwa [not_and_or, Bool.not_eq_true] at h
      rw [put_waits hw' hor, State.tile_setTile_self]
      refine ⟨fun hq hfree => absurd ⟨hq, hfree⟩ h, fun _ => ⟨hnet, rfl, Tile.storesKept_sigIssued⟩, rfl, rfl, fun v hv => ?_⟩
      rw [State.tile_setTile_other _ _ _ _ hv, hothers hv]
end Sys2Proof.Machine
end

/-! # MSG instructions and reservations (O18, O19)

A MSG instruction asks for space with one flit and is held until the answer; the receiver answers at once (R189). -/
section
set_option Elab.async false
namespace Sys2Proof.Machine

/-! ## MSG at issue (O18) -/

section
variable {s : State} {t u : TileId} {x : Tile} {kd : MsgKind} {rt so : Reg} {q : BitVec 2} {hx : BitVec 4} {n : Nat} {h : Hdl}
  {er : List StoreErr} {r : Resv}

/-- The reservation of a MSG instruction, with the register values and the places of its rows at issue (R189). -/
def Tile.msgResv (x : Tile) (kd : MsgKind) (rt : Reg) (q : BitVec 2) (hx : BitVec 4) (n : Nat) (h : Hdl) (so : Reg) (er : List StoreErr) : Resv :=
  ⟨kd, (x.reg rt).setWidth 15, q, hx, n, if fld (x.reg rt) 31 16 = 0 then 1 else fld (x.reg rt) 31 16, x.seq,
    x.srcKeys h (fld (x.reg so) 11 0) n, er, none⟩
/-- The tile that holds a MSG instruction: its rows have their place in program order (R55). -/
def Tile.msgHeld (x : Tile) (r : Resv) : Tile :=
  let y := (x.held .queue 1).addAccess r.keys []
  { y with bel := { y.bel with resv := some r } }

theorem msgIssue_eq (ho : (s.tile t).rowsOk h (fld ((s.tile t).reg so) 11 0) n = true) :
    msgIssue t kd rt q hx n h so er s =
      (s.inject t (requestFlit (s.gta t) ((s.tile t).msgResv kd rt q hx n h so er))).modTile t fun x =>
        x.msgHeld ((s.tile t).msgResv kd rt q hx n h so er) := by
  dsimp only [msgIssue]
  rw [ho]
  rfl
theorem Tile.msgHeld_ctr : (x.msgHeld r).ctr = TCtr.charge (x.stepCtr 1) .queue 1 := rfl
theorem Tile.msgHeld_core : (x.msgHeld r).core = x.core := rfl
theorem Tile.msgHeld_bel : (x.msgHeld r).bel = { x.bel with resv := some r } := rfl
theorem Tile.msgHeld_acc : (x.msgHeld r).acc = x.acc ++ [⟨x.seq, r.keys, []⟩] := rfl
theorem Tile.storesKept_msgHeld : StoresKept x (x.msgHeld r) := ⟨rfl, rfl, rfl, rfl⟩
theorem Tile.msgResv_n : (x.msgResv kd rt q hx n h so er).n = max 1 ((x.reg rt).toNat / 2 ^ 16 % 2 ^ 16) := by
  change (if fld (x.reg rt) 31 16 = 0 then 1 else fld (x.reg rt) 31 16) = _
  rw [fld_eq]
  split <;> omega
end

/-- SEND, ASEND and CADD are one, by the kind of their reservation. -/
theorem exec_msg {s : State} {t : TileId} {e : Ecc} {rt : Reg} {q : BitVec 2} {hx : BitVec 4} {len : BitVec 2} {h : Hdl} {so : Reg}
    {sl op : BitVec 2} {er : List StoreErr} {i j : Instr} {kd : MsgKind} {hx' : BitVec 4} {q' : BitVec 2} {n : Nat}
    (hi : (i, j, kd, hx', q', n) ∈
      [ (Instr.send t e ⟨rt, q, hx, len, h, so⟩ er, Instr.send t e ⟨rt, q, hx, len, h, so⟩ [], MsgKind.send, 0, q, len.toNat + 1)
      , (.asend t e ⟨rt, q, hx, len, h, so⟩ er, .asend t e ⟨rt, q, hx, len, h, so⟩ [], .asend, hx, q, len.toNat + 1)
      , (.cadd t e ⟨rt, sl, op, h, so⟩ er, .cadd t e ⟨rt, sl, op, h, so⟩ [], .cadd, sl ++ op, 3, 1) ]) :
    exec i s = issue s t e j (msgIssue t kd rt q' hx' n h so er) := by
  simp only [List.mem_cons, Prod.mk.injEq, List.not_mem_nil, or_false] at hi
  obtain ⟨rfl, rfl, rfl, rfl, rfl, rfl⟩ | ⟨rfl, rfl, rfl, rfl, rfl, rfl⟩ | ⟨rfl, rfl, rfl, rfl, rfl, rfl⟩ := hi <;> rfl

/-- Settles O18: a MSG instruction that is ready issues as `msgIssue_eq` says, with the reservation `Tile.msgResv`. -/
theorem messageInstructionsReserve : Obligations.MessageInstructionsReserve := by
  unfold Obligations.MessageInstructionsReserve
  rintro s t e rt q hx len h so sl op er i j kd hx' q' n hi hr _ _ rfl rfl hok hok'
  have hu := State.tile_issueEcc s t e
  have hlo : fld (((s.issueEcc t e).tile t).reg so) 11 0 = ((s.tile t).reg so).toNat % 2 ^ 12 := by
    rw [State.reg_issueEcc, fld_eq, pow_zero, Nat.div_one]
  have hrows : ((s.issueEcc t e).tile t).rowsOk h (fld (((s.issueEcc t e).tile t).reg so) 11 0) n = true := by
    rw [hlo, hu]
    exact (Bool.and_eq_true _ _).mpr ⟨hok, hok'⟩
  refine ⟨_, (exec_msg hi).trans (issue_ready _ hr), ((s.issueEcc t e).tile t).msgResv kd rt q' hx' n h so er, rfl, rfl, rfl, rfl, rfl, rfl,
    Tile.msgResv_n, congrArg (Tile.srcKeys _ h · n) hlo, rfl, rfl, ?_⟩
  rw [msgIssue_eq hrows, State.gta_issueEcc, State.tile_modTile_self, State.tile_inject]
  refine ⟨State.inject_net_congr (State.issueEcc_net ..), Tile.msgHeld_bel, Tile.msgHeld_core, Tile.storesKept_msgHeld, Tile.msgHeld_acc,
    Tile.msgHeld_ctr, fun v hv => ?_⟩
  rw [State.tile_modTile_other _ _ _ _ hv, State.tile_inject, State.tile_issueEcc_other hv]

/-! ## What a receiver answers (O19) -/

section
variable {s : State} {t : TileId} {x : Tile} {src : Gta} {q q' : BitVec 2} {act : Bool} {hx : BitVec 4} {len n : Nat} {f : Flit}
  {rest : List Flit} {m : MsgQ} {c : CSlot} {k : BitVec 2}

theorem Tile.queue_setQueue : (x.setQueue q m).queue q' = if q' = q then m else x.queue q' := by
  simp only [Tile.queue, Tile.setQueue, aGet_aSet, BitVec.toNat_inj]
theorem Tile.cslot_setCslot_self : (x.setCslot k c).cslot k = c := aGet_aSet_self ..
theorem State.answerMsg_room (hs : ((s.tile t).queue q).spilling = false) (hr : ((s.tile t).queue q).used + len ≤ 16) :
    s.answerMsg t src q act hx len = (s.setTile t ((s.tile t).setQueue q { (s.tile t).queue q with
      busyFrom := none, msgs := ((s.tile t).queue q).msgs ++ [⟨src, act, hx, len, false, false, [], 0⟩] }), 0, 0, 0) := by
  dsimp only [State.answerMsg]
  rw [hs]
  exact if_pos hr
theorem State.answerMsg_full (hs : ((s.tile t).queue q).spilling = false) (hr : 16 < ((s.tile t).queue q).used + len) :
    s.answerMsg t src q act hx len = (s.setTile t ((s.tile t).setQueue q { (s.tile t).queue q with
      busyFrom := some (((s.tile t).queue q).busyFrom.getD (s.tile t).ctr.tally), refused := ((s.tile t).queue q).refused + 1 }), 2, 0, 0) := by
  dsimp only [State.answerMsg]
  rw [hs]
  exact if_neg (Nat.not_le.mpr hr)
theorem State.answerCadd_arms (hr : ((s.tile t).cslot (hx.extractLsb' 2 2)).result = none)
    (ha : ((s.tile t).cslot (hx.extractLsb' 2 2)).armed = false) :
    s.answerCadd t hx n = (s.setTile t ((s.tile t).setCslot (hx.extractLsb' 2 2) { (s.tile t).cslot (hx.extractLsb' 2 2) with
      armed := true, n := n, opk := hx.toNat % 4, cnt := 0, acc := [], poison := [] }), 0) := by
  dsimp only [State.answerCadd]
  rw [hr, ha]
  rfl
theorem fld_low (w : W64) (hi : Nat) : fld w hi 0 = w.toNat % 2 ^ (hi + 1) := by
  rw [fld_eq, pow_zero, Nat.div_one, Nat.sub_zero]
theorem reservationArrival_msg {w : W64} (he : s.eject t 1 = f :: rest) (hs : subOf f = 3) (ht : tagOf f / 2 ^ 13 = 0)
    (hw : w = (f.pay.getD 0 pw0).d) (hk : w.toNat % 4 ≠ 2) :
    execReservationArrival t s =
      let p := (s.setEject t 1 rest).answerMsg t (srcOf f) (w.extractLsb' 2 2) (decide (w.toNat % 4 = 1)) (w.extractLsb' 4 4)
        (w.toNat / 2 ^ 8 % 4 + 1)
      .next (p.1.inject t (answerFlit (srcOf f) (s.gta t) p.2.1 p.2.2.1 p.2.2.2)) := by
  have hkind : fld w 1 0 = w.toNat % 4 := fld_low w 1
  have hlen : fld w 9 8 = w.toNat / 2 ^ 8 % 4 := fld_eq ..
  subst hw
  unfold execReservationArrival
  rw [he]
  dsimp only
  rw [hs, ht]
  simp only [hkind, hlen]
  exact if_neg hk
theorem reservationArrival_cadd {w : W64} (he : s.eject t 1 = f :: rest) (hs : subOf f = 3) (ht : tagOf f / 2 ^ 13 = 0)
    (hw : w = (f.pay.getD 0 pw0).d) (hk : w.toNat % 4 = 2) :
    execReservationArrival t s =
      let p := (s.setEject t 1 rest).answerCadd t (w.extractLsb' 4 4) (w.toNat / 2 ^ 10 % 2 ^ 16)
      .next (p.1.inject t (answerFlit (srcOf f) (s.gta t) p.2 0 0)) := by
  have hkind : fld w 1 0 = w.toNat % 4 := fld_low w 1
  have hn : fld w 25 10 = w.toNat / 2 ^ 10 % 2 ^ 16 := fld_eq ..
  subst hw
  unfold execReservationArrival
  rw [he]
  dsimp only
  rw [hs, ht]
  simp only [hkind, hn]
  exact if_pos hk
end

/-! ## What a sender does with the answer (O19) -/

section
variable {s s' u : State} {t : TileId} {f : Flit} {rest : List Flit} {r : Resv} {ring : Option (Nat × Nat)} {a sq : Nat}

/-- The tile after a GRANT or RING: the core goes on, and the message waits in the sync port. -/
def Tile.msgGranted (x : Tile) (r : Resv) (ring : Option (Nat × Nat)) : Tile :=
  let y : Tile := { x with bel := { x.bel with resv := none } }
  y.sigIssued (y.stepCtr 1) x.seq x.acc (.msg r ring)

theorem reservationAnswer_busy (he : s.eject t 1 = f :: rest) (hs : subOf f = 3) (ht : tagOf f / 2 ^ 13 = 1) (hr : (s.tile t).bel.resv = some r)
    (ha : (f.pay.getD 0 pw0).d = 2) : execReservationAnswer t s = .next ((s.setEject t 1 rest).setTile t
      { s.tile t with bel := { (s.tile t).bel with resv := some { r with retryAt := some ((s.tile t).ctr.tally + 64) } } }) := by
  unfold execReservationAnswer
  rw [he]
  dsimp only
  rw [hs, ht, if_pos (by decide), show ((s.setEject t 1 rest).tile t).bel.resv = some r from hr]
  exact if_pos ha
theorem reservationAnswer_granted (he : s.eject t 1 = f :: rest) (hs : subOf f = 3) (ht : tagOf f / 2 ^ 13 = 1)
    (hr : (s.tile t).bel.resv = some r) (ha : (f.pay.getD 0 pw0).d ≠ 2) :
    execReservationAnswer t s = .next (((s.setEject t 1 rest).setTile t ((s.tile t).msgGranted r
      (if (f.pay.getD 0 pw0).d = 0 then none else some ((f.pay.getD 1 pw0).d.toNat, (f.pay.getD 2 pw0).d.toNat)))).drain t) := by
  unfold execReservationAnswer
  rw [he]
  dsimp only
  rw [hs, ht, if_pos (by decide), show ((s.setEject t 1 rest).tile t).bel.resv = some r from hr]
  exact if_neg ha

theorem Tile.queuedBehind_msgGranted {x : Tile} : QueuedBehind x (x.msgGranted r ring) [.msg r ring] := by
  obtain ⟨hsync, hq, hring, htags, hnext, hrows⟩ := Tile.queuedBehind_sigIssued (x := { x with bel := { x.bel with resv := none } })
    (c := ({ x with bel := { x.bel with resv := none } } : Tile).stepCtr 1) (seq := x.seq) (acc := x.acc) (o := .msg r ring) (l := [])
    (List.append_nil _).symm
  exact ⟨hsync, hq, hring, htags, hnext, hrows⟩
theorem Tile.rowsFree_msgGranted {x : Tile} {seq : Nat} {rd : List Nat} : (x.msgGranted r ring).rowsFree seq rd [] = x.rowsFree seq rd [] := rfl
theorem Tile.msgGranted_bel {x : Tile} : (x.msgGranted r ring).bel = { x.bel with resv := none, syncq := x.bel.syncq ++ [.msg r ring] } := rfl
theorem Tile.msgGranted_core {x : Tile} : (x.msgGranted r ring).core = { x.core with pc := x.core.pc + 1, fixed := false } := rfl
theorem Tile.storesKept_msgGranted {x : Tile} : StoresKept x (x.msgGranted r ring) := ⟨rfl, rfl, rfl, rfl⟩
theorem Tile.msgGranted_str {x : Tile} : (x.msgGranted r ring).str = { x.str with
    la := (x.msgGranted r ring).str.la, path := (x.msgGranted r ring).str.path, ents := (x.msgGranted r ring).str.ents } :=
  Tile.jump_str

theorem Tile.nextTag_msgGranted {x : Tile} : (x.msgGranted r ring).str.nextTag = x.str.nextTag := by
  rw [Tile.msgGranted_str]
theorem Tile.syncHeld_msgGranted {x : Tile} {g : Gta} : (x.msgGranted r ring).syncHeld g (.msg r ring) = x.syncHeld g (.msg r ring) := by
  have htags : (x.msgGranted r ring).str.tags = x.str.tags := by rw [Tile.msgGranted_str]
  cases ring with
  | none => rfl
  | some p => simp only [Tile.syncHeld, Tile.rowsFree_msgGranted, htags, Tile.nextTag_msgGranted]
theorem Tile.syncHeld_msg_of_free {x : Tile} {g : Gta} (hr : x.rowsFree r.seq r.keys [] = true) (ht : ∀ k, aGet none x.str.tags k = none) :
    x.syncHeld g (.msg r ring) = false := by
  cases ring with
  | none => rw [Tile.syncHeld, hr]; rfl
  | some p => simp [Tile.syncHeld, hr, ht]
theorem Tile.rowsFree_of_syncHeld_msg {x : Tile} {g : Gta} (h : x.syncHeld g (.msg r ring) = false) : x.rowsFree r.seq r.keys [] = true := by
  cases ring with
  | none => exact Bool.not_inj (y := true) h
  | some p => exact ((Bool.and_eq_true _ _).mp (Bool.not_inj (y := true) h)).1

/-- A message that waits, behind what is in the sync port or for what it needs. -/
theorem msgGranted_waits (hw : SyncWaits s t) (h : (s.tile t).bel.syncq ≠ [] ∨ (s.tile t).syncHeld (s.gta t) (.msg r ring) = true)
    (hg : u.dev = s.dev) : (u.setTile t ((s.tile t).msgGranted r ring)).drain t = u.setTile t ((s.tile t).msgGranted r ring) := by
  have hgta : (u.setTile t ((s.tile t).msgGranted r ring)).gta t = s.gta t := State.gta_congr (congrArg Dev.addr hg)
  by_cases hq : (s.tile t).bel.syncq = []
  · refine State.drain_held (o := .msg r ring) ?_ ?_
    · rw [State.tile_setTile_self, Tile.msgGranted_bel, hq]
      rfl
    · rw [State.tile_setTile_self, hgta, Tile.syncHeld_msgGranted]
      exact h.resolve_left (not_not.mpr hq)
  · refine State.drain_behind hw hq (l := [.msg r ring]) ?_ hgta
    rw [State.tile_setTile_self]
    exact Tile.queuedBehind_msgGranted
end

section
variable {s u z : State} {t : TileId} {r : Resv} {a sq : Nat} {ring : Option (Nat × Nat)} {ops : List SyncOp}

/-- The state in which the sync port performs a granted message of tile `t`, what then stands in the port being `ops`. -/
def State.msgDone (u : State) (t : TileId) (x : Tile) (r : Resv) (ring : Option (Nat × Nat)) (ops : List SyncOp) : State :=
  (u.setTile t (x.msgGranted r ring)).syncDone t ops

theorem State.tile_msgDone : (u.msgDone t (u.tile t) r ring ops).tile t =
    { (u.tile t).msgGranted r ring with bel := { (u.tile t).bel with resv := none, syncq := ops } } := by
  rw [State.msgDone, State.tile_syncDone_self, State.tile_setTile_self]
  rfl
theorem State.msgDone_dev {x : Tile} : (u.msgDone t x r ring ops).dev = u.dev := rfl
theorem State.msgDone_net {x : Tile} : (u.msgDone t x r ring ops).net = u.net := rfl
theorem State.storesKept_msgDone : StoresKept (u.tile t) ((u.msgDone t (u.tile t) r ring ops).tile t) := by
  rw [State.tile_msgDone]
  exact ⟨rfl, rfl, rfl, rfl⟩
theorem msgGranted_sends (hq : (u.tile t).bel.syncq = []) (hr : (u.tile t).rowsFree r.seq r.keys [] = true) :
    (u.setTile t ((u.tile t).msgGranted r none)).drain t =
      ((u.msgDone t (u.tile t) r none []).takeRows t r.seq r.keys r.errs).1.injectAll t
        (messageFlits (u.gta t) r (((u.storeErrs t r.keys r.errs).tile t).rowsAt r.keys)) := by
  have hone : ((u.setTile t ((u.tile t).msgGranted r none)).tile t).bel.syncq = [.msg r none] := by
    rw [State.tile_setTile_self, Tile.msgGranted_bel, hq]
    rfl
  have hfree : ((u.setTile t ((u.tile t).msgGranted r none)).tile t).rowsFree r.seq r.keys [] = true := by
    rw [State.tile_setTile_self, Tile.rowsFree_msgGranted, hr]
  rw [State.drain_single hone (State.syncStep_msg hone hfree)]
  change State.injectAll _ t (messageFlits (u.gta t) r ((u.msgDone t (u.tile t) r none []).takeRows t r.seq r.keys r.errs).2) = _
  rw [State.takeRows_rows (congrArg Dev.free State.msgDone_dev) State.storesKept_msgDone]
  rfl
theorem msgGranted_records (hq : (u.tile t).bel.syncq = []) (hf : (u.tile t).syncHeld (u.gta t) (.msg r (some (a, sq))) = false) :
    (u.setTile t ((u.tile t).msgGranted r (some (a, sq)))).drain t =
      (((u.msgDone t (u.tile t) r (some (a, sq)) [.acks (u.tile t).str.nextId]).takeRows t r.seq r.keys r.errs).1.modTile t fun x =>
        { x with str := { x.str with nextId := (u.tile t).str.nextId + 1 } }).sendRecord t (gtaMod r.dst) (u.tile t).str.nextId
          (recordLines (u.gta t) r a sq (((u.storeErrs t r.keys r.errs).tile t).rowsAt r.keys)) := by
  have hone : ((u.setTile t ((u.tile t).msgGranted r (some (a, sq)))).tile t).bel.syncq = [.msg r (some (a, sq))] := by
    rw [State.tile_setTile_self, Tile.msgGranted_bel, hq]
    rfl
  have hgo : ((u.setTile t ((u.tile t).msgGranted r (some (a, sq)))).tile t).syncHeld (u.gta t) (.msg r (some (a, sq))) = false := by
    rw [State.tile_setTile_self, Tile.syncHeld_msgGranted, hf]
  have hid : ((u.setTile t ((u.tile t).msgGranted r (some (a, sq)))).tile t).str.nextId = (u.tile t).str.nextId := by
    rw [State.tile_setTile_self, Tile.msgGranted_str]
  rw [State.drain_single hone (State.syncStep_record hone hgo), hid]
  change State.sendRecord _ t _ _ (recordLines (u.gta t) r a sq
    ((u.msgDone t (u.tile t) r (some (a, sq)) [.acks (u.tile t).str.nextId]).takeRows t r.seq r.keys r.errs).2) = _
  rw [State.takeRows_rows (congrArg Dev.free State.msgDone_dev) State.storesKept_msgDone]
  rfl

/-- What the sender has done once its message, or its ring record, has gone: `ops` is what stands in its sync port then. -/
def MsgSent (t : TileId) (u s' : State) (r : Resv) (ops : List SyncOp) : Prop :=
  (s'.tile t).bel = { (u.tile t).bel with resv := none, syncq := ops } ∧
    (s'.tile t).core = { (u.tile t).core with pc := (u.tile t).core.pc + 1, fixed := false } ∧
    StoresKept ((u.storeErrs t r.keys r.errs).tile t) (s'.tile t)

theorem msgSent_takeRows : MsgSent t u ((u.msgDone t (u.tile t) r ring ops).takeRows t r.seq r.keys r.errs).1 r ops := by
  have h := State.tile_takeRows (s := u.msgDone t (u.tile t) r ring ops) (t := t) (seq := r.seq) (keys := r.keys) (errs := r.errs)
  rw [State.tile_msgDone] at h
  refine ⟨by rw [h], ?_, State.storesKept_takeRows (congrArg Dev.free State.msgDone_dev) State.storesKept_msgDone⟩
  rw [h]
  exact Tile.msgGranted_core
theorem MsgSent.str {x : Tile} {str : StreamU} (h : MsgSent t u z r ops) (hx : x = { z.tile t with str := str }) {s' : State}
    (hs : s'.tile t = x) : MsgSent t u s' r ops := by
  obtain ⟨hbel, hcore, hstores⟩ := h
  rw [MsgSent, hs, hx]
  exact ⟨hbel, hcore, hstores⟩
theorem msgSent_message {s' : State} (hq : (u.tile t).bel.syncq = []) (hr : (u.tile t).rowsFree r.seq r.keys [] = true)
    (hs : s' = (u.setTile t ((u.tile t).msgGranted r none)).drain t) : MsgSent t u s' r [] ∧
      s'.net = ((u.storeErrs t r.keys r.errs).injectAll t
        (messageFlits (u.gta t) r (((u.storeErrs t r.keys r.errs).tile t).rowsAt r.keys))).net := by
  rw [msgGranted_sends hq hr] at hs
  subst hs
  exact ⟨msgSent_takeRows.str rfl State.tile_injectAll,
    State.injectAll_net_congr (State.takeRows_net.trans (State.msgDone_net.trans State.found_storeErrs.net.symm))⟩
theorem msgSent_record {s' : State} (hq : (u.tile t).bel.syncq = [])
    (hf : (u.tile t).syncHeld (u.gta t) (.msg r (some (a, sq))) = false)
    (hs : s' = (u.setTile t ((u.tile t).msgGranted r (some (a, sq)))).drain t) :
    MsgSent t u s' r [.acks (u.tile t).str.nextId] ∧
      s'.net = ((u.storeErrs t r.keys r.errs).sendRecord t (gtaMod r.dst) (u.tile t).str.nextId
        (recordLines (u.gta t) r a sq (((u.storeErrs t r.keys r.errs).tile t).rowsAt r.keys))).net := by
  have hfound := State.found_storeErrs (s := u) (t := t) (rd := r.keys) (errs := r.errs)
  have htake := State.tile_takeRows (s := u.msgDone t (u.tile t) r (some (a, sq)) [.acks (u.tile t).str.nextId]) (t := t) (seq := r.seq)
    (keys := r.keys) (errs := r.errs)
  rw [State.tile_msgDone] at htake
  rw [msgGranted_records hq hf] at hs
  subst hs
  constructor
  · obtain ⟨tags, n, h⟩ := State.tile_sendRecord_self
    exact msgSent_takeRows.str (by rw [State.tile_modTile_self]) h
  · refine State.sendRecord_net_congr ?_ ?_ ?_
    · exact (State.takeRows_net (seq := r.seq)).trans (State.msgDone_net.trans hfound.net.symm)
    · exact (State.takeRows_addr (seq := r.seq)).trans ((congrArg Dev.addr State.msgDone_dev).trans hfound.addr.symm)
    · rw [State.tile_modTile_self, htake, hfound.self]
      exact Tile.nextTag_msgGranted
end

theorem busyRetry_asks {s : State} {t : TileId} {r : Resv} {n : Nat} (hr : (s.tile t).bel.resv = some r) (hn : r.retryAt = some n)
    (hle : n ≤ (s.tile t).ctr.tally) : execBusyRetry t s = .next ((s.inject t (requestFlit (s.gta t) r)).modTile t fun x =>
      { x with bel := { x.bel with resv := some { r with retryAt := none } } }) := by
  dsimp only [execBusyRetry]
  rw [hr]
  dsimp only
  rw [hn]
  exact if_pos hle

/-- Settles O19: a request is answered as `reservationArrival_msg` and `reservationArrival_cadd` say; of an answer, BUSY is
`reservationAnswer_busy`, and GRANT and RING (`reservationAnswer_granted`) send at once (`msgSent_message`, `msgSent_record`) or wait in the
sync port (`msgGranted_waits`). -/
theorem reservations : Obligations.Reservations := by
  unfold Obligations.Reservations
  refine ⟨fun s t f rest w he hs ht hw q hx len hq hhx hlen => ⟨fun hk hsp hroom => ?_, fun hk hsp hfull => ?_, fun hk hres harm => ?_⟩,
    fun s t f rest r he hs ht hr hw a ring u ha hring hu => ?_, fun s t r n hr hn hle => ?_⟩
  · subst hq hlen hhx
    refine ⟨_, reservationArrival_msg he hs ht hw hk, ?_⟩
    rw [State.answerMsg_room (s := s.setEject t 1 rest) hsp hroom]
    dsimp only
    rw [State.tile_inject, State.tile_setTile_self, Tile.queue_setQueue, if_pos rfl]
    refine ⟨rfl, rfl, fun q' hq' => ?_, rfl⟩
    rw [Tile.queue_setQueue, if_neg hq']
    rfl
  · subst hq hlen hhx
    refine ⟨_, reservationArrival_msg he hs ht hw hk, ?_⟩
    rw [State.answerMsg_full (s := s.setEject t 1 rest) hsp hfull]
    dsimp only
    rw [State.tile_inject, State.tile_setTile_self, Tile.queue_setQueue, if_pos rfl]
    exact ⟨rfl, rfl, rfl, rfl⟩
  · subst hq hlen hhx
    refine ⟨_, reservationArrival_cadd he hs ht hw hk, ?_⟩
    rw [State.answerCadd_arms (s := s.setEject t 1 rest) hres harm]
    dsimp only
    rw [State.tile_inject, State.tile_setTile_self, Tile.cslot_setCslot_self]
    exact ⟨rfl, rfl⟩
  · by_cases hbusy : a = 2
    · refine ⟨_, reservationAnswer_busy he hs ht hr (ha ▸ hbusy), fun _ => ?_, fun h => absurd hbusy h⟩
      rw [State.tile_setTile_self]
      exact ⟨rfl, rfl, rfl⟩
    · refine ⟨_, reservationAnswer_granted he hs ht hr (ha ▸ hbusy), fun h => absurd h hbusy, fun _ => ?_⟩
      rw [← ha, ← hring]
      subst hu
      by_cases h : (s.tile t).bel.syncq = [] ∧ (s.tile t).syncHeld (s.gta t) (.msg r ring) = false
      · obtain ⟨hq, hf⟩ := h
        have hfree : (s.tile t).rowsFree r.seq r.keys [] = true := Tile.rowsFree_of_syncHeld_msg hf
        have hnot : ¬((s.tile t).bel.syncq ≠ [] ∨ (s.tile t).rowsFree r.seq r.keys [] = false) := by simp [hq, hfree]
        rcases ring with _ | ⟨ad, sq⟩
        · obtain ⟨⟨hbel, hcore, hstores⟩, hnet⟩ := msgSent_message (u := s.setEject t 1 rest) hq hfree rfl
          exact ⟨congrArg Belfry.resv hbel, hcore, fun _ _ _ => ⟨hstores, fun _ => ⟨congrArg Belfry.syncq hbel, hnet⟩, nofun⟩,
            fun hor => absurd hor hnot⟩
        · obtain ⟨⟨hbel, hcore, hstores⟩, hnet⟩ := msgSent_record (u := s.setEject t 1 rest) hq hf rfl
          refine ⟨congrArg Belfry.resv hbel, hcore, fun _ _ _ => ⟨hstores, fun h0 => ?_, ?_⟩, fun hor => absurd hor hnot⟩
          · rw [if_pos h0] at hring
            exact nomatch hring
          · rintro _ _ ⟨rfl, rfl⟩
            exact ⟨congrArg Belfry.syncq hbel, hnet⟩
      · have hor : (s.tile t).bel.syncq ≠ [] ∨ (s.tile t).syncHeld (s.gta t) (.msg r ring) = true := by
          rwa [not_and_or, Bool.not_eq_false] at h
        rw [msgGranted_waits (u := s.setEject t 1 rest) hw hor rfl, State.tile_setTile_self]
        exact ⟨rfl, Tile.msgGranted_core, fun hq hfree htags => absurd ⟨hq, Tile.syncHeld_msg_of_free hfree htags⟩ h,
          fun _ => ⟨rfl, rfl, Tile.storesKept_msgGranted⟩⟩
  · refine ⟨_, busyRetry_asks hr hn hle, ?_⟩
    dsimp only
    rw [State.tile_modTile_self, State.tile_inject]
    exact ⟨rfl, rfl, rfl⟩
end Sys2Proof.Machine
end

/-! # Stream transfers (O24)

The look-ahead pointer passes what nothing stops and forms requests; lines land, rows are taken, acceptances end a transfer (R46 to R49, R225). -/
section
set_option Elab.async false
namespace Sys2Proof.Machine

/-! ## The tile of a decoded instruction

The decoder names the tile and the finding it was given. -/

/-- Does `P` hold of every instruction that a decoder answers? -/
def Spells (P : Instr → Prop) (o : Option Instr) : Prop := ∀ i, o = some i → P i
/-- END and the stream instructions that the decoder answers are of tile `t` with finding `e`. -/
def OfTile (t : TileId) (e : Ecc) : Instr → Prop
  | .endC t' e' | .strGet t' e' _ | .strPut t' e' _ => t' = t ∧ e' = e
  | _ => True

section
variable {t : TileId} {e : Ecc} {w : W64} {i : Instr} {P : Instr → Prop}

theorem Spells.none : Spells P none := nofun
theorem Spells.some (h : P i) : Spells P (some i) := by
  rintro _ ⟨⟩
  exact h
theorem Spells.ite {c : Prop} [Decidable c] {o : Option Instr} (h : Spells P o) : Spells P (if c then o else Option.none) := by
  split
  · exact h
  · exact .none
theorem Spells.whenZero {z : Nat} (h : P i) : Spells P (whenZero z i) := Spells.ite (.some h)
theorem ofTile_decodeCtl : Spells (OfTile t e) (decodeCtl t e w) := by
  unfold decodeCtl
  split
  case h_2 => exact .whenZero ⟨rfl, rfl⟩
  case h_8 => exact .none
  all_goals exact .whenZero trivial
theorem ofTile_decodeStr : Spells (OfTile t e) (decodeStr t e w) := by
  unfold decodeStr
  refine .ite (.some ?_)
  split <;> exact ⟨rfl, rfl⟩
theorem ofTile_decodeSca : Spells (OfTile t e) (decodeSca t e w) := by
  unfold decodeSca
  split
  case h_17 => exact .none
  all_goals exact .whenZero trivial
theorem ofTile_decodeSci : Spells (OfTile t e) (decodeSci t e w) := by
  unfold decodeSci
  split
  case h_13 => exact .none
  case h_5 | h_6 | h_7 | h_10 | h_11 | h_12 => exact .whenZero trivial
  all_goals exact .some trivial
theorem ofTile_decodeBra : Spells (OfTile t e) (decodeBra t e w) := by
  unfold decodeBra
  split
  case h_9 => exact .none
  all_goals exact .whenZero trivial
theorem ofTile_decodeMma {sparse : Bool} : Spells (OfTile t e) (decodeMma t e w sparse) := by
  unfold decodeMma
  split
  case h_5 => exact .none
  all_goals exact .ite (.some trivial)
theorem ofTile_decodeRdx : Spells (OfTile t e) (decodeRdx t e w) := by
  unfold decodeRdx
  refine .ite ?_
  split
  case h_5 => exact .none
  all_goals exact .some trivial
theorem ofTile_decodeSig : Spells (OfTile t e) (decodeSig t e w) := by
  unfold decodeSig
  refine .ite ?_
  split
  · exact .whenZero trivial
  · exact .some trivial
  · exact .ite (.some trivial)
  · exact .none
theorem ofTile_decodeWait : Spells (OfTile t e) (decodeWait t e w) := by
  unfold decodeWait
  refine .ite ?_
  split
  case h_4 => exact .none
  all_goals exact .some trivial
theorem ofTile_decodeMsg : Spells (OfTile t e) (decodeMsg t e w) := by
  unfold decodeMsg
  refine .ite ?_
  split
  · exact .whenZero trivial
  · exact .some trivial
  · exact .ite (.some trivial)
  · exact .ite (.some trivial)
  · exact .whenZero trivial
  · exact .whenZero trivial
  · exact .none
theorem ofTile_decodeRng : Spells (OfTile t e) (decodeRng t e w) := by
  unfold decodeRng
  refine .ite ?_
  split
  · exact .some trivial
  · exact .some trivial
  · exact .some trivial
  · exact .whenZero trivial
  · exact .whenZero trivial
  · exact .none
theorem ofTile_decodeWord : Spells (OfTile t e) (decodeWord t e w) := by
  unfold decodeWord
  split
  · exact ofTile_decodeSca
  · exact ofTile_decodeSci
  · exact ofTile_decodeBra
  · exact ofTile_decodeCtl
  · exact ofTile_decodeMma
  · exact ofTile_decodeMma
  · exact .ite (.some trivial)
  · exact .ite (.some trivial)
  · exact ofTile_decodeRdx
  · exact ofTile_decodeStr
  · exact ofTile_decodeSig
  · exact ofTile_decodeWait
  · exact ofTile_decodeMsg
  · exact ofTile_decodeRng
  · exact .none
end

/-! ## Poison written back (R58) -/

section
variable {s : State} {t : TileId} {x : Tile} {st : StoreSel} {key : Nat} {us : List (StoreSel × Nat)}

theorem selNum_lt : selNum st < 3 := by cases st <;> decide
theorem storeOf_selNum : storeOf (selNum st) = st := by cases st <;> rfl
theorem execStorePoisonWriteback_cons (h : (s.tile t).ue = (st, key) :: us) : execStorePoisonWriteback t s =
    .next (s.setTile t ((s.tile t).wrWord (selNum st) key ⟨((s.tile t).rdWord (selNum st) key).d, true⟩)) := by
  dsimp only [execStorePoisonWriteback]
  rw [h]
theorem not_mem_ue_wrWord {v : PWord} : (st, key) ∉ (x.wrWord (selNum st) key v).ue := by
  rw [Tile.wrWord_ue, storeOf_selNum]
  simp
theorem completes_storePoisonWriteback (h : (s.tile t).ue = (st, key) :: us) :
    Completes (.storePoisonWriteback t) s fun s' =>
      ((s'.tile t).rdWord (selNum st) key).p = true ∧ ((s'.tile t).rdWord (selNum st) key).d = ((s.tile t).rdWord (selNum st) key).d ∧
      (st, key) ∉ (s'.tile t).ue ∧ OnlyTile t s s' ∧ (s'.tile t).core = (s.tile t).core := by
  refine ⟨_, execStorePoisonWriteback_cons h, ?_⟩
  dsimp only
  rw [State.tile_setTile_self, Tile.rdWord_wrWord selNum_lt selNum_lt, if_pos ⟨rfl, rfl⟩]
  exact ⟨rfl, rfl, not_mem_ue_wrWord, ⟨_, rfl⟩, Tile.wrWord_core⟩
end

/-! ## The end of a transfer (R225) -/

section
variable {x : Tile} {e g : StrEnt} {tag : Nat}

/-- Only the entries and the row accesses of a tile change when lines of a transfer are done. -/
theorem Tile.strFinish_eq : x.strFinish e =
    { x with acc := (x.strFinish e).acc, str := { x.str with ents := (x.strFinish e).str.ents } } := by
  unfold Tile.strFinish
  dsimp only
  (repeat' split) <;> rfl
theorem Tile.strFinish_ents : (x.strFinish e).str.ents =
    if e.done.length = e.total then x.str.ents.filter fun g => decide (g.id ≠ e.id) else x.str.ents.map fun g => if g.id = e.id then e else g := by
  unfold Tile.strFinish
  dsimp only
  (repeat' split) <;> rfl
theorem eq_of_mem_map_replace {l : List StrEnt} (h : g ∈ l.map fun g => if g.id = e.id then e else g) (hid : g.id = e.id) : g = e := by
  obtain ⟨g', -, rfl⟩ := List.mem_map.mp h
  by_cases h : g'.id = e.id
  · exact if_pos h
  · rw [if_neg h] at hid
    exact absurd hid h
/-- An entry is as given, or it has left the unit. -/
theorem Tile.eq_of_mem_strFinish (h : g ∈ (x.strFinish e).str.ents) (hid : g.id = e.id) : g = e := by
  rw [Tile.strFinish_ents] at h
  split at h
  · exact absurd hid (of_decide_eq_true (List.mem_filter.mp h).2)
  · exact eq_of_mem_map_replace h hid
theorem Tile.strFinish_tags : (x.strFinish e).str.tags = x.str.tags := by rw [Tile.strFinish_eq]
theorem Tile.strFinish_core : (x.strFinish e).core = x.core := by rw [Tile.strFinish_eq]
theorem Tile.strFinish_landing {h : Hdl} : (x.strFinish e).landing h = x.landing h := by rw [Tile.strFinish_eq, Tile.landing, Tile.landing]
theorem Tile.storesKept_strFinish : StoresKept x (x.strFinish e) := by
  rw [Tile.strFinish_eq]
  exact ⟨rfl, rfl, rfl, rfl⟩
theorem Tile.strFinish_rdRow {st row : Nat} : (x.strFinish e).rdRow st row = x.rdRow st row := Tile.storesKept_strFinish.rdRow
theorem Tile.freeTag_tags : aGet none (x.freeTag tag).str.tags tag = none :=
  aGet_aSet_self none x.str.tags tag none
end

/-! ## Acceptances (R225) -/

section
variable {s : State} {t : TileId} {f : Flit} {r : LineRef} {en : StrEnt}

theorem State.eject_setEject {vc : Nat} {fls : List Flit} : (s.setEject t vc fls).eject t vc = fls := aGet_aSet_self ..
theorem execPutLineAccepted_eq
    (hf : (s.eject t 3).find? (fun f => decide ((hdrOf f.hdr).kind = 3) && decide (fld f.hdr 24 22 = 1)) = some f)
    (hr : aGet none (s.tile t).str.tags (fld f.hdr 40 25 % 64) = some r)
    (he : (s.tile t).str.ents.find? (fun e => decide (e.id = r.ent)) = some en) :
    execPutLineAccepted t s = .next ((s.setEject t 3 ((s.eject t 3).erase f)).setTile t
      (((s.tile t).freeTag (fld f.hdr 40 25 % 64)).strFinish { en with done := en.done ++ [r.line] })) := by
  dsimp only [execPutLineAccepted]
  rw [hf]
  dsimp only
  rw [State.tile_of_tiles _ _ (State.setEject_tiles ..), hr]
  dsimp only
  rw [show ((s.tile t).freeTag (fld f.hdr 40 25 % 64)).str.ents = (s.tile t).str.ents from rfl, he]
theorem completes_putLineAccepted
    (hf : (s.eject t 3).find? (fun f => decide ((hdrOf f.hdr).kind = 3) && decide (fld f.hdr 24 22 = 1)) = some f)
    (hr : aGet none (s.tile t).str.tags (fld f.hdr 40 25 % 64) = some r)
    (he : (s.tile t).str.ents.find? (fun e => decide (e.id = r.ent)) = some en) :
    Completes (.putLineAccepted t) s fun s' =>
      s'.eject t 3 = (s.eject t 3).erase f ∧ aGet none (s'.tile t).str.tags (fld f.hdr 40 25 % 64) = none ∧
      (∀ g ∈ (s'.tile t).str.ents, g.id = en.id → g.done = en.done ++ [r.line]) ∧ StoresKept (s.tile t) (s'.tile t) := by
  refine ⟨_, execPutLineAccepted_eq hf hr he, State.eject_setEject, ?_⟩
  rw [State.tile_setTile_self, Tile.strFinish_tags]
  refine ⟨Tile.freeTag_tags, fun g hg hid => ?_, StoresKept.trans ⟨rfl, rfl, rfl, rfl⟩ Tile.storesKept_strFinish⟩
  rw [Tile.eq_of_mem_strFinish hg hid]
end

/-! ## The look-ahead pointer (R46, R47, R463) -/

/-- The entry of the stream instruction under the pointer, and what it leaves in the unit: nothing where it will fault at issue (R222). -/
def Tile.laEnt (x : Tile) (put : Bool) (f : StrF) : StrEnt :=
  ⟨x.str.nextId, x.str.la, put, none, f.h, x.hword f.h, fld (x.reg f.sa) 47 0, x.reg f.sd, f.pol, f.p6, 0, [], [], false⟩
def Tile.laEnts (x : Tile) (put : Bool) (f : StrF) : List StrEnt :=
  if (strCheck x f.h (fld (x.reg f.sa) 47 0) (x.reg f.sd) f.p6).isSome then [] else [x.laEnt put f]
def Tile.laNew (x : Tile) : Instr → List StrEnt
  | .strGet _ _ f => x.laEnts false f
  | .strPut _ _ f => x.laEnts true f
  | _ => []
/-- The tile after the pointer has passed `i`. -/
def Tile.laPassed (x : Tile) (i : Instr) : Tile :=
  { x with str := { x.str with
    ents := x.str.ents ++ x.laNew i, nextId := x.str.nextId + (x.laNew i).length, path := x.str.path ++ [x.str.la], la := x.laNext x.str.la i } }

section
variable {s : State} {t : TileId} {i : Instr} {x : Tile} {f : StrF}

/-- The pointer of tile `t` passes instruction `i` (R46, R47). -/
structure Passes (s : State) (t : TileId) (i : Instr) : Prop where
  issuing : (s.tile t).core.phase = .issue
  inside : (s.tile t).str.la ≤ 6143
  word : decodeWord t .ok (aGet 0 (s.tile t).imem (s.tile t).str.la) = some i
  notEnd : ∀ e, i ≠ .endC t e
  target : badTarget (s.tile t).str.la i = false
  goes : (s.tile t).laStops t (aGet 0 (s.tile t).imem (s.tile t).str.la) i = false

theorem State.laPass_eq (h : Passes s t i) : s.laPass t = s.setTile t ((s.tile t).laPassed i) := by
  obtain ⟨hp, hla, hw, hend, hb, hs⟩ := h
  dsimp only [State.laPass]
  rw [if_neg (by simp [hp, hla]), hw]
  split
  · contradiction
  · next t' e heq =>
    cases heq
    obtain ⟨rfl, -⟩ : t' = t ∧ e = .ok := ofTile_decodeWord _ hw
    exact absurd rfl (hend e)
  · next heq =>
    cases heq
    rw [hs, hb]
    rfl
theorem State.formGet_nil (h : (s.tile t).str.ents = []) : s.formGet t = none := by
  dsimp only [State.formGet]
  rw [h]
  rfl
theorem execLookaheadPass_passes (h : Passes s t i) (he : (s.tile t).str.ents = []) : execLookaheadPass t s =
    .next (((s.setTile t ((s.tile t).laPassed i)).formGet t).getD (s.setTile t ((s.tile t).laPassed i))) := by
  dsimp only [execLookaheadPass]
  rw [if_neg (by rw [h.issuing]; decide), State.formGet_nil he, State.laPass_eq h]

theorem completes_lookaheadPass (h : Passes s t i) (he : (s.tile t).str.ents = []) (hn : (s.tile t).laNew i = []) :
    Completes (.lookaheadPass t) s fun s' =>
      (s'.tile t).str = { (s.tile t).str with path := (s.tile t).str.path ++ [(s.tile t).str.la], la := (s.tile t).laNext (s.tile t).str.la i } ∧
      OnlyTile t s s' := by
  have hents : ((s.setTile t ((s.tile t).laPassed i)).tile t).str.ents = [] := by
    rw [State.tile_setTile_self, Tile.laPassed, hn, he]
    rfl
  refine ⟨_, (execLookaheadPass_passes h he).trans (by rw [State.formGet_nil hents, Option.getD_none]), ?_, ⟨_, rfl⟩⟩
  rw [State.tile_setTile_self, Tile.laPassed, hn, List.append_nil, List.length_nil, Nat.add_zero]
theorem Tile.laNew_eq_nil (h : Passes s t i) (hi : ∀ e f, i ≠ .strGet t e f ∧ i ≠ .strPut t e f) : x.laNew i = [] := by
  have hof : OfTile t .ok i := ofTile_decodeWord _ h.word
  unfold Tile.laNew
  split
  · obtain ⟨rfl, -⟩ := hof
    exact absurd rfl (hi _ _).1
  · obtain ⟨rfl, -⟩ := hof
    exact absurd rfl (hi _ _).2
  · rfl
end

/-! ## Requests that a GET forms (R46, R224) -/

section
variable {s : State} {t : TileId} {e : StrEnt} {x : Tile} {f : StrF}

theorem le_formLines {k n tg : Nat} {tags : Assoc (Option LineRef)} {acc : List (Nat × Nat)} : n ≤ (formLines e k n tags tg acc).1 := by
  induction k generalizing n tags tg acc with
  | zero => exact Nat.le_refl n
  | succ k ih =>
    unfold formLines
    split
    · exact Nat.le_of_succ_le ih
    · exact Nat.le_refl n
/-- With a free tag, a line is formed. -/
theorem lt_formLines {k n tg : Nat} {tags : Assoc (Option LineRef)} {acc : List (Nat × Nat)} (hn : n < e.total) (htg : aGet none tags (tg % 64) = none) :
    n < (formLines e (k + 1) n tags tg acc).1 := by
  unfold formLines
  rw [if_pos (by simp [hn, htg])]
  exact le_formLines
theorem StrEnt.total_pos : 0 < e.total := Nat.mul_pos (Nat.succ_pos _) (Nat.succ_pos _)
/-- A GET that is alone in the unit forms requests: only the stream unit of its tile changes. -/
theorem State.formGet_single (he : (s.tile t).str.ents = [e]) (hput : e.put = false) (hn : e.formed = 0)
    (htg : aGet none (s.tile t).str.tags ((s.tile t).str.nextTag % 64) = none) :
    ∃ s' n tags tg, s.formGet t = some s' ∧ 0 < n ∧
      s'.tile t = { s.tile t with str := { (s.tile t).str with ents := [{ e with formed := n }], tags := tags, nextTag := tg } } := by
  have hlt : 0 < (formLines e 64 0 (s.tile t).str.tags (s.tile t).str.nextTag []).1 := lt_formLines (k := 63) StrEnt.total_pos htg
  dsimp only [State.formGet]
  rw [he, List.find?_cons_of_pos (by simp [hput, hn, StrEnt.total_pos])]
  dsimp only
  rw [if_neg (by simp [hput]), hn]
  generalize formLines e 64 0 (s.tile t).str.tags (s.tile t).str.nextTag [] = formed at hlt ⊢
  refine ⟨_, formed.1, formed.2.1, formed.2.2.1, rfl, hlt, ?_⟩
  rw [State.tile_injectAll, State.tile_setTile_self, List.map_singleton, if_pos rfl]

theorem completes_lookaheadPass_strGet {ecc : Ecc} (h : Passes s t (.strGet t ecc f)) (he : (s.tile t).str.ents = [])
    (hc : strCheck (s.tile t) f.h (((s.tile t).reg f.sa).toNat % 2 ^ 48) ((s.tile t).reg f.sd) f.p6 = none)
    (htg : aGet none (s.tile t).str.tags ((s.tile t).str.nextTag % 64) = none) :
    Completes (.lookaheadPass t) s fun s' =>
      (∃ en, (s'.tile t).str.ents = [en] ∧ en.pc = (s.tile t).str.la ∧ en.seq = none ∧ en.put = false ∧ en.h = f.h ∧
        en.sa = ((s.tile t).reg f.sa).toNat % 2 ^ 48 ∧ en.desc = (s.tile t).reg f.sd ∧ 0 < en.formed) ∧
      (s'.tile t).str.la = (s.tile t).str.la + 1 ∧ (s'.tile t).core = (s.tile t).core ∧ StoresKept (s.tile t) (s'.tile t) := by
  have hsa : fld ((s.tile t).reg f.sa) 47 0 = ((s.tile t).reg f.sa).toNat % 2 ^ 48 := fld_low _ _
  have hnew : (s.tile t).laNew (.strGet t ecc f) = [(s.tile t).laEnt false f] := if_neg (by rw [hsa, hc]; decide)
  have hself := State.tile_setTile_self s t ((s.tile t).laPassed (.strGet t ecc f))
  have hents : ((s.tile t).laPassed (.strGet t ecc f)).str.ents = [(s.tile t).laEnt false f] := by
    rw [Tile.laPassed, hnew, he, List.nil_append]
  obtain ⟨s', n, tags, tg, hform, hn, htile⟩ := State.formGet_single (s := s.setTile t ((s.tile t).laPassed (.strGet t ecc f)))
    (by rw [hself, hents]) rfl rfl (by rw [hself]; exact htg)
  refine ⟨s', (execLookaheadPass_passes h he).trans (by rw [hform, Option.getD_some]), ?_⟩
  dsimp only
  rw [htile, hself]
  exact ⟨⟨_, rfl, rfl, rfl, rfl, rfl, hsa, rfl, hn⟩, rfl, rfl, rfl, rfl, rfl, rfl⟩
end

/-! ## Rows that a PUT takes (R49, R55, R223) -/

/-- Does the next row complete a line of the transfer, or under P6 three? -/
def StrEnt.completes (e : StrEnt) : Bool := decide ((e.formed + 1) % (if e.p6 then 16 else 4) = 0)
/-- Padding bits are set for the first time in `row` of a P6 transfer (R73). -/
def StrEnt.padsIn (e : StrEnt) (row : List PWord) : Bool := e.p6 && !e.padded && pad6 row
/-- The transfer after `row` is taken. -/
def StrEnt.took (e : StrEnt) (row : List PWord) : StrEnt :=
  { e with formed := e.formed + 1, rows := if e.completes then [] else e.rows ++ [row], padded := e.padded || e.padsIn row }
/-- The tile after the row of key `key` is taken for transfer `e` of instruction `q`. -/
def Tile.took (x : Tile) (e : StrEnt) (q key : Nat) : Tile :=
  let row := x.rdRow (key / 4096) (key % 4096)
  let y := if e.padsIn row then x.count fun c => { c with fp6Pad := c.fp6Pad + 1 } else x
  let y := y.doneRows q [key] []
  { y with str := { y.str with ents := y.str.ents.map fun g => if g.id = e.id then e.took row else g } }
/-- The lines that the last row completes, with their words. -/
def StrEnt.linesOf (e : StrEnt) (row : List PWord) : List (Nat × List PWord) :=
  (List.range (if e.p6 then 3 else 1)).map fun k =>
    (e.formed / (if e.p6 then 16 else 4) * (if e.p6 then 3 else 1) + k,
      ((if e.p6 then pack6 (e.rows ++ [row]).flatten else (e.rows ++ [row]).flatten).drop (32 * k)).take 32)

section
variable {s : State} {t : TileId} {x : Tile} {errs : List StoreErr} {en e : StrEnt} {q key n : Nat} {ws : List PWord}

theorem Tile.took_eq : x.took e q key = { x with
    ctr := (x.took e q key).ctr, acc := (x.took e q key).acc
    str := { x.str with ents := x.str.ents.map fun g => if g.id = e.id then e.took (x.rdRow (key / 4096) (key % 4096)) else g } } := by
  unfold Tile.took
  dsimp only
  split <;> rfl
theorem Tile.took_core : (x.took e q key).core = x.core := by rw [Tile.took_eq]
theorem Tile.storesKept_took : StoresKept x (x.took e q key) := by
  rw [Tile.took_eq]
  exact ⟨rfl, rfl, rfl, rfl⟩
theorem Tile.took_str : (x.took e q key).str = { x.str with
    ents := x.str.ents.map fun g => if g.id = e.id then e.took (x.rdRow (key / 4096) (key % 4096)) else g } := by rw [Tile.took_eq]
theorem Tile.eq_of_mem_took {g : StrEnt} (h : g ∈ (x.took e q key).str.ents) (hid : g.id = e.id) :
    g = e.took (x.rdRow (key / 4096) (key % 4096)) := by
  rw [Tile.took_str] at h
  exact eq_of_mem_map_replace (e := e.took _) h hid

theorem execPutRowTake_eq
    (hfind : (s.tile t).str.ents.find? (fun e => e.put && e.seq.isSome && decide (e.formed < (allRows (hdOf e.he) e.desc e.p6).length)) = some en)
    (hq : en.seq = some q) (hkey : key = (allRows (hdOf en.he) en.desc en.p6).getD en.formed 0) (hrows : (s.tile t).rowsFree q [key] [] = true)
    (hfree : en.completes = true → ((List.range (if en.p6 then 3 else 1)).all fun k =>
      (aGet none (s.tile t).str.tags (((s.tile t).str.nextTag + k) % 64)).isNone) = true) :
    execPutRowTake t errs s =
      if en.completes then .next (((s.storeErrs t [key] errs).setTile t (((s.storeErrs t [key] errs).tile t).took en q key)).sendLines t
        (en.took (((s.storeErrs t [key] errs).tile t).rdRow (key / 4096) (key % 4096)))
        (en.linesOf (((s.storeErrs t [key] errs).tile t).rdRow (key / 4096) (key % 4096))))
      else .next ((s.storeErrs t [key] errs).setTile t (((s.storeErrs t [key] errs).tile t).took en q key)) := by
  have hgo : (!(s.tile t).rowsFree q [key] [] || (en.completes && !((List.range (if en.p6 then 3 else 1)).all fun k =>
      (aGet none (s.tile t).str.tags (((s.tile t).str.nextTag + k) % 64)).isNone))) = false := by
    rw [hrows]
    cases hc : en.completes with
    | false => rfl
    | true => rw [hfree hc]; rfl
  subst hkey
  dsimp only [execPutRowTake]
  rw [hfind]
  dsimp only
  rw [hq]
  dsimp only
  rw [← hq]
  exact if_neg (Bool.eq_false_iff.mp hgo)

theorem completes_putRowTake
    (hfind : (s.tile t).str.ents.find? (fun e => e.put && e.seq.isSome && decide (e.formed < (allRows (hdOf e.he) e.desc e.p6).length)) = some en)
    (hq : en.seq = some q) (hkey : key = (allRows (hdOf en.he) en.desc en.p6).getD en.formed 0) (hrows : (s.tile t).rowsFree q [key] [] = true)
    (hpart : (en.formed + 1) % (if en.p6 then 16 else 4) ≠ 0) :
    Completes (.putRowTake t errs) s fun s' =>
      let x := (s.storeErrs t [key] errs).tile t
      (∀ g ∈ (s'.tile t).str.ents, g.id = en.id → g.formed = en.formed + 1 ∧ g.rows = en.rows ++ [x.rdRow (key / 4096) (key % 4096)]) ∧
      StoresKept x (s'.tile t) ∧ s'.net = s.net := by
  have hc : en.completes = false := decide_eq_false hpart
  refine ⟨_, (execPutRowTake_eq hfind hq hkey hrows (by rw [hc]; nofun)).trans (if_neg (by rw [hc]; decide)), ?_⟩
  dsimp only
  rw [State.tile_setTile_self]
  refine ⟨fun g hg hid => ?_, Tile.storesKept_took, State.found_storeErrs.net⟩
  rw [Tile.eq_of_mem_took hg hid]
  exact ⟨rfl, if_neg (by rw [hc]; decide)⟩

/-- A line that is sent takes the next tag; nothing else of the tile changes (R224). -/
theorem State.tile_sendLines_single : (s.sendLines t e [(n, ws)]).tile t = { s.tile t with str := { (s.tile t).str with
    tags := aSet none (s.tile t).str.tags (s.tile t).str.nextTag (some ⟨e.id, n, lineAddr e.sa e.desc n, true⟩)
    nextTag := ((s.tile t).str.nextTag + 1) % 64 } } := by
  dsimp only [State.sendLines]
  rw [State.tile_injectAll, State.tile_setTile_self]
theorem StrEnt.linesOf_single {row : List PWord} (h : e.p6 = false) : e.linesOf row = [(e.formed / 4, ((e.rows ++ [row]).flatten).take 32)] := by
  unfold StrEnt.linesOf
  rw [h]
  simp

theorem completes_putRowTake_line
    (hfind : (s.tile t).str.ents.find? (fun e => e.put && e.seq.isSome && decide (e.formed < (allRows (hdOf e.he) e.desc e.p6).length)) = some en)
    (hq : en.seq = some q) (hp6 : en.p6 = false) (hkey : key = (allRows (hdOf en.he) en.desc en.p6).getD en.formed 0)
    (hrows : (s.tile t).rowsFree q [key] [] = true) (hlast : (en.formed + 1) % 4 = 0)
    (htag : aGet none (s.tile t).str.tags ((s.tile t).str.nextTag % 64) = none) :
    Completes (.putRowTake t errs) s fun s' =>
      (∀ g ∈ (s'.tile t).str.ents, g.id = en.id → g.formed = en.formed + 1 ∧ g.rows = []) ∧
      aGet none (s'.tile t).str.tags (s.tile t).str.nextTag = some ⟨en.id, en.formed / 4, lineAddr en.sa en.desc (en.formed / 4), true⟩ ∧
      (s'.tile t).core = (s.tile t).core := by
  have hc : en.completes = true := by
    rw [StrEnt.completes, hp6]
    exact decide_eq_true hlast
  have hself := (State.found_storeErrs (s := s) (t := t) (rd := [key]) (errs := errs)).self
  have hstr : ((s.storeErrs t [key] errs).tile t).str = (s.tile t).str := by rw [hself]
  have hcore : ((s.storeErrs t [key] errs).tile t).core = (s.tile t).core := by rw [hself]
  refine ⟨_, (execPutRowTake_eq hfind hq hkey hrows (by rw [hp6]; simp [htag])).trans (if_pos hc), ?_⟩
  rw [StrEnt.linesOf_single hp6]
  dsimp only
  rw [State.tile_sendLines_single, State.tile_setTile_self]
  refine ⟨fun g hg hid => ?_, ?_, (Tile.took_core (q := q)).trans hcore⟩
  · rw [Tile.eq_of_mem_took hg hid]
    exact ⟨rfl, if_pos hc⟩
  · rw [Tile.took_str, hstr]
    dsimp only
    rw [aGet_aSet_self]
    rfl
end

/-! ## Lines that land (R48, R55, R56) -/

/-- The first of the four rows of line `n`, as an offset from BASE (R221). -/
def lineRow (hd : Hd) (d : W64) (n : Nat) : Nat := dRow0 d + n / dLines d * hd.stride + 4 * (n % dLines d)
/-- Tile `y` is `x` but for its stores and their marks. -/
def StoresOnly (x y : Tile) : Prop := y = { x with w := y.w, a := y.a, p := y.p, ue := y.ue }
/-- Rows `row` to `row + n - 1` of a store take the words `ws`. -/
def Tile.fillRows (x : Tile) (st row : Nat) (ws : List PWord) (n : Nat) : Tile :=
  (List.range n).foldl (fun x k => x.wrRow st (row + k) ((ws.drop (8 * k)).take 8)) x

section
variable {x y z : Tile} {st row row' n k : Nat} {ws : List PWord} {v : PWord} {key : Nat}

theorem StoresOnly.refl : StoresOnly x x := rfl
theorem StoresOnly.trans (h : StoresOnly x y) (h' : StoresOnly y z) : StoresOnly x z := by
  unfold StoresOnly at h h' ⊢
  rw [h', h]
theorem StoresOnly.core (h : StoresOnly x y) : y.core = x.core := by
  unfold StoresOnly at h
  rw [h]
theorem StoresOnly.land (h : StoresOnly x y) : y.land = x.land := by
  unfold StoresOnly at h
  rw [h]
theorem Tile.storesOnly_wrWord : StoresOnly x (x.wrWord st key v) := by
  unfold Tile.wrWord Tile.setStore
  (repeat' split) <;> exact rfl
theorem Tile.storesOnly_wrRow : StoresOnly x (x.wrRow st row ws) :=
  List.foldlRecOn (motive := fun y : Tile => StoresOnly x y) _ _ .refl fun _ h _ _ => h.trans Tile.storesOnly_wrWord
theorem Tile.storesOnly_fillRows : StoresOnly x (x.fillRows st row ws n) :=
  List.foldlRecOn (motive := fun y : Tile => StoresOnly x y) _ _ .refl fun _ h _ _ => h.trans Tile.storesOnly_wrRow
theorem Tile.rdRow_wrRow_other (h : st < 3) (hl : ws.length = 8) (hne : row' ≠ row) : (x.wrRow st row ws).rdRow st row' = x.rdRow st row' := by
  refine List.map_congr_left fun k hk => ?_
  have hk8 : k < 8 := List.mem_range.mp hk
  rw [Tile.rdWord_wrRow h h hl, if_neg (by omega)]
theorem Tile.fillRows_succ : x.fillRows st row ws (n + 1) = (x.fillRows st row ws n).wrRow st (row + n) ((ws.drop (8 * n)).take 8) := by
  rw [Tile.fillRows, List.range_succ, List.foldl_append]
  rfl
theorem Tile.rdRow_fillRows (h : st < 3) (hl : 8 * n ≤ ws.length) (hk : k < n) :
    (x.fillRows st row ws n).rdRow st (row + k) = (ws.drop (8 * k)).take 8 := by
  induction n with
  | zero => exact absurd hk (Nat.not_lt_zero k)
  | succ n ih =>
    have h8 : ((ws.drop (8 * n)).take 8).length = 8 := by
      rw [List.length_take, List.length_drop]
      omega
    rw [Tile.fillRows_succ]
    by_cases hkn : k = n
    · rw [hkn, Tile.rdRow_wrRow h h8]
    · rw [Tile.rdRow_wrRow_other h h8 (by omega)]
      exact ih (by omega) (by omega)
theorem rowsOf_eq : rowsOf n ws = (List.range n).map fun k => (ws.drop (8 * k)).take 8 := by
  induction n generalizing ws with
  | zero => rfl
  | succ n ih =>
    rw [List.range_succ_eq_map, List.map_cons, List.map_map, rowsOf, ih]
    simp [Function.comp_def, Nat.mul_succ, Nat.add_comm]
end

section
variable {s : State} {t : TileId} {x : Tile} {hd : Hd} {d : W64} {en : StrEnt} {q n k tag : Nat} {ws : List PWord} {r : LineRef}
  {pre post : Assoc (Option LineRef)}

theorem lineRows_eq : lineRows hd d false n = (List.range 4).map fun k => lineRow hd d n + k := rfl
theorem Tile.foldl_wrRow_lineRows :
    ((lineRows hd d false n).zip (rowsOf (lineRows hd d false n).length ws)).foldl (fun x p => x.wrRow hd.store (hd.base + p.1) p.2) x =
      x.fillRows hd.store (hd.base + lineRow hd d n) ws 4 := by
  rw [lineRows_eq, List.length_map, List.length_range, rowsOf_eq, List.zip_map', List.foldl_map, Tile.fillRows]
  simp only [Nat.add_assoc]

/-- Tile `x` after line `n` of the GET `en` of instruction `q`, with words `ws` under `tag`, has landed. -/
def Tile.landed (x : Tile) (en : StrEnt) (q n tag : Nat) (ws : List PWord) : Tile :=
  let hd := hdOf en.he
  let y := (x.fillRows hd.store (hd.base + lineRow hd en.desc n) ws 4).freeTag tag
  let y := { y with land := aSet 0 y.land en.h.toNat (y.landing en.h - 1) }
  (y.doneRows q [] ((lineRows hd en.desc false n).map fun o => rowKey hd.store (hd.base + o))).strFinish { en with done := en.done ++ [n] }

theorem Tile.landed_tags : aGet none (x.landed en q n tag ws).str.tags tag = none := by
  unfold Tile.landed
  rw [Tile.strFinish_tags]
  exact Tile.freeTag_tags
theorem Tile.landed_core : (x.landed en q n tag ws).core = x.core := by
  unfold Tile.landed
  rw [Tile.strFinish_core]
  exact (Tile.storesOnly_fillRows (n := 4)).core
theorem Tile.landed_landing : (x.landed en q n tag ws).landing en.h = x.landing en.h - 1 := by
  have hl : (x.fillRows (hdOf en.he).store ((hdOf en.he).base + lineRow (hdOf en.he) en.desc n) ws 4).land = x.land :=
    Tile.storesOnly_fillRows.land
  unfold Tile.landed
  rw [Tile.strFinish_landing]
  refine (aGet_aSet_self 0 _ en.h.toNat _).trans (congrArg (· - 1) ?_)
  exact congrArg (aGet 0 · en.h.toNat) hl
theorem Tile.landed_rdRow (h : (hdOf en.he).store < 3) (hl : ws.length = 32) (hk : k < 4) :
    (x.landed en q n tag ws).rdRow (hdOf en.he).store ((hdOf en.he).base + (lineRows (hdOf en.he) en.desc false n).getD k 0) =
      (ws.drop (8 * k)).take 8 := by
  have hrow : (lineRows (hdOf en.he) en.desc false n).getD k 0 = lineRow (hdOf en.he) en.desc n + k := by
    rw [lineRows_eq, List.getD_eq_getElem _ _ (by simpa using hk), List.getElem_map, List.getElem_range]
  unfold Tile.landed
  rw [Tile.strFinish_rdRow, hrow, ← Nat.add_assoc]
  exact Tile.rdRow_fillRows h (by omega) hk
theorem Tile.done_of_mem_landed {g : StrEnt} (h : g ∈ (x.landed en q n tag ws).str.ents) (hid : g.id = en.id) : g.done = en.done ++ [n] := by
  unfold Tile.landed at h
  rw [Tile.eq_of_mem_strFinish h hid]

theorem Tile.landGroup_single (he : x.str.ents.find? (fun e => decide (e.id = r.ent)) = some en) (hp6 : en.p6 = false)
    (htag : x.str.tagOfLine en.id r.line = some tag) : x.landGroup r = some (en, [r.line], [tag]) := by
  dsimp only [Tile.landGroup]
  rw [he]
  simp [hp6, htag]
theorem State.landTag_single (he : (s.tile t).str.ents.find? (fun e => decide (e.id = r.ent)) = some en) (hq : en.seq = some q)
    (hput : en.put = false) (hp6 : en.p6 = false) (htag : (s.tile t).str.tagOfLine en.id r.line = some tag)
    (hws : s.lineWords t tag = some ws)
    (hrows : (s.tile t).rowsFree q [] ((lineRows (hdOf en.he) en.desc false r.line).map fun o => rowKey (hdOf en.he).store ((hdOf en.he).base + o)) = true) :
    s.landTag t tag r = some ((s.dropLine t tag).setTile t ((s.tile t).landed en q r.line tag ws)) := by
  have hin : ((s.tile t).str.ents.all fun e => decide (e.id ≠ r.ent)) = false := by
    rw [List.all_eq_false]
    exact ⟨en, List.mem_of_find?_eq_some he, by simpa using List.find?_some he⟩
  have hlines : lineRows (hdOf en.he) en.desc en.p6 r.line = lineRows (hdOf en.he) en.desc false r.line := by rw [hp6]
  dsimp only [State.landTag]
  rw [hin, if_neg (by decide), Tile.landGroup_single he hp6 htag]
  dsimp only
  rw [hq, show [tag].mapM (s.lineWords t) = some [ws] by simp [hws]]
  dsimp only
  rw [← hq, if_neg (show ¬ en.put = true by simp [hput]), List.headD_cons, hlines, if_neg (by simpa using hrows),
    if_neg (show ¬ en.p6 = true by simp [hp6]), List.flatten_singleton, Tile.foldl_wrRow_lineRows]
  rfl

theorem execLineLanding_eq {s' : State} (htags : (s.tile t).str.tags = pre ++ (tag, some r) :: post)
    (hpre : ∀ kv ∈ pre, ∀ r', kv.2 = some r' → s.landTag t kv.1 r' = none) (hland : s.landTag t tag r = some s') :
    execLineLanding t s = .next s' := by
  have hnil : pre.filterMap (fun kv => kv.2.bind fun r => s.landTag t kv.1 r) = [] :=
    List.filterMap_eq_nil_iff.mpr fun kv hkv => Option.bind_eq_none_iff.mpr fun r' hr' => hpre kv hkv r' hr'
  dsimp only [execLineLanding]
  rw [htags, List.filterMap_append, hnil, List.nil_append, List.filterMap_cons_some (b := s') (by exact hland), List.headD_cons]

theorem completes_lineLanding (htags : (s.tile t).str.tags = pre ++ (tag, some r) :: post)
    (hpre : ∀ kv ∈ pre, ∀ r', kv.2 = some r' → s.landTag t kv.1 r' = none)
    (he : (s.tile t).str.ents.find? (fun e => decide (e.id = r.ent)) = some en) (hq : en.seq = some q)
    (hput : en.put = false) (hp6 : en.p6 = false) (htag : (s.tile t).str.tagOfLine en.id r.line = some tag)
    (hws : s.lineWords t tag = some ws) (hl : ws.length = 32) (hst : (hdOf en.he).store < 3)
    (hrows : (s.tile t).rowsFree q [] ((lineRows (hdOf en.he) en.desc false r.line).map fun o => rowKey (hdOf en.he).store ((hdOf en.he).base + o)) = true) :
    Completes (.lineLanding t) s fun s' =>
      (∀ k, k < 4 → (s'.tile t).rdRow (hdOf en.he).store ((hdOf en.he).base + (lineRows (hdOf en.he) en.desc false r.line).getD k 0) = (ws.drop (8 * k)).take 8) ∧
      aGet none (s'.tile t).str.tags tag = none ∧ (s'.tile t).landing en.h = (s.tile t).landing en.h - 1 ∧
      (∀ g ∈ (s'.tile t).str.ents, g.id = en.id → g.done = en.done ++ [r.line]) ∧ (s'.tile t).core = (s.tile t).core := by
  refine ⟨_, execLineLanding_eq htags hpre (State.landTag_single he hq hput hp6 htag hws hrows), ?_⟩
  dsimp only
  rw [State.tile_setTile_self]
  exact ⟨fun k hk => Tile.landed_rdRow hst hl hk, Tile.landed_tags, Tile.landed_landing, fun g hg hid => Tile.done_of_mem_landed hg hid,
    Tile.landed_core⟩
end

/-- Settles O24: what each step of the stream unit does, the look-ahead pointer, landing, taking and acceptance, and the poison written
back. -/
theorem streamTransfers : Obligations.StreamTransfers := by
  unfold Obligations.StreamTransfers
  refine ⟨?_, ?_, ?_, ?_, ?_, ?_, ?_⟩
  · intro s t i hp he hla hw hend hb hs hi
    have h : Passes s t i := ⟨hp, hla, hw, hend, hb, hs⟩
    exact completes_lookaheadPass h he (Tile.laNew_eq_nil h hi)
  · intro s t e f hp he hla hw hs hc htg
    exact completes_lookaheadPass_strGet ⟨hp, hla, hw, nofun, rfl, hs⟩ he hc htg
  · rintro s t pre post tag r en q ws htags hpre he hq hput hp6 htag hws hl _ rfl hst hrows
    exact completes_lineLanding htags hpre he hq hput hp6 htag hws hl hst hrows
  · intro s t errs en q key hfind hq hkey hrows hpart
    exact completes_putRowTake hfind hq hkey hrows hpart
  · intro s t errs en q key hfind hq hp6 hkey hrows hlast htag
    exact completes_putRowTake_line hfind hq hp6 hkey hrows hlast htag
  · intro s t f r en hf hr he
    exact completes_putLineAccepted hf hr he
  · intro s t st key us h
    exact completes_storePoisonWriteback h

end Sys2Proof.Machine
end

/-! # Instruction words and commands that carry findings (O57)

A PUT, a PUTH and the MSG instructions that read a row carry the H72 findings on that row (R25, R58); no bit of the word holds them. -/
section
set_option Elab.async false
namespace Sys2Proof.Machine

/-- Refutes O57: the encoder drops the findings that a PUT carries and the decoder answers none (`spellsPlain_decodeWord`), so a PUT with a
correction of the row it sends has a word that does not decode to it. -/
theorem not_encodingsRoundTrip : ¬ Obligations.EncodingsRoundTrip := by
  unfold Obligations.EncodingsRoundTrip
  rintro ⟨hword, -⟩
  have hput : encodeWord false (.sigPut 3 .ok ⟨0, 0, 0, 0, 0, 0⟩ [⟨.w, 5, 2, .ce 1⟩]) = some (3, .ok, 0x5100000000000000#64) := by decide
  have hdecode := ((hword ..).mp hput).1
  exact absurd (spellsPlain_decodeWord _ hdecode) (by decide)
end Sys2Proof.Machine
end

/-! # Branches (O2)

A taken branch goes to its target in two steps, one not taken to the next word in one (R97). -/
section
set_option Elab.async false
namespace Sys2Proof.Machine

section
variable {s : State} {t : TileId} {e : Ecc} {i : Instr} {act : State → State} {c : Bool} {ra rb : Reg} {off : W16} {x : Tile} {a b : W64}

theorem Tile.branch_eq : x.branch c off =
    x.goTo (if c then (x.core.pc + off.toInt).toNat else x.core.pc + 1) (if c then 2 else 1) := by
  cases c <;> rfl
theorem Cond.holds_lt : Cond.lt.holds a b = decide (a.toInt < b.toInt) := rfl
theorem Cond.holds_ltu : Cond.ltu.holds a b = decide (a.toNat < b.toNat) := rfl
theorem Cond.holds_ge : Cond.ge.holds a b = decide (b.toInt ≤ a.toInt) := by
  simp only [Cond.holds, slt_eq_decide, ← decide_not, Int.not_lt]
theorem Cond.holds_geu : Cond.geu.holds a b = decide (b.toNat ≤ a.toNat) := by
  simp only [Cond.holds, ult_eq_decide, ← decide_not, Nat.not_lt]

/-- The tile with register and value `d` written, where one is named. -/
def Tile.written (x : Tile) : Option (Reg × W64) → Tile
  | some (rd, v) => x.setReg rd v
  | none => x
theorem Tile.pc_written {d : Option (Reg × W64)} : (x.written d).core.pc = x.core.pc := by
  cases d with
  | none => rfl
  | some p => exact Tile.pc_setReg

/-- An instruction that is ready and branches, with a register written first or none. -/
theorem coreStep_of_branch {d : Option (Reg × W64)} (hr : Ready s t e i) (hi : exec i s = issue s t e i act)
    (ha : act (s.issueEcc t e) = (s.issueEcc t e).modTile t fun x => (x.written d).branch c off) :
    CoreStep s t e i (if c then ((s.tile t).core.pc + off.toInt).toNat else (s.tile t).core.pc + 1) (if c then 2 else 1) d := by
  refine ⟨_, hi.trans (issue_ready act hr), _, ha, ?_⟩
  dsimp only
  rw [Tile.branch_eq, Tile.pc_written, State.pc_issueEcc]
  exact coreWent_goTo ..
/-- A branch on two registers. -/
theorem coreStep_branchRR (k : Cond) (hr : Ready s t e i) (hi : exec i s = issue s t e i (branchRR k t ra rb off))
    (hc : k.holds ((s.tile t).reg ra) ((s.tile t).reg rb) = c) :
    CoreStep s t e i (if c then ((s.tile t).core.pc + off.toInt).toNat else (s.tile t).core.pc + 1) (if c then 2 else 1) none := by
  refine coreStep_of_branch hr hi ?_
  rw [← hc, branchRR, State.modTile, State.reg_issueEcc, State.reg_issueEcc]
  rfl
/-- What DBNZ tests: its register as it reads after the decrement, and s0 always reads as zero (R36, R96). -/
theorem Tile.reg_setReg_sub_one : (x.setReg ra (a - 1)).reg ra ≠ 0 ↔ ra ≠ 0 ∧ a ≠ 1 := by
  rw [Tile.reg_setReg]
  by_cases hz : ra = 0
  · rw [if_neg fun h => h.2 hz, hz, Tile.reg_zero]
    exact ⟨fun h => absurd rfl h, fun h => absurd rfl h.1⟩
  · rw [if_pos ⟨rfl, hz⟩, sub_ne_zero]
    exact (and_iff_right hz).symm
theorem coreStep_dbnz (hr : Ready s t e (.dbnz t e ra off)) (hc : decide (ra ≠ 0 ∧ (s.tile t).reg ra ≠ 1) = c) :
    CoreStep s t e (.dbnz t e ra off) (if c then ((s.tile t).core.pc + off.toInt).toNat else (s.tile t).core.pc + 1) (if c then 2 else 1)
      (some (ra, (s.tile t).reg ra - 1)) := by
  refine coreStep_of_branch (act := dbnzStep t ra off) hr rfl ?_
  simp only [dbnzStep, State.modTile, State.reg_issueEcc, Tile.reg_setReg_sub_one, hc]
  rfl
end

/-- Settles O2: each conditional branch is a condition on two registers (`coreStep_branchRR`), J always branches, and DBNZ branches on its
register after the decrement (`coreStep_dbnz`). -/
theorem branchResults : Obligations.BranchResults := by
  unfold Obligations.BranchResults
  intro s t e ra rb off i c d a b h hr
  simp only [List.mem_cons, Prod.mk.injEq, List.not_mem_nil, or_false] at h
  obtain ⟨rfl, rfl, rfl⟩ | ⟨rfl, rfl, rfl⟩ | ⟨rfl, rfl, rfl⟩ | ⟨rfl, rfl, rfl⟩ | ⟨rfl, rfl, rfl⟩ | ⟨rfl, rfl, rfl⟩ | ⟨rfl, rfl, rfl⟩ |
    ⟨rfl, rfl, rfl⟩ := h
  · exact coreStep_branchRR .eq hr rfl rfl
  · exact coreStep_branchRR .ne hr rfl rfl
  · exact coreStep_branchRR .lt hr rfl Cond.holds_lt
  · exact coreStep_branchRR .ge hr rfl Cond.holds_ge
  · exact coreStep_branchRR .ltu hr rfl Cond.holds_ltu
  · exact coreStep_branchRR .geu hr rfl Cond.holds_geu
  · exact coreStep_of_branch (act := fun u => u.modTile t fun x => x.branch true off) hr rfl rfl
  · exact coreStep_dbnz hr rfl
end Sys2Proof.Machine
end

/-! # A matrix operation after its issue (O7)

The accumulator is loaded from a slot, the array forms the block, and the drain writes it to a slot (R104, R107, R108, R113). -/
section
set_option Elab.async false
namespace Sys2Proof.Machine

/-! ## The MXE's queue and accumulators -/

section
variable {m : Mxe} {a b : Bool} {blk : List ACell} {seq : Nat} {st : MxeStage} {q : MxeOp}

@[simp] theorem Mxe.accBlock_setAcc_self : (m.setAcc a blk).accBlock a = blk := by
  cases a <;> rfl
@[simp] theorem Mxe.accBlock_setAcc_not : (m.setAcc a blk).accBlock (!a) = m.accBlock (!a) := by
  cases a <;> rfl
theorem Mxe.stage_of_mem_setStage (h : q ∈ (m.setStage seq st).ops) (hq : q.seq = seq) : q.stage = st := by
  obtain ⟨o, -, rfl⟩ := List.mem_map.mp h
  by_cases ho : o.seq = seq
  · rw [if_pos ho]
  · rw [if_neg ho] at hq
    exact absurd hq ho
end

/-! ## Load, start and end of array work (R104, R113, R138) -/

/-- The tile after operation `o` has its initial block. -/
def Tile.loaded (x : Tile) (o : MxeOp) : Tile :=
  ({ x with mxe := (x.mxe.setAcc o.acc (blockOf (x.pcell o.f.islot))).setStage o.seq .loaded } : Tile).doneRows o.seq
    ((slotRows o.f.islot).filter fun k => !decide (k ∈ o.readRows)) []
/-- The block that the array forms for `o`: each cell by the model of R104, from the initial block or from zero. -/
def MxeOp.result (o : MxeOp) (x : Tile) : List ACell :=
  blockOf fun m n => o.cell x m n (if o.f.init then (x.mxe.accBlock o.acc).getD (32 * m + n) ⟨0, false⟩ else ⟨0, false⟩)
/-- The tile after operation `o` has started its array work. -/
def Tile.arrayStarted (x : Tile) (o : MxeOp) : Tile :=
  ({ x with mxe := { (x.mxe.setAcc o.acc (o.result x)).setStage o.seq .running with busy0 := x.ctr.mxeBusy } } : Tile).allRead o.seq

section
variable {s : State} {t : TileId} {errs : List StoreErr} {ahead os : List MxeOp} {o : MxeOp} {steps : Nat}

theorem execInitialLoadComplete_eq (hop : firstOp (fun o => o.f.init && decide (o.stage = .queued)) [] (s.tile t).mxe.ops = some (ahead, o))
    (hacc : ∀ a ∈ ahead, a.acc ≠ o.acc) (hrows : (s.tile t).rowsFree o.seq (slotRows o.f.islot) [] = true) :
    execInitialLoadComplete t errs s = .next ((s.storeErrs t (slotRows o.f.islot) errs).setTile t
      (((s.storeErrs t (slotRows o.f.islot) errs).tile t).loaded o)) := by
  have hgo : (ahead.all (fun a => decide (a.acc ≠ o.acc)) && (s.tile t).rowsFree o.seq (slotRows o.f.islot) []) = true := by
    simpa [hrows] using hacc
  dsimp only [execInitialLoadComplete]
  rw [hop]
  exact if_pos hgo
theorem execMxeOperationStart_eq (hop : firstOp (fun o => !o.started) [] (s.tile t).mxe.ops = some (ahead, o))
    (hahead : ∀ a ∈ ahead, a.stage = .draining ∧ a.acc ≠ o.acc) (hload : o.f.init = true → o.stage = .loaded)
    (hrows : (s.tile t).rowsFree o.seq o.readRows [] = true) :
    execMxeOperationStart t errs s = .next ((s.storeErrs t o.readRows errs).setTile t
      (((s.storeErrs t o.readRows errs).tile t).arrayStarted o)) := by
  have hgo : (ahead.all (fun a => decide (a.stage = .draining) && decide (a.acc ≠ o.acc))
      && (!o.f.init || decide (o.stage = .loaded)) && (s.tile t).rowsFree o.seq o.readRows []) = true := by
    simpa [hrows, or_iff_not_imp_left] using And.intro hahead hload
  dsimp only [execMxeOperationStart]
  rw [hop]
  exact if_pos hgo
theorem execArrayWorkComplete_eq (hop : firstOp (fun o => decide (o.stage = .running)) [] (s.tile t).mxe.ops = some (ahead, o))
    (hsteps : o.occ = 0 ∨ max steps o.occ ≤ (s.tile t).ctr.mxeBusy - (s.tile t).mxe.busy0) :
    execArrayWorkComplete t steps s = .next (s.setTile t { s.tile t with mxe := (s.tile t).mxe.setStage o.seq .draining }) := by
  have hgo : (decide (o.occ = 0) || decide (max steps o.occ ≤ (s.tile t).arraySteps)) = true := by
    rw [Bool.or_eq_true, decide_eq_true_eq, decide_eq_true_eq]
    exact hsteps
  dsimp only [execArrayWorkComplete]
  rw [hop]
  exact if_pos hgo
end

/-! ## The drain (R107, R108) -/

/-- Word `i` of a block as it lies in a slot: two cells, poisoned when either is marked (R108). -/
def drainWord (blk : List ACell) (i : Nat) : PWord :=
  let lo := blk.getD (2 * i) ⟨0, false⟩
  let hi := blk.getD (2 * i + 1) ⟨0, false⟩
  ⟨hi.v ++ lo.v, lo.z || hi.z⟩
/-- Operation `o`, the oldest, leaves the queue once its block is in its slot, with `os` behind it; `z` says whether a cell is marked. -/
def Tile.drainEnds (x : Tile) (o : MxeOp) (os : List MxeOp) (z : Bool) : Tile :=
  (({ x with
      mxe := { x.mxe with ops := os, idleFrom := if os.isEmpty then x.ctr.tally else x.mxe.idleFrom }
      ftq := if o.f.finish then x.ftq ++ [o.f.dslot] else x.ftq } : Tile).count fun c =>
    { c with poisonIn := c.poisonIn + (if z then 1 else 0) }).dropAccess o.seq
/-- The tile after operation `o` has drained. -/
def Tile.drained (x : Tile) (o : MxeOp) (os : List MxeOp) : Tile :=
  (x.drainTo o.f.dslot (x.mxe.accBlock o.acc)).drainEnds o os ((x.mxe.accBlock o.acc).any (·.z))

section
variable {x y : Tile} {k : Slot} {blk : List ACell} {o : MxeOp} {os : List MxeOp} {m n i key : Nat} {v : PWord}

/-- A write in the P-store leaves all of the tile but that store and the marks. -/
theorem Tile.wrWord_pstore : x.wrWord 2 key v = { x with p := (x.wrWord 2 key v).p, ue := (x.wrWord 2 key v).ue } := rfl
theorem Tile.drainTo_pstore : x.drainTo k blk = { x with p := (x.drainTo k blk).p, ue := (x.drainTo k blk).ue } := by
  refine List.foldlRecOn (motive := fun y : Tile => y = { x with p := y.p, ue := y.ue }) _ _ rfl fun y hy i _ => ?_
  dsimp only
  rw [Tile.wrWord_pstore, hy]
theorem Tile.drainTo_eq : x.drainTo k blk = ((List.range' 0 ((List.range 1024).map (drainWord blk)).length).zip
    ((List.range 1024).map (drainWord blk))).foldl (fun x kv => x.wrWord 2 (1024 * k.toNat + kv.1) kv.2) x := by
  have hzip := List.zip_map' (f := id) (g := drainWord blk) (l := List.range 1024)
  rw [List.map_id] at hzip
  rw [List.length_map, List.length_range, ← List.range_eq_range', hzip, List.foldl_map]
  rfl
theorem Tile.rdWord_drainTo (hi : i < 1024) : (x.drainTo k blk).rdWord 2 (1024 * k.toNat + i) = drainWord blk i := by
  rw [Tile.drainTo_eq, Tile.rdWord_foldl_wrWord (by decide) (by decide), List.length_map, List.length_range,
    if_pos ⟨rfl, by omega, by omega⟩, show 1024 * k.toNat + i - (1024 * k.toNat + 0) = i by omega, List.getD_eq_getElem _ _ (by simpa),
    List.getElem_map, List.getElem_range]
/-- A cell of a slot is half of its word (R108). -/
theorem Tile.pcell_v : (x.pcell k m n).v =
    (x.rdWord 2 (1024 * k.toNat + (32 * m + n) / 2)).d.extractLsb' (32 * (n % 2)) 32 := by
  have hkey : 8 * (128 * k.toNat + 2 * m + n / 16) + n % 16 * 32 / 64 = 1024 * k.toNat + (32 * m + n) / 2 := by omega
  have hpos : n % 16 * 32 % 64 = 32 * (n % 2) := by omega
  apply BitVec.eq_of_toNat_eq
  simp only [Tile.pcell, Tile.rdAt, hkey, hpos, BitVec.toNat_ofNat, Nat.mod_mod, BitVec.extractLsb'_toNat, Nat.shiftRight_eq_div_pow]
theorem drainWord_cell : (drainWord blk (i / 2)).d.extractLsb' (32 * (i % 2)) 32 = (blk.getD i ⟨0, false⟩).v := by
  obtain h | h : i % 2 = 0 ∨ i % 2 = 1 := by omega
  · rw [drainWord, h, show 2 * (i / 2) = i by omega]
    exact BitVec.extractLsb'_append_eq_right
  · rw [drainWord, h, show 2 * (i / 2) + 1 = i by omega]
    exact BitVec.extractLsb'_append_eq_left
theorem Tile.pcell_drainTo (hm : m < 64) (hn : n < 32) : ((x.drainTo k blk).pcell k m n).v = (blk.getD (32 * m + n) ⟨0, false⟩).v := by
  rw [Tile.pcell_v, Tile.rdWord_drainTo (by omega), show n % 2 = (32 * m + n) % 2 by omega, drainWord_cell]
end

section
variable {s : State} {t : TileId} {o : MxeOp} {os : List MxeOp} {x y : Tile}

theorem execDrainComplete_eq (hops : (s.tile t).mxe.ops = o :: os) (hst : o.stage = .draining)
    (hrows : (s.tile t).rowsFree o.seq [] (slotRows o.f.dslot) = true) :
    execDrainComplete t s = .next (s.setTile t ((s.tile t).drained o os)) := by
  have hgo : (decide (o.stage = .draining) && (s.tile t).rowsFree o.seq [] (slotRows o.f.dslot)) = true := by
    rw [hst, hrows]
    rfl
  dsimp only [execDrainComplete, Tile.drained, Tile.drainEnds]
  rw [hops]
  exact if_pos hgo
theorem Tile.storesKept_drainEnds {z : Bool} : StoresKept x (x.drainEnds o os z) := ⟨rfl, rfl, rfl, rfl⟩
theorem StoresKept.pcell {k : Slot} {m n : Nat} (h : StoresKept x y) : y.pcell k m n = x.pcell k m n := by
  simp only [Tile.pcell, Tile.rdAt, h.rdWord]
theorem Tile.pcell_drained {m n : Nat} (hm : m < 64) (hn : n < 32) :
    ((x.drained o os).pcell o.f.dslot m n).v = ((x.mxe.accBlock o.acc).getD (32 * m + n) ⟨0, false⟩).v := by
  rw [Tile.drained, StoresKept.pcell Tile.storesKept_drainEnds, Tile.pcell_drainTo hm hn]
/-- What the end of a drain does to the queue, the FTQ and POISON_IN, where the drain itself has written the P-store alone. -/
theorem Tile.drainEnds_frame {z : Bool} (h : y = { x with p := y.p, ue := y.ue }) : (y.drainEnds o os z).mxe.ops = os ∧
    (y.drainEnds o os z).ftq = (if o.f.finish then x.ftq ++ [o.f.dslot] else x.ftq) ∧
    (y.drainEnds o os z).ctr.poisonIn = x.ctr.poisonIn + (if z then 1 else 0) ∧
    (y.drainEnds o os z).w = x.w ∧ (y.drainEnds o os z).a = x.a ∧ (y.drainEnds o os z).core = x.core := by
  rw [h]
  exact ⟨rfl, rfl, rfl, rfl, rfl, rfl⟩
end

/-- Settles O7: the four events are `execInitialLoadComplete_eq`, `execMxeOperationStart_eq`, `execArrayWorkComplete_eq` and
`execDrainComplete_eq`; a drained cell reads back as `Tile.pcell_drained` says. -/
theorem matrixOperationRuns : Obligations.MatrixOperationRuns := by
  unfold Obligations.MatrixOperationRuns
  refine ⟨?_, ?_, ?_, ?_⟩
  · intro s t errs ahead o hop hacc hrows
    refine ⟨_, execInitialLoadComplete_eq hop hacc hrows, ?_⟩
    dsimp only
    rw [State.tile_setTile_self]
    exact ⟨Mxe.accBlock_setAcc_self, ⟨rfl, rfl, rfl, rfl⟩, rfl, fun q => Mxe.stage_of_mem_setStage⟩
  · intro s t errs ahead o hop hahead hload hrows
    refine ⟨_, execMxeOperationStart_eq hop hahead hload hrows, ?_⟩
    dsimp only
    rw [State.tile_setTile_self]
    exact ⟨Mxe.accBlock_setAcc_self, Mxe.accBlock_setAcc_not, ⟨rfl, rfl, rfl, rfl⟩, rfl⟩
  · intro s t steps ahead o hop hsteps
    refine ⟨_, execArrayWorkComplete_eq hop hsteps, ?_⟩
    dsimp only
    rw [State.tile_setTile_self]
    exact ⟨fun q => Mxe.stage_of_mem_setStage, ⟨rfl, rfl, rfl, rfl⟩, rfl, rfl, _, rfl⟩
  · intro s t o os hops hst hrows
    refine ⟨_, execDrainComplete_eq hops hst hrows, ?_⟩
    dsimp only
    rw [State.tile_setTile_self]
    exact ⟨fun m n => Tile.pcell_drained, Tile.drainEnds_frame Tile.drainTo_pstore⟩
end Sys2Proof.Machine
end

/-! # Vector chains and reductions after their issue (O9)

The groups of the oldest VCH write their rows and form the results of its RDX, the results are written one after the other, and a release
frees the FTQ head (R126, R131, R134, R135). -/
section
set_option Elab.async false
namespace Sys2Proof.Machine

/-! ## The end of a chain (R126, R131, R134) -/

/-- The groups of chain `o` over tile `x`: the run, and the output of the last stage. -/
def VchOp.allGroups (o : VchOp) (slot : Slot) (x : Tile) : Run × List (List (LaneId × Lane)) :=
  runGroups o slot (groupCount o.f.wb o.nr o.vlen) 0 ⟨x, [], [], [], []⟩ []
/-- An RDX whose chain has no row ends with the chain: it writes no result. -/
def Tile.rdxEnds (x : Tile) (o : VchOp) : Tile :=
  match o.rdx with
  | some e => if o.nr = 0 then ((if e.f.tos then x.setPend e.f.rd false else x).dropAccess e.seq) else x
  | none => x
/-- The tile after chain `o`, the oldest, has left the queue; its results wait. -/
def Run.chainEnds (u : Run) (o : VchOp) (res : List RduRes) : Tile :=
  let x := (u.x.dropAccess o.seq).rdxEnds o
  ({ x with
      vxe := { x.vxe with ops := x.vxe.ops.tail, relDue := x.vxe.relDue || o.f.rel, busy0 := x.ctr.vxeBusy }
      rdu := { x.rdu with results := x.rdu.results ++ res } } : Tile).count fun c =>
    { c with masked := c.masked + u.masked.length, rngBlocks := c.rngBlocks + u.blocks.length }

section
variable {s : State} {t : TileId} {steps : Nat} {errs : List StoreErr} {o : VchOp} {os : List VchOp} {x : Tile} {u : Run} {slot : Slot}
  {res : List RduRes} {r : Reg} {b : Bool}

theorem Tile.setPend_eq : x.setPend r b = { x with core := { x.core with pend := (x.setPend r b).core.pend } } := by
  unfold Tile.setPend
  split <;> rfl
theorem Tile.rdxEnds_eq : x.rdxEnds o = { x with core := (x.rdxEnds o).core, acc := (x.rdxEnds o).acc } := by
  unfold Tile.rdxEnds
  cases o.rdx with
  | none => rfl
  | some e =>
    dsimp only
    split
    · cases e.f.tos with
      | true => rw [if_pos rfl, Tile.setPend_eq]; rfl
      | false => rfl
    · rfl
theorem runVch_eq : runVch o slot s t =
    s.setTile t ((o.allGroups slot (s.tile t)).1.chainEnds o (rduResults o (o.allGroups slot (s.tile t)).2)) := rfl
/-- The oldest chain finishes where its rows are free and its steps have passed (R11, R114, R138). -/
theorem execVchLastGroupComplete_eq (hops : (s.tile t).vxe.ops = o :: os) (hfree : (s.tile t).vchFree o = true)
    (hsteps : o.groups = 0 ∨ max steps o.groups ≤ (s.tile t).ctr.vxeBusy - (s.tile t).vxe.busy0) :
    execVchLastGroupComplete t steps errs s = .next (runVch o ((s.tile t).ftq.headD 0)
      (s.storeErrs t (((s.tile t).vchRows o).1 ++ ((s.tile t).vchRows o).2) errs) t) := by
  have hgo : ((s.tile t).vchFree o && (decide (o.groups = 0) || decide (max steps o.groups ≤ (s.tile t).chainSteps))) = true := by
    rw [hfree, Bool.true_and, Bool.or_eq_true, decide_eq_true_eq, decide_eq_true_eq]
    exact hsteps
  dsimp only [execVchLastGroupComplete]
  rw [hops]
  exact if_pos hgo
/-- What the end of a chain does to the queue, the results and the FTQ's release, where its groups have written the stores. -/
theorem Run.chainEnds_frame : (u.chainEnds o res).vxe.ops = u.x.vxe.ops.tail ∧ (u.chainEnds o res).w = u.x.w ∧
    (u.chainEnds o res).a = u.x.a ∧ (u.chainEnds o res).p = u.x.p ∧ (u.chainEnds o res).rdu.results = u.x.rdu.results ++ res ∧
    (u.chainEnds o res).vxe.relDue = (u.x.vxe.relDue || o.f.rel) ∧ (u.chainEnds o res).ctr.vxeBusy = u.x.ctr.vxeBusy := by
  rw [Run.chainEnds, Tile.rdxEnds_eq]
  exact ⟨rfl, rfl, rfl, rfl, rfl, rfl, rfl⟩
/-- A due release takes the head off the FTQ (R44, R131). -/
theorem execFtqRelease_due (h : (s.tile t).vxe.relDue = true) : execFtqRelease t s = .next (s.setTile t
    { s.tile t with ftq := (s.tile t).ftq.tail, vxe := { (s.tile t).vxe with relDue := false } }) := if_pos h
end

/-! ## The write of a row result (R134, R135) -/

/-- The write of a row result to its buffer. -/
def RduRes.lane (r : RduRes) : LaneWr :=
  let h := hdOf r.ent.he
  ⟨h.store, h.place 32 (mapRow h 32 r.ent.off r.row).1 (mapRow h 32 r.ent.off r.row).2, 32, r.v.toNat, r.poison⟩
/-- The row that it touches. -/
def RduRes.key (r : RduRes) : Nat := rowKey r.lane.st r.lane.pl.row
/-- The findings on that row, where the result goes to a buffer (R58). -/
def State.resultFound (s : State) (t : TileId) (r : RduRes) (er : List StoreErr) : State :=
  if r.ent.f.toh then s.storeErrs t [r.key] er else s
/-- The tile with the result in its buffer, where it has one. -/
def Tile.resultStored (x : Tile) (r : RduRes) : Tile := if r.ent.f.toh then x.wrLanes [r.lane] else x
/-- The tile with the last row's result in its scalar register, where it has one, and no write of it pending. -/
def Tile.scalarLanded (x : Tile) (r : RduRes) : Tile :=
  if r.last && r.ent.f.tos then (x.setReg r.ent.f.rd (rduScalar r)).setPend r.ent.f.rd false else x
/-- The tile after the oldest result, in its buffer, is written to its register as well and has left, with `rs` behind it. -/
def Tile.resultEnds (x : Tile) (r : RduRes) (rs : List RduRes) : Tile :=
  let y := (x.scalarLanded r).count fun c => { c with poisonIn := c.poisonIn + (if (r.last && r.ent.f.tos) && r.poison then 1 else 0) }
  let z : Tile := { y with
    rdu := { y.rdu with results := rs }
    core := { y.core with nf := y.core.nf || (r.nfs && (r.ent.f.toh || (r.last && r.ent.f.tos)) && rduNonFinite r) } }
  if r.last then z.dropAccess r.ent.seq else z

section
variable {s : State} {t : TileId} {rd : List Nat} {er : List StoreErr} {r : RduRes} {rs : List RduRes} {x y : Tile} {ws : List LaneWr} {q : Reg}

theorem State.storeErrs_mem : (s.storeErrs t rd er).mem = s.mem := by
  refine List.foldlRecOn (motive := fun u : State => u.mem = s.mem) _ _ rfl fun u hu e _ => ?_
  dsimp only
  split
  · split
    · exact hu
    · exact (State.memCe_mem ..).trans hu
    · split
      · exact hu
      · exact (State.memUe_mem ..).trans hu
  · exact hu
theorem Tile.storesOnly_wrLanes : StoresOnly x (x.wrLanes ws) :=
  List.foldlRecOn (motive := fun y : Tile => StoresOnly x y) _ _ .refl fun _ h _ _ => h.trans Tile.storesOnly_wrWord

theorem State.found_resultFound : Found t s (s.resultFound t r er) := by
  unfold State.resultFound
  split
  · exact State.found_storeErrs
  · exact .refl
theorem State.resultFound_mem : (s.resultFound t r er).mem = s.mem := by
  unfold State.resultFound
  split
  · exact State.storeErrs_mem
  · rfl
theorem Tile.storesOnly_resultStored : StoresOnly x (x.resultStored r) := by
  unfold Tile.resultStored
  split
  · exact Tile.storesOnly_wrLanes
  · exact .refl

theorem Tile.reg_scalarLanded :
    (x.scalarLanded r).reg q = if r.last = true ∧ r.ent.f.tos = true ∧ q = r.ent.f.rd ∧ q ≠ 0 then rduScalar r else x.reg q := by
  have hpend {y : Tile} {b : Bool} : (y.setPend r.ent.f.rd b).reg q = y.reg q := by
    rw [Tile.setPend_eq]
    rfl
  unfold Tile.scalarLanded
  split
  · next h =>
    obtain ⟨hl, ht⟩ := Bool.and_eq_true_iff.mp h
    simp only [hpend, Tile.reg_setReg, hl, ht, true_and]
  · next h => rw [if_neg fun ⟨hl, ht, _⟩ => h (by rw [hl, ht]; rfl)]
/-- The register of the last row's result pends no more; s0 never does (R36, R40). -/
theorem Tile.isPend_scalarLanded (hl : r.last = true) (ht : r.ent.f.tos = true) :
    (x.scalarLanded r).isPend r.ent.f.rd = (decide (r.ent.f.rd = 0) && x.isPend 0) := by
  have hreg {v : W64} : (x.setReg r.ent.f.rd v).isPend r.ent.f.rd = x.isPend r.ent.f.rd := by
    rw [Tile.setReg_eq]
    rfl
  rw [Tile.scalarLanded, hl, ht, if_pos (by rfl), Tile.isPend_setPend, hreg]
  by_cases h0 : r.ent.f.rd = 0
  · rw [if_neg fun h => h.2 h0, h0, decide_eq_true rfl, Bool.true_and]
  · rw [if_pos ⟨rfl, h0⟩, decide_eq_false h0, Bool.false_and]
/-- The scalar result touches the registers and their pending writes only. -/
theorem Tile.scalarLanded_eq : x.scalarLanded r = { x with core := (x.scalarLanded r).core } := by
  unfold Tile.scalarLanded
  split
  · rw [Tile.setPend_eq, Tile.setReg_eq]
  · rfl
theorem Tile.resultEnds_frame : StoresKept x (x.resultEnds r rs) ∧ (x.resultEnds r rs).rdu = { x.rdu with results := rs } ∧
    (∀ q, (x.resultEnds r rs).reg q = (x.scalarLanded r).reg q) ∧ ∀ q, (x.resultEnds r rs).isPend q = (x.scalarLanded r).isPend q := by
  unfold Tile.resultEnds
  rw [Tile.scalarLanded_eq]
  dsimp only
  split <;> exact ⟨⟨rfl, rfl, rfl, rfl⟩, rfl, fun _ => rfl, fun _ => rfl⟩

/-- The oldest result is written where its row is free (R55). -/
theorem execRduResultWrite_eq (hres : (s.tile t).rdu.results = r :: rs)
    (hrows : r.ent.f.toh = true → (s.tile t).rowsFree r.ent.seq [] [r.key] = true) :
    execRduResultWrite t er s = .next ((s.resultFound t r er).setTile t ((((s.resultFound t r er).tile t).resultStored r).resultEnds r rs)) := by
  have hgo : ¬(r.ent.f.toh && !(s.tile t).rowsFree r.ent.seq [] [r.key]) = true := by
    simpa using hrows
  unfold execRduResultWrite
  rw [hres]
  exact if_neg hgo
/-- What the oldest result's write does: `y` is the tile with the result in its
buffer, which differs from the tile before in its stores alone. -/
theorem completes_rduResultWrite (hres : (s.tile t).rdu.results = r :: rs)
    (hrows : r.ent.f.toh = true → (s.tile t).rowsFree r.ent.seq [] [r.key] = true)
    (hy : y = ((s.resultFound t r er).tile t).resultStored r) :
    Completes (.rduResultWrite t er) s fun s' =>
      (∀ u, u ≠ t → s'.tile u = s.tile u) ∧ s'.mem = s.mem ∧ s'.net = s.net ∧ (s'.tile t).rdu.results = rs ∧
      (s'.tile t).rdu.unpaired = (s.tile t).rdu.unpaired ∧ StoresKept y (s'.tile t) ∧
      (∀ q, (s'.tile t).reg q = if r.last = true ∧ r.ent.f.tos = true ∧ q = r.ent.f.rd ∧ q ≠ 0 then rduScalar r else (s.tile t).reg q) ∧
      (r.last = true → r.ent.f.tos = true → (s'.tile t).isPend r.ent.f.rd = (decide (r.ent.f.rd = 0) && (s.tile t).isPend 0)) := by
  have hfound := State.found_resultFound (s := s) (t := t) (r := r) (er := er)
  have honly : StoresOnly (s.tile t) y := hy ▸ StoresOnly.trans hfound.self Tile.storesOnly_resultStored
  have hcore : y.core = (s.tile t).core := honly.core
  have hunpaired : y.rdu.unpaired = (s.tile t).rdu.unpaired := by rw [honly]
  obtain ⟨hkept, hrdu, hreg, hpend⟩ := Tile.resultEnds_frame (x := y) (r := r) (rs := rs)
  refine ⟨_, execRduResultWrite_eq hres hrows, fun u hu => ?_, State.resultFound_mem, hfound.net, ?_⟩
  · rw [State.tile_setTile_other _ _ _ _ hu, hfound.other u hu]
  · rw [← hy, State.tile_setTile_self, hrdu]
    refine ⟨rfl, hunpaired, hkept, fun q => ?_, fun hl ht => ?_⟩
    · rw [hreg, Tile.reg_scalarLanded, Tile.reg, Tile.reg, hcore]
    · rw [hpend, Tile.isPend_scalarLanded hl ht, Tile.isPend, Tile.isPend, hcore]
theorem Tile.resultStored_of_toh (h : r.ent.f.toh = true) :
    ((s.resultFound t r er).tile t).resultStored r = ((s.storeErrs t [r.key] er).tile t).wrLanes [r.lane] := by
  rw [State.resultFound, Tile.resultStored, if_pos h, if_pos h]
theorem Tile.resultStored_of_not_toh (h : r.ent.f.toh = false) : ((s.resultFound t r er).tile t).resultStored r = s.tile t := by
  rw [State.resultFound, Tile.resultStored, h]
  rfl
end

/-- Settles O9: a chain ends by `execVchLastGroupComplete_eq` as `Run.chainEnds_frame` says, a due release is `execFtqRelease_due`, and the
write of a result is `completes_rduResultWrite`. -/
theorem vectorWorkCompletes : Obligations.VectorWorkCompletes := by
  unfold Obligations.VectorWorkCompletes
  refine ⟨?_, ?_, ?_⟩
  · intro s t steps errs o os hops hfree hsteps
    refine ⟨_, execVchLastGroupComplete_eq hops hfree hsteps, ?_⟩
    dsimp only
    rw [runVch_eq, State.tile_setTile_self]
    exact Run.chainEnds_frame
  · intro s t h
    exact execFtqRelease_due h
  · intro s t r rs er hres hrows
    obtain ⟨s', he, hother, hmem, hnet, hresults, hunpaired, hkept, hreg, hpend⟩ := completes_rduResultWrite (er := er) hres hrows rfl
    refine ⟨s', he, hother, hmem, hnet, hresults, hunpaired, fun h => ?_, fun hd pl h hhd hpl => ?_, hreg, hpend⟩
    · rwa [Tile.resultStored_of_not_toh h] at hkept
    · rw [Tile.resultStored_of_toh h] at hkept
      subst hhd hpl
      exact hkept
end Sys2Proof.Machine
end

/-! # Random bits (O10)

A generator instruction takes its registers and its seed at issue; its values are written when the rows of its buffer are free. -/
section
set_option Elab.async false
namespace Sys2Proof.Machine

/-! ## Seeds (R142) -/

section
variable {x : Tile} {sel k : BitVec 2} {rv : Reg}

/-- The tile after a SEEDSET has issued. -/
def Tile.seedSet (x : Tile) (sel : BitVec 2) (rv : Reg) : Tile :=
  ({ x with seeds := aSet 0 x.seeds sel.toNat (x.reg rv) } : Tile).next

theorem Tile.engineIssued_seedSet : EngineIssued x (x.seedSet sel rv) := by
  have hactive : ({ x with seeds := aSet 0 x.seeds sel.toNat (x.reg rv) } : Tile).vxeActive = x.vxeActive :=
    Tile.vxeActive_congr rfl rfl rfl rfl rfl
  refine ⟨rfl, ?_, rfl, rfl, rfl, rfl, rfl, rfl, rfl⟩
  change Tile.stepCtr _ 1 = x.stepCtr 1
  simp only [Tile.stepCtr, hactive]
  rfl
theorem Tile.seed_seedSet : aGet 0 (x.seedSet sel rv).seeds k.toNat = if k = sel then x.reg rv else aGet 0 x.seeds k.toNat := by
  change aGet 0 (aSet 0 x.seeds sel.toNat (x.reg rv)) k.toNat = _
  simp only [aGet_aSet, BitVec.toNat_inj]
end

/-! ## A generator instruction at issue (R146, R147) -/

section
variable {s : State} {t : TileId} {e : Ecc} {i : Instr} {x : Tile} {fn : RngFn} {f : RngF}

/-- BITS, UNI or MASK with the values it takes at issue. -/
def Tile.rngOp (x : Tile) (fn : RngFn) (f : RngF) : RngOp :=
  { seq := x.seq, pc := x.core.pc, fn := fn, fmt := f.fmt, he := x.hword f.h, off := x.reg f.so, st := x.reg f.st
    sc := x.reg f.sc, nr := (x.reg f.sn).toNat % 2 ^ 16, ne := (x.reg f.sn).toNat / 2 ^ 16 % 2 ^ 16
    keep := (x.reg f.rv).setWidth 32, seed := aGet 0 x.seeds f.sel.toNat }
/-- The tile after a generator instruction has issued: its rows have their place in program order. -/
def Tile.rngQueued (x : Tile) (o : RngOp) : Tile :=
  ({ (x.step 1).addAccess [] (rngRows o) with rng := x.rng ++ [o] } : Tile).nextWord

theorem State.rngOp_issueEcc : ((s.issueEcc t e).tile t).rngOp fn f = (s.tile t).rngOp fn f := by
  rw [State.tile_issueEcc]
  rfl
theorem rngIssue_eq (h : rngFault (s.tile t).mask ((s.tile t).rngOp fn f) = none) :
    rngIssue t fn f s = s.setTile t ((s.tile t).rngQueued ((s.tile t).rngOp fn f)) := by
  have hnr : fld ((s.tile t).reg f.sn) 15 0 = ((s.tile t).reg f.sn).toNat % 2 ^ 16 := by
    rw [fld_eq, pow_zero, Nat.div_one]
  have hne : fld ((s.tile t).reg f.sn) 31 16 = ((s.tile t).reg f.sn).toNat / 2 ^ 16 % 2 ^ 16 := fld_eq ..
  dsimp only [Tile.rngOp] at h
  dsimp only [rngIssue]
  rw [hnr, hne, h]
  rfl
theorem Tile.engineIssued_rngQueued {o : RngOp} : EngineIssued x (x.rngQueued o) :=
  ⟨rfl, rfl, rfl, rfl, rfl, rfl, rfl, rfl, rfl⟩
/-- The three generator instructions are one, by what they form of the random words. -/
theorem exec_rng (hi : (i, fn) ∈ [(Instr.rngBits t e f, RngFn.bits), (.rngUni t e f, .uni), (.rngMask t e f, .mask)]) :
    exec i s = issue s t e i (rngIssue t fn f) := by
  simp only [List.mem_cons, Prod.mk.injEq, List.not_mem_nil, or_false] at hi
  obtain ⟨rfl, rfl⟩ | ⟨rfl, rfl⟩ | ⟨rfl, rfl⟩ := hi <;> rfl
end

/-! ## The writes of a generator instruction (R148) -/

section
variable {s : State} {t : TileId} {er : List StoreErr} {o : RngOp} {os : List RngOp} {x : Tile} {r : Nat}

/-- The tile with the values of `o` in its buffer, row by row. -/
def Tile.rngWritten (x : Tile) (o : RngOp) : Tile := (List.range o.nr).foldl (fun x r => rngRow o r x) x
/-- The tile after `o`, whose values are written, has left the queue, with `os` behind it: its generator blocks are counted (R144). -/
def Tile.rngLeft (x : Tile) (o : RngOp) (os : List RngOp) : Tile :=
  { x.count fun c => { c with rngBlocks := c.rngBlocks + (List.range o.nr).foldl (fun n r => n + rngBlocksRow o r) 0 } with rng := os }

theorem StoresOnly.seeds {y : Tile} (h : StoresOnly x y) : y.seeds = x.seeds := by
  unfold StoresOnly at h
  rw [h]
theorem storesOnly_rngRow : StoresOnly x (rngRow o r x) :=
  List.foldlRecOn (motive := fun y : Tile => StoresOnly x y) _ _ .refl fun _ h _ _ => h.trans Tile.storesOnly_wrLanes
theorem Tile.storesOnly_rngWritten : StoresOnly x (x.rngWritten o) :=
  List.foldlRecOn (motive := fun y : Tile => StoresOnly x y) _ _ .refl fun _ h _ _ => h.trans storesOnly_rngRow
/-- The oldest generator instruction finishes where its rows are free (R55). -/
theorem execRngLastWriteLands_eq (hq : (s.tile t).rng = o :: os) (hrows : (s.tile t).rowsFree o.seq [] (rngRows o) = true) :
    execRngLastWriteLands t er s = .next
      (((s.storeErrs t (rngRows o) er).setTile t ((((s.storeErrs t (rngRows o) er).tile t).rngWritten o).rngLeft o os)).modTile t
        fun x => x.dropAccess o.seq) := by
  unfold execRngLastWriteLands
  rw [hq]
  exact if_pos hrows
end

/-- Settles O10: SEEDSET issues as `Tile.seedSet` and SEEDGET writes one register; the generator instructions issue as `rngIssue_eq` says,
with the operation `Tile.rngOp`; the oldest ends by `execRngLastWriteLands_eq`, its writes touching the stores alone
(`Tile.storesOnly_rngWritten`). -/
theorem randomBitsResults : Obligations.RandomBitsResults := by
  unfold Obligations.RandomBitsResults
  refine ⟨fun s t e sel rv hr => ?_, fun s t e sel rv hr => ?_, fun s t e f i fn hi hr o ho hf => ?_, fun s t er o os hq hrows => ?_⟩
  · exact issuesWith_of_setTile hr (rfl : exec _ s = issue s t e _ fun u => u.modTile t fun x => x.seedSet sel rv) rfl
      Tile.engineIssued_seedSet ⟨fun _ => Tile.seed_seedSet, rfl⟩
  · refine coreStep_of_aluWrite (fun u => aGet 0 (u.tile t).seeds sel.toNat) hr rfl ?_
    rw [State.tile_issueEcc]
  · obtain rfl : o = ((s.issueEcc t e).tile t).rngOp fn f := ho.trans State.rngOp_issueEcc.symm
    have hmask : ((s.issueEcc t e).tile t).mask = (s.tile t).mask := State.mask_issueEcc
    exact issuesWith_of_setTile hr (exec_rng hi) (rngIssue_eq (hmask ▸ hf)) Tile.engineIssued_rngQueued ⟨rfl, rfl⟩
  · have hfound : Found t s (s.storeErrs t (rngRows o) er) := State.found_storeErrs
    have honly : StoresOnly (s.tile t) (((s.storeErrs t (rngRows o) er).tile t).rngWritten o) :=
      StoresOnly.trans hfound.self Tile.storesOnly_rngWritten
    refine ⟨_, execRngLastWriteLands_eq hq hrows, ?_⟩
    dsimp only
    rw [State.tile_modTile_self, State.tile_setTile_self]
    refine ⟨rfl, rfl, rfl, rfl, honly.seeds, honly.core, fun u hu => ?_⟩
    rw [State.tile_modTile_other _ _ _ _ hu, State.tile_setTile_other _ _ _ _ hu, hfound.other u hu]
end Sys2Proof.Machine
end

/-! # Flits through a router, and sum groups (O11)

A flit that is served leaves its input and stands behind the output; the end of a window changes flits of VC3 alone, in AGE (R154, R158,
R159). The operands of a sum group leave together and one flit goes on (R167). -/
section
set_option Elab.async false
namespace Sys2Proof.Machine

/-! ## Keys of link buffers, and the routers beside a router -/

section
variable {r r' : TileId} {o sd sd' : Side} {vc vc' i j x y : Nat} {d : Bool}

theorem allSides_sideCode : allSides[sideCode sd]? = some sd := by cases sd <;> rfl
theorem sideCode_lt : sideCode sd < 9 := (List.getElem?_eq_some_iff.mp (allSides_sideCode (sd := sd))).1
theorem sideCode_inj (h : sideCode sd = sideCode sd') : sd = sd' := by
  have hs := allSides_sideCode (sd := sd)
  rw [h, allSides_sideCode] at hs
  exact (Option.some.inj hs).symm
/-- A link key names one router, one side and one VC. -/
theorem linkKey_inj (hv : vc < 4) (hv' : vc' < 4) (h : linkKey r sd vc = linkKey r' sd' vc') : r = r' ∧ sd = sd' ∧ vc = vc' := by
  have hc := sideCode_lt (sd := sd)
  have hc' := sideCode_lt (sd := sd')
  unfold linkKey at h
  exact ⟨BitVec.eq_of_toNat_eq (by omega), sideCode_inj (by omega), by omega⟩
/-- The sides that the inputs of an order list mean are different sides. -/
theorem sideOl_inputSide (hi : i ≤ 5) : sideOl (inputSide r i) = i := by
  obtain rfl | hi := Nat.eq_or_lt_of_le hi
  · change sideOl (if tX r = 31 then .bridge else .edgeW) = 5
    split <;> rfl
  · interval_cases i <;> rfl
theorem inputSide_inj (hi : i ≤ 5) (hj : j ≤ 5) (h : inputSide r i = inputSide r j) : i = j := by
  rw [← sideOl_inputSide (r := r) hi, h, sideOl_inputSide hj]

theorem toNat_mkTile : (mkTile d y x).toNat = d.toNat * 1024 + y % 32 * 32 + x % 32 := by
  have hd := d.toNat_le
  rw [mkTile, BitVec.toNat_ofNat]
  omega
theorem tX_eq : tX r = r.toNat % 32 := by
  rw [tX, fld_low, BitVec.toNat_setWidth]
  omega
theorem tY_eq : tY r = r.toNat / 32 % 32 := by
  rw [tY, fld_eq, BitVec.toNat_setWidth]
  omega
theorem tDie_mkTile : tDie (mkTile d y x) = d := by
  rw [tDie, BitVec.getLsbD, toNat_mkTile, Nat.testBit_eq_decide_div_mod_eq]
  cases d <;> simp only [Bool.toNat_false, Bool.toNat_true, decide_eq_true_eq, decide_eq_false_iff_not] <;> omega
theorem tX_mkTile : tX (mkTile d y x) = x % 32 := by
  rw [tX_eq, toNat_mkTile]
  omega
theorem tY_mkTile : tY (mkTile d y x) = y % 32 := by
  rw [tY_eq, toNat_mkTile]
  omega
/-- The next router is another router. -/
theorem ne_of_neighbour (h : neighbour r o = some (r', sd)) : r' ≠ r := by
  rintro rfl
  have hx : tX r' < 32 := tX_eq ▸ Nat.mod_lt _ (by decide)
  have hy : tY r' < 32 := tY_eq ▸ Nat.mod_lt _ (by decide)
  cases o with
  | north | south =>
    obtain ⟨hne, he⟩ := Option.ite_none_left_eq_some.mp h
    have hk := congrArg (fun p => tY p.1) (Option.some.inj he)
    simp only [tY_mkTile] at hk
    omega
  | west | east =>
    obtain ⟨hne, he⟩ := Option.ite_none_left_eq_some.mp h
    have hk := congrArg (fun p => tX p.1) (Option.some.inj he)
    simp only [tX_mkTile] at hk
    omega
  | bridge =>
    obtain ⟨-, he⟩ := Option.ite_none_right_eq_some.mp h
    have hk := congrArg (fun p => tDie p.1) (Option.some.inj he)
    simp only [tDie_mkTile] at hk
    exact Bool.not_ne_self _ hk
  | loc | edgeN | edgeS | edgeW => cases h
end

/-! ## What the movement of flits leaves as it was -/

/-- State `s'` is `s` but for the Gallery's queues and windows and the Opver ports. -/
def QueuesOnly (s s' : State) : Prop :=
  s' = { s with opv := s'.opv, net := { s.net with
    links := s'.net.links, ejects := s'.net.ejects, edges := s'.net.edges, wins := s'.net.wins } }

section
variable {s s' s'' : State} {r r' : TileId} {o inp sd sd' : Side} {vc k : Nat} {fl : Flit} {l rest : List Flit} {w : Win}
  {served : Option (Nat × Side)}

theorem QueuesOnly.refl : QueuesOnly s s := rfl
theorem QueuesOnly.trans (h : QueuesOnly s s') (h' : QueuesOnly s' s'') : QueuesOnly s s'' := by
  unfold QueuesOnly at *
  rw [h', h]
theorem QueuesOnly.tiles (h : QueuesOnly s s') : s'.tiles = s.tiles := by rw [show s' = _ from h]
theorem QueuesOnly.mem (h : QueuesOnly s s') : s'.mem = s.mem := by rw [show s' = _ from h]
theorem QueuesOnly.err (h : QueuesOnly s s') : s'.err = s.err := by rw [show s' = _ from h]
theorem QueuesOnly.dev (h : QueuesOnly s s') : s'.dev = s.dev := by rw [show s' = _ from h]
theorem QueuesOnly.takenAt (h : QueuesOnly s s') {i : Nat} : s'.takenAt r i = s.takenAt r i := by
  rw [show s' = _ from h]
  rfl
theorem QueuesOnly.sentAt (h : QueuesOnly s s') {i : Nat} : s'.sentAt r i = s.sentAt r i := by
  rw [show s' = _ from h]
  rfl
theorem QueuesOnly.olAt (h : QueuesOnly s s') {i : Nat} : s'.olAt r i = s.olAt r i := by
  rw [show s' = _ from h]
  rfl

theorem queuesOnly_setLink : QueuesOnly s (s.setLink k l) := rfl
theorem queuesOnly_setWin : QueuesOnly s (s.setWin r o w) := rfl
theorem queuesOnly_freeSlot : QueuesOnly s (s.freeSlot r inp vc) := by
  unfold State.freeSlot State.modOport State.setOport
  (repeat' split) <;> rfl
theorem State.freeSlot_net : (s.freeSlot r inp vc).net = s.net := by
  unfold State.freeSlot State.modOport
  split
  · exact State.setOport_net ..
  · rfl
theorem State.link_freeSlot : (s.freeSlot r inp vc).link k = s.link k := congrArg (fun n : Net => aGet [] n.links k) State.freeSlot_net
theorem State.link_setLink_self : (s.setLink k l).link k = l := aGet_aSet_self ..
theorem State.link_setLink_other {k' : Nat} (h : k' ≠ k) : (s.setLink k l).link k' = s.link k' := aGet_aSet_other _ _ _ _ _ h

/-! ## Lane-slots (R158, R159) -/

/-- What ageing leaves of a flit: its payload and its header above AGE. -/
def Flit.sansAge (f : Flit) : List PWord × Nat := (f.pay, f.hdr.toNat / 2 ^ 7)
/-- The flits at the heads of VC3 of some inputs age. -/
def State.ageHeads (s : State) (r : TileId) (l : List Side) : State := l.foldl (fun s sd => s.ageHead r sd) s

theorem setField_age {h : W64} {v : Nat} : (setField h 0 7 v).toNat / 2 ^ 7 = h.toNat / 2 ^ 7 := by
  have hlt := h.isLt
  rw [setField, putBits, BitVec.toNat_ofNat]
  omega
/-- Ageing is a write of VC3 of the input, and what it writes differs in AGE alone. -/
theorem State.ageHead_cases : s.ageHead r sd = s ∨
    ∃ l, s.ageHead r sd = s.setLink (linkKey r sd 3) l ∧ l.map Flit.sansAge = (s.link (linkKey r sd 3)).map Flit.sansAge := by
  unfold State.ageHead
  split
  · next f fs h =>
    refine .inr ⟨_, rfl, ?_⟩
    rw [h, List.map_cons, List.map_cons]
    exact congrArg (· :: _) (Prod.ext rfl setField_age)
  · exact .inl rfl
/-- What a lane-slot does: it ages some heads at its router, none before the end of the window, and writes the output's window. -/
theorem State.slotGone_eq : ∃ l w, s.slotGone r o served = (s.ageHeads r l).setWin r o w ∧ ((s.win r o).used < 15 → l = []) := by
  dsimp only [State.slotGone]
  split
  · exact ⟨[], _, rfl, fun _ => rfl⟩
  · next h => exact ⟨_, _, rfl, fun hu => absurd (Nat.succ_lt_succ hu) h⟩

theorem queuesOnly_ageHead : QueuesOnly s (s.ageHead r sd) := by
  obtain h | ⟨l, h, -⟩ := s.ageHead_cases (r := r) (sd := sd) <;> rw [h]
  · exact .refl
  · exact queuesOnly_setLink
theorem queuesOnly_ageHeads {l : List Side} : QueuesOnly s (s.ageHeads r l) :=
  List.foldlRecOn (motive := QueuesOnly s) _ _ .refl fun _ h _ _ => h.trans queuesOnly_ageHead
theorem queuesOnly_slotGone : QueuesOnly s (s.slotGone r o served) := by
  obtain ⟨l, w, h, -⟩ := s.slotGone_eq (r := r) (o := o) (served := served)
  rw [h]
  exact queuesOnly_ageHeads.trans queuesOnly_setWin

theorem State.link_ageHead_other (hk : ∀ sd, k ≠ linkKey r sd 3) : (s.ageHead r sd).link k = s.link k := by
  obtain h | ⟨l, h, -⟩ := s.ageHead_cases (r := r) (sd := sd) <;> rw [h]
  exact State.link_setLink_other (hk sd)
theorem State.link_ageHeads_other {l : List Side} (hk : ∀ sd, k ≠ linkKey r sd 3) : (s.ageHeads r l).link k = s.link k :=
  List.foldlRecOn (motive := fun u : State => u.link k = s.link k) _ _ rfl fun _ h _ _ => (State.link_ageHead_other hk).trans h
theorem State.sansAge_ageHead : ((s.ageHead r sd).link k).map Flit.sansAge = (s.link k).map Flit.sansAge := by
  obtain h | ⟨l, h, hl⟩ := s.ageHead_cases (r := r) (sd := sd) <;> rw [h]
  by_cases hk : k = linkKey r sd 3
  · rw [hk, State.link_setLink_self, hl]
  · rw [State.link_setLink_other hk]
theorem State.sansAge_ageHeads {l : List Side} : ((s.ageHeads r l).link k).map Flit.sansAge = (s.link k).map Flit.sansAge :=
  List.foldlRecOn (motive := fun u : State => (u.link k).map Flit.sansAge = (s.link k).map Flit.sansAge) _ _ rfl
    fun _ h _ _ => State.sansAge_ageHead.trans h
theorem State.eject_ageHeads {l : List Side} : (s.ageHeads r l).eject r' vc = s.eject r' vc := by
  refine List.foldlRecOn (motive := fun u : State => u.eject r' vc = s.eject r' vc) _ _ rfl fun u h sd _ => ?_
  obtain hu | ⟨l, hu, -⟩ := u.ageHead_cases (r := r) (sd := sd) <;> rw [hu]
  · exact h
  · exact h

/-- Only the end of a window changes a buffer, and only one of VC3 at its router. -/
theorem State.link_slotGone (hk : (∀ sd, k ≠ linkKey r sd 3) ∨ (s.win r o).used < 15) :
    (s.slotGone r o served).link k = s.link k := by
  obtain ⟨l, w, h, hl⟩ := s.slotGone_eq (r := r) (o := o) (served := served)
  rw [h]
  obtain hk | hu := hk
  · exact State.link_ageHeads_other hk
  · rw [hl hu]
    rfl
theorem State.sansAge_slotGone : ((s.slotGone r o served).link k).map Flit.sansAge = (s.link k).map Flit.sansAge := by
  obtain ⟨l, w, h, -⟩ := s.slotGone_eq (r := r) (o := o) (served := served)
  rw [h]
  exact State.sansAge_ageHeads
theorem State.eject_slotGone : (s.slotGone r o served).eject r' vc = s.eject r' vc := by
  obtain ⟨l, w, h, -⟩ := s.slotGone_eq (r := r) (o := o) (served := served)
  rw [h]
  exact State.eject_ageHeads

/-! ## Passing on (R154, R161) -/

/-- Where a flit stands that leaves by no Opver port: behind the next router's input, with the tile, or at an edge port. -/
theorem State.passOn_cases (ho : ¬(o = .edgeW ∧ tY r < 8)) (hc : o = .loc → s.dev.cdreset = false) :
    (∃ r' sd, neighbour r o = some (r', sd) ∧
      s.passOn r o vc fl = s.setLink (linkKey r' sd vc) (s.link (linkKey r' sd vc) ++ [fl])) ∨
    neighbour r o = none ∧ (o = .loc ∧ s.passOn r o vc fl = s.setEject r vc (s.eject r vc ++ [fl]) ∨
      o ≠ .loc ∧ ∃ k, s.passOn r o vc fl = s.setEdgeQ k (s.edgeQ k ++ [fl])) := by
  unfold State.passOn
  cases hn : neighbour r o with
  | some p => exact .inl ⟨p.1, p.2, rfl, rfl⟩
  | none =>
    refine .inr ⟨rfl, ?_⟩
    cases o with
    | loc => exact .inl ⟨rfl, if_neg (Bool.eq_false_iff.mp (hc rfl))⟩
    | edgeW => exact .inr ⟨nofun, _, if_neg fun h => ho ⟨rfl, h⟩⟩
    | north | east | south | west | edgeN | edgeS | bridge => exact .inr ⟨nofun, _, rfl⟩

/-- A flit leaves router `r` by `o`, and a lane-slot of `o` is gone. -/
def State.sendOut (s : State) (r : TileId) (o : Side) (vc : Nat) (fl : Flit) (served : Option (Nat × Side)) : State :=
  (s.passOn r o vc fl).slotGone r o served

section
variable (ho : ¬(o = .edgeW ∧ tY r < 8)) (hc : o = .loc → s.dev.cdreset = false)
include ho hc

theorem State.win_passOn : (s.passOn r o vc fl).win r o = s.win r o := by
  obtain ⟨_, _, -, h⟩ | ⟨-, ⟨-, h⟩ | ⟨-, _, h⟩⟩ := State.passOn_cases (vc := vc) (fl := fl) ho hc <;> rw [h] <;> rfl
theorem queuesOnly_sendOut : QueuesOnly s (s.sendOut r o vc fl served) := by
  refine QueuesOnly.trans ?_ queuesOnly_slotGone
  obtain ⟨_, _, -, h⟩ | ⟨-, ⟨-, h⟩ | ⟨-, _, h⟩⟩ := State.passOn_cases (vc := vc) (fl := fl) ho hc <;> rw [h] <;> rfl
/-- The buffers at the router itself are as before the flit is passed on. -/
theorem State.link_passOn_own (hv : vc < 4) : (s.passOn r o vc fl).link (linkKey r sd vc) = s.link (linkKey r sd vc) := by
  obtain ⟨r', sd', hn, h⟩ | ⟨-, ⟨-, h⟩ | ⟨-, _, h⟩⟩ := State.passOn_cases (vc := vc) (fl := fl) ho hc <;> rw [h]
  · exact State.link_setLink_other fun hk => ne_of_neighbour hn (linkKey_inj hv hv hk).1.symm
  · rfl
  · rfl
theorem State.link_sendOut_own (hv : vc < 4) (hw : vc ≠ 3 ∨ (s.win r o).used < 15) :
    (s.sendOut r o vc fl served).link (linkKey r sd vc) = s.link (linkKey r sd vc) := by
  refine (State.link_slotGone ?_).trans (State.link_passOn_own ho hc hv)
  rw [State.win_passOn ho hc]
  exact hw.imp_left fun h3 sd' hk => h3 (linkKey_inj hv (by decide) hk).2.2
theorem State.sansAge_sendOut_own (hv : vc < 4) :
    ((s.sendOut r o vc fl served).link (linkKey r sd vc)).map Flit.sansAge = (s.link (linkKey r sd vc)).map Flit.sansAge := by
  refine State.sansAge_slotGone.trans ?_
  rw [State.link_passOn_own ho hc hv]
end

/-- A flit that leaves by an Opver port stands in the queue of the router's row there (R358). -/
theorem State.passOn_port (hy : tY r < 8) : s.passOn r .edgeW vc fl = s.portAccept (tDie r) vc (tY r) fl := if_pos hy
theorem State.link_sendOut_next (hv : vc < 4) (hn : neighbour r o = some (r', sd)) :
    (s.sendOut r o vc fl served).link (linkKey r' sd vc) = s.link (linkKey r' sd vc) ++ [fl] := by
  refine (State.link_slotGone (.inl fun _ hk => ne_of_neighbour hn (linkKey_inj hv (by decide) hk).1)).trans ?_
  unfold State.passOn
  rw [hn]
  exact State.link_setLink_self
theorem State.eject_sendOut (hc : s.dev.cdreset = false) : (s.sendOut r .loc vc fl served).eject r vc = s.eject r vc ++ [fl] := by
  refine State.eject_slotGone.trans ?_
  rw [show s.passOn r .loc vc fl = s.setEject r vc (s.eject r vc ++ [fl]) from if_neg (Bool.eq_false_iff.mp hc)]
  exact State.eject_setEject

/-! ## Leaving an input -/

/-- Input `inp` of a router is left with the flits `rest`; a receive slot of an Opver port is free again (R343). -/
def State.leaveInput (s : State) (r : TileId) (inp : Side) (vc : Nat) (rest : List Flit) : State :=
  (s.setLink (linkKey r inp vc) rest).freeSlot r inp vc

theorem queuesOnly_leaveInput : QueuesOnly s (s.leaveInput r inp vc rest) := queuesOnly_setLink.trans queuesOnly_freeSlot
theorem State.leaveInput_dev : (s.leaveInput r inp vc rest).dev = s.dev := queuesOnly_leaveInput.dev
theorem State.link_leaveInput_self : (s.leaveInput r inp vc rest).link (linkKey r inp vc) = rest :=
  State.link_freeSlot.trans State.link_setLink_self
theorem State.link_leaveInput_other (hk : k ≠ linkKey r inp vc) : (s.leaveInput r inp vc rest).link k = s.link k :=
  State.link_freeSlot.trans (State.link_setLink_other hk)
theorem State.eject_leaveInput {vc' : Nat} : (s.leaveInput r inp vc rest).eject r' vc' = s.eject r' vc' := by
  rw [State.leaveInput, State.eject, State.freeSlot_net]
  rfl
theorem State.win_leaveInput : (s.leaveInput r inp vc rest).win r' o = s.win r' o := by
  rw [State.leaveInput, State.win, State.freeSlot_net]
  rfl
theorem State.passFlit_eq :
    s.passFlit r inp o vc fl rest = (s.leaveInput r inp vc rest).sendOut r o vc fl (some (vc, inp)) := rfl
end

/-! ## Counting an item (R165, R166) -/

/-- Where the last flit of an item has gone, the item is counted at its inputs and its output. -/
def State.countItem (s : State) (last : Bool) (r : TileId) (srcs : List Nat) (o : Nat) : State :=
  if last then (srcs.foldl (fun s i => s.countTaken r i) s).countSent r o srcs.length else s

section
variable {s : State} {r : TileId} {last : Bool} {srcs : List Nat} {o i k vc : Nat} {t : TileId}

/-- Counting changes the counts of items alone. -/
theorem State.countItem_eq :
    ∃ p n m, s.countItem last r srcs o = { s with net := { s.net with olPos := p, sent := n, taken := m } } := by
  unfold State.countItem
  split
  · obtain ⟨m, h⟩ : ∃ m, srcs.foldl (fun s i => s.countTaken r i) s = { s with net := { s.net with taken := m } } :=
      List.foldlRecOn (motive := fun u : State => ∃ m, u = { s with net := { s.net with taken := m } }) _ _ ⟨_, rfl⟩
        fun _ ⟨_, h⟩ _ _ => h ▸ ⟨_, rfl⟩
    exact ⟨_, _, m, by rw [h]; rfl⟩
  · exact ⟨_, _, _, rfl⟩
theorem State.countItem_tiles : (s.countItem last r srcs o).tiles = s.tiles := by
  obtain ⟨_, _, _, h⟩ := s.countItem_eq (last := last) (r := r) (srcs := srcs) (o := o)
  rw [h]
theorem State.countItem_mem : (s.countItem last r srcs o).mem = s.mem := by
  obtain ⟨_, _, _, h⟩ := s.countItem_eq (last := last) (r := r) (srcs := srcs) (o := o)
  rw [h]
theorem State.countItem_err : (s.countItem last r srcs o).err = s.err := by
  obtain ⟨_, _, _, h⟩ := s.countItem_eq (last := last) (r := r) (srcs := srcs) (o := o)
  rw [h]
theorem State.link_countItem : (s.countItem last r srcs o).link k = s.link k := by
  obtain ⟨_, _, _, h⟩ := s.countItem_eq (last := last) (r := r) (srcs := srcs) (o := o)
  rw [h]
  rfl
theorem State.eject_countItem : (s.countItem last r srcs o).eject t vc = s.eject t vc := by
  obtain ⟨_, _, _, h⟩ := s.countItem_eq (last := last) (r := r) (srcs := srcs) (o := o)
  rw [h]
  rfl
theorem State.takenAt_countTaken : (s.countTaken r i).takenAt r i = s.takenAt r i + 1 :=
  aGet_aSet_self 0 s.net.taken (ioKey r i) (s.takenAt r i + 1)
theorem State.sentAt_countSent : (s.countSent r o i).sentAt r o = s.sentAt r o + 1 :=
  aGet_aSet_self 0 s.net.sent (ioKey r o) (s.sentAt r o + 1)
theorem State.olAt_countSent : (s.countSent r o i).olAt r o = s.olAt r o + i := aGet_aSet_self 0 s.net.olPos (ioKey r o) _
end

/-! ## What the check of a router leaves (R162) -/

section
variable {s : State} {fl fl' : Flit} {errs : List FlitErr} {n : Nat} {l : List (Flit × List FlitErr)}

theorem checkFlit_hdr (h : checkFlit n fl errs = some fl') : fl'.hdr = fl.hdr := by
  obtain ⟨-, he⟩ := Option.ite_none_left_eq_some.mp h
  rw [← Option.some.inj he]
theorem checkFlit_nil : checkFlit n fl [] = some fl := by
  have hpay : (fl.pay.mapIdx fun i p => if FlitErr.payload i ∈ [] && !p.p then ⟨Config.freeWord (n + i), true⟩ else p) = fl.pay :=
    List.ext_getElem (List.length_mapIdx ..) fun i h h' => by simp
  rw [checkFlit, hpay]
  rfl
/-- The checks of a sum group count corrections and draw free values, no more. -/
theorem State.checkOps_eq : ∃ c m v, (s.checkOps l).1 =
    { s with err := { s.err with ce := c }, net := { s.net with corr := m }, dev := { s.dev with free := v } } := by
  induction l generalizing s with
  | nil => exact ⟨_, _, _, rfl⟩
  | cons p l ih =>
    obtain ⟨c, m, v, h⟩ := ih (s := s.flitCe p.2)
    exact ⟨c, m, v, h⟩
/-- Operands without findings stay as they are, and nothing is counted. -/
theorem State.checkOps_sound (hl : ∀ p ∈ l, p.2 = []) : (s.checkOps l).2 = l.map (·.1) ∧ (s.checkOps l).1.err = s.err := by
  induction l generalizing s with
  | nil => exact ⟨rfl, rfl⟩
  | cons p l ih =>
    obtain ⟨f, e⟩ := p
    obtain ⟨rfl, hnil⟩ : e = [] ∧ ∀ p ∈ l, p.2 = [] := List.forall_mem_cons.mp hl
    obtain ⟨hf, he⟩ := ih (s := s.flitCe []) hnil
    refine ⟨?_, he⟩
    change (checkFlit s.dev.free f []).getD f :: (State.checkOps (s.flitCe []) l).2 = _
    rw [checkFlit_nil, hf]
    rfl
end

/-! ## A flit's command (R154, R158, R159, R162, R166) -/

section
variable {s : State} {r : TileId} {inp o : Side} {vc : BitVec 2} {errs : List FlitErr} {fl fl' : Flit} {rest : List Flit} {v : Nat}

/-- The flit as it leaves by output `o`: on VC2 its SLOT is the number of items that the output has sent (R166). -/
def State.outFlit (s : State) (r : TileId) (o : Side) (vc : BitVec 2) (fl : Flit) : Flit :=
  if vc = 2 then { fl with hdr := setField fl.hdr 25 16 (s.sentAt r (sideOl o)) } else fl
/-- The state after the served flit `fl` of input `inp` has left by output `o`. -/
def State.flitPassed (s : State) (r : TileId) (inp o : Side) (vc : BitVec 2) (errs : List FlitErr) (fl : Flit) (rest : List Flit) : State :=
  ((s.flitCe errs).passFlit r inp o vc.toNat (s.outFlit r o vc fl) rest).countItem (decide (vc = 2) && (hdrOf fl.hdr).last) r
    [sideOl inp] (sideOl o)

theorem State.itemBad_named {en : Nat} (he : s.olNow r (sideOl o) = some en) (hs : olSrc en = sideOl inp)
    (ht : (hdrOf fl.hdr).slot = s.takenAt r (sideOl inp)) : s.itemBad r inp o fl = false := by
  unfold State.itemBad
  rw [he]
  dsimp only
  rw [if_neg (not_not.mpr hs), ht]
  simp
theorem State.passItem_named {en : Nat} (he : s.olNow r (sideOl o) = some en) (hs : olSrc en = sideOl inp) (ha : olAdd en = false) :
    s.passItem r inp o errs fl rest = s.flitPassed r inp o 2 errs fl rest := by
  unfold State.passItem
  rw [he]
  dsimp only
  rw [ha, if_neg (by simp [hs])]
  rfl
/-- What becomes of a flit that no check refuses goes by the VC that the next lane-slot serves (R158). -/
theorem execFlitRouterArrival_slot (hh : s.heldRx r inp = false) (hl : s.link (linkKey r inp vc.toNat) = fl :: rest)
    (hk : checkFlit s.dev.free fl errs = some fl') (hr : s.route r fl = some o) (hb : vc = 2 → s.itemBad r inp o fl = false)
    (hv : s.slotVc r o = some v) :
    execFlitRouterArrival r inp vc errs s =
      if v ≠ vc.toNat then .next s
      else if vc = 2 then .next (s.passItem r inp o errs fl' rest)
      else if s.vcPick r o v = some inp then .next ((s.flitCe errs).passFlit r inp o v fl' rest)
      else .next s := by
  have hbad : (decide (vc = 2) && s.itemBad r inp o fl) = false := by
    rw [Bool.and_eq_false_imp]
    exact fun h => hb (of_decide_eq_true h)
  unfold execFlitRouterArrival
  rw [hh, hl]
  dsimp only
  rw [hk]
  dsimp only
  rw [hr]
  dsimp only
  rw [hbad, hv]
  rfl
/-- A flit that is served passes: on VC0, VC1 and VC3 in its turn, on VC2 where the output list names its input (R159, R165, R166). -/
theorem execFlitRouterArrival_passes (hh : s.heldRx r inp = false) (hl : s.link (linkKey r inp vc.toNat) = fl :: rest)
    (hk : checkFlit s.dev.free fl errs = some fl') (hr : s.route r fl = some o) (hv : s.slotVc r o = some vc.toNat)
    (hp : vc ≠ 2 → s.vcPick r o vc.toNat = some inp)
    (hi : vc = 2 → ∃ en, s.olNow r (sideOl o) = some en ∧ olSrc en = sideOl inp ∧ olAdd en = false ∧
      (hdrOf fl.hdr).slot = s.takenAt r (sideOl inp)) :
    execFlitRouterArrival r inp vc errs s = .next (s.flitPassed r inp o vc errs fl' rest) := by
  by_cases h2 : vc = 2
  · obtain ⟨en, he, hs, ha, ht⟩ := hi h2
    rw [execFlitRouterArrival_slot hh hl hk hr (fun _ => State.itemBad_named he hs ht) hv, if_neg (not_not.mpr rfl), if_pos h2,
      State.passItem_named he hs ha, h2]
  · rw [execFlitRouterArrival_slot hh hl hk hr (absurd · h2) hv, if_neg (not_not.mpr rfl), if_neg h2, if_pos (hp h2), State.flitPassed,
      State.outFlit, if_neg h2, decide_eq_false h2]
    rfl
end

/-! ## Forming a sum (R167) -/

/-- The flits at the heads of VC2 of the operands' inputs are gone. -/
def State.takeOperands (s : State) (r : TileId) (srcs : List Nat) : State :=
  srcs.foldl (fun s i => s.leaveInput r (inputSide r i) 2 (s.link (linkKey r (inputSide r i) 2)).tail) s

section
variable {s : State} {r t : TileId} {srcs : List Nat} {i k vc : Nat}

theorem queuesOnly_takeOperands : QueuesOnly s (s.takeOperands r srcs) :=
  List.foldlRecOn (motive := QueuesOnly s) _ _ .refl fun _ h _ _ => h.trans queuesOnly_leaveInput
theorem State.eject_takeOperands : (s.takeOperands r srcs).eject t vc = s.eject t vc :=
  List.foldlRecOn (motive := fun u : State => u.eject t vc = s.eject t vc) _ _ rfl fun _ h _ _ => State.eject_leaveInput.trans h
theorem State.link_takeOperands_other (hk : ∀ i ∈ srcs, k ≠ linkKey r (inputSide r i) 2) :
    (s.takeOperands r srcs).link k = s.link k :=
  List.foldlRecOn (motive := fun u : State => u.link k = s.link k) _ _ rfl
    fun _ h i hi => (State.link_leaveInput_other (hk i hi)).trans h
theorem State.link_takeOperands_self (hd : srcs.Nodup) (h5 : ∀ i ∈ srcs, i ≤ 5) (hi : i ∈ srcs) :
    (s.takeOperands r srcs).link (linkKey r (inputSide r i) 2) = (s.link (linkKey r (inputSide r i) 2)).tail := by
  have hne {j : Nat} (hj : j ∈ srcs) (hij : i ≠ j) : linkKey r (inputSide r i) 2 ≠ linkKey r (inputSide r j) 2 := fun hk =>
    hij (inputSide_inj (h5 i hi) (h5 j hj) (linkKey_inj (by decide) (by decide) hk).2.1)
  induction srcs generalizing s with
  | nil => cases hi
  | cons j l ih =>
    obtain ⟨hj, hd⟩ := List.nodup_cons.mp hd
    change ((s.leaveInput r (inputSide r j) 2 _).takeOperands r l).link _ = _
    obtain rfl | hi' := List.mem_cons.mp hi
    · rw [State.link_takeOperands_other fun j' hj' => hne (List.mem_cons_of_mem _ hj') fun e => hj (e ▸ hj'), State.link_leaveInput_self]
    · rw [ih hd (fun k hk => h5 k (List.mem_cons_of_mem _ hk)) hi' fun hk => hne (List.mem_cons_of_mem _ hk),
        State.link_leaveInput_other (hne List.mem_cons_self fun e => hj (e ▸ hi'))]
end

section
variable {s : State} {r : TileId} {out : Side} {errs : List (List FlitErr)} {srcs : List Nat} {f0 : Flit} {fs : List Flit}
  {found : List (Flit × List FlitErr)}

/-- The flit of a sum group: the first operand's header with the SLOT of the output, and the sum of what the checks leave. -/
def State.sumFlit (s : State) (r : TileId) (out : Side) (f0 : Flit) (found : List (Flit × List FlitErr)) : Flit :=
  { f0 with pay := sumPay ((s.checkOps found).2.map (·.pay)), hdr := setField f0.hdr 25 16 (s.sentAt r (sideOl out)) }
/-- The state after a sum group has been formed and its flit has left. -/
def State.sumFormed (s : State) (r : TileId) (out : Side) (srcs : List Nat) (f0 : Flit) (found : List (Flit × List FlitErr)) : State :=
  (((s.checkOps found).1.takeOperands r srcs).sendOut r out 2 (s.sumFlit r out f0 found)
    (some (2, inputSide r (srcs.getD 0 0)))).countItem (hdrOf f0.hdr).last r srcs (sideOl out)

theorem State.sentAt_checkOps {o : Nat} : (s.checkOps found).1.sentAt r o = s.sentAt r o := by
  obtain ⟨_, _, _, h⟩ := s.checkOps_eq (l := found)
  rw [h]
  rfl
theorem State.link_checkOps {k : Nat} : (s.checkOps found).1.link k = s.link k := by
  obtain ⟨_, _, _, h⟩ := s.checkOps_eq (l := found)
  rw [h]
  rfl
theorem State.eject_checkOps {vc : Nat} : (s.checkOps found).1.eject r vc = s.eject r vc := by
  obtain ⟨_, _, _, h⟩ := s.checkOps_eq (l := found)
  rw [h]
  rfl
theorem State.checkOps_mem : (s.checkOps found).1.mem = s.mem := by
  obtain ⟨_, _, _, h⟩ := s.checkOps_eq (l := found)
  rw [h]
theorem State.checkOps_cdreset : (s.checkOps found).1.dev.cdreset = s.dev.cdreset := by
  obtain ⟨_, _, _, h⟩ := s.checkOps_eq (l := found)
  rw [h]

/-- A complete sum group with sound operands, whose output serves VC2, is formed. -/
theorem execSumGroupForm_forms (hg : s.group r (sideOl out) = some srcs) (hd : srcs.Nodup)
    (hh : srcs.map (fun i => (s.link (linkKey r (inputSide r i) 2)).head?) = (f0 :: fs).map some)
    (hf : found = (f0 :: fs).mapIdx fun k f => (f, errs.getD k [])) (hk : ∀ p ∈ found, (checkFlit 0 p.1 p.2).isSome = true)
    (hs : ∀ p ∈ srcs.zip (f0 :: fs), (hdrOf p.2.hdr).slot = s.takenAt r p.1 ∧ s.route r p.2 = some out)
    (hi : ∀ f ∈ f0 :: fs, sameItem f0 f = true) (hv : s.slotVc r out = some 2) :
    execSumGroupForm r out errs s = .next (s.sumFormed r out srcs f0 found) := by
  have hpresent : (((f0 :: fs).map some).any (·.isNone) || !decide srcs.Nodup) = false := by
    simp [hd]
  have hheads : ((f0 :: fs).map some).filterMap id = f0 :: fs := by
    rw [List.filterMap_map]
    exact List.filterMap_some
  have hcheck : ((srcs.zip found).find? fun p => (checkFlit 0 p.2.1 p.2.2).isNone) = none :=
    List.find?_eq_none.mpr fun p hp => by
      rw [Option.isNone_iff_eq_none, ← Option.not_isSome_iff_eq_none, not_not]
      exact hk _ (List.of_mem_zip hp).2
  have hslot : ((srcs.zip (f0 :: fs)).find? fun p => decide ((hdrOf p.2.hdr).slot ≠ s.takenAt r p.1)) = none :=
    List.find?_eq_none.mpr fun p hp => by simp [(hs p hp).1]
  have hroute : ((srcs.zip (f0 :: fs)).find? fun p => decide (s.route r p.2 ≠ some out)) = none :=
    List.find?_eq_none.mpr fun p hp => by simp [(hs p hp).2]
  have hsame : ((f0 :: fs).any fun f => !sameItem f0 f) = false := by
    rw [List.any_eq_false]
    exact fun f hf => by simp [hi f hf]
  unfold execSumGroupForm
  rw [hg]
  dsimp only
  rw [hh, hpresent, hheads, ← hf]
  dsimp only
  rw [hcheck]
  dsimp only
  rw [hslot]
  dsimp only
  rw [hroute]
  dsimp only
  rw [hsame, if_neg Bool.false_ne_true, if_neg Bool.false_ne_true, if_neg (not_not.mpr hv), State.sumFormed, State.sumFlit,
    State.sentAt_checkOps]
  rfl
end

/-! ## What the two commands do -/

section
variable {s : State} {r r' : TileId} {inp o sd : Side} {vc : BitVec 2} {errs : List FlitErr} {fl fl' : Flit} {rest : List Flit}

theorem State.link_flitPassed_next (hn : neighbour r o = some (r', sd)) :
    (s.flitPassed r inp o vc errs fl rest).link (linkKey r' sd vc.toNat) = s.link (linkKey r' sd vc.toNat) ++ [s.outFlit r o vc fl] := by
  rw [State.flitPassed, State.link_countItem, State.passFlit_eq, State.link_sendOut_next vc.isLt hn, State.link_leaveInput_other]
  · rfl
  · exact fun hk => ne_of_neighbour hn (linkKey_inj vc.isLt vc.isLt hk).1
theorem State.eject_flitPassed (hc : s.dev.cdreset = false) :
    (s.flitPassed r inp .loc vc errs fl rest).eject r vc.toNat = s.eject r vc.toNat ++ [s.outFlit r .loc vc fl] := by
  rw [State.flitPassed, State.eject_countItem, State.passFlit_eq, State.eject_sendOut, State.eject_leaveInput]
  · rfl
  · rwa [State.leaveInput_dev]
theorem State.flitPassed_last (h : (hdrOf fl.hdr).last = true) :
    s.flitPassed r inp o 2 errs fl rest =
      (((s.flitCe errs).passFlit r inp o 2 (s.outFlit r o 2 fl) rest).countTaken r (sideOl inp)).countSent r (sideOl o) 1 := by
  rw [State.flitPassed, h]
  rfl
theorem State.flitPassed_port (hy : tY r < 8) (h2 : vc ≠ 2) :
    s.flitPassed r inp .edgeW vc errs fl rest =
      (((s.flitCe errs).leaveInput r inp vc.toNat rest).portAccept (tDie r) vc.toNat (tY r) (s.outFlit r .edgeW vc fl)).slotGone r .edgeW
        (some (vc.toNat, inp)) := by
  rw [State.flitPassed, decide_eq_false h2, State.passFlit_eq, State.sendOut, State.passOn_port hy]
  rfl

section
variable (ho : ¬(o = .edgeW ∧ tY r < 8)) (hc : o = .loc → s.dev.cdreset = false)
include ho hc

theorem queuesOnly_passFlit : QueuesOnly s (s.passFlit r inp o vc.toNat fl rest) :=
  queuesOnly_leaveInput.trans (queuesOnly_sendOut ho (by rwa [State.leaveInput_dev]))
theorem State.flitPassed_tiles : (s.flitPassed r inp o vc errs fl rest).tiles = s.tiles :=
  State.countItem_tiles.trans (queuesOnly_passFlit (s := s.flitCe errs) ho hc).tiles
theorem State.flitPassed_mem : (s.flitPassed r inp o vc errs fl rest).mem = s.mem :=
  State.countItem_mem.trans (queuesOnly_passFlit (s := s.flitCe errs) ho hc).mem
/-- The input holds the flits behind the one that has left, but for the AGE of those on VC3 where a window has ended. -/
theorem State.link_flitPassed_own (hw : vc ≠ 3 ∨ (s.win r o).used < 15) :
    (s.flitPassed r inp o vc errs fl rest).link (linkKey r inp vc.toNat) = rest := by
  rw [State.flitPassed, State.link_countItem, State.passFlit_eq, State.link_sendOut_own ho _ vc.isLt, State.link_leaveInput_self]
  · rw [State.win_leaveInput]
    exact hw.imp_left fun h3 e => h3 (BitVec.eq_of_toNat_eq e)
  · rwa [State.leaveInput_dev]
theorem State.sansAge_flitPassed_own :
    ((s.flitPassed r inp o vc errs fl rest).link (linkKey r inp vc.toNat)).map Flit.sansAge = rest.map Flit.sansAge := by
  rw [State.flitPassed, State.link_countItem, State.passFlit_eq, State.sansAge_sendOut_own ho _ vc.isLt, State.link_leaveInput_self]
  rwa [State.leaveInput_dev]
/-- With its last flit an item has been taken from its input and sent by its output (R165, R166). -/
theorem State.counts_flitPassed (h : (hdrOf fl.hdr).last = true) :
    (s.flitPassed r inp o 2 errs fl rest).takenAt r (sideOl inp) = s.takenAt r (sideOl inp) + 1 ∧
    (s.flitPassed r inp o 2 errs fl rest).sentAt r (sideOl o) = s.sentAt r (sideOl o) + 1 ∧
    (s.flitPassed r inp o 2 errs fl rest).olAt r (sideOl o) = s.olAt r (sideOl o) + 1 := by
  have hq : QueuesOnly (s.flitCe errs) ((s.flitCe errs).passFlit r inp o 2 (s.outFlit r o 2 fl) rest) :=
    queuesOnly_passFlit (vc := 2) ho hc
  rw [State.flitPassed_last h]
  exact ⟨State.takenAt_countTaken.trans (congrArg (· + 1) hq.takenAt), State.sentAt_countSent.trans (congrArg (· + 1) hq.sentAt),
    State.olAt_countSent.trans (congrArg (· + 1) hq.olAt)⟩
end
end

section
variable {s : State} {r r' : TileId} {out sd : Side} {srcs : List Nat} {f0 : Flit} {l : List Flit} {found : List (Flit × List FlitErr)}
  {i : Nat}

theorem found_sound (h : found = l.mapIdx fun k f => (f, ([] : List (List FlitErr)).getD k [])) :
    (∀ p ∈ found, p.2 = []) ∧ found.map (·.1) = l := by
  subst h
  constructor
  · intro p hp
    obtain ⟨k, hk, rfl⟩ := List.mem_mapIdx.mp hp
    rfl
  · refine List.ext_getElem (by simp) fun k h h' => ?_
    simp

theorem State.link_sumFormed_next (hn : neighbour r out = some (r', sd)) :
    (s.sumFormed r out srcs f0 found).link (linkKey r' sd 2) = s.link (linkKey r' sd 2) ++ [s.sumFlit r out f0 found] := by
  rw [State.sumFormed, State.link_countItem, State.link_sendOut_next (by decide) hn, State.link_takeOperands_other, State.link_checkOps]
  exact fun i _ hk => ne_of_neighbour hn (linkKey_inj (by decide) (by decide) hk).1
theorem State.eject_sumFormed (hc : s.dev.cdreset = false) :
    (s.sumFormed r .loc srcs f0 found).eject r 2 = s.eject r 2 ++ [s.sumFlit r .loc f0 found] := by
  rw [State.sumFormed, State.eject_countItem, State.eject_sendOut, State.eject_takeOperands, State.eject_checkOps]
  rwa [queuesOnly_takeOperands.dev, State.checkOps_cdreset]

section
variable (ho : ¬(out = .edgeW ∧ tY r < 8)) (hc : out = .loc → s.dev.cdreset = false)
include ho hc

theorem queuesOnly_sumSent {fl : Flit} {served : Option (Nat × Side)} :
    QueuesOnly (s.checkOps found).1 (((s.checkOps found).1.takeOperands r srcs).sendOut r out 2 fl served) :=
  queuesOnly_takeOperands.trans (queuesOnly_sendOut ho (by rwa [queuesOnly_takeOperands.dev, State.checkOps_cdreset]))
theorem State.sumFormed_tiles : (s.sumFormed r out srcs f0 found).tiles = s.tiles :=
  State.countItem_tiles.trans ((queuesOnly_sumSent ho hc).tiles.trans State.checkOps_tiles)
theorem State.sumFormed_mem : (s.sumFormed r out srcs f0 found).mem = s.mem :=
  State.countItem_mem.trans ((queuesOnly_sumSent ho hc).mem.trans State.checkOps_mem)
theorem State.sumFormed_err (hf : ∀ p ∈ found, p.2 = []) : (s.sumFormed r out srcs f0 found).err = s.err :=
  State.countItem_err.trans ((queuesOnly_sumSent ho hc).err.trans (State.checkOps_sound hf).2)
/-- Each operand has left its input. -/
theorem State.link_sumFormed_operand (hd : srcs.Nodup) (h5 : ∀ i ∈ srcs, i ≤ 5) (hi : i ∈ srcs) :
    (s.sumFormed r out srcs f0 found).link (linkKey r (inputSide r i) 2) = (s.link (linkKey r (inputSide r i) 2)).tail := by
  rw [State.sumFormed, State.link_countItem, State.link_sendOut_own ho _ (by decide) (.inl (by decide)),
    State.link_takeOperands_self hd h5 hi, State.link_checkOps]
  rwa [queuesOnly_takeOperands.dev, State.checkOps_cdreset]
end
end

/-- Settles O11: a served flit's command ends in `State.flitPassed` (`execFlitRouterArrival_passes`), a sum group's in `State.sumFormed`
(`execSumGroupForm_forms`); both send one flit out (`State.sendOut`), which changes no buffer of the router itself but at the end of a
window, and there AGE alone. -/
theorem flitsPassOnAndSum : Obligations.FlitsPassOnAndSum := by
  unfold Obligations.FlitsPassOnAndSum
  refine ⟨?_, ?_, ?_⟩
  · intro s r inp vc errs fl fl' rest o hh hl hk hr hv hp hi hc out
    have hhdr := checkFlit_hdr hk
    refine ⟨hhdr, _, execFlitRouterArrival_passes hh hl hk hr hv hp hi, fun ho => ?_, ?_⟩
    · refine ⟨State.flitPassed_tiles ho hc, State.flitPassed_mem ho hc, ?_, ?_, State.sansAge_flitPassed_own ho hc, ?_⟩
      · rintro rfl
        exact State.eject_flitPassed (hc rfl)
      · exact fun hw => ⟨State.link_flitPassed_own ho hc hw, fun _ _ hn => State.link_flitPassed_next hn⟩
      · rintro rfl hlast
        exact State.counts_flitPassed ho hc (hhdr ▸ hlast)
    · rintro rfl hy h2
      have hq : QueuesOnly (s.flitCe errs) ((s.flitCe errs).leaveInput r inp vc.toNat rest) := queuesOnly_leaveInput
      exact ⟨_, State.link_leaveInput_self, hq.tiles, hq.mem, State.flitPassed_port hy h2⟩
  · intro s r inp vc errs fl rest o v hh hl hk hr hb hv hne
    obtain ⟨fl', hk⟩ := Option.isSome_iff_exists.mp hk
    exact (execFlitRouterArrival_slot hh hl hk hr hb hv).trans (if_pos hne)
  · intro s r out errs srcs f0 fs found hg hd h5 hh hf hk hs hi hv hc
    refine ⟨?_, _, execSumGroupForm_forms hg hd hh hf hk hs hi hv, fun ho => ?_⟩
    · rintro rfl
      obtain ⟨hnil, hmap⟩ := found_sound hf
      exact (State.checkOps_sound hnil).1.trans hmap
    · refine ⟨fun i him => State.link_sumFormed_operand ho hc hd h5 him, fun _ _ hn => State.link_sumFormed_next hn, ?_,
        State.sumFormed_tiles ho hc, State.sumFormed_mem ho hc, ?_⟩
      · rintro rfl
        exact State.eject_sumFormed (hc rfl)
      · rintro rfl
        exact State.sumFormed_err ho hc (found_sound hf).1
end Sys2Proof.Machine
end

/-! # Signals and puts that arrive, and the window of a signal object (O17, O60)

An arrival takes the flit at the head of VC1; a signal changes P of one object, or raises SYNC_WINDOW and is not applied (R174). -/
section
set_option Elab.async false
namespace Sys2Proof.Machine

/-! ## Signals at a tile (R172, R174) -/

section
variable {s u s' : State} {t : TileId} {o o' : BitVec 8} {inc code d0 d1 : Nat} {x y : Tile} {v : W32}

theorem Tile.sigP_setP : (x.setP o v).sigP o' = if o' = o then v else x.sigP o' := by
  simp only [Tile.sigP, Tile.setP, aGet_aSet, BitVec.toNat_inj]
theorem State.addSignal_inside (h : ((s.tile t).availWith o inc).toNat < 2 ^ 31) :
    s.addSignal t o inc = s.setTile t ((s.tile t).setP o ((s.tile t).sigP o + BitVec.ofNat 32 inc)) :=
  if_neg (Nat.not_le.mpr h)
theorem State.addSignal_outside (h : 2 ^ 31 ≤ ((s.tile t).availWith o inc).toNat) :
    s.addSignal t o inc = s.raiseTile t 0x8006 o.toNat ((s.tile t).availWith o inc).toNat :=
  if_pos h

/-- Whether a fault has been raised depends on the state before it through its error state, and its device registers only. -/
theorem FaultRaised.of_eq (hd : u.dev = s.dev) (he : u.err = s.err) (h : FaultRaised u s' t code d0) : FaultRaised s s' t code d0 := by
  simpa only [FaultRaised, State.gta, hd, he] using h
/-- A fault under a reset leaves the signals of its tile as they were, another clears them (R458). -/
theorem State.sigP_raiseTile : ((s.raiseTile t code d0 d1).tile t).sigP o = if s.dev.cdreset then (s.tile t).sigP o else 0 := by
  cases h : s.dev.cdreset with
  | true =>
    have htile : (s.raise code .tile (s.gta t).toNat d0 d1).tile t = s.tile t := by
      rw [State.raise_of_cdreset h]
      exact State.tile_of_tiles _ _ (State.log_tiles ..) t
    rw [State.raiseTile, State.tile_modTile_self, htile]
    rfl
  | false =>
    obtain ⟨-, -, -, -, hclear, -⟩ := State.faultRaised_raiseTile (s := s) (t := t) (code := code) (d0 := d0) (d1 := d1)
    rw [hclear h]
    rfl
/-- SYNC_WINDOW: the signal is not applied. -/
theorem faultRaised_addSignal (h : 2 ^ 31 ≤ ((s.tile t).availWith o inc).toNat) : FaultRaised s (s.addSignal t o inc) t 0x8006 o.toNat ∧
    ∀ o', ((s.addSignal t o inc).tile t).sigP o' = if s.dev.cdreset then (s.tile t).sigP o' else 0 := by
  rw [State.addSignal_outside h]
  exact ⟨State.faultRaised_raiseTile, fun _ => State.sigP_raiseTile⟩
theorem Tile.sigP_of_bel (h : y.bel = x.bel) : y.sigP o = x.sigP o := by
  rw [Tile.sigP, h, Tile.sigP]
theorem Tile.availWith_of_bel (h : y.bel = x.bel) : y.availWith o inc = x.availWith o inc := by
  simp only [Tile.availWith, Tile.sigP, Tile.sigC, h]
theorem StoresOnly.bel (h : StoresOnly x y) : y.bel = x.bel := by
  rw [show y = _ from h]
end

/-! ## Arrivals (R178, R180) -/

section
variable {s : State} {t : TileId} {f : Flit} {rest : List Flit}

/-- The handle of a put data flit. -/
def putHdl (f : Flit) : Hdl := BitVec.ofNat 6 (hdrOf f.hdr).dh
/-- A tile with the row of a put data flit. -/
def Tile.putWritten (x : Tile) (f : Flit) : Tile :=
  x.wrRow (hdOf (x.hword (putHdl f))).store ((hdOf (x.hword (putHdl f))).base + (hdrOf f.hdr).drow) f.pay

theorem execSignalArrival_eq {o : BitVec 8} {inc : Nat} (he : s.eject t 1 = f :: rest) (hs : subOf f = 1)
    (ho : o = BitVec.ofNat 8 (f.pay.getD 0 pw0).d.toNat) (hi : inc = (f.pay.getD 0 pw0).d.toNat / 2 ^ 8 % 2 ^ 16) :
    execSignalArrival t s = .next ((s.setEject t 1 rest).addSignal t o inc) := by
  have hobj : (f.pay.getD 0 pw0).d.extractLsb' 0 8 = o := by rw [ho, BitVec.extractLsb', Nat.shiftRight_zero]
  have hinc : fld (f.pay.getD 0 pw0).d 23 8 = inc := (fld_eq ..).trans hi.symm
  unfold execSignalArrival
  rw [he]
  dsimp only
  rw [if_pos hs, hobj, hinc]
theorem execPutDataArrival_eq (he : s.eject t 1 = f :: rest) (hs : subOf f = 0)
    (ho : (s.tile t).offsetOk (putHdl f) (hdrOf f.hdr).drow = true) : execPutDataArrival t s =
      .next (if tagOf f / 2 ^ 13 = 1 then ((s.setEject t 1 rest).setTile t ((s.tile t).putWritten f)).addSignal t (BitVec.ofNat 8 (tagOf f)) 1
        else (s.setEject t 1 rest).setTile t ((s.tile t).putWritten f)) := by
  have hno : (!((s.setEject t 1 rest).tile t).offsetOk (putHdl f) (hdrOf f.hdr).drow) = false := by
    rw [show (s.setEject t 1 rest).tile t = s.tile t from rfl, ho]
    rfl
  unfold execPutDataArrival
  rw [he]
  dsimp only
  rw [if_pos hs]
  exact if_neg (ne_true_of_eq_false hno)
theorem Tile.bel_putWritten {x : Tile} : (x.putWritten f).bel = x.bel := Tile.storesOnly_wrRow.bel
theorem Tile.rdRow_putWritten {x : Tile} {n : Nat} (ho : x.offsetOk (putHdl f) n = true) (hl : f.pay.length = 8) :
    (x.putWritten f).rdRow (hdOf (x.hword (putHdl f))).store ((hdOf (x.hword (putHdl f))).base + (hdrOf f.hdr).drow) = f.pay :=
  Tile.rdRow_wrRow (Tile.store_lt_of_offsetOk ho) hl
end

/-- Settles O17: the arrivals are `execSignalArrival_eq` and `execPutDataArrival_eq`, the signal is `State.addSignal_inside`. -/
theorem signalsArrive : Obligations.SignalsArrive := by
  unfold Obligations.SignalsArrive
  constructor
  · intro s t f rest o inc he hs ho hi hin
    have hadd : (s.setEject t 1 rest).addSignal t o inc = (s.setEject t 1 rest).setTile t
        ((s.tile t).setP o ((s.tile t).sigP o + BitVec.ofNat 32 inc)) := State.addSignal_inside hin
    refine ⟨_, (execSignalArrival_eq he hs ho hi).trans (congrArg _ hadd), ?_⟩
    dsimp only
    rw [State.tile_setTile_self]
    exact ⟨State.eject_setEject, fun o' => Tile.sigP_setP, rfl, fun u hu => State.tile_setTile_other _ _ _ _ hu⟩
  · rintro s t f rest dh he hs hl rfl ho hin
    refine ⟨_, execPutDataArrival_eq he hs ho, ?_⟩
    have hrow := Tile.rdRow_putWritten ho hl
    have hbel : ((s.tile t).putWritten f).bel = (s.tile t).bel := Tile.bel_putWritten
    dsimp only
    by_cases hput : tagOf f / 2 ^ 13 = 1
    · rw [if_pos hput, State.addSignal_inside (by rw [State.tile_setTile_self, Tile.availWith_of_bel hbel]; exact hin hput),
        State.tile_setTile_self, State.tile_setTile_self]
      refine ⟨State.eject_setEject, hrow, fun o' => ?_⟩
      rw [Tile.sigP_setP, Tile.sigP_of_bel hbel, Tile.sigP_of_bel hbel]
      by_cases ho' : o' = BitVec.ofNat 8 (tagOf f)
      · subst ho'
        rw [if_pos rfl, if_pos ⟨hput, rfl⟩]
        rfl
      · rw [if_neg ho', if_neg fun h => ho' h.2]
    · rw [if_neg hput, State.tile_setTile_self]
      refine ⟨State.eject_setEject, hrow, fun o' => ?_⟩
      rw [if_neg fun h => hput h.1, Tile.sigP_of_bel hbel]

/-- A consuming WAIT for more than the window holds, outside a handler (R174). -/
theorem waitIssue_window {s : State} {t : TileId} {f : WaitF} (hh : (s.tile t).core.hnd = none) (hn : 2 ^ 31 ≤ ((s.tile t).waitN f).toNat) :
    waitIssue t .consume f s = s.raiseTile t 0x8006 f.obj.toNat ((s.tile t).waitN f).toNat := by
  dsimp only [waitIssue]
  rw [hh]
  exact if_pos (decide_eq_true hn)

/-- Settles O60: a signal and a PUTH outside the window are `faultRaised_addSignal`, a consuming WAIT is `waitIssue_window`. -/
theorem syncWindowFaults : Obligations.SyncWindowFaults := by
  unfold Obligations.SyncWindowFaults
  refine ⟨fun s t f rest o inc he => ⟨?_, ?_⟩, ?_⟩
  · rintro ⟨hs, ho, hi, hout⟩
    obtain ⟨hfault, hsig⟩ := faultRaised_addSignal (s := s.setEject t 1 rest) hout
    exact ⟨_, execSignalArrival_eq he hs ho hi, hfault.of_eq rfl rfl, hsig⟩
  · rintro ⟨hs, hput, ho, rfl, hout⟩
    have hbel : ((s.tile t).putWritten f).bel = (s.tile t).bel := Tile.bel_putWritten
    obtain ⟨hfault, hsig⟩ := faultRaised_addSignal (s := (s.setEject t 1 rest).setTile t ((s.tile t).putWritten f)) (t := t)
      (o := BitVec.ofNat 8 (tagOf f)) (inc := 1) (by rw [State.tile_setTile_self, Tile.availWith_of_bel hbel]; exact hout)
    refine ⟨_, (execPutDataArrival_eq he hs ho).trans (congrArg _ (if_pos hput)), hfault.of_eq rfl rfl, fun o' => (hsig o').trans ?_⟩
    rw [State.tile_setTile_self, Tile.sigP_of_bel hbel]
    rfl
  · rintro s t e f n hr hh rfl hout
    have hn : ((s.issueEcc t e).tile t).waitN f = ((s.tile t).reg f.rv).setWidth 32 + f.imm.setWidth 32 := by
      rw [Tile.waitN, State.reg_issueEcc]
    have hh' : ((s.issueEcc t e).tile t).core.hnd = none := by
      rw [State.tile_issueEcc]
      exact hh
    refine ⟨_, issue_ready _ hr, ?_⟩
    rw [waitIssue_window hh' (hn ▸ hout)]
    exact State.faultRaised_raiseTile

end Sys2Proof.Machine
end

/-! # Messages and results that arrive, and queues that spill (O22, O21)

A queue takes the flits of a message one by one, a result as a whole, and ring records as its entries come free; what becomes readable is
seen by the sync port, which has nothing to do here (R190, R194 to R196). -/
section
set_option Elab.async false
namespace Sys2Proof.Machine

/-! ## What becomes readable (R190, R193) -/

section
variable {s u : State} {t : TileId} {x y : Tile} {act : Bool} {hidx : BitVec 4}

theorem State.drain_idle (h : (s.tile t).bel.syncq = []) : s.drain t = s := by
  rw [State.drain, h]
  rfl
/-- State `u` is `s`, but for the counters of tile `t`. -/
structure CountedOnly (t : TileId) (s u : State) : Prop where
  self : u.tile t = { s.tile t with ctr := (u.tile t).ctr }
  net : u.net = s.net
  mem : u.mem = s.mem

theorem State.countedOnly_readable (h : (s.tile t).bel.syncq = []) : CountedOnly t s (s.readable t act hidx) := by
  unfold State.readable
  dsimp only
  split
  · rw [State.drain_idle (by rw [State.tile_modTile_self]; exact h)]
    exact ⟨by rw [State.tile_modTile_self]; rfl, rfl, rfl⟩
  · rw [State.drain_idle h]
    exact ⟨rfl, rfl, rfl⟩
/-- A signal inside the window, and what it makes readable. -/
theorem State.countedOnly_signalled {o : BitVec 8} (h : (s.tile t).bel.syncq = []) (hin : ((s.tile t).availWith o 1).toNat < 2 ^ 31) :
    CountedOnly t (s.setTile t ((s.tile t).setP o ((s.tile t).sigP o + 1))) ((s.addSignal t o 1).readable t act hidx) := by
  rw [State.addSignal_inside hin]
  exact State.countedOnly_readable (by rw [State.tile_setTile_self]; exact h)
theorem CountedOnly.bel (h : CountedOnly t s u) : (u.tile t).bel = (s.tile t).bel := by rw [h.self]
theorem CountedOnly.core (h : CountedOnly t s u) : (u.tile t).core = (s.tile t).core := by rw [h.self]
theorem CountedOnly.storesKept (h : CountedOnly t s u) : StoresKept (s.tile t) (u.tile t) := by
  rw [h.self]
  exact ⟨rfl, rfl, rfl, rfl⟩
theorem CountedOnly.eject {vc : Nat} (h : CountedOnly t s u) : u.eject t vc = s.eject t vc := by
  rw [State.eject, h.net, State.eject]
theorem Tile.queue_of_bel {q : BitVec 2} (h : y.bel = x.bel) : y.queue q = x.queue q := by
  rw [Tile.queue, h, Tile.queue]
end

/-! ## Message flits (R190) -/

section
variable {s : State} {t : TileId} {f : Flit} {rest : List Flit} {q : BitVec 2} {ms : List QMsg} {m : QMsg}

/-- A tile whose queue `q` holds the messages `ms`. -/
def Tile.withMsgs (x : Tile) (q : BitVec 2) (ms : List QMsg) : Tile := x.setQueue q { x.queue q with msgs := ms }

theorem Tile.queue_withMsgs {x : Tile} : ((x.withMsgs q ms).queue q).msgs = ms := by
  rw [Tile.withMsgs, Tile.queue_setQueue, if_pos rfl]
/-- The state in which the flit at the head of VC1 has become part of the messages `ms`. -/
def State.msgTaken (s : State) (t : TileId) (rest : List Flit) (q : BitVec 2) (ms : List QMsg) : State :=
  (s.setEject t 1 rest).setTile t ((s.tile t).withMsgs q ms)

theorem State.tile_msgTaken : (s.msgTaken t rest q ms).tile t = (s.tile t).withMsgs q ms := State.tile_setTile_self ..
theorem State.eject_msgTaken : (s.msgTaken t rest q ms).eject t 1 = rest := State.eject_setEject
theorem execMessageFlitArrival_eq (he : s.eject t 1 = f :: rest) (hs : subOf f = 2) (ht : tagOf f / 4 % 2 = 0)
    (hq : q = BitVec.ofNat 2 (tagOf f / 2 ^ 12)) (ha : addFlit (srcOf f) f.pay ((s.tile t).queue q).msgs = (ms, some m)) :
    execMessageFlitArrival t s = .next (if m.complete
      then ((s.msgTaken t rest q ms).addSignal t (BitVec.ofNat 8 (252 + q.toNat)) 1).readable t m.act m.hidx else s.msgTaken t rest q ms) := by
  subst hq
  unfold execMessageFlitArrival
  rw [he]
  dsimp only
  rw [hs, ht, if_pos (by decide), show (s.setEject t 1 rest).tile t = s.tile t from rfl, ha]
  dsimp only
  split <;> rfl
end

/-! ## Contributions and results (R194) -/

section
variable {s : State} {t : TileId} {f : Flit} {rest : List Flit} {slot : BitVec 2} {x : Tile} {g : Gta} {row : List PWord}

/-- A tile whose result of a slot has taken an entry of queue 3, and has signalled it. -/
def Tile.resultPlaced (x : Tile) (g : Gta) (slot : BitVec 2) (row : List PWord) : Tile :=
  let y := (x.withMsgs 3 ((x.queue 3).msgs ++ [⟨g, false, 0, 1, false, true, [row], 0⟩])).setCslot slot
    { x.cslot slot with armed := false, cnt := 0, acc := [], poison := [], result := none }
  y.setP 255 (y.sigP 255 + 1)

theorem Tile.queue_resultPlaced :
    ((x.resultPlaced g slot row).queue 3).msgs = (x.queue 3).msgs ++ [⟨g, false, 0, 1, false, true, [row], 0⟩] :=
  Tile.queue_withMsgs
theorem Tile.cslot_resultPlaced : (x.resultPlaced g slot row).cslot slot =
    { x.cslot slot with armed := false, cnt := 0, acc := [], poison := [], result := none } :=
  Tile.cslot_setCslot_self
theorem Tile.sigP_resultPlaced : (x.resultPlaced g slot row).sigP 255 = x.sigP 255 + 1 := by
  rw [Tile.resultPlaced, Tile.sigP_setP, if_pos rfl]
  rfl
/-- A result takes a free entry at once (R194). -/
theorem State.placeResult_room (hr : ((s.tile t).queue 3).used + 1 ≤ 16) (hq : (s.tile t).bel.syncq = [])
    (hin : ((s.tile t).availWith 255 1).toNat < 2 ^ 31) :
    ((s.placeResult t slot row).tile t) = (s.tile t).resultPlaced (s.gta t) slot row ∧ (s.placeResult t slot row).net = s.net := by
  dsimp only [State.placeResult]
  rw [if_pos hr, State.addSignal_inside (by rw [State.tile_setTile_self]; exact hin), State.tile_setTile_self,
    State.drain_idle (by rw [State.tile_setTile_self]; exact hq), State.tile_setTile_self]
  exact ⟨rfl, rfl⟩

/-- A slot with a contribution more. -/
def Tile.contributed (x : Tile) (slot : BitVec 2) (f : Flit) : Tile := x.setCslot slot ((x.cslot slot).take f.pay)

theorem Tile.cslot_contributed : (x.contributed slot f).cslot slot = (x.cslot slot).take f.pay := Tile.cslot_setCslot_self
theorem execContributionArrival_eq (he : s.eject t 1 = f :: rest) (hs : subOf f = 2) (ht : tagOf f / 4 % 2 = 1)
    (hslot : slot = BitVec.ofNat 2 (tagOf f / 32)) (hn : ((s.tile t).cslot slot).result = none) :
    execContributionArrival t s = .next (if ((s.tile t).cslot slot).n ≤ ((s.tile t).cslot slot).cnt + 1
      then ((s.setEject t 1 rest).setTile t ((s.tile t).contributed slot f)).placeResult t slot (((s.tile t).cslot slot).take f.pay).row
      else (s.setEject t 1 rest).setTile t ((s.tile t).contributed slot f)) := by
  subst hslot
  unfold execContributionArrival
  rw [he]
  dsimp only
  rw [hs, ht, if_pos (by decide), hn, if_neg (by decide)]
  exact (apply_ite _ _ _ _).symm
end

/-- Settles O22: a message flit is `execMessageFlitArrival_eq`, a contribution `execContributionArrival_eq`, and a result takes its entry as
`State.placeResult_room` says. -/
theorem messagesArrive : Obligations.MessagesArrive := by
  unfold Obligations.MessagesArrive
  refine ⟨?_, ?_, ?_, ?_⟩
  · intro s t f rest q ms m he hs ht hq ha hidle hin
    refine ⟨_, execMessageFlitArrival_eq he hs ht hq ha, ?_⟩
    dsimp only
    cases hm : m.complete with
    | true =>
      have hcount := State.countedOnly_signalled (s := s.msgTaken t rest q ms) (t := t) (o := BitVec.ofNat 8 (252 + q.toNat)) (act := m.act)
        (hidx := m.hidx) (by rw [State.tile_msgTaken]; exact hidle) (by rw [State.tile_msgTaken]; exact hin)
      have hkept := hcount.storesKept
      rw [State.tile_setTile_self, State.tile_msgTaken] at hkept
      rw [if_pos rfl, hcount.eject, hcount.core, Tile.queue_of_bel hcount.bel]
      simp only [Tile.sigP_of_bel hcount.bel, State.tile_setTile_self, State.tile_msgTaken]
      refine ⟨State.eject_setEject, Tile.queue_withMsgs, fun o => ?_, rfl, hkept⟩
      rw [Tile.sigP_setP]
      by_cases ho : o = BitVec.ofNat 8 (252 + q.toNat)
      · rw [if_pos ho, if_pos ⟨trivial, ho⟩, ho]
        rfl
      · rw [if_neg ho, if_neg fun h => ho h.2]
        rfl
    | false =>
      rw [if_neg Bool.false_ne_true, State.tile_msgTaken]
      exact ⟨State.eject_msgTaken, Tile.queue_withMsgs, fun o => (if_neg fun h => Bool.false_ne_true h.1).symm, rfl, ⟨rfl, rfl, rfl, rfl⟩⟩
  · intro s t f rest slot he hs ht hslot hn hlt
    refine ⟨_, execContributionArrival_eq he hs ht hslot hn, ?_⟩
    dsimp only
    rw [if_neg (Nat.not_le.mpr hlt), State.tile_setTile_self]
    exact ⟨State.eject_setEject, Tile.cslot_contributed, rfl⟩
  · intro s t f rest slot he hs ht hslot hn hle hroom hidle hin
    refine ⟨_, execContributionArrival_eq he hs ht hslot hn, ?_⟩
    dsimp only
    obtain ⟨htile, hnet⟩ := State.placeResult_room (s := (s.setEject t 1 rest).setTile t ((s.tile t).contributed slot f)) (t := t)
      (slot := slot) (row := (((s.tile t).cslot slot).take f.pay).row)
      (by rw [State.tile_setTile_self]; exact hroom) (by rw [State.tile_setTile_self]; exact hidle) (by rw [State.tile_setTile_self]; exact hin)
    rw [State.tile_setTile_self] at htile
    rw [if_pos hle, htile, State.eject, hnet, Tile.queue_resultPlaced, Tile.cslot_resultPlaced, Tile.sigP_resultPlaced]
    exact ⟨State.eject_setEject, rfl, rfl, rfl⟩
  · intro s t slot row hrow hroom hidle hin
    obtain ⟨htile, -⟩ := State.placeResult_room (slot := slot) (row := row) hroom hidle hin
    refine ⟨s.placeResult t slot row, ?_, ?_⟩
    · change execCombinedResultPlace t slot s = _
      unfold execCombinedResultPlace
      rw [hrow]
    · dsimp only
      rw [htile, Tile.queue_resultPlaced, Tile.cslot_resultPlaced, Tile.sigP_resultPlaced]
      exact ⟨rfl, rfl, rfl, rfl⟩

/-! ## Spills and refills (R195, R196) -/

section
variable {s u : State} {t : TileId} {q : BitVec 2} {c : RingRec} {base : Nat} {er : List MemErr} {rd wr : List (Nat × Nat)}

/-- An access that nothing at its homes stands in the way of is performed at once (R205, R310). -/
theorem State.withSnoops_free {k : State → State} (h : HomesFree s rd wr) : s.withSnoops rd wr k = k s := by
  obtain ⟨hrd, hwr, hbusy⟩ := h
  have hneed : ((rd.flatMap fun r => s.snoopNeed r.1 r.2 false) ++ (wr.flatMap fun r => s.snoopNeed r.1 r.2 true)) = [] :=
    List.append_eq_nil_iff.mpr ⟨List.flatMap_eq_nil_iff.mpr hrd, List.flatMap_eq_nil_iff.mpr hwr⟩
  rw [State.withSnoops, hneed, hbusy]
  rfl
/-- The records of a ring of which record `c` has been read back, those that the head has passed left out. -/
def OvRing.recsBack (r : OvRing) (c : RingRec) : List RingRec := (r.recs.map fun d => if d = c then { d with pad := true } else d).dropWhile (·.pad)
/-- A queue with ring record `c` read back, whose flits are `fls`. -/
def MsgQ.refilled (m : MsgQ) (c : RingRec) (fls : List (List PWord)) : MsgQ :=
  { m with
    msgs := m.msgs ++ [⟨c.src, c.act, c.hidx, c.len, true, false, fls, 0⟩], readBack := m.readBack + 1
    spilling := m.spilling && !decide (m.readBack + 1 = m.placed), busyFrom := if decide (m.readBack + 1 = m.placed) then none else m.busyFrom }
/-- A tile with ring record `c` read back into queue `q`. -/
def Tile.refilled (x : Tile) (q : BitVec 2) (c : RingRec) (fls : List (List PWord)) : Tile :=
  ({ x with bel := { x.bel with ring := { x.bel.ring with
      recs := x.bel.ring.recsBack c, head := match x.bel.ring.recsBack c with | d :: _ => d.off | [] => x.bel.ring.tail } } } : Tile).setQueue q
    ((x.queue q).refilled c fls)
/-- The flits of ring record `c` behind its header, in memory. -/
def Mem.recordFlits (m : Mem) (base : Nat) (c : RingRec) : List (List PWord) := (List.range c.len).map fun k => m.words (base + c.off + 64 * (k + 1)) 8

theorem Tile.queue_refilled {x : Tile} {fls : List (List PWord)} : (x.refilled q c fls).queue q = (x.queue q).refilled c fls := by
  rw [Tile.refilled, Tile.queue_setQueue, if_pos rfl]
/-- A tile whose queue `q` begins to spill. -/
def Tile.spillBegun (x : Tile) (q : BitVec 2) : Tile :=
  x.setQueue q { x.queue q with spilling := true, fullRaised := false, placed := 0, readBack := 0, refused := 0 }

theorem Tile.queue_spillBegun {x : Tile} : (x.spillBegun q).queue q =
    { x.queue q with spilling := true, fullRaised := false, placed := 0, readBack := 0, refused := 0 } := by
  rw [Tile.spillBegun, Tile.queue_setQueue, if_pos rfl]
theorem execQueueSpillStart_due {n : Nat} (hb : ((s.tile t).queue q).busyFrom = some n) (hs : ((s.tile t).queue q).spilling = false)
    (hn : n + 1024 ≤ (s.tile t).ctr.tally) : execQueueSpillStart t q s =
      .next { s.setTile t ((s.tile t).spillBegun q) with belc := { s.belc with spills := s.belc.spills + 1 } } := by
  have hdue : (!((s.tile t).queue q).spilling && decide (n + 1024 ≤ (s.tile t).ctr.tally)) = true := by rw [hs, decide_eq_true hn]; rfl
  unfold execQueueSpillStart
  dsimp only
  split
  · next n' hb' =>
    cases hb.symm.trans hb'
    exact if_pos hdue
  · next hb' => exact absurd (hb.symm.trans hb') nofun
theorem execRingRefill_eq (hc : (s.tile t).bel.ring.recs.find? (fun c => !c.pad && decide (c.q = q)) = some c) (hb : s.ringBase t = some base)
    (hgot : c.got = c.units) (hroom : ((s.tile t).queue q).used + c.len ≤ 16) (hfree : HomesFree s [(base + c.off, 64 * c.units)] [])
    (hu : u = s.tierErrs [(base + c.off, 64 * c.units)] er) :
    execRingRefill t q er s = .next ((u.setTile t ((s.tile t).refilled q c (u.mem.recordFlits base c))).readable t c.act c.hidx) := by
  subst hu
  unfold execRingRefill
  dsimp only
  rw [hc, hb]
  dsimp only
  rw [if_pos (by simp [hgot, hroom]), State.withSnoops_free hfree]
  rfl
end

/-- Settles O21: a spill begins as `execQueueSpillStart_due` says; a refill is `execRingRefill_eq`, and leaves the queue `MsgQ.refilled`. -/
theorem queuesSpillAndRefill : Obligations.QueuesSpillAndRefill := by
  unfold Obligations.QueuesSpillAndRefill
  constructor
  · intro s t q n hbusy hspill hdue
    refine ⟨_, execQueueSpillStart_due hbusy hspill hdue, ?_⟩
    have htile : ({ s.setTile t ((s.tile t).spillBegun q) with belc := { s.belc with spills := s.belc.spills + 1 } } : State).tile t =
        (s.tile t).spillBegun q := State.tile_setTile_self ..
    dsimp only
    rw [htile, Tile.queue_spillBegun]
    exact ⟨rfl, rfl, rfl, rfl, rfl, rfl⟩
  · intro s u t q c base er hc hb hgot hroom hidle hfree hu
    refine ⟨_, execRingRefill_eq hc hb hgot hroom hfree hu, ?_⟩
    have hcount := State.countedOnly_readable (s := u.setTile t ((s.tile t).refilled q c (u.mem.recordFlits base c))) (t := t)
      (act := c.act) (hidx := c.hidx) (by rw [State.tile_setTile_self]; exact hidle)
    dsimp only
    rw [Tile.queue_of_bel hcount.bel, hcount.bel, hcount.mem, State.tile_setTile_self, Tile.queue_refilled]
    exact ⟨⟨_, rfl, rfl, rfl, rfl, rfl⟩, rfl, rfl, rfl, rfl⟩

end Sys2Proof.Machine
end

/-! # RECV, POLL and handlers (O20)

A RECV that the sync port performs at once takes the head of its queue into eight registers; a handler is entered in place of a held
instruction and left by HRET (R191 to R193). -/
section
set_option Elab.async false
namespace Sys2Proof.Machine

/-! ## A tile written twice -/

section
variable {α : Type} {d : α} {l : Assoc α} {k : Nat} {v w : α} {s : State} {t : TileId} {x y : Tile}

theorem aErase_aInsert : aErase (aInsert l k v) k = aErase l k := by
  induction l with
  | nil => simp [aInsert, aErase]
  | cons kv l ih =>
    obtain ⟨k', v'⟩ := kv
    unfold aErase at ih
    unfold aInsert aErase
    split
    · simp only [List.filter_cons, ih]
    · split
      · next hk => simp [hk]
      · simp
theorem aInsert_aInsert : aInsert (aInsert l k v) k w = aInsert l k w := by
  induction l with
  | nil => simp [aInsert]
  | cons kv l ih =>
    obtain ⟨k', v'⟩ := kv
    by_cases hlt : k' < k
    · simp [aInsert, hlt, ih]
    · by_cases heq : k' = k
      · simp [aInsert, heq]
      · simp [aInsert, hlt, heq]
/-- The first of two writes at one key leaves nothing behind, where it did not take the entry out. -/
theorem aSet_aSet [DecidableEq α] (hv : v ≠ d) : aSet d (aSet d l k v) k w = aSet d l k w := by
  rw [aSet, aSet, if_neg hv, aErase_aInsert, aInsert_aInsert, aSet]
theorem State.setTile_setTile (hx : x ≠ Tile.empty) : (s.setTile t x).setTile t y = s.setTile t y := by
  simp only [State.setTile, aSet_aSet hx]
/-- A tile whose core issues is not as a reset leaves it. -/
theorem Tile.ne_empty_of_issue (h : x.core.phase = .issue) : x ≠ Tile.empty := by
  rintro rfl
  exact absurd h (by decide)
end

/-! ## Scalar registers and their pending writes (R40, R191) -/

/-- Tile `y` is `x`, but for scalar registers and their pending writes. -/
def ScalarsOnly (x y : Tile) : Prop := y = { x with core := { x.core with regs := y.core.regs, pend := y.core.pend } }

section
variable {x y z : Tile} {rt so r : Reg} {b : Bool} {v : W64} {ws : List W64} {k n : Nat}

theorem ScalarsOnly.refl : ScalarsOnly x x := rfl
theorem ScalarsOnly.trans (h : ScalarsOnly x y) (h' : ScalarsOnly y z) : ScalarsOnly x z := by
  rw [ScalarsOnly, show z = _ from h', show y = _ from h]
theorem ScalarsOnly.foldl {α : Type} {l : List α} {f : Tile → α → Tile} (hf : ∀ x a, ScalarsOnly x (f x a)) : ScalarsOnly x (l.foldl f x) :=
  List.foldlRecOn (motive := fun y => ScalarsOnly x y) l f .refl fun y hy a _ => hy.trans (hf y a)
theorem Tile.scalarsOnly_setReg : ScalarsOnly x (x.setReg r v) := by
  unfold Tile.setReg
  split <;> rfl
theorem Tile.scalarsOnly_setPend : ScalarsOnly x (x.setPend r b) := by
  unfold Tile.setPend
  split <;> rfl
theorem Tile.scalarsOnly_recvWords : ScalarsOnly x (x.recvWords rt ws) := .foldl fun _ _ => Tile.scalarsOnly_setReg.trans Tile.scalarsOnly_setPend
theorem Tile.scalarsOnly_recvNone : ScalarsOnly x (x.recvNone rt) := .foldl fun _ _ => Tile.scalarsOnly_setPend
theorem ScalarsOnly.bel (h : ScalarsOnly x y) : y.bel = x.bel := by rw [show y = _ from h]
theorem ScalarsOnly.pc (h : ScalarsOnly x y) : y.core.pc = x.core.pc := by rw [show y = _ from h]
theorem ScalarsOnly.phase (h : ScalarsOnly x y) : y.core.phase = x.core.phase := by rw [show y = _ from h]
theorem ScalarsOnly.storesKept (h : ScalarsOnly x y) : StoresKept x y := by
  rw [show y = _ from h]
  exact ⟨rfl, rfl, rfl, rfl⟩

theorem Tile.reg_of_regs (h : y.core.regs = x.core.regs) : y.reg r = x.reg r := by
  rw [Tile.reg, h, Tile.reg]
theorem Tile.reg_setPend : (x.setPend r b).reg so = x.reg so := by
  unfold Tile.setPend
  split <;> rfl
theorem Tile.reg_setReg_zero : (x.setReg so 0).reg r = if r = so then 0 else x.reg r := by
  rw [Tile.reg_setReg]
  by_cases h : r = so
  · by_cases h0 : r = 0
    · rw [if_neg fun hn => hn.2 h0, if_pos h, h0, Tile.reg_zero]
    · rw [if_pos ⟨h, h0⟩, if_pos h]
  · rw [if_neg fun hn => h hn.1, if_neg h]
theorem Tile.reg_recvNone : (x.recvNone rt).reg so = x.reg so :=
  List.foldlRecOn (motive := fun y : Tile => y.reg so = x.reg so) _ _ rfl fun _ h _ _ => Tile.reg_setPend.trans h
theorem add_ofNat_inj (hk : k < 8) (hn : n < 8) (h : rt + BitVec.ofNat 5 k = rt + BitVec.ofNat 5 n) : k = n := by
  have h' := congrArg BitVec.toNat ((BitVec.add_right_inj rt).mp h)
  simp only [BitVec.toNat_ofNat] at h'
  omega
theorem Tile.reg_foldl_recvWords (hn : n ≤ 8) (hk : k < n) (h0 : rt + BitVec.ofNat 5 k ≠ 0) :
    ((List.range n).foldl (fun x k => (x.setReg (rt + BitVec.ofNat 5 k) (ws.getD k 0)).setPend (rt + BitVec.ofNat 5 k) false) x).reg
      (rt + BitVec.ofNat 5 k) = ws.getD k 0 := by
  induction n with
  | zero => exact absurd hk (Nat.not_lt_zero k)
  | succ n ih =>
    rw [List.range_succ, List.foldl_append, List.foldl_cons, List.foldl_nil, Tile.reg_setPend, Tile.reg_setReg]
    by_cases hkn : k = n
    · rw [hkn, if_pos ⟨rfl, hkn ▸ h0⟩]
    · rw [if_neg fun h => hkn (add_ofNat_inj (by omega) (by omega) h.1)]
      exact ih (by omega) (by omega)
theorem Tile.reg_recvWords (hk : k < 8) (h0 : rt + BitVec.ofNat 5 k ≠ 0) : (x.recvWords rt ws).reg (rt + BitVec.ofNat 5 k) = ws.getD k 0 :=
  Tile.reg_foldl_recvWords (Nat.le_refl 8) hk h0
end

/-! ## RECV (R191) -/

section
variable {s u : State} {t : TileId} {e : Ecc} {x y : Tile} {rt so : Reg} {q : BitVec 2} {m : QMsg} {ms : List QMsg} {ops : List SyncOp}

/-- The tile after a RECV has joined the sync port. -/
def Tile.recvIssued (x : Tile) (rt : Reg) (q : BitVec 2) (so : Reg) : Tile :=
  ((((List.range 8).foldl (fun x k => x.setPend (rt + BitVec.ofNat 5 k) true) (x.step 1)).setPend so true).syncPush (.recv rt q so)).nextWord

/-- What a RECV at issue leaves as it was: all but the pending writes and the word of the core, the counters, the look-ahead state and the
queue of the sync port. -/
theorem Tile.recvIssued_frame : (x.recvIssued rt q so).bel = { x.bel with syncq := x.bel.syncq ++ [.recv rt q so] } ∧
    (x.recvIssued rt q so).core.pc = x.core.pc + 1 ∧ (x.recvIssued rt q so).core.phase = x.core.phase ∧
    StoresKept x (x.recvIssued rt q so) ∧ ∀ r, (x.recvIssued rt q so).reg r = x.reg r := by
  have hs : ScalarsOnly (x.step 1) (((List.range 8).foldl (fun x k => x.setPend (rt + BitVec.ofNat 5 k) true) (x.step 1)).setPend so true) :=
    (ScalarsOnly.foldl fun _ _ => Tile.scalarsOnly_setPend).trans Tile.scalarsOnly_setPend
  have hreg (r : Reg) : (((List.range 8).foldl (fun x k => x.setPend (rt + BitVec.ofNat 5 k) true) (x.step 1)).setPend so true).reg r =
      x.reg r := Tile.reg_setPend.trans
    (List.foldlRecOn (motive := fun y : Tile => y.reg r = x.reg r) _ _ rfl fun _ h _ _ => Tile.reg_setPend.trans h)
  unfold Tile.recvIssued
  generalize ((List.range 8).foldl (fun x k => x.setPend (rt + BitVec.ofNat 5 k) true) (x.step 1)).setPend so true = y at hs hreg
  have hbel : y.bel = x.bel := hs.bel
  refine ⟨?_, congrArg (· + 1) hs.pc, hs.phase, hs.storesKept, hreg⟩
  rw [← hbel]
  rfl
theorem State.syncStep_recv (h : (s.tile t).bel.syncq = .recv rt q so :: ops) (hy : (s.tile t).tryRecv rt q so = some y) :
    s.syncStep t = some ((s.setTile t y).syncDone t ops) := by
  dsimp only [State.syncStep]
  rw [h]
  dsimp only
  rw [hy]
  rfl
/-- A RECV that stands alone in the sync port, and finds what it needs, is performed at once. -/
theorem recv_performed (hi : (u.tile t).core.phase = .issue) (hq : (u.tile t).bel.syncq = [])
    (hy : ((u.tile t).recvIssued rt q so).tryRecv rt q so = some y) (hp : y.core.phase = .issue) :
    (u.setTile t ((u.tile t).recvIssued rt q so)).drain t = u.setTile t { y with bel := { y.bel with syncq := [] } } := by
  obtain ⟨hbel, -, hphase, -, -⟩ := Tile.recvIssued_frame (x := u.tile t) (rt := rt) (q := q) (so := so)
  have hone : ((u.setTile t ((u.tile t).recvIssued rt q so)).tile t).bel.syncq = [.recv rt q so] := by
    rw [State.tile_setTile_self, hbel, hq]
    rfl
  rw [State.drain_single hone (State.syncStep_recv hone (by rw [State.tile_setTile_self]; exact hy)),
    State.setTile_setTile (Tile.ne_empty_of_issue (hphase.trans hi)), State.syncDone, State.modTile, State.tile_setTile_self,
    State.setTile_setTile (Tile.ne_empty_of_issue hp)]

/-- A handler that serves queue `q` has taken a flit of its message (R193). -/
def Tile.handlerTook (x : Tile) (q : BitVec 2) : Tile :=
  match x.core.hnd with
  | some r => if r.q = q && decide (0 < r.left) then { x with core := { x.core with hnd := some { r with left := r.left - 1 } } } else x
  | none => x
/-- A tile from whose queue `q` a RECV takes the next flit of the head `m` of `m :: ms` (R191). -/
def Tile.recvTook (x : Tile) (q : BitVec 2) (m : QMsg) (ms : List QMsg) : Tile :=
  let y := (x.withMsgs q (if m.taken + 1 = m.len then ms else { m with taken := m.taken + 1 } :: ms)).handlerTook q
  if (m.flits.getD m.taken []).any (·.p) then y.count fun c => { c with poisonIn := c.poisonIn + 1 } else y

theorem Tile.tryRecv_message (hm : (x.queue q).msgs = m :: ms) (hc : m.complete = true) : x.tryRecv rt q so =
    some ((((x.recvTook q m ms).recvWords rt ((m.flits.getD m.taken []).map (·.d))).setReg so (tagWord m q m.taken)).setPend so false) := by
  unfold Tile.tryRecv
  dsimp only
  split
  · next h => exact absurd (hm.symm.trans h) nofun
  · next m' ms' h =>
    cases hm.symm.trans h
    exact if_pos hc
theorem Tile.tryRecv_empty (hm : (x.queue q).msgs = []) (hr : x.bel.ring.has q = false) :
    x.tryRecv rt q so = some (((x.recvNone rt).setReg so 0).setPend so false) := by
  unfold Tile.tryRecv
  dsimp only
  rw [hm, hr]
  rfl
theorem Tile.handlerTook_eq : x.handlerTook q = { x with core := { x.core with hnd := (x.handlerTook q).core.hnd } } := by
  unfold Tile.handlerTook
  split
  · split <;> rfl
  · rfl
theorem Tile.recvTook_eq : x.recvTook q m ms =
    { x.withMsgs q (if m.taken + 1 = m.len then ms else { m with taken := m.taken + 1 } :: ms) with
      core := { x.core with hnd := (x.recvTook q m ms).core.hnd }, ctr := (x.recvTook q m ms).ctr } := by
  unfold Tile.recvTook
  dsimp only
  rw [Tile.handlerTook_eq]
  split <;> rfl
theorem Tile.recvTook_frame : ((x.recvTook q m ms).queue q).msgs = (if m.taken + 1 = m.len then ms else { m with taken := m.taken + 1 } :: ms) ∧
    (x.recvTook q m ms).core.pc = x.core.pc ∧ (x.recvTook q m ms).core.phase = x.core.phase ∧ StoresKept x (x.recvTook q m ms) := by
  rw [Tile.recvTook_eq]
  exact ⟨Tile.queue_withMsgs, rfl, rfl, rfl, rfl, rfl, rfl⟩
theorem exec_recv (hr : Ready s t e (.recv t e rt q so)) :
    exec (.recv t e rt q so) s = .next (((s.issueEcc t e).setTile t (((s.issueEcc t e).tile t).recvIssued rt q so)).drain t) :=
  issue_ready (fun s => (s.setTile t ((s.tile t).recvIssued rt q so)).drain t) hr
end

/-! ## POLL and handlers (R192, R193) -/

section
variable {s : State} {t : TileId} {e : Ecc} {q : BitVec 2} {m : QMsg} {a : Nat} {r : HandlerRun}

/-- A tile at POLL: it goes on where no handler is to be entered, and else waits for one. -/
def Tile.polled (x : Tile) : Tile := if x.ready.isSome then { x with core := { x.core with poll := true } } else x.next
/-- A tile that enters the handler at word `a`, with the tag of the message in s30. -/
def Tile.handlerEntered (x : Tile) (tag : W64) (r : HandlerRun) (a : Nat) : Tile :=
  let y := x.setReg 30 tag
  ({ y with core := { y.core with held := none, poll := false, hnd := some r } } : Tile).goTo a 2
/-- Where a handler for the head `m` of queue `q` returns to, and what it may take (R192). -/
def Tile.handlerRun (x : Tile) (q : BitVec 2) (m : QMsg) : HandlerRun :=
  ⟨if x.core.held ≠ none then x.core.pc else x.core.pc + 1, q, m.len - m.taken⟩
/-- A tile whose handler returns: what the handler left of its message is discarded. -/
def Tile.handlerLeft (x : Tile) (r : HandlerRun) : Tile :=
  let y := if 0 < r.left then x.withMsgs r.q ((x.queue r.q).msgs.drop 1) else x
  ({ y with core := { y.core with hnd := none } } : Tile).goTo r.ret 2

theorem State.hnd_issueEcc : ((s.issueEcc t e).tile t).core.hnd = (s.tile t).core.hnd := by rw [State.tile_issueEcc]
theorem State.bel_issueEcc : ((s.issueEcc t e).tile t).bel = (s.tile t).bel := by rw [State.tile_issueEcc]
theorem State.phase_issueEcc : ((s.issueEcc t e).tile t).core.phase = (s.tile t).core.phase := by rw [State.tile_issueEcc]
theorem State.storesKept_issueEcc : StoresKept (s.tile t) ((s.issueEcc t e).tile t) := by
  rw [State.tile_issueEcc]
  exact ⟨rfl, rfl, rfl, rfl⟩
theorem Tile.syncQueued_of_bel {x y : Tile} (h : y.bel = x.bel) : y.syncQueued = x.syncQueued := by rw [Tile.syncQueued, h, Tile.syncQueued]
theorem Tile.ready_of_bel {x y : Tile} (h : y.bel = x.bel) : y.ready = x.ready := by
  simp only [Tile.ready, Tile.queue, Tile.handler, h]

theorem exec_poll (hr : Ready s t e (.poll t e)) (hh : (s.tile t).core.hnd = none) : exec (.poll t e) s =
    .next (if 0 < (s.tile t).syncQueued then s.issueEcc t e else (s.issueEcc t e).setTile t ((s.issueEcc t e).tile t).polled) := by
  change execPoll t e s = _
  unfold execPoll
  have hout : ¬((s.issueEcc t e).tile t).core.hnd.isSome = true := by
    rw [State.hnd_issueEcc, hh]
    decide
  have hqueued : 0 < ((s.issueEcc t e).tile t).syncQueued ↔ 0 < (s.tile t).syncQueued := by rw [Tile.syncQueued_of_bel State.bel_issueEcc]
  rw [issue_ready _ hr]
  exact congrArg _ ((if_neg hout).trans (if_congr hqueued rfl (apply_ite _ _ _ _).symm))
theorem execHandlerEntry_eq (hi : (s.tile t).core.phase = .issue) (hw : (s.tile t).core.held ≠ none ∨ (s.tile t).core.poll = true)
    (hh : (s.tile t).core.hnd = none) (hready : (s.tile t).ready = some (q, m, a)) :
    execHandlerEntry t s = .next (s.setTile t ((s.tile t).handlerEntered (tagWord m q m.taken) ((s.tile t).handlerRun q m) a)) := by
  have henter : (decide ((s.tile t).core.phase = .issue) && ((s.tile t).core.held.isSome || (s.tile t).core.poll) &&
      (s.tile t).core.hnd.isNone) = true := by
    simp only [hi, hh, Option.isNone_none, decide_true, Bool.true_and, Bool.and_true, Bool.or_eq_true]
    exact hw.imp_left Option.isSome_iff_ne_none.mpr
  unfold execHandlerEntry
  dsimp only
  rw [if_pos henter, hready]
  dsimp only [Tile.handlerEntered, Tile.handlerRun]
  simp only [Option.isSome_iff_ne_none]
theorem Tile.handlerEntered_core {x : Tile} {tag : W64} : (x.handlerEntered tag r a).core =
    { (x.setReg 30 tag).core with held := none, poll := false, hnd := some r, pc := a, fixed := false } := rfl
theorem Tile.reg_handlerEntered {x : Tile} {tag : W64} : (x.handlerEntered tag r a).reg 30 = tag := by
  have hreg : (x.handlerEntered tag r a).reg 30 = (x.setReg 30 tag).reg 30 := Tile.reg_of_regs (by rw [Tile.handlerEntered_core])
  rw [hreg, Tile.reg_setReg, if_pos ⟨rfl, by decide⟩]
theorem exec_hret (hr : Ready s t e (.hret t e)) (hh : (s.tile t).core.hnd = some r) (hq : (s.tile t).syncQueued = 0) :
    exec (.hret t e) s = .next ((s.issueEcc t e).setTile t (((s.issueEcc t e).tile t).handlerLeft r)) := by
  change execHret t e s = _
  unfold execHret
  rw [issue_ready _ hr]
  dsimp only
  rw [State.hnd_issueEcc, hh, Tile.syncQueued_of_bel State.bel_issueEcc, hq]
  rfl
theorem Tile.handlerLeft_frame {x : Tile} : (x.handlerLeft r).core = { x.core with pc := r.ret, hnd := none, fixed := false } ∧
    ((x.handlerLeft r).queue r.q).msgs = (if 0 < r.left then (x.queue r.q).msgs.drop 1 else (x.queue r.q).msgs) := by
  unfold Tile.handlerLeft
  split
  · exact ⟨rfl, Tile.queue_withMsgs⟩
  · exact ⟨rfl, rfl⟩
end

/-- Settles O20: a RECV that finds what it needs is `recv_performed`; POLL, the entry of a handler and HRET are `exec_poll`,
`execHandlerEntry_eq` and `exec_hret`. -/
theorem receiveAndHandlers : Obligations.ReceiveAndHandlers := by
  unfold Obligations.ReceiveAndHandlers
  refine ⟨?_, ?_, ?_, ?_, ?_, ?_⟩
  · intro s t e rt q so m ms hr hq hm hc _
    have hi : ((s.issueEcc t e).tile t).core.phase = .issue := State.phase_issueEcc.trans hr.issuing
    have hq' : ((s.issueEcc t e).tile t).bel.syncq = [] := (congrArg Belfry.syncq State.bel_issueEcc).trans hq
    obtain ⟨hbel, hpc, hphase, hstores, -⟩ := Tile.recvIssued_frame (x := (s.issueEcc t e).tile t) (rt := rt) (q := q) (so := so)
    have hm' : ((((s.issueEcc t e).tile t).recvIssued rt q so).queue q).msgs = m :: ms := by
      rw [Tile.queue, hbel, State.bel_issueEcc]
      exact hm
    obtain ⟨htmsgs, htpc, htphase, htstores⟩ := Tile.recvTook_frame (x := ((s.issueEcc t e).tile t).recvIssued rt q so) (q := q) (m := m) (ms := ms)
    have hy := Tile.tryRecv_message (rt := rt) (so := so) hm' hc
    generalize (((s.issueEcc t e).tile t).recvIssued rt q so).recvTook q m ms = z at hy htmsgs htpc htphase htstores
    have hs : ScalarsOnly z (((z.recvWords rt ((m.flits.getD m.taken []).map (·.d))).setReg so (tagWord m q m.taken)).setPend so false) :=
      (Tile.scalarsOnly_recvWords.trans Tile.scalarsOnly_setReg).trans Tile.scalarsOnly_setPend
    refine ⟨_, (exec_recv hr).trans (congrArg _ (recv_performed hi hq' hy (by rw [hs.phase, htphase, hphase, hi]))), _, rfl,
      fun h0 => ?_, fun k hk h0 hne => ?_, ?_, ?_, ?_⟩
    · exact Tile.reg_setPend.trans ((Tile.reg_setReg ..).trans (if_pos ⟨rfl, h0⟩))
    · exact Tile.reg_setPend.trans ((Tile.reg_setReg ..).trans ((if_neg fun h => hne h.1).trans (Tile.reg_recvWords hk h0)))
    · exact (congrArg MsgQ.msgs (Tile.queue_of_bel hs.bel)).trans htmsgs
    · exact hs.pc.trans (htpc.trans (hpc.trans (congrArg (· + 1) State.pc_issueEcc)))
    · exact ((State.storesKept_issueEcc.trans hstores).trans htstores).trans hs.storesKept
  · intro s t e rt q so hr hq hm hring
    have hi : ((s.issueEcc t e).tile t).core.phase = .issue := State.phase_issueEcc.trans hr.issuing
    have hq' : ((s.issueEcc t e).tile t).bel.syncq = [] := (congrArg Belfry.syncq State.bel_issueEcc).trans hq
    obtain ⟨hbel, hpc, hphase, -, hreg⟩ := Tile.recvIssued_frame (x := (s.issueEcc t e).tile t) (rt := rt) (q := q) (so := so)
    have hm' : ((((s.issueEcc t e).tile t).recvIssued rt q so).queue q).msgs = [] := by
      rw [Tile.queue, hbel, State.bel_issueEcc]
      exact hm
    have hring' : (((s.issueEcc t e).tile t).recvIssued rt q so).bel.ring.has q = false := by
      rw [hbel, State.bel_issueEcc]
      exact hring
    have hy := Tile.tryRecv_empty (rt := rt) (so := so) hm' hring'
    have hs {z : Tile} : ScalarsOnly z (((z.recvNone rt).setReg so 0).setPend so false) :=
      (Tile.scalarsOnly_recvNone.trans Tile.scalarsOnly_setReg).trans Tile.scalarsOnly_setPend
    refine ⟨_, (exec_recv hr).trans (congrArg _ (recv_performed hi hq' hy (by rw [hs.phase, hphase, hi]))), _, rfl, fun r => ?_, ?_, ?_⟩
    · exact Tile.reg_setPend.trans (Tile.reg_setReg_zero.trans
        (if_congr Iff.rfl rfl (Tile.reg_recvNone.trans ((hreg r).trans State.reg_issueEcc))))
    · dsimp only
      rw [hs.bel, hbel, State.bel_issueEcc]
      exact Belfry.with_syncq hq
    · exact hs.pc.trans (hpc.trans (congrArg (· + 1) State.pc_issueEcc))
  · intro s t e hr hh hq
    exact (exec_poll hr hh).trans (congrArg _ (if_pos hq))
  · intro s t e hr hh hq
    refine ⟨_, (exec_poll hr hh).trans (congrArg _ (if_neg (by omega))), _, rfl, fun hn => ?_, fun hn => ?_⟩
    · rw [Tile.polled, Tile.ready_of_bel State.bel_issueEcc, hn, if_neg (by decide), State.tile_issueEcc]
      rfl
    · rw [Tile.polled, Tile.ready_of_bel State.bel_issueEcc, if_pos (Option.isSome_iff_ne_none.mpr hn)]
  · intro s t q m a hi hw hh hready
    refine ⟨_, execHandlerEntry_eq hi hw hh hready, ?_⟩
    dsimp only
    rw [State.tile_setTile_self]
    rw [Tile.handlerEntered_core, Tile.reg_handlerEntered]
    exact ⟨rfl, rfl, rfl, rfl, rfl, _, rfl⟩
  · intro s t e r hr hh hq
    obtain ⟨hcore, hmsgs⟩ := Tile.handlerLeft_frame (x := (s.issueEcc t e).tile t) (r := r)
    refine ⟨_, exec_hret hr hh hq, _, rfl, ?_, ?_⟩
    · rw [hcore, State.tile_issueEcc]
    · rw [hmsgs, Tile.queue_of_bel State.bel_issueEcc]
end Sys2Proof.Machine
end

/-! # Register commands (O52)

A write of an RWC register reaches its shadow only; the other register commands act on one tile, on one pointer or on the alerts, and with
PERST_N low none of the writes acts (R411, R422, R426). -/
section
set_option Elab.async false
namespace Sys2Proof.Machine

/-! ## RWC registers (R422, R426) -/

section
variable {s : State} {a m : Nat} {b b' : Blk} {h : Option Bool} {v w old : W64} {o' : Nat}

theorem mergeHalf_eq : mergeHalf old h v = match h with
    | none => v
    | some false => old.extractLsb' 32 32 ++ v.extractLsb' 0 32
    | some true => v.extractLsb' 0 32 ++ old.extractLsb' 0 32 := by
  have hlow {x : W64} : x.extractLsb' 0 32 = x.setWidth 32 := BitVec.setWidth_eq_extractLsb' (by decide) |>.symm
  simp only [hlow]
  rfl
theorem blkAt_lt (hb : blkAt a = some b) : a < 0x100000 := by
  have ha := eq_blkBase_add hb
  cases b <;> simp only [blkBase] at ha <;> omega
theorem blkBase_add_inj {o : Nat} (ho : o < 0x10000) (ho' : o' < 0x10000) (he : blkBase b' + o' = blkBase b + o) : (b', o') = (b, o) := by
  have hb : some b' = some b := by rw [← blkAt_blkBase_add ho', he, blkAt_blkBase_add ho]
  have hoo : o' = o := by rw [← blkBase_add_mod (b := b') ho', he, blkBase_add_mod ho]
  cases hb
  rw [hoo]

/-- What a write of a register leaves: its new shadow, and for LAN the reserved bits that were written (R370). -/
def State.shadowWritten (s : State) (a : Nat) (b : Blk) (m : Nat) (h : Option Bool) (v : W64) : State :=
  let u : State := { s with regs := { s.regs with
    shadow := aSet none s.regs.shadow a (some (mergeHalf (s.regs.shadowAt b (a % 0x10000)) h v &&& BitVec.ofNat 64 m)) } }
  if b = .lan then u.keepReserved a h v m else u

theorem State.writeReg_rwc (hp : s.pwr.perst = true) (ha : a % 8 = 0) (hb : blkAt a = some b) (hm : rwcMask b (a % 0x10000) = some m) :
    s.writeReg a h v = s.shadowWritten a b m h v := by
  have hlt := blkAt_lt hb
  unfold State.writeReg
  rw [if_neg (by simp [hp, ha]), if_neg (by simp only [Bool.and_eq_true, decide_eq_true_eq]; omega), hb]
  dsimp only
  rw [hm]
  rfl
theorem State.shadowWritten_eq : s.shadowWritten a b m h v =
    { s with regs := { s.regs with shadow := (s.shadowWritten a b m h v).regs.shadow } } := by
  dsimp only [State.shadowWritten]
  split <;> rfl
theorem State.shadow_shadowWritten (hlt : o' < rsvAt) : aGet none (s.shadowWritten a b m h v).regs.shadow o' =
    if o' = a then some (mergeHalf (s.regs.shadowAt b (a % 0x10000)) h v &&& BitVec.ofNat 64 m) else aGet none s.regs.shadow o' := by
  have hset := aGet_aSet none s.regs.shadow a o' (some (mergeHalf (s.regs.shadowAt b (a % 0x10000)) h v &&& BitVec.ofNat 64 m))
  dsimp only [State.shadowWritten]
  split
  · exact (aGet_aSet_other _ _ _ _ _ (by omega)).trans hset
  · exact hset
theorem State.shadowAt_shadowWritten_self (hb : blkAt a = some b) : (s.shadowWritten a b m h v).regs.shadowAt b (a % 0x10000) =
    mergeHalf (s.regs.shadowAt b (a % 0x10000)) h v &&& BitVec.ofNat 64 m := by
  have ho : a % 0x10000 < 0x10000 := Nat.mod_lt _ (by decide)
  rw [Regs.shadowAt, State.shadow_shadowWritten (blkBase_add_lt_rsvAt ho), ← eq_blkBase_add hb, if_pos rfl]
  rfl
theorem State.shadowAt_shadowWritten_other (hb : blkAt a = some b) (ho' : o' < 0x10000) (hne : (b', o') ≠ (b, a % 0x10000)) :
    (s.shadowWritten a b m h v).regs.shadowAt b' o' = s.regs.shadowAt b' o' := by
  have hkey : blkBase b' + o' ≠ a := fun he =>
    hne (blkBase_add_inj (Nat.mod_lt _ (by decide)) ho' (he.trans (eq_blkBase_add hb)))
  rw [Regs.shadowAt, State.shadow_shadowWritten (blkBase_add_lt_rsvAt ho'), if_neg hkey, Regs.shadowAt]
theorem State.readReg_rwc (hb : blkAt a = some b) (hm : (rwcMask b (a % 0x10000)).isSome = true) :
    s.readReg a = s.regs.shadowAt b (a % 0x10000) := by
  have hlt := blkAt_lt hb
  unfold State.readReg
  rw [if_neg (by simp only [Bool.and_eq_true, decide_eq_true_eq]; omega), hb]
  dsimp only
  rw [if_pos hm, BitVec.ofNat_toNat, BitVec.setWidth_eq]
end

/-! ## Counters and the tile's window (R425, R449 to R451) -/

section
variable {s : State} {t : TileId} {a n k : Nat} {x : Tile}

theorem execCounterRead_eq {off : BitVec 26} (h : s.counterAt off.toNat = some n) :
    execCounterRead off s = .next { s with regs := { s.regs with epoch := aSet false s.regs.epoch off.toNat (epochBit n) } } := by
  unfold execCounterRead
  rw [h]
theorem State.readReg_snapTile_list (hk : k < 20) :
    (s.snapTile t).readReg (0x100010 + 0x100 * t.toNat + 8 * k) = BitVec.ofNat 64 ((s.tile t).ctr.list.getD k 0) := by
  have ha : 0x100010 + 0x100 * t.toNat + 8 * k = 0x100000 + 0x100 * t.toNat + (0x10 + 8 * k) := by omega
  have hl : ((s.tile t).ctr.list.take 20).getD k 0 = (s.tile t).ctr.list.getD k 0 := by
    rw [List.getD_eq_getElem?_getD, List.getElem?_take_of_lt hk, List.getD_eq_getElem?_getD]
  rw [ha, State.readReg_window t (by omega), Tile.window_counter _ hk, State.snapTile, State.tile_modTile_self, hl]
  exact BitVec.eq_of_toNat_eq (by simp)
theorem Tile.window_data0 : x.window 0xC8 = (x.debug x.dbg.sel).1.toNat := rfl
theorem Tile.window_data1 : x.window 0xD0 = x.dbg.d1.toNat := rfl
end

/-! ## Hand signals (R200, R451) -/

section
variable {s : State} {t : TileId} {obj o' : BitVec 8} {v p : W32} {i : Instr} {add : Bool} {d : TDbg}

/-- P of an object after a hand SET or ADD. -/
def Tile.handP (x : Tile) (obj : BitVec 8) (add : Bool) (v : W32) : W32 := if add then x.sigP obj + v else v

theorem exec_sigOp (hp : s.pwr.perst = true) (hi : (i, p) ∈ [(Instr.sigOpSet t obj v, v), (.sigOpAdd t obj v, (s.tile t).sigP obj + v)]) :
    ∃ add, p = (s.tile t).handP obj add v ∧ exec i s = .next (s.sigOp t obj add v) := by
  simp only [List.mem_cons, Prod.mk.injEq, List.not_mem_nil, or_false] at hi
  obtain ⟨rfl, rfl⟩ | ⟨rfl, rfl⟩ := hi
  · exact ⟨false, rfl, congrArg _ (if_pos hp)⟩
  · exact ⟨true, rfl, congrArg _ (if_pos hp)⟩
theorem State.sigOp_outside (h : 2 ^ 31 ≤ ((s.tile t).handP obj add v - (s.tile t).sigC obj).toNat) :
    ∃ d, s.sigOp t obj add v = s.setTile t { s.tile t with dbg := d } :=
  ⟨_, if_pos h⟩
/-- A tile with P of an object changed by hand, which is counted. -/
def Tile.handSet (x : Tile) (obj : BitVec 8) (p : W32) (d : TDbg) : Tile :=
  ({ x.setP obj p with dbg := d } : Tile).count fun c => { c with dbgSig := c.dbgSig + 1 }
theorem State.sigOp_inside (h : ((s.tile t).handP obj add v - (s.tile t).sigC obj).toNat < 2 ^ 31) :
    ∃ d d1, s.sigOp t obj add v = (s.setTile t ((s.tile t).handSet obj ((s.tile t).handP obj add v) d)).log 0x1009 .tile (s.gta t).toNat obj.toNat d1 :=
  ⟨_, _, if_neg (Nat.not_le.mpr h)⟩
theorem Tile.sigP_handSet {x : Tile} : (x.handSet obj p d).sigP o' = if o' = obj then p else x.sigP o' := Tile.sigP_setP
/-- Where the log has room, a new entry stands at its end (R456). -/
theorem State.log_entry {code loc d0 d1 : Nat} {k : LK} {flags : Nat} (h : (s.err.tail + 1) % 512 ≠ s.err.head) :
    ∃ e, aGet none (s.log code k loc d0 d1 flags).err.log s.err.tail = some e ∧ e.code = BitVec.ofNat 16 code ∧
      e.loc = BitVec.ofNat 32 loc ∧ e.d0 = BitVec.ofNat 64 d0 := by
  simp only [State.log, if_neg h, aGet_aSet_self]
  exact ⟨_, rfl, rfl, rfl, rfl⟩
end

/-! ## The end of a compute-domain reset (R448, R458) -/

section
variable {α : Type} [DecidableEq α] {d : α} {g : α → α} {l : Assoc α} {b k : Nat}

theorem aGet_of_lt (h : aWfFrom d b l = true) (hk : k < b) : aGet d l k = d := by
  induction l generalizing b with
  | nil => rfl
  | cons kv l ih =>
    obtain ⟨k', v⟩ := kv
    simp only [aWfFrom, Bool.and_eq_true, decide_eq_true_eq] at h
    obtain ⟨⟨hb, -⟩, hl⟩ := h
    rw [aGet, if_neg (by omega)]
    exact ih hl (by omega)
/-- Reading a table in canonical form whose values are changed by `g`, and whose entries equal to the default are left out. -/
theorem aGet_map_filter (hg : g d = d) (h : aWfFrom d b l = true) :
    aGet d ((l.map fun kv => (kv.1, g kv.2)).filter fun kv => decide (kv.2 ≠ d)) k = g (aGet d l k) := by
  induction l generalizing b with
  | nil => exact hg.symm
  | cons kv l ih =>
    obtain ⟨k', v⟩ := kv
    simp only [aWfFrom, Bool.and_eq_true, decide_eq_true_eq] at h
    obtain ⟨-, hl⟩ := h
    rw [List.map_cons, List.filter_cons]
    by_cases hk : k' = k
    · subst hk
      rw [aGet, if_pos rfl]
      split
      · rw [aGet, if_pos rfl]
      · next hv =>
        rw [ih hl, aGet_of_lt hl (Nat.lt_succ_self _), hg]
        exact (not_not.mp fun hn => hv (decide_eq_true hn)).symm
    · rw [aGet, if_neg hk]
      split
      · rw [aGet, if_neg hk, ih hl]
      · exact ih hl
end

/-- A tile that no longer shows a fault. -/
def Tile.unfaulted (x : Tile) : Tile := { x with core := { x.core with faulted := false } }

theorem execCdresetClear_eq {s : State} (h : s.dev.cdreset = true) : execCdresetClear s = .next { s with
    dev := { s.dev with cdreset := false }
    tiles := (s.tiles.map fun kv => (kv.1, kv.2.unfaulted)).filter fun kv => decide (kv.2 ≠ Tile.empty) } := by
  unfold execCdresetClear
  rw [h]
  rfl

/-! ## Commands under PERST_N (R411) -/

section
variable {s : State} (hp : s.pwr.perst = false)
include hp

theorem State.writeReg_perst {a h v} : s.writeReg a h v = s := if_pos (by rw [hp]; rfl)
theorem State.commitWrite_perst {b crc hold gen} : s.commitWrite b crc hold gen = s := if_pos (by rw [hp]; rfl)
theorem State.gcommit_perst {mask} : s.gcommit mask = s := if_pos (by rw [hp]; rfl)
theorem State.healthHead_perst {v} : s.healthHead v = s := if_pos (by rw [hp]; rfl)
theorem State.logHead_perst {v} : s.logHead v = s := if_pos (by rw [hp]; rfl)
theorem State.clearAlert_perst {mask} : s.clearAlert mask = s := if_pos (by rw [hp]; rfl)
end

section
variable {s : State} {v : Nat} (hp : s.pwr.perst = true)
include hp

theorem State.healthHead_eq : s.healthHead v = if v % 64 = 0 ∧ v < s.act .trg 0x128 then { s with gro := { s.gro with head := v } } else s := by
  unfold State.healthHead
  rw [hp]
  by_cases h : v % 64 = 0 ∧ v < s.act .trg 0x128
  · rw [if_pos h, if_neg (by simp [h.1]; exact h.2)]
  · rw [if_neg h, if_pos (by simp; omega)]
theorem State.logHead_eq : s.logHead v = if v < 512 then { s with err := { s.err with head := v } } else s := by
  unfold State.logHead
  rw [hp]
  by_cases h : v < 512
  · rw [if_pos h, if_neg (by simp [h])]
  · rw [if_neg h, if_pos (by simp; omega)]
theorem State.clearAlert_eq {mask : BitVec 9} : s.clearAlert mask = { s with err := { s.err with alert := s.err.alert &&& ~~~mask } } :=
  if_neg (by rw [hp]; decide)
end

/-- Settles O52: each command is reduced to the one table or field it writes, whose entries are then read back. -/
theorem registerCommands : Obligations.RegisterCommands := by
  unfold Obligations.RegisterCommands
  refine ⟨?_, ?_, ?_, ?_, ?_, ?_, ?_, ?_, ?_⟩
  · rintro s a h v w b _ m hp ha hb rfl hm hw
    have hval : (s.shadowWritten a.toNat b m h v).regs.shadowAt b (a.toNat % 0x10000) = w :=
      (State.shadowAt_shadowWritten_self hb).trans ((congrArg (· &&& BitVec.ofNat 64 m) mergeHalf_eq).trans hw.symm)
    have hread : (s.shadowWritten a.toNat b m h v).readReg a.toNat = w := (State.readReg_rwc hb (by rw [hm]; rfl)).trans hval
    exact ⟨_, congrArg Host.Outcome.next (State.writeReg_rwc hp ha hb hm), State.shadowWritten_eq, hval, hread,
      fun b' o' => State.shadowAt_shadowWritten_other hb⟩
  · intro s a n hn
    exact ⟨_, execCounterRead_eq hn, rfl, aGet_aSet_self .., fun x => aGet_aSet_other _ _ _ _ _⟩
  · intro s t
    have ht : (s.snapTile t).tile t = { s.tile t with dbg := { (s.tile t).dbg with snap := (s.tile t).ctr.list.take 20 } } :=
      State.tile_modTile_self ..
    exact ⟨s.snapTile t, rfl, ⟨_, rfl⟩, by rw [ht], by rw [ht], fun k => State.readReg_snapTile_list⟩
  · intro s t
    have hd0 : 0x1000C8 + 0x100 * t.toNat = 0x100000 + 0x100 * t.toNat + 0xC8 := by omega
    have hd1 : 0x1000D0 + 0x100 * t.toNat = 0x100000 + 0x100 * t.toNat + 0xD0 := by omega
    refine ⟨_, rfl, ?_, ?_, ?_⟩
    · rw [State.tile_modTile_self]
      rfl
    · rw [State.tile_modTile_self, hd0, State.readReg_window t (by decide), Tile.window_data0, BitVec.ofNat_toNat, BitVec.setWidth_eq]
    · rw [hd1, State.readReg_window t (by decide), State.tile_modTile_self, Tile.window_data1, BitVec.ofNat_toNat, BitVec.setWidth_eq]
  · intro s t obj v p i hp hi
    obtain ⟨add, rfl, hexec⟩ := exec_sigOp hp hi
    refine ⟨_, hexec, fun hin => ?_, fun hout => ?_⟩
    · obtain ⟨d, d1, hop⟩ := State.sigOp_inside hin
      have htile (u : TileId) : (s.sigOp t obj add v).tile u = (s.setTile t ((s.tile t).handSet obj ((s.tile t).handP obj add v) d)).tile u := by
        rw [hop]
        exact State.tile_of_tiles _ _ (State.log_tiles ..) u
      rw [htile, State.tile_setTile_self]
      refine ⟨?_, rfl, fun x hx => ?_, fun u hu => ?_, fun hroom => ?_⟩
      · rw [Tile.sigP_handSet, if_pos rfl]
      · rw [Tile.sigP_handSet, if_neg hx]
      · rw [htile, State.tile_setTile_other _ _ _ _ hu]
      · rw [hop]
        exact State.log_entry hroom
    · obtain ⟨d, hop⟩ := State.sigOp_outside hout
      rw [hop, State.tile_setTile_self]
  · intro s v hp
    have hhealth : exec (.trgHealthHeadWrite v) s = .next _ := congrArg Host.Outcome.next (State.healthHead_eq hp)
    have hlog : exec (.errLogHeadWrite v) s = .next _ := congrArg Host.Outcome.next (State.logHead_eq hp)
    rw [hhealth, hlog]
    refine ⟨fun h64 hlt => ?_, fun hbad => ?_, fun hlt => ?_, fun hge => ?_⟩
    · rw [if_pos ⟨h64, hlt⟩]
    · rw [if_neg (by omega)]
    · rw [if_pos hlt]
    · rw [if_neg (by omega)]
  · intro s m hp
    refine ⟨_, congrArg Host.Outcome.next (State.clearAlert_eq hp), rfl, fun k => ?_, decide_eq_true_iff⟩
    by_cases hk : k < 9
    · simp [hk]
    · simp [hk, BitVec.getLsbD_of_ge s.err.alert k (by omega)]
  · intro s hd hwf
    refine ⟨_, execCdresetClear_eq hd, rfl, fun t => ?_⟩
    exact aGet_map_filter (g := Tile.unfaulted) rfl hwf
  · intro s i hp hi
    obtain ⟨a, h, v, rfl⟩ | ⟨b, c, g, rfl | rfl⟩ | ⟨m, rfl⟩ | ⟨t, o, v, rfl | rfl⟩ | ⟨v, rfl | rfl⟩ | ⟨m, rfl⟩ := hi
    · exact congrArg Host.Outcome.next (State.writeReg_perst hp)
    · exact congrArg Host.Outcome.next (State.commitWrite_perst hp)
    · exact congrArg Host.Outcome.next (State.commitWrite_perst hp)
    · exact congrArg Host.Outcome.next (State.gcommit_perst hp)
    · exact congrArg Host.Outcome.next (if_neg (by simp [hp]))
    · exact congrArg Host.Outcome.next (if_neg (by simp [hp]))
    · exact congrArg Host.Outcome.next (State.healthHead_perst hp)
    · exact congrArg Host.Outcome.next (State.logHead_perst hp)
    · exact congrArg Host.Outcome.next (State.clearAlert_perst hp)

end Sys2Proof.Machine
end

/-! # Power and reset (O50)

What each command of the supply, of the straps and of PERST_N leaves, through one equation for the strapped registers and THERM_N. -/
section
set_option Elab.async false
namespace Sys2Proof.Machine

section
variable {s : State} {b : Blk} {o : Nat}

/-! ## Strapped registers and THERM_N (R406, R408, R410) -/

theorem State.strapRegs_eq : s.strapRegs =
    { s with regs := { s.regs with shadow := s.strapRegs.regs.shadow, active := s.strapRegs.regs.active } } := by
  unfold State.strapRegs
  split <;> rfl
theorem State.strapRegs_thermPin_eq : s.strapRegs.thermPin = { s with
    regs := { s.regs with shadow := s.strapRegs.regs.shadow, active := s.strapRegs.regs.active }
    pwr := { s.pwr with thermN := s.strapRegs.thermPin.pwr.thermN } } := by
  have h := State.strapRegs_eq (s := s)
  generalize s.strapRegs.regs.shadow = sh, s.strapRegs.regs.active = ac at h ⊢
  rw [h]
  rfl
/-- A register table with PWR_COOL and PWR_PLIM as the straps give them. -/
def Pwr.strapTable (p : Pwr) (l : Assoc (Option W64)) : Assoc (Option W64) :=
  aSet none (aSet none l (blkBase .pwr + 0x108) (some (if p.straps.getLsbD 2 then 1 else 0))) (blkBase .pwr + 0x110)
    (some (if p.straps.getLsbD 3 then 1000 else 1300))

theorem State.strapRegs_tables (h : s.pwr.strapped = true) :
    s.strapRegs.regs.shadow = s.pwr.strapTable s.regs.shadow ∧ s.strapRegs.regs.active = s.pwr.strapTable s.regs.active := by
  unfold State.strapRegs
  rw [h]
  exact ⟨rfl, rfl⟩
theorem Pwr.strapTable_cool {p : Pwr} {l : Assoc (Option W64)} :
    aGet none (p.strapTable l) (blkBase .pwr + 0x108) = some (if p.straps.getLsbD 2 then 1 else 0) :=
  (aGet_aSet_other _ _ _ _ _ (by decide)).trans (aGet_aSet_self ..)
theorem Pwr.strapTable_limit {p : Pwr} {l : Assoc (Option W64)} :
    aGet none (p.strapTable l) (blkBase .pwr + 0x110) = some (if p.straps.getLsbD 3 then 1000 else 1300) := aGet_aSet_self ..
theorem Pwr.strapTable_other {p : Pwr} {l : Assoc (Option W64)} (ho : o < 0x10000) (hb : b ≠ .pwr) :
    aGet none (p.strapTable l) (blkBase b + o) = aGet none l (blkBase b + o) := by
  have hne {k : Nat} (hk : k < 0x10000) : blkBase b + o ≠ blkBase .pwr + k := fun he => hb (congrArg Prod.fst (blkBase_add_inj hk ho he))
  exact (aGet_aSet_other _ _ _ _ _ (hne (by decide))).trans (aGet_aSet_other _ _ _ _ _ (hne (by decide)))
/-- The registers PWR_COOL and PWR_PLIM as the straps give them. -/
theorem State.act_strapRegs (h : s.pwr.strapped = true) : s.strapRegs.act .pwr 0x108 = (s.pwr.straps.getLsbD 2).toNat ∧
    s.strapRegs.act .pwr 0x110 = if s.pwr.straps.getLsbD 3 then 1000 else 1300 := by
  unfold State.act Regs.activeAt
  rw [(State.strapRegs_tables h).2, Pwr.strapTable_cool, Pwr.strapTable_limit]
  cases s.pwr.straps.getLsbD 2 <;> cases s.pwr.straps.getLsbD 3 <;> exact ⟨rfl, rfl⟩
/-- Registers of the other blocks are as they were. -/
theorem State.strapRegs_other (ho : o < 0x10000) (hb : b ≠ .pwr) : s.strapRegs.regs.activeAt b o = s.regs.activeAt b o ∧
    s.strapRegs.regs.shadowAt b o = s.regs.shadowAt b o := by
  cases h : s.pwr.strapped with
  | false => rw [State.strapRegs, h]; exact ⟨rfl, rfl⟩
  | true =>
    obtain ⟨hsh, hac⟩ := State.strapRegs_tables h
    rw [Regs.activeAt, Regs.shadowAt, hsh, hac, Pwr.strapTable_other ho hb, Pwr.strapTable_other ho hb]
    exact ⟨rfl, rfl⟩
theorem State.setMemact_eq : s.setMemact =
    { s with pwr := { s.pwr with memact := s.pwr.memact || (s.mem.hCleared && s.pwr.linkUp && s.pwr.flit256 && s.pwr.perst) } } := by
  unfold State.setMemact
  split
  · next h => rw [h, Bool.or_true]
  · next h => rw [Bool.not_eq_true _ |>.mp h, Bool.or_false]
end

/-! ## Clearing (R219) -/

section
variable {α : Type} {d : α} {l : Assoc α} {p : Nat → Bool} {k : Nat}

/-- Reading a table of which the entries under some keys are left out. -/
theorem aGet_filter_key : aGet d (l.filter fun kv => p kv.1) k = if p k then aGet d l k else d := by
  induction l with
  | nil => exact (ite_self d).symm
  | cons kv l ih =>
    obtain ⟨k', v⟩ := kv
    rw [List.filter_cons]
    by_cases hk : k' = k
    · subst hk
      cases hp : p k' <;> simp [aGet, hp, ih]
    · split <;> simp [aGet, hk, ih]
end

theorem Mem.byte_clearRange {m : Mem} {a n b : Nat} : (m.clearRange a n).byte b = if a ≤ b ∧ b < a + n then 0 else m.byte b := by
  refine (aGet_filter_key (p := fun k => decide (k < a) || decide (a + n ≤ k))).trans ?_
  by_cases h : a ≤ b ∧ b < a + n
  · rw [if_pos h, if_neg (by simp; omega)]
  · rw [if_neg h, if_pos (by simp; omega)]
    rfl
theorem Mem.poison_clearRange {m : Mem} {a n w : Nat} : aGet false (m.clearRange a n).poison w =
    if a ≤ 8 * w ∧ 8 * w < a + n then false else aGet false m.poison w := by
  refine (aGet_filter_key (p := fun k => decide (8 * k < a) || decide (a + n ≤ 8 * k))).trans ?_
  by_cases h : a ≤ 8 * w ∧ 8 * w < a + n
  · rw [if_pos h, if_neg (by simp; omega)]
  · rw [if_neg h, if_pos (by simp; omega)]

/-! ## The commands -/

section
variable {s : State}

/-- The state in which the straps `x` are latched (R406, R407). -/
def State.latched (s : State) (x : BitVec 4) : State := { s with
  pwr := { s.pwr with straps := x, strapped := true }
  opv := { s.opv with straps := x, sampled := true, hasAddr := x.getLsbD 0 }
  dev := { s.dev with addr := 0 } }

theorem execStrapWindowEnd_latches {x : BitVec 4} (hok : s.pwr.pwrOk = true) (hst : s.pwr.strapped = false) :
    execStrapWindowEnd x s = .next (s.latched x).strapRegs.bridgePorts := by
  unfold execStrapWindowEnd
  rw [hok, hst]
  rfl
theorem execStrapWindowEnd_done {x : BitVec 4} (hst : s.pwr.strapped = true) : execStrapWindowEnd x s = .next s := by
  unfold execStrapWindowEnd
  rw [hst, Bool.or_true]
  rfl
theorem execVin48Rise_starts {v : Nat} (hv : s.pwr.vin = false) (hlo : 400 ≤ v) (hhi : v ≤ 600) (ht : s.pwr.tripped = false) :
    execVin48Rise v s = .next { s with pwr := { s.pwr with vin := true, lowSince := none, thermN := true } } := by
  unfold execVin48Rise
  rw [if_neg (by omega), if_neg (by simp [hv]; omega), if_neg (by simp [ht]), ← ht]
theorem execVin48Rise_locked {v : Nat} (hv : s.pwr.vin = false) (hlo : 400 ≤ v) (hhi : v ≤ 600) (ht : s.pwr.tripped = true)
    (hl : s.pwr.lowSince = none) : execVin48Rise v s = .next { s with pwr := { s.pwr with lowSince := none } } := by
  unfold execVin48Rise
  rw [if_neg (by omega), if_neg (by simp [hv]; omega), if_pos (by simp [ht, hl])]
theorem execMemoryClearComplete_clears (h : s.mem.clearing = true) : execMemoryClearComplete s =
    .next ({ s with mem := { s.mem.clearRange 0 (3 * 2 ^ 40) with
      tags := [], tagPoison := [], poisonedBlks := [], slices := [], hCleared := true, tagsZero := true, clearing := false } } : State).setMemact := by
  unfold execMemoryClearComplete
  rw [h]
  rfl
theorem execCxlLinkUp_trains {wide : Bool} {cfg : LinkCfg} (hst : s.pwr.strapped = true) (hp : s.pwr.perst = true) (hl : s.pwr.linkUp = false) :
    execCxlLinkUp wide cfg s = .next ({ s with
      pwr := { s.pwr with linkUp := true, flit256 := wide }, host := { s.host with cfg := cfg } } : State).setMemact := by
  unfold execCxlLinkUp
  rw [hst, hp, hl]
  rfl
theorem execDeviceReady_eq (hr : s.pwr.ready = false) : execDeviceReady s =
    if s.pwr.memact = true ∧ s.keep.idReady = true ∧ s.opv.final = true then
      .next { s with pwr := { s.pwr with ready := true }, lan0 := s.lan0.begin, lan1 := s.lan1.begin }
    else .next s := by
  unfold execDeviceReady
  rw [hr]
  cases s.pwr.memact <;> cases s.keep.idReady <;> cases s.opv.final <;> rfl
end

/-- Settles O50: each command is its one branch under the premises; registers are then read through `State.strapRegs`. -/
theorem powerAndReset : Obligations.PowerAndReset := by
  unfold Obligations.PowerAndReset
  refine ⟨?_, ?_, ?_, ?_, ?_, ?_, ?_, ?_, ?_, ?_, ?_⟩
  · intro s v hv hlo hhi
    exact ⟨fun ht => ⟨_, execVin48Rise_starts hv hlo hhi ht, rfl⟩, fun ht hl => ⟨_, execVin48Rise_locked hv hlo hhi ht hl, hv, ht⟩⟩
  · intro s v
    refine ⟨fun h => if_pos h, fun h => (if_neg (by omega)).trans (if_pos ?_)⟩
    simp only [Bool.or_eq_true, decide_eq_true_eq]
    omega
  · intro s hv hok ht
    have hexec : (!s.pwr.vin || s.pwr.pwrOk || s.pwr.tripped) = false := by rw [hv, hok, ht]; rfl
    exact ⟨_, if_neg (Bool.not_eq_true _ |>.mpr hexec), rfl, rfl, rfl, rfl, rfl, rfl, rfl⟩
  · intro s x hok hst
    have hact := State.act_strapRegs (s := s.latched x) rfl
    refine ⟨_, execStrapWindowEnd_latches hok hst, ?_⟩
    have heq := State.strapRegs_eq (s := s.latched x)
    refine ⟨?_, ?_, ?_, hact.1, hact.2, fun y => execStrapWindowEnd_done ?_⟩ <;> rw [State.bridgePorts, heq] <;> rfl
  · intro s hst hphy
    exact if_neg (by rw [hst, hphy]; decide)
  · intro s hc
    refine ⟨_, execMemoryClearComplete_clears hc, ?_⟩
    rw [State.setMemact_eq]
    refine ⟨fun a ha => ⟨?_, ?_⟩, fun a ha => ?_, rfl, rfl, rfl, rfl, rfl, rfl, rfl⟩
    · exact Mem.byte_clearRange.trans (if_pos (by omega))
    · exact Mem.poison_clearRange.trans (if_pos (by omega))
    · exact Mem.byte_clearRange.trans (if_neg (by omega))
  · intro s wide cfg hst hp hl
    refine ⟨_, execCxlLinkUp_trains hst hp hl, ?_⟩
    rw [State.setMemact_eq]
    simp [hp]
  · intro s hr
    refine ⟨fun hm hi hf => ⟨_, (execDeviceReady_eq hr).trans (if_pos ⟨hm, hi, hf⟩), rfl, rfl, rfl, rfl, rfl, rfl, rfl⟩, fun hn => ?_⟩
    refine (execDeviceReady_eq hr).trans (if_neg fun ⟨hm, hi, hf⟩ => ?_)
    simp [hm, hi, hf] at hn
  · rintro s i (rfl | ⟨rfl, hok⟩)
    · exact ⟨_, rfl, rfl, rfl, rfl, rfl, rfl, rfl, rfl, rfl, rfl, rfl, rfl, rfl, rfl, rfl, rfl, nofun⟩
    · exact ⟨_, if_neg (by rw [hok]; decide), rfl, rfl, rfl, rfl, rfl, rfl, rfl, rfl, rfl, rfl, rfl, rfl, rfl, rfl, rfl, fun _ => ⟨rfl, rfl⟩⟩
  · intro s hp
    refine ⟨_, (if_neg (by rw [hp]; decide)).trans (congrArg Host.Outcome.next State.strapRegs_thermPin_eq), rfl, rfl, rfl, rfl, rfl, rfl, rfl, rfl, rfl,
      rfl, rfl, rfl, rfl, rfl, rfl, rfl, rfl, rfl, rfl, rfl, rfl, rfl, rfl, rfl, rfl, rfl, rfl, rfl, rfl, rfl, ?_, ?_⟩
    · exact fun b o ho hb => State.strapRegs_other ho hb
    · exact fun hst => State.act_strapRegs hst
  · intro s hp
    refine ⟨_, if_neg (by rw [hp]; decide), rfl, rfl, rfl, rfl, rfl, ?_, rfl⟩
    change (if (s.pwr.strapped && true) = true then _ else _) = _
    rw [Bool.and_true]

end Sys2Proof.Machine
end

/-! # Words and lines of the tiers (R7, R9, R216)

What a read of memory finds after each of the model's writes: of a word, of some words of a line, of bytes with their marks. -/
section
set_option Elab.async false
namespace Sys2Proof.Machine

/-! ## Bytes -/

theorem ofBytes_toBytes {n v : Nat} : ofBytes (toBytes n v) = v % 256 ^ n := by
  induction n generalizing v with
  | zero => rw [Nat.pow_zero, Nat.mod_one]; rfl
  | succ n ih =>
    rw [toBytes, ofBytes, ih, BitVec.toNat_ofNat, Nat.pow_succ' (m := 256), Nat.mod_mul]
theorem getD_toBytes {n v i : Nat} (h : i < n) : (toBytes n v).getD i 0 = BitVec.ofNat 8 (v / 2 ^ (8 * i)) := by
  induction n generalizing v i with
  | zero => exact absurd h (Nat.not_lt_zero i)
  | succ n ih =>
    cases i with
    | zero => rw [Nat.mul_zero, Nat.pow_zero, Nat.div_one]; rfl
    | succ i =>
      refine (ih (v := v / 256) (by omega)).trans ?_
      rw [Nat.div_div_eq_div_mul, Nat.mul_succ, Nat.add_comm (8 * i) 8, Nat.pow_add]
theorem aGetMany_eq_map {α : Type} (d : α) (l : Assoc α) (a n : Nat) : aGetMany d l a n = (List.range n).map fun k => aGet d l (a + k) := by
  induction n generalizing a with
  | zero => rfl
  | succ n ih =>
    rw [aGetMany, ih, List.range_succ_eq_map, List.map_cons, List.map_map]
    exact congrArg₂ _ rfl (List.map_congr_left fun k _ => congrArg (aGet d l) (by omega))

section
variable {m m' m'' : Mem} {a b n lo hi k : Nat} {w : PWord} {ws : List (PWord × Bool)}

theorem Mem.rdBytes_eq_map : m.rdBytes a n = (List.range n).map fun k => m.byte (a + k) := aGetMany_eq_map ..
theorem Mem.rdBytes_length : (m.rdBytes a n).length = n := aGetMany_length ..
theorem Mem.byte_word {i : Nat} (hi : i < 8) : BitVec.ofNat 8 ((m.word a).d.toNat / 2 ^ (8 * i)) = m.byte (a + i) := by
  rw [← getD_toBytes hi, Mem.word_toBytes, Mem.rdBytes_eq_map, List.getD_eq_getElem _ _ (by simpa using hi)]
  simp
/-- Whole words spell the bytes of memory. -/
theorem Mem.flatMap_words : ((m.words a n).flatMap fun w => toBytes 8 w.d.toNat) = m.rdBytes a (8 * n) := by
  induction n with
  | zero => rfl
  | succ n ih =>
    rw [Mem.words, List.range_succ, List.map_append, List.flatMap_append, ← Mem.words, ih, List.map_singleton, List.flatMap_singleton,
      Mem.word_toBytes, Nat.mul_succ]
    exact (aGetMany_append ..).symm

/-! ## What stays outside a range -/

/-- Bytes and marks outside `n` bytes from `lo` are those of `m`. -/
def Mem.Kept (m m' : Mem) (lo n : Nat) : Prop :=
  ∀ a, a < lo ∨ lo + n ≤ a → m'.byte a = m.byte a ∧ aGet false m'.poison (a / 8) = aGet false m.poison (a / 8)

theorem wordsKept_iff {s s' : State} : WordsKept s s' lo n ↔ s.mem.Kept s'.mem lo n := Iff.rfl
theorem Mem.Kept.of_eq (hb : m'.bytes = m.bytes) (hp : m'.poison = m.poison) : m.Kept m' lo n := fun a _ => by
  rw [Mem.byte, hb, hp]
  exact ⟨rfl, rfl⟩
theorem Mem.Kept.refl : m.Kept m lo n := .of_eq rfl rfl
theorem Mem.Kept.trans (h : m.Kept m' lo n) (h' : m'.Kept m'' lo n) : m.Kept m'' lo n := fun a ha =>
  ⟨(h' a ha).1.trans (h a ha).1, (h' a ha).2.trans (h a ha).2⟩
theorem Mem.Kept.mono (h : m.Kept m' lo n) (hlo : b ≤ lo) (hhi : lo + n ≤ b + k) : m.Kept m' b k := fun a ha => h a (by omega)
theorem Mem.Kept.byte (h : m.Kept m' lo n) (ha : a < lo ∨ lo + n ≤ a) : m'.byte a = m.byte a := (h a ha).1
theorem Mem.word_congr (hb : ∀ i, i < 8 → m'.byte (a + i) = m.byte (a + i)) (hp : aGet false m'.poison (a / 8) = aGet false m.poison (a / 8)) :
    m'.word a = m.word a := by
  rw [Mem.word, Mem.word, hp, Mem.num, Mem.num, Mem.rdBytes_eq_map, Mem.rdBytes_eq_map,
    List.map_congr_left fun i hi => hb i (List.mem_range.mp hi)]
theorem Mem.Kept.word (h : m.Kept m' lo n) (ha : a + 8 ≤ lo ∨ lo + n ≤ a) : m'.word a = m.word a :=
  Mem.word_congr (fun i hi => h.byte (by omega)) (h a (by omega)).2
theorem Mem.Kept.words (h : m.Kept m' lo n) (ha : a + 8 * k ≤ lo ∨ lo + n ≤ a) : m'.words a k = m.words a k :=
  List.map_congr_left fun i hi => h.word (by have := List.mem_range.mp hi; omega)

/-! ## Writes of words -/

theorem Mem.kept_setWord (ha : a % 8 = 0) : m.Kept (m.setWord a w) a 8 := fun b hb =>
  ⟨Mem.byte_setWord_other m a b w hb, aGet_aSet_other _ _ _ _ _ (by omega)⟩
@[simp] theorem Mem.word_setWord : (m.setWord a w).word a = w := by
  have hb : (m.setWord a w).rdBytes a 8 = toBytes 8 w.d.toNat := by
    refine List.ext_getElem (by rw [Mem.rdBytes_length, toBytes_length]) fun i hi hi' => ?_
    have hi8 : i < 8 := by rwa [Mem.rdBytes_length] at hi
    simp only [Mem.rdBytes_eq_map, List.getElem_map, List.getElem_range]
    refine (aGet_aSetMany 0 m.bytes a (a + i) _).trans ((if_pos (by rw [toBytes_length]; omega)).trans ?_)
    rw [Nat.add_sub_cancel_left, List.getD_eq_getElem]
  have hp : aGet false (m.setWord a w).poison (a / 8) = w.p := aGet_aSet_self ..
  have hd : w.d.toNat % 256 ^ 8 = w.d.toNat := Nat.mod_eq_of_lt w.d.isLt
  rw [Mem.word, Mem.num, hb, hp, ofBytes_toBytes, hd, BitVec.ofNat_toNat, BitVec.setWidth_eq]
theorem Mem.kept_setSome (ha : a % 8 = 0) : m.Kept (m.setSome a ws) a (8 * ws.length) := by
  induction ws generalizing m a with
  | nil => exact .refl
  | cons wc ws ih =>
    obtain ⟨w, c⟩ := wc
    have hrest := ih (m := if c then m.setWord a w else m) (a := a + 8) (by omega)
    refine Mem.Kept.trans (m' := if c then m.setWord a w else m) ?_ (hrest.mono (by omega) (by simp only [List.length_cons]; omega))
    split
    · exact (Mem.kept_setWord ha).mono (Nat.le_refl a) (by simp only [List.length_cons]; omega)
    · exact .refl
/-- The words of a line after a write that carries some of them. -/
theorem Mem.word_setSome (ha : a % 8 = 0) : (m.setSome a ws).word (a + 8 * k) =
    if (ws.getD k (pw0, false)).2 then (ws.getD k (pw0, false)).1 else m.word (a + 8 * k) := by
  induction ws generalizing m a k with
  | nil => rfl
  | cons wc ws ih =>
    obtain ⟨w, c⟩ := wc
    rw [Mem.setSome]
    cases k with
    | zero =>
      rw [(Mem.kept_setSome (by omega)).word (by omega), Nat.mul_zero, Nat.add_zero, List.getD_cons_zero]
      cases c with
      | false => rfl
      | true => exact Mem.word_setWord
    | succ k =>
      have ha' : a + 8 * (k + 1) = a + 8 + 8 * k := by omega
      rw [ha', ih (by omega), List.getD_cons_succ]
      cases c with
      | false => rfl
      | true => rw [if_pos rfl, (Mem.kept_setWord ha).word (by omega)]

/-! ## Writes of bytes -/

variable {bs : List (Byte × Bool)}

theorem Mem.byte_setWord {d : List Byte} {p : Bool} (hd : d.length = 8) : (m.setWord a ⟨BitVec.ofNat 64 (ofBytes d), p⟩).byte b =
    if a ≤ b ∧ b < a + 8 then d.getD (b - a) 0 else m.byte b := by
  split
  · next h =>
    obtain ⟨i, rfl⟩ := Nat.exists_eq_add_of_le h.1
    have hlt : ofBytes d < 2 ^ 64 := by simpa [hd] using ofBytes_lt d
    have hspell : toBytes 8 (ofBytes d) = d := hd ▸ toBytes_ofBytes d
    rw [← Mem.byte_word (by omega), Mem.word_setWord, ← getD_toBytes (n := 8) (by omega), BitVec.toNat_ofNat, Nat.mod_eq_of_lt hlt, hspell,
      Nat.add_sub_cancel_left]
  · next h => exact Mem.byte_setWord_other _ _ _ _ (by omega)
/-- What a write of marked bytes from `a` makes of the word at `wa`. -/
def Mem.putMarkedWord (m : Mem) (a : Nat) (bs : List (Byte × Bool)) (wa : Nat) : Mem :=
  let mine := (List.range 8).filterMap fun i => if a ≤ wa + i then bs[wa + i - a]? else none
  let old := m.word wa
  let d := (List.range 8).map fun i => if a ≤ wa + i && decide (wa + i < a + bs.length) then ((bs.getD (wa + i - a) (0, false)).1) else
    BitVec.ofNat 8 (old.d.toNat / 2 ^ (8 * i))
  m.setWord wa ⟨BitVec.ofNat 64 (ofBytes d), mine.any (·.2) || (old.p && decide (mine.length < 8))⟩

theorem Mem.putMarked_eq : m.putMarked a bs = (List.range ((a + bs.length + 7) / 8 - a / 8)).foldl
    (fun m k => m.putMarkedWord a bs (a - a % 8 + 8 * k)) m := rfl
theorem Mem.byte_putMarkedWord : (m.putMarkedWord a bs n).byte b =
    if (n ≤ b ∧ b < n + 8) ∧ a ≤ b ∧ b < a + bs.length then (bs.getD (b - a) (0, false)).1 else m.byte b := by
  refine (Mem.byte_setWord (by rw [List.length_map, List.length_range])).trans ?_
  by_cases h : n ≤ b ∧ b < n + 8
  · obtain ⟨i, rfl⟩ := Nat.exists_eq_add_of_le h.1
    have hi : i < 8 := by omega
    rw [if_pos h, Nat.add_sub_cancel_left, List.getD_eq_getElem _ _ (by simpa using hi), List.getElem_map, List.getElem_range, Mem.byte_word hi]
    simp only [Bool.and_eq_true, decide_eq_true_eq, h, and_true, true_and]
  · rw [if_neg h, if_neg fun hn => h hn.1]
/-- A byte after a write of marked bytes. -/
theorem Mem.byte_putMarked : (m.putMarked a bs).byte b = if a ≤ b ∧ b < a + bs.length then (bs.getD (b - a) (0, false)).1 else m.byte b := by
  have hpre (j : Nat) : ((List.range j).foldl (fun m k => m.putMarkedWord a bs (a - a % 8 + 8 * k)) m).byte b =
      if b < a - a % 8 + 8 * j ∧ a ≤ b ∧ b < a + bs.length then (bs.getD (b - a) (0, false)).1 else m.byte b := by
    induction j with
    | zero => exact (if_neg (by omega)).symm
    | succ j ih =>
      rw [List.range_succ, List.foldl_append, List.foldl_cons, List.foldl_nil, Mem.byte_putMarkedWord, ih]
      split
      · rw [if_pos (by omega)]
      · split
        · rw [if_pos (by omega)]
        · rw [if_neg (by omega)]
  rw [Mem.putMarked_eq, hpre]
  by_cases h : a ≤ b ∧ b < a + bs.length
  · rw [if_pos h, if_pos (by omega)]
  · rw [if_neg h, if_neg fun hn => h hn.2]

end

end Sys2Proof.Machine
end

/-! # A line write may raise a fault (O26)

The row of an overflow record that completes it raises its queue object (R196). Outside the sync window that is a fault (R174), which ends
every update group and marks the entry of one with an apply in progress TORN, far from the line written (R250, R432). -/
section
set_option Elab.async false
namespace Sys2Proof.Machine

/-- A tile whose ring holds a record of one unit, not yet written, while the object of queue 0 has the greatest count that the window admits. -/
def fullWindow : Tile :=
  { Tile.empty with bel := { Belfry.empty with
      p := [(252, BitVec.ofNat 32 (2 ^ 31 - 1))]
      ring := { head := 0, tail := 0, seq := 0, recs := [⟨0, 1, false, 0, 0, 0, false, 0, 0⟩] } } }
/-- The line at 0x100000, where the ring of tile 0 begins, is written while group 0 has an apply in progress. -/
def tearing : State :=
  { Tests.atSlice (Tests.lineReq true 0x100000 :: Tests.lineWrite 0x100000) Mem.empty with
    tiles := [(0, fullWindow)]
    regs := { State.reset.regs with active := [(blkBase .bel + 0x110, some 0x100000)] }
    gro := { Gro.reset with groups := [{ Tests.aGroup with recs := [Tests.aRec true] }] } }
/-- Byte `a` of memory after a command, where it runs to a next state. -/
def byteAfter (o : Out) (a : Nat) : Byte :=
  match o with
  | .next s => s.mem.byte a
  | _ => 0

set_option maxRecDepth 100000 in
theorem tearing_torn : byteAfter (exec (.memoryRequestArrival ⟨false, true, 1⟩ []) tearing) 80 = 2 := by decide

/-- Refutes O26: the write completes a record whose queue object leaves the sync window, and the fault marks group 0 TORN in memory. -/
theorem not_lineWrites : ¬ Obligations.LineWrites := by
  unfold Obligations.LineWrites
  intro ⟨hstored, _⟩
  obtain ⟨s', hexec, _, _, hkept, _⟩ := hstored tearing ⟨false, true, 1⟩ [] (Tests.lineReq true 0x100000) (Tests.lineWrite 0x100000)
    (Tests.lineWrite 0x100000) (Tests.asked 0x100000) (by decide) (by decide) (by decide) (by decide) (by decide) (by decide) (by decide)
    (by decide) (by decide) (by decide) (by decide) (by decide) (by decide)
  have hbyte : s'.mem.byte 80 = tearing.mem.byte 80 := (hkept 80 (by decide)).1
  have htorn : s'.mem.byte 80 = 2 := by
    have h := tearing_torn
    rwa [hexec] at h
  exact absurd (hbyte.symm.trans htorn) (by decide)

end Sys2Proof.Machine
end

/-! # Home slices and their answers (R203, R205, R214, R228, R308)

What the housekeeping of a slice leaves of the state and of the slice, and the flits that a slice sends. -/
section
set_option Elab.async false
namespace Sys2Proof.Machine

/-! ## Headers of flits (R152) -/

theorem FHdr.toNat_word (h : FHdr) : h.word.toNat = h.vc % 4 * 2 ^ 62 + h.kind % 8 * 2 ^ 59 + h.edge.toNat * 2 ^ 58 + h.dest.toNat * 2 ^ 43
    + h.last.toNat * 2 ^ 42 + h.cmb.toNat * 2 ^ 41 + h.slot % 65536 * 2 ^ 25 + h.dh % 64 * 2 ^ 19 + h.drow % 4096 * 2 ^ 7 + h.age % 128 := by
  have he := Bool.toNat_lt h.edge
  have hl := Bool.toNat_lt h.last
  have hc := Bool.toNat_lt h.cmb
  have hd := h.dest.isLt
  rw [FHdr.word, BitVec.toNat_ofNat]
  exact Nat.mod_eq_of_lt (by omega)

section
variable (h : FHdr)

theorem hdrOf_word_vc : (hdrOf h.word).vc = h.vc % 4 := by
  have he := Bool.toNat_lt h.edge
  have hl := Bool.toNat_lt h.last
  have hc := Bool.toNat_lt h.cmb
  have hd := h.dest.isLt
  change fld h.word 63 62 = _
  rw [fld_eq, FHdr.toNat_word]
  omega
theorem hdrOf_word_kind : (hdrOf h.word).kind = h.kind % 8 := by
  have he := Bool.toNat_lt h.edge
  have hl := Bool.toNat_lt h.last
  have hc := Bool.toNat_lt h.cmb
  have hd := h.dest.isLt
  change fld h.word 61 59 = _
  rw [fld_eq, FHdr.toNat_word]
  omega
theorem hdrOf_word_slot : (hdrOf h.word).slot = h.slot % 65536 := by
  change fld h.word 40 25 = _
  rw [fld_eq, FHdr.toNat_word]
  omega
theorem hdrOf_word_dh : (hdrOf h.word).dh = h.dh % 64 := by
  change fld h.word 24 19 = _
  rw [fld_eq, FHdr.toNat_word]
  omega
theorem hdrOf_word_edge : (hdrOf h.word).edge = h.edge := by
  have hl := Bool.toNat_lt h.last
  have hc := Bool.toNat_lt h.cmb
  have hd := h.dest.isLt
  rw [hdrOf, BitVec.getLsbD, Nat.testBit_eq_decide_div_mod_eq, FHdr.toNat_word]
  cases h.edge <;> simp <;> omega
theorem hdrOf_word_dest : (hdrOf h.word).dest = h.dest := by
  have hl := Bool.toNat_lt h.last
  have hc := Bool.toNat_lt h.cmb
  have hd := h.dest.isLt
  refine BitVec.eq_of_toNat_eq ?_
  rw [hdrOf, BitVec.extractLsb'_toNat, Nat.shiftRight_eq_div_pow, FHdr.toNat_word]
  omega

end

/-! ## Flits that a slice sends (R228) -/

section
variable {s : State} {sl : SliceId} {r : LineReq}

/-- The link behind a slice's port on VC3. -/
abbrev portKey (sl : SliceId) : Nat := linkKey (sliceRouter sl) (sliceSide sl) 3

theorem State.sendFrom_spec {fs : List Flit} (hvc : ∀ f ∈ fs, (hdrOf f.hdr).vc = 3) :
    ∃ l, s.sendFrom sl fs = { s with net := { s.net with links := l } } ∧
      aGet [] l (portKey sl) = s.link (portKey sl) ++ fs.map fun f => { f with src := portKey sl } := by
  induction fs generalizing s with
  | nil => exact ⟨_, rfl, by rw [List.map_nil, List.append_nil]; rfl⟩
  | cons f fs ih =>
    obtain ⟨l, hl, hlink⟩ := ih (s := s.injectEdge (sliceRouter sl) (sliceSide sl) f) fun g hg => hvc g (.tail _ hg)
    refine ⟨l, hl, hlink.trans ?_⟩
    have hf : (s.injectEdge (sliceRouter sl) (sliceSide sl) f).link (portKey sl) = s.link (portKey sl) ++ [{ f with src := portKey sl }] := by
      rw [State.injectEdge, hvc f (.head _)]
      exact aGet_aSet_self ..
    rw [hf, List.append_assoc, List.map_cons, List.singleton_append]

/-- A header of a response to a tile or an engine under request `r`. -/
def AnswerTo (r : LineReq) (rkind : Nat) (h : W64) : Prop :=
  (hdrOf h).kind = 3 ∧ (hdrOf h).dest = r.req ∧ (hdrOf h).edge = r.edge ∧ (hdrOf h).slot = r.tag % 64 ∧ (hdrOf h).dh = 8 * rkind

theorem respFlit_vc {rkind row pay last chit} (h : r.lan = false) : (hdrOf (respFlit r rkind last chit row pay).hdr).vc = 3 := by
  simp [respFlit, hdrOf_word_vc, h]
theorem answerTo_respFlit {rkind row pay last chit} (h : r.lan = false) (hk : rkind < 8) : AnswerTo r rkind (respFlit r rkind last chit row pay).hdr := by
  refine ⟨?_, ?_, ?_, ?_, ?_⟩
  · simp [respFlit, hdrOf_word_kind, h]
  · simp [respFlit, hdrOf_word_dest]
  · simp [respFlit, hdrOf_word_edge]
  · simp [respFlit, hdrOf_word_slot]
    omega
  · simp [respFlit, hdrOf_word_dh]
    omega

/-- Four data flits with the words leave, and nothing else of the state changes. -/
theorem State.respond_spec {chit ws} (h : r.lan = false) : ∃ l fls, s.respond sl r chit ws = { s with net := { s.net with links := l } } ∧
    aGet [] l (portKey sl) = s.link (portKey sl) ++ fls ∧ fls.map (·.pay) = fourRows ws ∧ ∀ f ∈ fls, AnswerTo r 0 f.hdr := by
  have hresp : ∀ f ∈ (fourRows ws).mapIdx fun k row => respFlit r 0 (decide (k = 3)) chit k row,
      ∃ last row pay, f = respFlit r 0 last chit row pay := fun f hf => by
    obtain ⟨i, hi, rfl⟩ := List.mem_mapIdx.mp hf
    exact ⟨_, _, _, rfl⟩
  obtain ⟨l, hl, hlink⟩ := State.sendFrom_spec (s := s) (sl := sl) (fs := (fourRows ws).mapIdx fun k row => respFlit r 0 (decide (k = 3)) chit k row)
    fun f hf => by
      obtain ⟨last, row, pay, rfl⟩ := hresp f hf
      exact respFlit_vc h
  refine ⟨l, _, hl, hlink, ?_, fun f hf => ?_⟩
  · refine List.ext_getElem (by simp) fun i hi hi' => ?_
    simp [respFlit]
  · obtain ⟨g, hg, rfl⟩ := List.mem_map.mp hf
    obtain ⟨last, row, pay, rfl⟩ := hresp g hg
    exact answerTo_respFlit (last := last) (row := row) (pay := pay) (chit := chit) h (by decide)

theorem responds_of {s' : State} {rkind : Nat} {ps : List (List PWord)} {fls : List Flit}
    (hlink : s'.link (portKey sl) = s.link (portKey sl) ++ fls) (hpay : fls.map (·.pay) = ps) (hans : ∀ f ∈ fls, AnswerTo r rkind f.hdr) :
    Responds s s' sl r rkind ps := ⟨fls, hlink, hpay, hans⟩
/-- A slice answers waiting reads in order. -/
theorem State.foldl_respond_spec {rs : List LineReq} {c : State → LineReq → Bool} (h : ∀ r ∈ rs, r.lan = false) :
    ∃ l, (rs.foldl (fun s r => s.respond sl r (c s r) (s.mem.words r.line 32)) s) = { s with net := { s.net with links := l } } ∧
      (aGet [] l (portKey sl)).map (·.pay) = (s.link (portKey sl)).map (·.pay) ++ rs.flatMap fun r => fourRows (s.mem.words r.line 32) := by
  induction rs generalizing s with
  | nil => exact ⟨_, rfl, (List.append_nil _).symm⟩
  | cons r rs ih =>
    obtain ⟨l1, fls, heq, hlink, hpay, _⟩ := State.respond_spec (s := s) (sl := sl) (chit := c s r) (ws := s.mem.words r.line 32) (h r (.head _))
    obtain ⟨l, hl, hpays⟩ := ih (s := s.respond sl r (c s r) (s.mem.words r.line 32)) fun q hq => h q (.tail _ hq)
    rw [heq] at hl hpays
    have hl1 : (({ s with net := { s.net with links := l1 } } : State).link (portKey sl)).map (·.pay) =
        (s.link (portKey sl)).map (·.pay) ++ fourRows (s.mem.words r.line 32) :=
      (congrArg (List.map (·.pay)) hlink).trans (by rw [List.map_append, hpay])
    refine ⟨l, ?_, hpays.trans ?_⟩
    · rw [List.foldl_cons, heq]
      exact hl
    · rw [hl1, List.append_assoc, List.flatMap_cons]

end

/-! ## Lines of the cache (R203) -/

section
variable {α β : Type} {l : Assoc α} {k : Nat} {v d : α} {e : β} {f : α → β}

theorem aGet_mapVal (he : f d = e) : aGet e (l.map fun kv => (kv.1, f kv.2)) k = f (aGet d l k) := by
  induction l with
  | nil => exact he.symm
  | cons kv l ih =>
    rw [List.map_cons, aGet, aGet, ih]
    split <;> rfl
theorem mem_aSet_self [DecidableEq α] (h : v ≠ d) : (k, v) ∈ aSet d l k v := by
  rw [aSet, if_neg h]
  induction l with
  | nil => exact .head _
  | cons kv l ih =>
    obtain ⟨k', v'⟩ := kv
    rw [aInsert]
    split
    · exact .tail _ ih
    · split
      · exact .head _
      · exact .head _

end

section
variable {c : CSet} {x y : Slice} {a blk : Nat} {dirty mru : Bool}

theorem CSet.wayOf_isSome : (c.wayOf a).isSome = true ↔ ∃ k w, (k, some w) ∈ c.ways ∧ w.line = a := by
  rw [CSet.wayOf, Option.isSome_map, List.find?_isSome]
  constructor
  · rintro ⟨⟨k, _ | w⟩, hm, hw⟩
    · cases hw
    · exact ⟨k, w, hm, of_decide_eq_true hw⟩
  · rintro ⟨k, w, hm, hw⟩
    exact ⟨(k, some w), hm, decide_eq_true hw⟩
theorem CSet.put_wayOf : ((c.put a dirty mru).1.wayOf a).isSome = true := by
  rw [CSet.put]
  split
  · exact CSet.wayOf_isSome.mpr ⟨_, _, mem_aSet_self (Option.some_ne_none _), rfl⟩
  · exact CSet.wayOf_isSome.mpr ⟨_, _, mem_aSet_self (Option.some_ne_none _), rfl⟩
theorem Slice.has_of_sets (h : y.sets = x.sets) : y.has a = x.has a := by
  rw [Slice.has, Slice.has, Slice.setAt, Slice.setAt, h]
/-- A line, a set, as a write-down of the block leaves it (R214). -/
def CWay.clean (blk : Nat) (w : CWay) : CWay := if blkOf w.line = blk then { w with dirty := false } else w
def CSet.clean (blk : Nat) (c : CSet) : CSet := { c with ways := c.ways.map fun w => (w.1, w.2.map (CWay.clean blk)) }

theorem CWay.line_clean {w : CWay} : (w.clean blk).line = w.line := by
  rw [CWay.clean]
  split <;> rfl
theorem Slice.setAt_clean : (x.clean blk).setAt a = (x.setAt a).clean blk := aGet_mapVal (f := CSet.clean blk) rfl
theorem Slice.has_clean : (x.clean blk).has a = x.has a := by
  rw [Slice.has, Slice.has, Bool.eq_iff_iff, CSet.wayOf_isSome, CSet.wayOf_isSome, Slice.setAt_clean]
  constructor
  · rintro ⟨k, w, hm, hw⟩
    obtain ⟨⟨k', _ | w'⟩, hm', he⟩ := List.mem_map.mp hm
    · cases he
    · cases he
      exact ⟨_, w', hm', CWay.line_clean.symm.trans hw⟩
  · rintro ⟨k, w, hm, hw⟩
    exact ⟨k, _, List.mem_map.mpr ⟨(k, some w), hm, rfl⟩, CWay.line_clean.trans hw⟩

end

end Sys2Proof.Machine
end

/-! # Housekeeping of the slices (R203, R205, R214, R308) -/
section
set_option Elab.async false
namespace Sys2Proof.Machine

/-! ## Requests that wait leave (R308) -/

section
variable {x y z : Slice} {s : State} {sl : SliceId} {k : Nat}

/-- Some of the UIO requests that wait at `x` have left as `y`. -/
def Slice.Pumped (x y : Slice) : Prop := ∃ n, y = { x with uio := x.uio ++ x.uioq.take n, uioq := x.uioq.drop n }

theorem Slice.Pumped.refl : x.Pumped x := ⟨0, by rw [List.take_zero, List.append_nil, List.drop_zero]⟩
theorem Slice.Pumped.trans (h : x.Pumped y) (h' : y.Pumped z) : x.Pumped z := by
  obtain ⟨n, rfl⟩ := h
  obtain ⟨m, rfl⟩ := h'
  exact ⟨n + m, by simp only [List.append_assoc, List.take_add, List.drop_drop]⟩
theorem Slice.Pumped.all (h : x.Pumped y) : y.uio ++ y.uioq = x.uio ++ x.uioq := by
  obtain ⟨n, rfl⟩ := h
  simp only [List.append_assoc, List.take_append_drop]

@[simp] theorem State.slice_setSlice : (s.setSlice sl x).slice sl = x := aGet_aSet_self ..

/-- Nothing of the state changes but what the slices hold. -/
def State.SlicesOnly (s s' : State) : Prop := ∃ l, s' = { s with mem := { s.mem with slices := l } }

variable {s' s'' : State}

theorem State.SlicesOnly.refl : s.SlicesOnly s := ⟨_, rfl⟩
theorem State.SlicesOnly.trans (h : s.SlicesOnly s') (h' : s'.SlicesOnly s'') : s.SlicesOnly s'' := by
  obtain ⟨l, rfl⟩ := h
  obtain ⟨l', rfl⟩ := h'
  exact ⟨l', rfl⟩
theorem State.slicesOnly_setSlice : s.SlicesOnly (s.setSlice sl x) := ⟨_, rfl⟩
theorem State.SlicesOnly.foldl {α : Type} {f : State → α → State} {l : List α} (h : ∀ s : State, ∀ a ∈ l, s.SlicesOnly (f s a)) :
    s.SlicesOnly (l.foldl f s) := by
  induction l generalizing s with
  | nil => exact .refl
  | cons a l ih => exact (h s a (.head _)).trans (ih fun s b hb => h s b (.tail _ hb))

theorem State.pumpUio_spec : s.SlicesOnly s.pumpUio ∧ (s.slice sl).Pumped (s.pumpUio.slice sl) := by
  rw [State.pumpUio]
  generalize s.mem.slices = l
  induction l generalizing s with
  | nil => exact ⟨.refl, .refl⟩
  | cons kv l ih =>
    rw [List.foldl_cons]
    have hstep : ∀ s1 : State, s.SlicesOnly s1 → (s.slice sl).Pumped (s1.slice sl) → s.SlicesOnly _ ∧ (s.slice sl).Pumped _ :=
      fun s1 ho hp => ⟨ho.trans (ih (s := s1)).1, hp.trans (ih (s := s1)).2⟩
    refine hstep _ ?_ ?_
    · dsimp only
      split
      · exact .refl
      · exact ⟨_, rfl⟩
    · dsimp only
      split
      · exact .refl
      · by_cases hk : sliceNum sl = kv.1
        · refine ⟨1024 - s.uioOut, ?_⟩
          rw [State.slice, hk]
          exact (aGet_aSet_self ..).trans (by rw [State.slice, hk])
        · exact ⟨0, (aGet_aSet_other _ _ _ _ _ hk).trans (by rw [List.take_zero, List.append_nil, List.drop_zero]; rfl)⟩
end

/-! ## Operations begin (R205, R214) -/

section
variable {s : State} {sl : SliceId} {x : Slice} {o p : BlkOp} {b : Nat} {bs bs' : List Nat}

/-- An operation as it is once those of the blocks `bs` run. -/
def BlkOp.begun (bs : List Nat) (o : BlkOp) : BlkOp := if o.blk ∈ bs then { o with stage := .read } else o
/-- Blocks whose operations may take a place. -/
def Slice.due (x : Slice) : List Nat := ((x.ops.take 16).filter fun o => decide (o.stage = .queued)).map (·.blk)

theorem BlkOp.begun_eq : o.begun bs = { o with stage := (o.begun bs).stage } := by
  rw [BlkOp.begun]
  split <;> rfl
theorem BlkOp.begun_begun : (o.begun bs).begun bs' = o.begun (bs ++ bs') := by
  simp only [BlkOp.begun, List.mem_append]
  grind
/-- A slice once the operations of the blocks `bs` run, with `u` in flight and `q` waiting. -/
def Slice.runs (x : Slice) (bs : List Nat) (u q : List UioReq) : Slice := { x with ops := x.ops.map (BlkOp.begun bs), uio := u, uioq := q }

theorem Slice.runs_nil : x.runs [] x.uio x.uioq = x := by
  have hid : x.ops.map (BlkOp.begun []) = x.ops := (List.map_congr_left fun _ _ => rfl).trans (List.map_id _)
  rw [Slice.runs, hid]
theorem Slice.runs_runs {u q u' q' : List UioReq} : (x.runs bs u q).runs bs' u' q' = x.runs (bs ++ bs') u' q' := by
  have hmap : (x.ops.map (BlkOp.begun bs)).map (BlkOp.begun bs') = x.ops.map (BlkOp.begun (bs ++ bs')) := by
    rw [List.map_map]
    exact List.map_congr_left fun p _ => BlkOp.begun_begun
  rw [Slice.runs, Slice.runs, Slice.runs]
  dsimp only
  rw [hmap]
theorem State.beginOp_spec : s.SlicesOnly (s.beginOp sl o) ∧ ∃ q, (s.beginOp sl o).slice sl = (s.slice sl).runs [o.blk] (s.slice sl).uio q := by
  have hmap : ((s.slice sl).ops.map fun p => if p.blk = o.blk then { p with stage := .read } else p) = (s.slice sl).ops.map (BlkOp.begun [o.blk]) :=
    List.map_congr_left fun p _ => by simp only [BlkOp.begun, List.mem_singleton]
  refine ⟨⟨_, rfl⟩, ((s.beginOp sl o).slice sl).uioq, ?_⟩
  rw [State.beginOp]
  dsimp only
  rw [State.slice_setSlice, Slice.modOp, hmap, Slice.runs]
theorem State.foldl_beginOp_spec {l : List BlkOp} : s.SlicesOnly (l.foldl (fun s o => s.beginOp sl o) s) ∧ ∃ q,
    (l.foldl (fun s o => s.beginOp sl o) s).slice sl = (s.slice sl).runs (l.map (·.blk)) (s.slice sl).uio q := by
  induction l generalizing s with
  | nil => exact ⟨.refl, _, Slice.runs_nil.symm⟩
  | cons o l ih =>
    obtain ⟨hone, q, hq⟩ := State.beginOp_spec (s := s) (sl := sl) (o := o)
    obtain ⟨hrest, q', hq'⟩ := ih (s := s.beginOp sl o)
    refine ⟨hone.trans hrest, q', hq'.trans ?_⟩
    rw [hq, Slice.runs_runs]
    rfl
theorem State.beginOps_spec : s.SlicesOnly (s.beginOps sl) ∧ ∃ u q, (s.beginOps sl).slice sl = (s.slice sl).runs (s.slice sl).due u q := by
  obtain ⟨ho, q, hq⟩ := State.foldl_beginOp_spec (s := s) (sl := sl) (l := ((s.slice sl).ops.take 16).filter fun o => decide (o.stage = .queued))
  rw [State.beginOps]
  generalize (((s.slice sl).ops.take 16).filter fun o => decide (o.stage = .queued)).foldl (fun s o => s.beginOp sl o) s = s1 at ho hq ⊢
  obtain ⟨hpo, n, hpump⟩ := State.pumpUio_spec (s := s1) (sl := sl)
  exact ⟨ho.trans hpo, _, _, hpump.trans (by rw [hq]; rfl)⟩

/-! ## Write-downs and lines that are placed (R203, R214) -/

/-- What operations of block `b` a slice has are write-downs that no request waits for. -/
def Slice.OnlyDown (b : Nat) (x : Slice) : Prop := ∀ p ∈ x.ops, p.blk = b → p.down = true ∧ p.waiting = []

theorem Slice.OnlyDown.map {f : BlkOp → BlkOp} (h : x.OnlyDown b) (hf : ∀ p, (f p).blk = p.blk ∧ (f p).down = p.down ∧ (f p).waiting = p.waiting)
    {y : Slice} (hy : y.ops = x.ops.map f) : y.OnlyDown b := fun p hp hb => by
  obtain ⟨q, hq, rfl⟩ := List.mem_map.mp (hy ▸ hp)
  obtain ⟨hblk, hdown, hwait⟩ := hf q
  rw [hdown, hwait]
  exact h q hq (hblk.symm.trans hb)
theorem Slice.OnlyDown.concat {y : Slice} (h : x.OnlyDown b) (hd : o.down = true ∧ o.waiting = []) (hy : y.ops = x.ops ++ [o]) : y.OnlyDown b :=
  fun p hp hb => by
    rcases List.mem_append.mp (hy ▸ hp) with hp | hp
    · exact h p hp hb
    · exact List.mem_singleton.mp hp ▸ hd

/-- A slice after its housekeeping: reads that wait at the stack, and lines held, are the same; no fetch of a block has come. -/
structure Slice.Tended (x y : Slice) : Prop where
  reads : y.reads = x.reads
  has : ∀ a, y.has a = x.has a
  onlyDown : ∀ b, x.OnlyDown b → y.OnlyDown b

theorem Slice.Tended.trans {y z : Slice} (h : x.Tended y) (h' : y.Tended z) : x.Tended z :=
  ⟨h'.reads.trans h.reads, fun a => (h'.has a).trans (h.has a), fun b hb => h'.onlyDown b (h.onlyDown b hb)⟩
theorem State.beginOps_tended : (s.slice sl).Tended ((s.beginOps sl).slice sl) := by
  obtain ⟨_, u, q, h⟩ := State.beginOps_spec (s := s) (sl := sl)
  rw [h]
  exact ⟨rfl, fun a => Slice.has_of_sets rfl, fun b hb => hb.map (fun p => by rw [BlkOp.begun_eq]; exact ⟨rfl, rfl, rfl⟩) rfl⟩
theorem Slice.tended_down (hd : o.down = true ∧ o.waiting = []) : x.Tended { x.clean b with ops := x.ops ++ [o] } :=
  ⟨rfl, fun _ => (Slice.has_of_sets rfl).trans Slice.has_clean, fun _ hb => hb.concat hd rfl⟩

theorem State.setSlice_beginOps_spec : s.SlicesOnly ((s.setSlice sl x).beginOps sl) ∧ x.Tended (((s.setSlice sl x).beginOps sl).slice sl) := by
  have ht := State.beginOps_tended (s := s.setSlice sl x) (sl := sl)
  rw [State.slice_setSlice] at ht
  exact ⟨State.slicesOnly_setSlice.trans State.beginOps_spec.1, ht⟩
theorem State.startDown_spec {a : Nat} : s.SlicesOnly (s.startDown sl a) ∧ (s.slice sl).Tended ((s.startDown sl a).slice sl) := by
  rw [State.startDown]
  dsimp only
  split
  · refine ⟨⟨_, rfl⟩, ?_⟩
    rw [State.slice_setSlice]
    exact ⟨rfl, fun a => Slice.has_of_sets rfl, fun b hb => hb.map (fun p => by split <;> exact ⟨rfl, rfl, rfl⟩) rfl⟩
  · obtain ⟨ho, ht⟩ := State.setSlice_beginOps_spec
    exact ⟨ho, (Slice.tended_down ⟨rfl, rfl⟩).trans ht⟩
/-- A slice with a line placed. -/
def Slice.place (x : Slice) (a : Nat) (dirty mru : Bool) : Slice :=
  { x with sets := aSet CSet.empty x.sets (setOf a) ((x.setAt a).put a dirty mru).1 }

theorem Slice.has_place {a : Nat} {dirty mru : Bool} : (x.place a dirty mru).has a = true := by
  rw [Slice.has, Slice.setAt, Slice.place, aGet_aSet_self]
  exact CSet.put_wayOf
/-- A line is placed: the slice then holds it. -/
theorem State.cachePut_spec {a : Nat} {dirty mru : Bool} : s.SlicesOnly (s.cachePut sl a dirty mru) ∧
    ((s.slice sl).place a dirty mru).Tended ((s.cachePut sl a dirty mru).slice sl) := by
  have hset : s.SlicesOnly (s.setSlice sl ((s.slice sl).place a dirty mru)) ∧
      ((s.slice sl).place a dirty mru).Tended ((s.setSlice sl ((s.slice sl).place a dirty mru)).slice sl) :=
    ⟨State.slicesOnly_setSlice, by rw [State.slice_setSlice]; exact ⟨rfl, fun _ => rfl, fun _ h => h⟩⟩
  rw [State.cachePut]
  dsimp only
  split
  · split
    · obtain ⟨ho, ht⟩ := State.startDown_spec (s := s.setSlice sl ((s.slice sl).place a dirty mru)) (sl := sl)
      exact ⟨hset.1.trans ho, hset.2.trans ht⟩
    · exact hset
  · exact hset
/-- A slice without the operation of a block. -/
def Slice.without (x : Slice) (b : Nat) : Slice := { x with ops := x.ops.filter fun p => decide (p.blk ≠ b) }

theorem Slice.onlyDown_without : (x.without b).OnlyDown b := fun _ hp hb => absurd hb (of_decide_eq_true (List.mem_filter.mp hp).2)
theorem State.endOp_spec : s.SlicesOnly (s.endOp sl o) ∧ ((s.slice sl).without o.blk).Tended ((s.endOp sl o).slice sl) := by
  rw [State.endOp]
  dsimp only
  split
  · rw [State.slice_setSlice]
    obtain ⟨ho, ht⟩ := State.setSlice_beginOps_spec
    exact ⟨State.slicesOnly_setSlice.trans ho, (Slice.tended_down ⟨rfl, rfl⟩).trans ht⟩
  · exact State.setSlice_beginOps_spec

end

end Sys2Proof.Machine
end

/-! # Reads of tier H lines (O25) -/
section
set_option Elab.async false
namespace Sys2Proof.Machine

section
variable {s : State} {sl : SliceId} {k : LK} {loc a : Nat} {errs : List MemErr}

/-! ## Findings without an uncorrectable one (R217) -/

theorem State.log_eq {code d0 d1 flags : Nat} : s.log code k loc d0 d1 flags = { s with err := (s.log code k loc d0 d1 flags).err } := by
  rw [State.log]
  split <;> rfl
theorem State.memCe_eq {syn : Byte} : s.memCe k loc a syn = { s with err := (s.memCe k loc a syn).err } := by
  rw [State.memCe]
  dsimp only
  split
  · rfl
  · rw [State.log_eq]
/-- Nothing changes but the error log, slices other than `sl`, and the corrected words that wait at `sl`. -/
def State.Corrected (s s' : State) (sl : SliceId) : Prop :=
  ∃ e l ws, s' = { s with err := e, mem := { s.mem with slices := l } } ∧ aGet Slice.empty l (sliceNum sl) = { s.slice sl with ceWb := ws }

theorem State.Corrected.refl : s.Corrected s sl := ⟨_, _, _, rfl, rfl⟩
theorem State.Corrected.trans {s' s'' : State} (h : s.Corrected s' sl) (h' : s'.Corrected s'' sl) : s.Corrected s'' sl := by
  obtain ⟨e, l, ws, rfl, hl⟩ := h
  obtain ⟨e', l', ws', rfl, hl'⟩ := h'
  refine ⟨e', l', ws', rfl, hl'.trans ?_⟩
  rw [State.slice, hl]
theorem State.memErr_corrected {e : MemErr} (h : ∀ syn, e.ecc ≠ .ue syn) : s.Corrected (s.memErr sl k loc e) sl := by
  rw [State.memErr]
  dsimp only
  split
  · exact .refl
  · rw [State.memCe_eq]
    exact ⟨_, _, _, rfl, aGet_aSet_self ..⟩
  · next syn hue => exact absurd hue (h syn)
theorem State.lineErrs_corrected (h : NoUe errs a) : s.Corrected (s.lineErrs sl k loc a errs) sl := by
  have hall : ∀ e ∈ errs.filter fun e => decide (a ≤ e.addr) && decide (e.addr < a + 256), ∀ syn, e.ecc ≠ .ue syn := fun e he => by
    obtain ⟨hm, hin⟩ := List.mem_filter.mp he
    rw [Bool.and_eq_true, decide_eq_true_eq, decide_eq_true_eq] at hin
    exact h e hm hin.1 hin.2
  rw [State.lineErrs]
  generalize errs.filter (fun e => decide (a ≤ e.addr) && decide (e.addr < a + 256)) = l at hall ⊢
  induction l generalizing s with
  | nil => exact .refl
  | cons e l ih => exact (State.memErr_corrected (hall e (.head _))).trans (ih fun e he => hall e (.tail _ he))

/-! ## Requests of tiles and engines (R227) -/

theorem lan_of_mem_reqsOf {fl : Flit} {lan : Bool} {r : LineReq} (h : r ∈ (reqsOf fl lan).2) : r.lan = lan := by
  rw [reqsOf] at h
  obtain ⟨i, _, hi⟩ := List.mem_flatMap.mp h
  obtain ⟨j, _, rfl⟩ := List.mem_map.mp hi
  rfl

variable {fl : Flit} {rest : List Flit} {r : LineReq}

/-- A request for one line at the head of a slice is served, and leaves the queue (R205, R227). -/
theorem execMemoryRequestArrival_read (h0 : s.edgeQ (sliceKey sl 0) = []) (h3 : s.edgeQ (sliceKey sl 3) = fl :: rest) (hs : s.headSnoops fl = [])
    (hk : (hdrOf fl.hdr).kind = 2 ∨ (hdrOf fl.hdr).kind = 4) (hr : reqsOf fl false = (false, [r])) (hp : r.pol ≠ 3) :
    exec (.memoryRequestArrival sl errs) s = .next ((s.takeRead sl errs r).setEdgeQ (sliceKey sl 3) rest) := by
  have hlan : s.serveVc sl errs true = none := by
    rw [State.serveVc]
    simp only [if_pos, h0]
  have hgo : ¬(((¬(hdrOf fl.hdr).kind = 2 ∧ ¬(hdrOf fl.hdr).kind = 4) ∧ ¬(hdrOf fl.hdr).kind = 5) ∨ r.pol = 3) := by
    rintro (⟨⟨h2, h4⟩, _⟩ | h)
    · exact hk.elim h2 h4
    · exact hp h
  have hhead : s.serveHead sl errs false fl rest = some (s.takeRead sl errs r, rest) := by
    rw [State.serveHead, hr]
    simp
    exact fun h => absurd h hgo
  have hserve : s.serveVc sl errs false = some ((s.takeRead sl errs r).setEdgeQ (sliceKey sl 3) rest) := by
    rw [State.serveVc]
    simp [h3, hs, hhead]
  change execMemoryRequestArrival sl errs s = _
  rw [execMemoryRequestArrival, hlan]
  dsimp only
  rw [hserve]
  rfl

end

section
variable {s : State} {sl : SliceId} {errs : List MemErr} {r : LineReq}

theorem Slice.touch_eq {x : Slice} {a : Nat} {pol : BitVec 2} : x.touch a pol = { x with sets := (x.touch a pol).sets } := by
  unfold Slice.touch
  split <;> rfl
theorem State.tierOf_low {a : Nat} (h : a < 2 ^ 40) : s.tierOf a = .h := if_pos h
/-- A hit is counted, and the words of the line leave (R203, R228). -/
theorem State.takeRead_hit (hl : r.line < 2 ^ 40) (hlan : r.lan = false) (hue : NoUe errs r.line) (hhas : (s.slice sl).has r.line = true) :
    ∃ e l k fls, s.takeRead sl errs r =
        { s with err := e, mem := { s.mem with hit := s.mem.hit + 1, slices := l }, net := { s.net with links := k } } ∧
      (aGet Slice.empty l (sliceNum sl)).reads = (s.slice sl).reads ∧
      aGet [] k (portKey sl) = s.link (portKey sl) ++ fls ∧ fls.map (·.pay) = fourRows (s.mem.words r.line 32) ∧ ∀ f ∈ fls, AnswerTo r 0 f.hdr := by
  obtain ⟨e, l, ws, hs, hl'⟩ := State.lineErrs_corrected (s := s.countHit.setSlice sl ((s.slice sl).touch r.line r.pol)) (sl := sl) (k := .slice)
    (loc := sliceNum sl) hue
  obtain ⟨k, fls, hresp, hlink, hpay, hans⟩ := State.respond_spec (s := (s.countHit.setSlice sl ((s.slice sl).touch r.line r.pol)).lineErrs sl .slice
    (sliceNum sl) r.line errs) (sl := sl) (chit := true) (ws := ((s.countHit.setSlice sl ((s.slice sl).touch r.line r.pol)).lineErrs sl .slice
    (sliceNum sl) r.line errs).mem.words r.line 32) hlan
  refine ⟨e, l, k, fls, ?_, ?_, ?_, ?_, hans⟩
  · rw [State.takeRead, State.tierOf_low hl]
    dsimp only
    rw [if_pos hhas, hresp, hs]
    rfl
  · rw [hl', State.slice_setSlice, Slice.touch_eq]
  · rw [hlink, hs]
    rfl
  · rw [hpay, hs]
    rfl
/-- A miss is counted, and the read waits at its stack (R203). -/
theorem State.takeRead_miss (hl : r.line < 2 ^ 40) (hlan : r.lan = false) (hhas : (s.slice sl).has r.line = false) :
    s.takeRead sl errs r = s.countMiss.setSlice sl { s.slice sl with reads := (s.slice sl).reads ++ [{ r with near := s.lanAtStack sl }] } := by
  rw [State.takeRead, State.tierOf_low hl]
  dsimp only
  rw [if_neg (by rw [hhas]; decide), State.askStack]
  simp only [hlan, queueRead]
  rfl
theorem wordsKept_of_eq {s' : State} (hb : s'.mem.bytes = s.mem.bytes) (hp : s'.mem.poison = s.mem.poison) {lo n : Nat} : WordsKept s s' lo n :=
  wordsKept_iff.mpr (.of_eq hb hp)
/-- Nothing changes but the error log, the slices and the counts of the outputs. -/
def State.ReadOnly (s s' : State) : Prop := ∃ e l a b, s' = { s with err := e, mem := { s.mem with slices := l }, lan0 := a, lan1 := b }

theorem State.ReadOnly.trans {s' s'' : State} (h : s.ReadOnly s') (h' : s'.ReadOnly s'') : s.ReadOnly s'' := by
  obtain ⟨e, l, a, b, rfl⟩ := h
  obtain ⟨e', l', a', b', rfl⟩ := h'
  exact ⟨e', l', a', b', rfl⟩
theorem State.SlicesOnly.readOnly {s' : State} (h : s.SlicesOnly s') : s.ReadOnly s' := by
  obtain ⟨l, rfl⟩ := h
  exact ⟨_, l, _, _, rfl⟩
theorem State.Corrected.readOnly {s' : State} (h : s.Corrected s' sl) : s.ReadOnly s' := by
  obtain ⟨e, l, ws, rfl, _⟩ := h
  exact ⟨e, l, _, _, rfl⟩
theorem State.Corrected.slice {s' : State} (h : s.Corrected s' sl) : ∃ ws, s'.slice sl = { s.slice sl with ceWb := ws } := by
  obtain ⟨e, l, ws, rfl, hl⟩ := h
  exact ⟨ws, hl⟩
theorem State.readOnly_countDefer {c d : Bool} {n : Nat} : s.ReadOnly (if c then s.countDefer d n else s) := by
  cases c with
  | false => exact ⟨_, _, _, _, rfl⟩
  | true => cases d <;> exact ⟨_, _, _, _, rfl⟩
/-- Does a Lantern read of another slice defer the read as it returns (R207)? -/
def LineReq.defersNow (r : LineReq) (lm : Bool) : Bool := lm && !r.lan && !r.marked && r.near.isSome
/-- A stack read has returned, and what the H72 check found in its line has been applied. -/
def State.returned (s : State) (sl : SliceId) (errs : List MemErr) (lm : Bool) (r : LineReq) (rest : List LineReq) : State :=
  ((if r.defersNow lm then s.countDefer (r.near.getD false) 1 else s).setSlice sl { s.slice sl with reads := rest }).lineErrs sl .stack
    (stackH sl) r.line errs
/-- The line that has returned is placed, unless its policy is 2. -/
def State.landed (s : State) (sl : SliceId) (r : LineReq) : State :=
  if r.lan || decide (r.pol = 2) then s else s.cachePut sl r.line false (decide (r.pol = 0))

theorem execTierReadResponse_eq {lm : Bool} {rest : List LineReq} (h : (s.slice sl).reads = r :: rest) : exec (.tierReadResponse sl errs lm) s =
    .next (((s.returned sl errs lm r rest).landed sl r).respond sl { r with marked := r.marked || r.defersNow lm } false
      (((s.returned sl errs lm r rest).landed sl r).mem.words r.line 32)) := by
  change execTierReadResponse sl errs lm s = _
  rw [execTierReadResponse, h]
  rfl
theorem State.returned_spec {lm : Bool} {rest : List LineReq} (hue : NoUe errs r.line) :
    s.ReadOnly (s.returned sl errs lm r rest) ∧ ((s.returned sl errs lm r rest).slice sl).reads = rest := by
  have hc := State.lineErrs_corrected (s := (if r.defersNow lm then s.countDefer (r.near.getD false) 1 else s).setSlice sl
    { s.slice sl with reads := rest }) (sl := sl) (k := .stack) (loc := stackH sl) hue
  obtain ⟨ws, hws⟩ := hc.slice
  refine ⟨(State.readOnly_countDefer.trans State.slicesOnly_setSlice.readOnly).trans hc.readOnly, (congrArg Slice.reads hws).trans ?_⟩
  rw [State.slice_setSlice]
theorem State.landed_spec : s.SlicesOnly (s.landed sl r) ∧ ((s.landed sl r).slice sl).reads = (s.slice sl).reads ∧
    (r.lan = false → r.pol ≠ 2 → ((s.landed sl r).slice sl).has r.line = true) := by
  rw [State.landed]
  split
  · next h => exact ⟨.refl, rfl, fun hlan hp => absurd h (by rw [hlan, decide_eq_false hp]; decide)⟩
  · obtain ⟨ho, ht⟩ := State.cachePut_spec (s := s) (sl := sl) (a := r.line) (dirty := false) (mru := decide (r.pol = 0))
    exact ⟨ho, ht.reads, fun _ _ => (ht.has _).trans Slice.has_place⟩

end

/-- Settles O25: a hit and a miss by what they leave of the state, and the oldest stack read by what its answer leaves. -/
theorem tierReads : Obligations.TierReads := by
  unfold Obligations.TierReads
  refine ⟨?_, ?_⟩
  · intro s sl errs fl rest r h0 h3 hs hk hr hp hl hue
    have hlan : r.lan = false := lan_of_mem_reqsOf (fl := fl) (by rw [hr]; exact .head _)
    refine ⟨_, execMemoryRequestArrival_read h0 h3 hs hk hr hp, aGet_aSet_self .., ?_⟩
    cases hhas : (s.slice sl).has r.line with
    | true =>
      obtain ⟨e, l, k, fls, heq, hreads, hlink, hpay, hans⟩ := State.takeRead_hit hl hlan hue hhas
      rw [heq]
      exact ⟨wordsKept_of_eq rfl rfl, rfl, fun _ => ⟨rfl, rfl, hreads, responds_of hlink hpay hans⟩, nofun⟩
    | false =>
      rw [State.takeRead_miss hl hlan hhas]
      exact ⟨wordsKept_of_eq rfl rfl, rfl, nofun, fun _ => ⟨rfl, rfl, rfl, congrArg Slice.reads State.slice_setSlice⟩⟩
  · intro s sl errs lm r rest hreads hlan hue
    obtain ⟨hro, hrest⟩ := State.returned_spec (s := s) (sl := sl) (lm := lm) (rest := rest) hue
    obtain ⟨ho, hland, hhas⟩ := State.landed_spec (s := s.returned sl errs lm r rest) (sl := sl) (r := r)
    obtain ⟨e, l, a, b, hall⟩ := hro.trans ho.readOnly
    obtain ⟨k, fls, hresp, hlink, hpay, hans⟩ := State.respond_spec (s := (s.returned sl errs lm r rest).landed sl r) (sl := sl)
      (r := { r with marked := r.marked || r.defersNow lm }) (chit := false) (ws := ((s.returned sl errs lm r rest).landed sl r).mem.words r.line 32) hlan
    refine ⟨_, execTierReadResponse_eq hreads, ?_⟩
    rw [hresp]
    refine ⟨hland.trans hrest, wordsKept_of_eq (by rw [hall]) (by rw [hall]), hhas hlan, responds_of (fls := fls) ?_ ?_ hans⟩
    · rw [hall] at hlink
      exact hlink
    · rw [hpay, hall]
      rfl

end Sys2Proof.Machine
end

/-! # Stores of words and bytes leave the rest of memory (R216) -/
section
set_option Elab.async false
namespace Sys2Proof.Machine

section
variable {m m' m'' : Mem} {a : Nat} {w : PWord} {ws : List (PWord × Bool)}

/-- Only contents and marks of memory have changed. -/
def Mem.Stored (m m' : Mem) : Prop := ∃ b p, m' = { m with bytes := b, poison := p }

theorem Mem.Stored.refl : m.Stored m := ⟨_, _, rfl⟩
theorem Mem.Stored.trans (h : m.Stored m') (h' : m'.Stored m'') : m.Stored m'' := by
  obtain ⟨b, p, rfl⟩ := h
  obtain ⟨b', p', rfl⟩ := h'
  exact ⟨b', p', rfl⟩
theorem Mem.Stored.setWord : m.Stored (m.setWord a w) := ⟨_, _, rfl⟩
theorem Mem.Stored.foldl {α : Type} {f : Mem → α → Mem} {l : List α} (h : ∀ (m : Mem) (x : α), m.Stored (f m x)) : m.Stored (l.foldl f m) := by
  induction l generalizing m with
  | nil => exact .refl
  | cons x l ih => exact (h m x).trans ih
theorem Mem.stored_setSome : m.Stored (m.setSome a ws) := by
  induction ws generalizing m a with
  | nil => exact .refl
  | cons wc ws ih =>
    refine Mem.Stored.trans ?_ ih
    split
    · exact .setWord
    · exact .refl

end

end Sys2Proof.Machine
end

/-! # Block operations (O27)

A fetch or a write-down ends through `endOp`, which leaves no operation of the block but a new write-down. -/
section
set_option Elab.async false
namespace Sys2Proof.Machine

section
variable {s : State} {sl : SliceId} {errs : List MemErr} {r : LineReq} {o : BlkOp} {rd wr : List (Nat × Nat)}

/-! ## A fetch begins (R205, R214) -/

theorem State.takeRead_fetch (ht : s.tierOf r.line = .g ∨ s.tierOf r.line = .c) (ho : (s.slice sl).opOf (blkOf r.line) = none)
    (hu : s.updAt r.line = .none) (hh : (s.slice sl).has r.line = false) : s.takeRead sl errs r = s.countMiss.startFetch sl r r.pol := by
  rcases ht with ht | ht
  all_goals
    rw [State.takeRead, ht]
    simp [ho, hu, hh]
/-- The operation of a fetch as it is added, and a slice with it. -/
def LineReq.fetch (r : LineReq) : BlkOp := ⟨blkOf r.line, false, r.pol, [r], [], .queued, [], false⟩
def Slice.fetching (x : Slice) (r : LineReq) : Slice := { x.seeTag (blkOf r.line) with ops := x.ops ++ [r.fetch] }

theorem BlkOp.begun_frame {bs : List Nat} : (o.begun bs).blk = o.blk ∧ (o.begun bs).down = o.down ∧ (o.begun bs).pol = o.pol ∧
    (o.begun bs).waiting = o.waiting := by
  rw [BlkOp.begun_eq]
  exact ⟨rfl, rfl, rfl, rfl⟩
theorem BlkOp.map_blk_begun {bs : List Nat} {l : List BlkOp} : (l.map (BlkOp.begun bs)).map (·.blk) = l.map (·.blk) := by
  rw [List.map_map]
  exact List.map_congr_left fun p _ => BlkOp.begun_frame.1
theorem Slice.fetching_due {x : Slice} (h : x.ops.length < 16) : blkOf r.line ∈ (x.fetching r).due := by
  refine List.mem_map.mpr ⟨r.fetch, List.mem_filter.mpr ⟨?_, rfl⟩, rfl⟩
  have hlen : (x.fetching r).ops.length ≤ 16 := by
    rw [Slice.fetching, List.length_append, List.length_singleton]
    exact h
  rw [List.take_of_length_le hlen]
  exact List.mem_append_right _ (.head _)
theorem State.startFetch_spec : s.SlicesOnly (s.startFetch sl r r.pol) ∧
    ((s.startFetch sl r r.pol).slice sl).ops = ((s.slice sl).ops ++ [r.fetch]).map (BlkOp.begun ((s.slice sl).fetching r).due) := by
  obtain ⟨ho, u, q, hx⟩ := State.beginOps_spec (sl := sl) (s := s.setSlice sl ((s.slice sl).fetching r))
  rw [State.slice_setSlice] at hx
  exact ⟨State.slicesOnly_setSlice.trans ho, congrArg Slice.ops hx⟩

/-! ## Findings of a fetch without an error (R216, R218) -/

theorem State.poisonBlk_nil {blk : Nat} {took : List Nat} : s.poisonBlk sl blk took [] = s := rfl
theorem State.fetchErrs_clean (hb : o.bad = []) (ht : (s.tagOf o.blk).2 = false) : s.fetchErrs sl o [] false = s := by
  simp [State.fetchErrs, hb, ht, State.poisonBlk_nil]

/-! ## A fetch ends -/

/-- The lines of a fetched block are placed where the cache does not hold them. -/
def State.placeBlk (s : State) (sl : SliceId) (o : BlkOp) : State :=
  if o.pol = 2 then s
  else (blkLines o.blk).foldl (fun s a => if (s.slice sl).has a then s else s.cachePut sl a false (decide (o.pol = 0))) s

theorem execBlockFetchComplete_eq (h : (s.slice sl).readyOp false = some o) (hb : o.bad = []) (ht : (s.tagOf o.blk).2 = false) :
    exec (.blockFetchComplete sl [] false) s =
      .next (o.waiting.foldl (fun s r => s.respond sl r false (s.mem.words r.line 32)) ((s.endOp sl o).placeBlk sl o)) := by
  change execBlockFetchComplete sl [] false s = _
  rw [execBlockFetchComplete, h]
  dsimp only
  rw [State.fetchErrs_clean hb ht]
  rfl
theorem State.placeBlk_spec {b : Nat} (h : (s.slice sl).OnlyDown b) : s.SlicesOnly (s.placeBlk sl o) ∧ ((s.placeBlk sl o).slice sl).OnlyDown b := by
  rw [State.placeBlk]
  split
  · exact ⟨.refl, h⟩
  · generalize blkLines o.blk = l
    induction l generalizing s with
    | nil => exact ⟨.refl, h⟩
    | cons a l ih =>
      rw [List.foldl_cons]
      split
      · exact ih h
      · obtain ⟨ho, ht⟩ := State.cachePut_spec (s := s) (sl := sl) (a := a) (dirty := false) (mru := decide (o.pol = 0))
        obtain ⟨hrest, hdown⟩ := ih (ht.onlyDown b h)
        exact ⟨ho.trans hrest, hdown⟩

/-! ## A write-down ends -/

theorem HomesFree.nil : HomesFree s [] [] := ⟨nofun, nofun, by simp [State.homeBusy]⟩
theorem HomesFree.writes (h : HomesFree s rd wr) : HomesFree s [] wr := by
  obtain ⟨_, hw, hbusy⟩ := h
  refine ⟨nofun, hw, ?_⟩
  simp only [State.homeBusy, List.nil_append, List.any_append, List.any_eq_false, Bool.or_eq_true, List.any_eq_true] at hbusy ⊢
  rintro kv hkv (⟨p, hp, hmeets⟩ | hread)
  · exact hbusy kv hkv (.inl ⟨p, hp, .inr hmeets⟩)
  · exact hbusy kv hkv (.inr hread)

/-- The ranges of tier H that a write-down of a block has to find free: the tag of a tier C block. -/
def State.tagRange (s : State) (blk : Nat) : List (Nat × Nat) := if isC blk then [(s.tagAddr blk, 2)] else []

theorem HomesFree.tagRange (h : isC o.blk = true → HomesFree s [(s.tagAddr o.blk, 2)] [(s.tagAddr o.blk, 2)]) :
    HomesFree s (s.tagRange o.blk) (s.tagRange o.blk) := by
  rw [State.tagRange]
  split
  · next hc => exact h hc
  · exact .nil
theorem execBlockWriteDownComplete_eq (h : (s.slice sl).readyOp true = some o) (hb : o.bad = [])
    (ht : o.stage ≠ .write → o.took.length < 16 → (s.tagOf o.blk).2 = false)
    (hf : HomesFree s (s.tagRange o.blk) (s.tagRange o.blk)) : exec (.blockWriteDownComplete sl [] false) s =
      .next (if o.stage ≠ .write ∧ isC o.blk = true ∧ (relpaMode true (s.mem.words o.blk 512)).2 ≠ 0 then s.writeUnits sl o else s.endDown sl o) := by
  have hsame : ({ o with bad := [] } : BlkOp) = o := by rw [← hb]
  have hclean : o.stage ≠ .write → (if o.took.length < 16 then s.fetchErrs sl o [] false else s) = s := fun hw => by
    split
    · next hlt => exact State.fetchErrs_clean hb (ht hw hlt)
    · rfl
  change execBlockWriteDownComplete sl [] false s = _
  rw [execBlockWriteDownComplete, h]
  dsimp only
  have hrange : (if isC o.blk = true then [(s.tagAddr o.blk, 2)] else []) = s.tagRange o.blk := rfl
  rw [hrange]
  by_cases hw : o.stage = .write
  · rw [if_pos hw, State.withSnoops_free hf.writes, if_neg fun hn => hn.1 hw]
  · rw [if_neg hw, State.withSnoops_free hf]
    rw [hclean hw, hsame]
    congr 1
    refine if_congr ?_ rfl rfl
    rw [Bool.and_eq_true, decide_eq_true_eq, Nat.pos_iff_ne_zero]
    exact ⟨fun hc => ⟨hw, hc⟩, fun hc => hc.2⟩

/-- The mode and units of a block as it stands. -/
def State.modeOf (s : State) (blk : Nat) : Nat × Nat := relpaMode (isC blk) (s.mem.words blk 512)
/-- A write-down with the tag written, its operation ended and its requests not yet answered. -/
def State.downEnded (s : State) (sl : SliceId) (o : BlkOp) : State :=
  let s2 := (s.setTag o.blk (relpaTag (s.modeOf o.blk))).modMem fun m =>
    if m.anyPoison o.blk 4096 then m else { m with poisonedBlks := aSet false m.poisonedBlks (o.blk / 4096) false }
  (s2.setSlice sl ((s2.slice sl).seeTag o.blk)).endOp sl o

theorem State.endDown_eq (hb : o.bad = []) : s.endDown sl o =
    o.waiting.foldl (fun s r => s.respond sl r ((s.slice sl).has r.line) (s.mem.words r.line 32)) (s.downEnded sl o) := by
  rw [State.endDown, hb]
  rfl
theorem State.downEnded_spec : (∃ l p, s.downEnded sl o = { s.setTag o.blk (relpaTag (s.modeOf o.blk)) with
      mem := { (s.setTag o.blk (relpaTag (s.modeOf o.blk))).mem with slices := l, poisonedBlks := p } }) ∧
    ((s.downEnded sl o).slice sl).OnlyDown o.blk := by
  rw [State.downEnded]
  generalize s.setTag o.blk (relpaTag (s.modeOf o.blk)) = s1
  have hp : ∃ p, (s1.modMem fun m => if m.anyPoison o.blk 4096 then m else
      { m with poisonedBlks := aSet false m.poisonedBlks (o.blk / 4096) false }) = { s1 with mem := { s1.mem with poisonedBlks := p } } := by
    rw [State.modMem]
    split <;> exact ⟨_, rfl⟩
  obtain ⟨p, hp⟩ := hp
  rw [hp]
  generalize hs2 : (({ s1 with mem := { s1.mem with poisonedBlks := p } } : State).setSlice sl _) = s2
  obtain ⟨⟨l, ho⟩, ht⟩ := State.endOp_spec (s := s2) (sl := sl) (o := o)
  refine ⟨⟨l, p, ?_⟩, ht.onlyDown _ Slice.onlyDown_without⟩
  rw [ho, ← hs2]
  rfl

/-- A slice whose write-down of a tier C block has its units: they wait to leave. -/
def State.unitsLeave (s : State) (sl : SliceId) (o : BlkOp) : Slice :=
  { (s.slice sl).modOp o.blk (fun o => { o with stage := .write, bad := [] }) with
    uioq := (s.slice sl).uioq ++ (storedUnits o.blk (s.mem.words o.blk 512)).mapIdx fun u l => s.uioReq o.blk u true l.2 }

theorem State.writeUnits_eq : s.writeUnits sl o = (s.setSlice sl (s.unitsLeave sl o)).pumpUio := rfl

/-! ## Tags (R209, R212) -/

variable {blk : Nat} {t : W16}

theorem State.setTag_high (h : isC blk = true) :
    s.setTag blk t = s.modMem fun m => m.putMarked (s.tagAddr blk) ((toBytes 2 t.toNat).map fun b => (b, false)) := if_pos h
theorem State.setTag_low (h : isC blk = false) : s.setTag blk t = s.modMem fun m => { m with tags := aSet 0 m.tags (blk / 4096) t } :=
  if_neg (by rw [h]; decide)
theorem State.setTag_low_bytes (h : isC blk = false) :
    (s.setTag blk t).mem.bytes = s.mem.bytes ∧ (s.setTag blk t).mem.poison = s.mem.poison := by
  rw [State.setTag_low h]
  exact ⟨rfl, rfl⟩
theorem State.tagOf_high (h : isC blk = true) : (s.tagOf blk).1 = BitVec.ofNat 16 (s.mem.num (s.tagAddr blk) 2) := by
  rw [State.tagOf, if_pos h]
theorem State.tagOf_low (h : isC blk = false) : (s.tagOf blk).1 = aGet 0 s.mem.tags (blk / 4096) := by
  rw [State.tagOf, if_neg (by rw [h]; decide)]
theorem Mem.stored_putMarked {m : Mem} {a : Nat} {bs : List (Byte × Bool)} : m.Stored (m.putMarked a bs) := by
  rw [Mem.putMarked_eq]
  exact .foldl fun _ _ => .setWord
theorem Mem.rdBytes_putMarked {m : Mem} {a : Nat} {bs : List Byte} : (m.putMarked a (bs.map fun b => (b, false))).rdBytes a bs.length = bs := by
  refine List.ext_getElem (by rw [Mem.rdBytes_length]) fun i hi hi' => ?_
  simp only [Mem.rdBytes_eq_map, List.getElem_map, List.getElem_range, Mem.byte_putMarked]
  rw [if_pos (by rw [List.length_map]; omega), Nat.add_sub_cancel_left, List.getD_eq_getElem _ _ (by rwa [List.length_map]), List.getElem_map]
/-- A setting of a tag changes bytes of memory and Grotto tags alone. -/
theorem State.setTag_frame : ∃ b p g, s.setTag blk t = { s with mem := { s.mem with bytes := b, poison := p, tags := g } } := by
  cases h : isC blk with
  | false => exact ⟨_, _, _, State.setTag_low h⟩
  | true =>
    obtain ⟨b, p, hm⟩ := Mem.stored_putMarked (m := s.mem) (a := s.tagAddr blk) (bs := (toBytes 2 t.toNat).map fun b => (b, false))
    exact ⟨b, p, _, (State.setTag_high h).trans (by rw [State.modMem, hm])⟩
theorem State.tagAddr_setTag {b : Nat} : (s.setTag blk t).tagAddr b = s.tagAddr b := by
  have hregs : (s.setTag blk t).regs = s.regs := by
    obtain ⟨b, p, g, hset⟩ := State.setTag_frame (s := s) (blk := blk) (t := t)
    rw [hset]
  rw [State.tagAddr, State.tagAddr, State.act, State.act, hregs]
theorem ofNat_ofBytes_toBytes : BitVec.ofNat 16 (ofBytes (toBytes 2 t.toNat)) = t := by
  refine BitVec.eq_of_toNat_eq ?_
  rw [ofBytes_toBytes, BitVec.toNat_ofNat]
  have := t.isLt
  omega
theorem State.tagOf_setTag : ((s.setTag blk t).tagOf blk).1 = t := by
  cases h : isC blk with
  | false =>
    rw [State.tagOf_low h, State.setTag_low h]
    exact aGet_aSet_self ..
  | true =>
    have hmem : (s.setTag blk t).mem = s.mem.putMarked (s.tagAddr blk) ((toBytes 2 t.toNat).map fun b => (b, false)) :=
      congrArg State.mem (State.setTag_high h)
    have hbytes := Mem.rdBytes_putMarked (m := s.mem) (a := s.tagAddr blk) (bs := toBytes 2 t.toNat)
    rw [toBytes_length] at hbytes
    rw [State.tagOf_high h, State.tagAddr_setTag, hmem, Mem.num, hbytes, ofNat_ofBytes_toBytes]
theorem State.bytesKept_setTag (h : isC blk = true) : BytesKept s (s.setTag blk t) (s.tagAddr blk) 2 := fun a ha => by
  rw [State.setTag_high h]
  refine Mem.byte_putMarked.trans (if_neg ?_)
  rw [List.length_map, toBytes_length]
  omega

end

/-- Settles O27: a fetch as it begins and ends, and a write-down at its two commands. -/
theorem blockOperations : Obligations.BlockOperations := by
  unfold Obligations.BlockOperations
  refine ⟨?_, ?_, ?_⟩
  · intro s sl errs fl rest r h0 h3 hs hk hr hp ht ho hu hh
    obtain ⟨⟨l, hl⟩, hops⟩ := State.startFetch_spec (s := s.countMiss) (sl := sl) (r := r)
    refine ⟨_, execMemoryRequestArrival_read h0 h3 hs hk hr hp, ?_⟩
    rw [State.takeRead_fetch ht ho hu hh]
    have hops' : (((s.countMiss.startFetch sl r r.pol).setEdgeQ (sliceKey sl 3) rest).slice sl).ops = _ := hops
    refine ⟨?_, ⟨r.fetch.begun ((s.slice sl).fetching r).due, ?_, ?_⟩, ?_, ?_, ?_⟩
    · rw [hops', BlkOp.map_blk_begun, List.map_append]
      rfl
    · rw [hops']
      exact List.mem_map_of_mem (List.mem_append_right _ (.head _))
    · obtain ⟨hblk, hdown, hpol, hwait⟩ := BlkOp.begun_frame (o := r.fetch) (bs := ((s.slice sl).fetching r).due)
      exact ⟨hblk, hdown, hpol, hwait, fun hlt => congrArg BlkOp.stage (if_pos (Slice.fetching_due hlt))⟩
    all_goals rw [hl]
    · rfl
    · rfl
    · exact wordsKept_of_eq rfl rfl
  · intro s sl o ho hb ht hlan
    obtain ⟨hend, htend⟩ := State.endOp_spec (s := s) (sl := sl) (o := o)
    obtain ⟨hpl, hdown⟩ := State.placeBlk_spec (s := s.endOp sl o) (sl := sl) (o := o) (htend.onlyDown _ Slice.onlyDown_without)
    obtain ⟨l, hl⟩ := hend.trans hpl
    obtain ⟨k, hk, hpays⟩ := State.foldl_respond_spec (s := (s.endOp sl o).placeBlk sl o) (sl := sl) (rs := o.waiting) (c := fun _ _ => false) hlan
    refine ⟨_, execBlockFetchComplete_eq ho hb ht, ?_⟩
    rw [hk]
    refine ⟨fun p hp hpb => (hdown p hp hpb).1, wordsKept_of_eq (by rw [hl]) (by rw [hl]), ?_⟩
    rw [hl] at hpays
    rw [hl]
    exact hpays
  · intro s sl o ho hb hlan ht hf
    have hexec := execBlockWriteDownComplete_eq ho hb ht (HomesFree.tagRange hf)
    refine ⟨fun hcase => ?_, fun hc hw hu => ?_⟩
    · rw [if_neg fun hn => by
        rcases hcase with hc | hw | hu
        · exact absurd (hn.2.1.symm.trans hc) (by decide)
        · exact hn.1 hw
        · exact hn.2.2 hu] at hexec
      obtain ⟨⟨l, p, hend⟩, hdown⟩ := State.downEnded_spec (s := s) (sl := sl) (o := o)
      obtain ⟨k, hk, hpays⟩ := State.foldl_respond_spec (s := s.downEnded sl o) (sl := sl) (rs := o.waiting)
        (c := fun s r => (s.slice sl).has r.line) hlan
      refine ⟨_, hexec, ?_⟩
      rw [State.endDown_eq hb, hk]
      refine ⟨?_, hdown, fun hc => ?_, fun hc => ?_, hpays.trans ?_⟩
      · rw [hend]
        exact State.tagOf_setTag
      · rw [hend]
        exact wordsKept_of_eq (State.setTag_low_bytes hc).1 (State.setTag_low_bytes hc).2
      · rw [hend]
        exact State.bytesKept_setTag hc
      · obtain ⟨b, q, g, hset⟩ := State.setTag_frame (s := s) (blk := o.blk) (t := relpaTag (s.modeOf o.blk))
        rw [hend, hset]
        rfl
    · rw [if_pos ⟨hw, hc, hu⟩] at hexec
      obtain ⟨⟨l, hl⟩, hpump⟩ := State.pumpUio_spec (sl := sl) (s := s.setSlice sl (s.unitsLeave sl o))
      rw [State.slice_setSlice] at hpump
      refine ⟨_, hexec, ?_⟩
      rw [State.writeUnits_eq]
      refine ⟨?_, ?_, fun p hp hpb => ?_, hpump.all.trans ?_⟩
      · rw [hl]
        exact wordsKept_of_eq rfl rfl
      · rw [hl]
        rfl
      · obtain ⟨n, hx⟩ := hpump
        rw [hx] at hp
        obtain ⟨q, _, rfl⟩ := List.mem_map.mp hp
        dsimp only at hpb ⊢
        split at hpb
        · next hq => rw [if_pos hq]
        · next hq => exact absurd hpb hq
      · exact (List.append_assoc ..).symm

end Sys2Proof.Machine
end

/-! # Plain writes of whole words (R203, R216)

What a service, a mover or a home leaves when it writes words of lines that R8, R240 and R396 do not discard. -/
section
set_option Elab.async false
namespace Sys2Proof.Machine

section
variable {m : Mem} {a lo n : Nat} {ws : List (PWord × Bool)}

/-- A write of some words of a line keeps what lies outside the words it carries. -/
theorem Mem.kept_setSome_of (ha : a % 8 = 0) (h : ∀ k, (ws.getD k (pw0, false)).2 = true → lo ≤ a + 8 * k ∧ a + 8 * k + 8 ≤ lo + n) :
    m.Kept (m.setSome a ws) lo n := by
  induction ws generalizing m a with
  | nil => exact .refl
  | cons wc ws ih =>
    obtain ⟨w, c⟩ := wc
    refine Mem.Kept.trans (m' := if c then m.setWord a w else m) ?_ (ih (by omega) fun k hk => ?_)
    · cases c with
      | false => exact .refl
      | true => exact (Mem.kept_setWord ha).mono (h 0 rfl).1 (h 0 rfl).2
    · have := h (k + 1) hk
      omega

end

section
variable {s s' s'' : State} {a n lead : Nat} {pol : BitVec 2} {ws here : List PWord}

/-- Nothing has changed but contents and marks of memory and what the slices hold. -/
def State.StoredOnly (s s' : State) : Prop := ∃ b p l, s' = { s with mem := { s.mem with bytes := b, poison := p, slices := l } }

theorem State.StoredOnly.refl : s.StoredOnly s := ⟨_, _, _, rfl⟩
theorem State.StoredOnly.trans (h : s.StoredOnly s') (h' : s'.StoredOnly s'') : s.StoredOnly s'' := by
  obtain ⟨b, p, l, rfl⟩ := h
  obtain ⟨b', p', l', rfl⟩ := h'
  exact ⟨b', p', l', rfl⟩
theorem State.SlicesOnly.storedOnly (h : s.SlicesOnly s') : s.StoredOnly s' := by
  obtain ⟨l, rfl⟩ := h
  exact ⟨_, _, l, rfl⟩
theorem State.storedOnly_modMem {f : Mem → Mem} (h : s.mem.Stored (f s.mem)) : s.StoredOnly (s.modMem f) := by
  obtain ⟨b, p, hf⟩ := h
  exact ⟨b, p, _, by rw [State.modMem, hf]⟩
theorem State.cacheWrite_slicesOnly : s.SlicesOnly (s.cacheWrite a pol) := by
  rw [State.cacheWrite]
  split
  · exact .refl
  · exact State.cachePut_spec.1

/-! ## Lines -/

/-- A write of the line is performed as it is told (R8, R240, R396). -/
def State.PlainAt (s : State) (a : Nat) : Prop := s.tierOf a ≠ .none ∧ s.sealedAt a = false ∧ s.updAt a = .none

theorem PlainRange.at {x : Nat} (h : PlainRange s a n) (hx : a ≤ x ∧ x < a + n) : s.PlainAt (x - x % 256) := h x hx.1 hx.2
theorem PlainRange.mono {b k : Nat} (h : PlainRange s a n) (hlo : a ≤ b) (hhi : b + k ≤ a + n) : PlainRange s b k :=
  fun x hx hx' => h x (by omega) (by omega)
theorem State.StoredOnly.plainRange (hs : s.StoredOnly s') (h : PlainRange s a n) : PlainRange s' a n := by
  obtain ⟨b, p, l, rfl⟩ := hs
  exact h
theorem State.lineWrite_plain {carries : List Bool} {req src ins : Nat} (h : s.PlainAt a) :
    s.lineWrite a ws carries pol false req src ins = (s.modMem fun m => m.setSome a (ws.zip carries)).cacheWrite a pol := by
  obtain ⟨ht, hsl, hu⟩ := h
  rw [State.lineWrite, if_neg ht, if_neg (by rw [hsl]; decide), hu]
  rfl
/-- Words of a line from its word `lead` on, each with the sign that the write carries it. -/
def partLine (lead : Nat) (here : List PWord) : List (PWord × Bool) :=
  (List.replicate lead pw0 ++ here ++ List.replicate (32 - (List.replicate lead pw0 ++ here).length) pw0).zip
    (List.replicate lead false ++ List.replicate here.length true ++
      List.replicate (32 - (List.replicate lead false ++ List.replicate here.length true).length) false)

theorem partLine_eq : partLine lead here = List.replicate lead (pw0, false) ++ here.map (fun w => (w, true)) ++
    List.replicate (32 - (lead + here.length)) (pw0, false) := by
  have hones : here.zip (List.replicate here.length true) = here.map fun w => (w, true) :=
    List.ext_getElem (by simp) fun i _ _ => by simp
  rw [partLine, List.zip_append (by simp), List.zip_append (by simp), hones, List.length_append, List.length_append, List.length_replicate,
    List.length_replicate, List.length_replicate, List.zip_replicate', List.zip_replicate']
theorem getD_partLine {k : Nat} : (partLine lead here).getD k (pw0, false) =
    if lead ≤ k ∧ k < lead + here.length then (here.getD (k - lead) pw0, true) else (pw0, false) := by
  rw [partLine_eq, List.append_assoc]
  by_cases hk : k < lead
  · rw [List.getD_append _ _ _ _ (by simpa using hk), List.getD_replicate _ hk, if_neg (by omega)]
  · rw [List.getD_append_right _ _ _ _ (by simpa using hk), List.length_replicate]
    by_cases hk' : k < lead + here.length
    · rw [List.getD_append _ _ _ _ (by simp; omega), if_pos ⟨by omega, hk'⟩]
      simp only [List.getD_eq_getElem?_getD, List.getElem?_map]
      rw [List.getElem?_eq_getElem (by omega)]
      rfl
    · rw [List.getD_append_right _ _ _ _ (by simp; omega), if_neg (by omega)]
      simp only [List.getD_eq_getElem?_getD, List.getElem?_replicate]
      split <;> rfl
/-- The words `here` are written from `a`, in the line of `a`. -/
def State.writePart (s : State) (pol : BitVec 2) (a : Nat) (here : List PWord) : State :=
  (s.modMem fun m => m.setSome (a - a % 256) (partLine (a % 256 / 8) here)).cacheWrite (a - a % 256) pol

variable {req src ins : Nat}

theorem State.polWords_nil : s.polWords pol req src ins n a [] = s := by cases n <;> rfl
theorem State.polWords_cons (hp : s.PlainAt (a - a % 256)) (hw : ws ≠ []) : s.polWords pol req src ins (n + 1) a ws =
    (s.writePart pol a (ws.take (32 - a % 256 / 8))).polWords pol req src ins n (a - a % 256 + 256) (ws.drop (32 - a % 256 / 8)) := by
  have hlead : (a - (a - a % 256)) / 8 = a % 256 / 8 := by omega
  cases ws with
  | nil => exact absurd rfl hw
  | cons w ws =>
    have hstep : s.polWords pol req src ins (n + 1) a (w :: ws) = (s.lineWrite (a - a % 256) _ _ pol false req src ins).polWords pol req src ins n _ _ := rfl
    rw [hstep, hlead, State.lineWrite_plain hp]
    rfl
/-- The words of a line that a plain write names are written, and no other byte. -/
theorem State.writePart_spec (ha : a % 8 = 0) :
    s.StoredOnly (s.writePart pol a here) ∧ s.mem.Kept (s.writePart pol a here).mem a (8 * here.length) ∧
    ∀ k, k < here.length → (s.writePart pol a here).mem.word (a + 8 * k) = here.getD k pw0 := by
  obtain ⟨l, hl⟩ := State.cacheWrite_slicesOnly (s := s.modMem fun m => m.setSome (a - a % 256) (partLine (a % 256 / 8) here)) (a := a - a % 256) (pol := pol)
  have hline : (a - a % 256) % 8 = 0 := by omega
  refine ⟨(State.storedOnly_modMem Mem.stored_setSome).trans (State.cacheWrite_slicesOnly.storedOnly), ?_, fun k hk => ?_⟩
  · rw [State.writePart, hl]
    refine Mem.Kept.trans (Mem.kept_setSome_of hline fun k hk => ?_) (.of_eq rfl rfl)
    rw [getD_partLine] at hk
    split at hk
    · omega
    · cases hk
  · rw [State.writePart, hl]
    have haddr : a + 8 * k = a - a % 256 + 8 * (a % 256 / 8 + k) := by omega
    rw [haddr]
    refine (Mem.word_setSome hline).trans ?_
    rw [getD_partLine, Nat.add_sub_cancel_left, if_pos (c := _ ∧ _) (by omega)]
    rfl
/-- A plain write of words: each is in its place, and no other byte has changed. -/
theorem State.polWords_spec (ha : a % 8 = 0) (hfuel : a % 256 / 8 + ws.length ≤ 32 * n) (hp : PlainRange s a (8 * ws.length)) :
    s.StoredOnly (s.polWords pol req src ins n a ws) ∧ s.mem.Kept (s.polWords pol req src ins n a ws).mem a (8 * ws.length) ∧
    ∀ k, k < ws.length → (s.polWords pol req src ins n a ws).mem.word (a + 8 * k) = ws.getD k pw0 := by
  induction n generalizing s a ws with
  | zero =>
    obtain rfl : ws = [] := List.length_eq_zero_iff.mp (by omega)
    exact ⟨.refl, .refl, nofun⟩
  | succ n ih =>
    by_cases hw : ws = []
    · subst hw
      rw [State.polWords_nil]
      exact ⟨.refl, .refl, nofun⟩
    · have hpos : 0 < ws.length := List.length_pos_iff.mpr hw
      obtain ⟨htake, htake', hfull⟩ : (ws.take (32 - a % 256 / 8)).length ≤ 32 - a % 256 / 8 ∧ (ws.take (32 - a % 256 / 8)).length ≤ ws.length ∧
          ((ws.take (32 - a % 256 / 8)).length = 32 - a % 256 / 8 ∨ (ws.take (32 - a % 256 / 8)).length = ws.length) := by
        rw [List.length_take]
        omega
      have hdrop : (ws.drop (32 - a % 256 / 8)).length = ws.length - (32 - a % 256 / 8) := List.length_drop
      obtain ⟨hso, hkept, hwords⟩ := State.writePart_spec (s := s) (pol := pol)
        (here := ws.take (32 - a % 256 / 8)) ha
      rw [State.polWords_cons (hp.at ⟨Nat.le_refl a, by omega⟩) hw]
      have hfirst {k : Nat} (hlt : k < 32 - a % 256 / 8) : (ws.take (32 - a % 256 / 8)).getD k pw0 = ws.getD k pw0 := by
        rw [List.getD_eq_getElem?_getD, List.getElem?_take, if_pos hlt]
        rfl
      by_cases hend : ws.length ≤ 32 - a % 256 / 8
      · rw [List.drop_eq_nil_of_le hend, State.polWords_nil]
        exact ⟨hso, hkept.mono (Nat.le_refl a) (by omega), fun k hk => (hwords k (by omega)).trans (hfirst (by omega))⟩
      · obtain ⟨hso', hkept', hwords'⟩ := ih (a := a - a % 256 + 256) (ws := ws.drop (32 - a % 256 / 8)) (by omega) (by omega)
          ((hso.plainRange hp).mono (by omega) (by omega))
        refine ⟨hso.trans hso', (hkept.mono (Nat.le_refl a) (by omega)).trans (hkept'.mono (by omega) (by omega)), fun k hk => ?_⟩
        by_cases hlt : k < 32 - a % 256 / 8
        · rw [hkept'.word (by omega), hwords k (by omega), hfirst hlt]
        · have haddr : a + 8 * k = a - a % 256 + 256 + 8 * (k - (32 - a % 256 / 8)) := by omega
          rw [haddr, hwords' _ (by omega), List.getD_eq_getElem?_getD, List.getElem?_drop, Nat.add_sub_cancel' (by omega)]
          rfl

end

end Sys2Proof.Machine
end

/-! # Upkeep of memory (O28) -/
section
set_option Elab.async false
namespace Sys2Proof.Machine

section
variable {s : State} {sl : SliceId} {n : Nat} {u : UioReq} {a : Nat} {k : LK} {loc : Nat}

/-! ## Scrub reads (R216, R217, R439) -/

theorem execPatrolScrubRead_eq {a : DevAddr} {ecc : Ecc} (hon : s.act .trh 0x100 % 2 = 1) (ha : a.toNat < 2 ^ 40) :
    exec (.patrolScrubRead a ecc) s = .next (match ecc with
      | .ok => s.modMem fun m => { m with scrubs := m.scrubs + 1 }
      | .ce syn => (s.modMem fun m => { m with scrubs := m.scrubs + 1 }).memCe .stack (stackH (homeOf a.toNat)) (a.toNat - a.toNat % 8) syn
      | .ue syn => (s.modMem fun m => { m with scrubs := m.scrubs + 1 }).memErr (homeOf a.toNat) .stack (stackH (homeOf a.toNat)) ⟨a.toNat, .ue syn⟩) := by
  change execPatrolScrubRead a ecc s = _
  rw [execPatrolScrubRead, if_neg (by simp only [hon, Bool.or_eq_true, decide_eq_true_eq]; omega)]
  cases ecc <;> rfl
theorem State.memCe_ue {syn : Byte} : (s.memCe k loc a syn).err.ue = s.err.ue := by
  rw [State.memCe]
  dsimp only
  split
  · rfl
  · rw [State.log]
    split <;> rfl
theorem State.memUe_eq {syn : Byte} : ∃ e, s.memUe k loc a syn = { s with err := e } ∧ e.ue = s.err.ue + 1 := by
  refine ⟨(s.memUe k loc a syn).err, ?_, ?_⟩
  · rw [State.memUe, State.alert, State.log_eq]
  · rw [State.memUe, State.alert, State.log]
    split <;> rfl
/-- An uncorrectable word becomes poison; one that was is left. -/
theorem State.memErr_ue {sl : SliceId} {e : Nat} {syn : Byte} :
    (∃ er m f, s.memErr sl k loc ⟨e, .ue syn⟩ = { s with err := er, mem := m, dev := { s.dev with free := f } } ∧
      m.scrubs = s.mem.scrubs ∧ s.mem.Kept m (e - e % 8) 8 ∧ (m.word (e - e % 8)).p = true ∧
      ((s.mem.word (e - e % 8)).p = false → er.ue = s.err.ue + 1)) := by
  rw [State.memErr]
  dsimp only
  split
  · next h => exact ⟨_, _, _, rfl, rfl, .refl, h, fun hn => absurd (h.symm.trans hn) (by decide)⟩
  · obtain ⟨er, her, hue⟩ := State.memUe_eq (s := s) (k := k) (loc := loc) (a := e - e % 8) (syn := syn)
    rw [her]
    refine ⟨er, _, _, rfl, rfl, (Mem.kept_setWord (by omega)).trans (.of_eq rfl rfl), ?_, fun _ => hue⟩
    exact congrArg PWord.p (Mem.word_setWord (m := s.mem))

/-! ## UIO endings (R308, R312) -/

/-- Request `n` of a slice has left those in flight. -/
def Slice.uioGone (x : Slice) (n : Nat) : Slice := { x with uio := x.uio.eraseIdx n }

theorem State.uioEnd_ok (h : (s.slice sl).uio[n]? = some u) : s.uioEnd sl n none = (s.setSlice sl ((s.slice sl).uioGone n)).pumpUio := by
  rw [State.uioEnd, h]
  rfl
theorem State.uioEnd_fail {st : Nat} (h : (s.slice sl).uio[n]? = some u) : s.uioEnd sl n (some st) =
    (((s.modMem fun m => { m with tierCio := m.tierCio + 1 }).setSlice sl
      (((s.slice sl).modOp u.blk fun o => { o with bad := o.bad ++ [u.unit] }).uioGone n)).log 0x1022 .slice (sliceNum sl) (u.blk + 64 * u.unit) st).pumpUio := by
  rw [State.uioEnd, h]
  rfl

/-- A failed request has ended: the count, the operation's bad units and the requests in flight. -/
theorem State.uioEnd_fail_spec {st : Nat} (h : (s.slice sl).uio[n]? = some u) :
    (∃ er l, s.uioEnd sl n (some st) = { s with err := er, mem := { s.mem with slices := l, tierCio := s.mem.tierCio + 1 } }) ∧
    (((s.slice sl).modOp u.blk fun o => { o with bad := o.bad ++ [u.unit] }).uioGone n).Pumped ((s.uioEnd sl n (some st)).slice sl) := by
  rw [State.uioEnd_fail h, State.log_eq]
  generalize hs1 : ({ ((s.modMem fun m => { m with tierCio := m.tierCio + 1 }).setSlice sl _) with err := _ } : State) = s1
  obtain ⟨⟨l, ho⟩, hp⟩ := State.pumpUio_spec (s := s1) (sl := sl)
  have hslice : s1.slice sl = ((s.slice sl).modOp u.blk fun o => { o with bad := o.bad ++ [u.unit] }).uioGone n := by
    rw [← hs1]
    exact aGet_aSet_self ..
  rw [hslice] at hp
  refine ⟨⟨s1.err, l, ?_⟩, hp⟩
  rw [ho, ← hs1]
  rfl

/-! ## Back-invalidate responses (R310, R311) -/

/-- The filter without a line, whose back-invalidate has been answered. -/
def State.released (s : State) (l : Nat) : State := s.modMem fun m => { m with
  snooping := m.snooping.filter fun k => decide (k ≠ l), snoop := m.snoop.filter fun e => decide (e.line ≠ l) }
/-- The words of a modified line. -/
def lineWords (data : List W64) : List PWord := (List.range 8).map fun k => ⟨data.getD k 0, false⟩

theorem execBackInvalidateResponse_eq {a : DevAddr} {dirty : Bool} {data : List W64} {l : Nat} (hl : l = a.toNat / 64) (hs : l ∈ s.mem.snooping) :
    exec (.backInvalidateResponse a dirty data) s =
      .next (if dirty then (s.released l).polWords 2 0 0 0 2 (64 * l) (lineWords data) else s.released l).putLate := by
  subst hl
  change execBackInvalidateResponse a dirty data s = _
  rw [execBackInvalidateResponse, if_neg (by simpa using hs)]
  rfl
theorem State.putLate_nil (h : s.mem.late = []) : s.putLate = s := by
  rw [State.putLate, h]
  change s.modMem (fun m => { m with late := [] }) = s
  rw [State.modMem, ← h]
theorem State.putH_free {bs : List Byte} (h : s.snoopNeed a bs.length true = []) : s.putH a bs = s.modMem fun m => m.setBytes a bs := by
  rw [State.putH, h]
  rfl
theorem State.snoopNeed_released {l b n : Nat} (hlo : 64 * l ≤ b) (hhi : b + n ≤ 64 * l + 64) {w : Bool} : (s.released l).snoopNeed b n w = [] := by
  rw [State.snoopNeed, List.map_eq_nil_iff, List.filter_eq_nil_iff]
  intro e he
  have hne : e.line ≠ l := of_decide_eq_true (List.mem_filter.mp he).2
  simp only [Bool.and_eq_true, decide_eq_true_eq]
  omega
theorem length_lineWords {data : List W64} : (lineWords data).length = 8 := by rw [lineWords, List.length_map, List.length_range]
theorem getD_lineWords {data : List W64} {k : Nat} (hk : k < 8) : (lineWords data).getD k pw0 = ⟨data.getD k 0, false⟩ := by
  rw [List.getD_eq_getElem _ _ (by simpa [lineWords] using hk)]
  simp [lineWords]

end

/-- Settles O28: each command of the upkeep by the equation of its effect. -/
theorem memoryUpkeep : Obligations.MemoryUpkeep := by
  unfold Obligations.MemoryUpkeep
  refine ⟨?_, ?_, fun s k n => ⟨rfl, rfl, rfl⟩, ?_, ?_, ?_, ?_, ?_⟩
  · intro s sl
    refine ⟨s.setSlice sl { (s.slice sl) with ceWb := (s.slice sl).ceWb.tail }, rfl, ?_⟩
    dsimp only
    rw [State.slice_setSlice]
    exact ⟨List.drop_one.symm, rfl, wordsKept_of_eq rfl rfl, rfl, rfl, rfl⟩
  · intro s sl
    refine ⟨s.setSlice sl { (s.slice sl) with ueWb := (s.slice sl).ueWb.tail }, rfl, ?_⟩
    dsimp only
    rw [State.slice_setSlice]
    exact ⟨List.drop_one.symm, rfl, wordsKept_of_eq rfl rfl, rfl, rfl, rfl⟩
  · intro s a ecc hon ha
    refine ⟨_, execPatrolScrubRead_eq hon ha, ?_⟩
    cases ecc with
    | ok => exact ⟨rfl, rfl, rfl, fun _ => ⟨wordsKept_of_eq rfl rfl, rfl⟩, nofun, nofun⟩
    | ce syn =>
      dsimp only
      refine ⟨?_, ?_, ?_, fun _ => ⟨wordsKept_of_eq ?_ ?_, State.memCe_ue⟩, fun _ _ => State.memCe_ce .., nofun⟩
      all_goals rw [State.memCe_eq]; rfl
    | ue syn =>
      dsimp only
      obtain ⟨er, m, f, heq, hscrubs, hkept, hpois, hcount⟩ := State.memErr_ue (s := s.modMem fun m => { m with scrubs := m.scrubs + 1 })
        (k := .stack) (loc := stackH (homeOf a.toNat)) (sl := homeOf a.toNat) (e := a.toNat) (syn := syn)
      rw [heq]
      exact ⟨hscrubs, rfl, rfl, fun hn => absurd rfl (hn syn), nofun, fun _ _ => ⟨hpois, hkept, hcount⟩⟩
  · intro s sl n st u hu
    by_cases hst : st = 0
    · subst hst
      obtain ⟨⟨l, ho⟩, k, hk⟩ := State.pumpUio_spec (s := s.setSlice sl ((s.slice sl).uioGone n)) (sl := sl)
      rw [State.slice_setSlice] at hk
      refine ⟨_, rfl, ?_⟩
      rw [if_pos rfl, State.uioEnd_ok hu]
      dsimp only
      rw [hk, ho]
      exact ⟨⟨k, rfl, rfl⟩, wordsKept_of_eq rfl rfl, rfl, fun _ => ⟨rfl, rfl⟩, fun h => absurd rfl h⟩
    · obtain ⟨⟨er, l, ho⟩, k, hk⟩ := State.uioEnd_fail_spec (st := st.toNat) hu
      refine ⟨_, rfl, ?_⟩
      rw [if_neg hst]
      dsimp only
      rw [hk, ho]
      exact ⟨⟨k, rfl, rfl⟩, wordsKept_of_eq rfl rfl, rfl, fun h => absurd h hst, fun _ => ⟨rfl, rfl⟩⟩
  · intro s sl n u hu
    have hlen : ¬(s.slice sl).uio.length ≤ n := fun h => by
      rw [List.getElem?_eq_none h] at hu
      cases hu
    obtain ⟨⟨er, l, ho⟩, k, hk⟩ := State.uioEnd_fail_spec (s := { s with dev := { s.dev with free := s.dev.free + 1 } }) (sl := sl)
      (st := (Config.freeWord s.dev.free).toNat) hu
    refine ⟨_, if_neg hlen, ?_⟩
    dsimp only
    rw [hk, ho]
    exact ⟨⟨k, rfl, rfl⟩, wordsKept_of_eq rfl rfl, rfl, rfl, rfl⟩
  · intro s a dirty data l hl hs hlate hdata ht hsl hu
    have hout : l ∉ (s.released l).mem.snooping := fun h => of_decide_eq_true (List.mem_filter.mp h).2 rfl
    have hfree : ∀ e ∈ (s.released l).mem.snoop, e.line ≠ l := fun e he => of_decide_eq_true (List.mem_filter.mp he).2
    refine ⟨_, execBackInvalidateResponse_eq hl hs, ?_⟩
    cases dirty with
    | false =>
      rw [if_neg nofun, State.putLate_nil (s := s.released l) hlate]
      exact ⟨hout, hfree, fun _ => wordsKept_of_eq rfl rfl, nofun, rfl, rfl⟩
    | true =>
      have hplain : PlainRange (s.released l) (64 * l) (8 * (lineWords data).length) := fun x hx hx' => by
        rw [length_lineWords] at hx'
        have hline : x - x % 256 = 64 * l - 64 * l % 256 := by omega
        rw [hline]
        exact ⟨ht, hsl, hu⟩
      obtain ⟨⟨b, p, sl, hso⟩, hkept, hwords⟩ := State.polWords_spec (pol := 2) (req := 0) (src := 0) (ins := 0) (n := 2) (by omega)
        (by rw [length_lineWords]; omega) hplain
      rw [length_lineWords] at hkept hwords
      rw [if_pos rfl, State.putLate_nil (by rw [hso]; exact hlate)]
      refine ⟨by rw [hso]; exact hout, by rw [hso]; exact hfree, nofun, fun _ => ⟨hkept, fun k hk => ?_⟩, by rw [hso]; rfl, by rw [hso]; rfl⟩
      rw [hwords k hk, getD_lineWords hk]
  · intro s a l b bs hl hs hlate hlo hhi
    have hput : (s.released l).putLate = ((s.released l).modMem fun m => { m with late := [] }).putH b bs := by
      rw [State.putLate]
      change s.mem.late.foldl _ _ = _
      rw [hlate]
      rfl
    have hneed : ((s.released l).modMem fun m => { m with late := [] }).snoopNeed b bs.length true = [] := State.snoopNeed_released hlo hhi
    refine ⟨_, execBackInvalidateResponse_eq hl hs, ?_⟩
    rw [if_neg nofun, hput, State.putH_free hneed]
    refine ⟨rfl, fun k hk => ?_, fun c hc => ?_⟩
    · exact (Mem.byte_setBytes ..).trans (by rw [if_pos (by omega), Nat.add_sub_cancel_left])
    · exact (Mem.byte_setBytes ..).trans (if_neg (by omega))

end Sys2Proof.Machine
end

/-! # Completions, findings and mover streams (R216, R229, R323, R330) -/
section
set_option Elab.async false
namespace Sys2Proof.Machine

section
variable {s s' s'' u : State} {c : Cmd} {id status : Nat} {result : W64}

/-! ## Completions (R323, R330) -/

theorem State.cmd?_id (h : s.cmd? id = some c) : c.id = id := by
  have hid := List.find?_some (p := fun c : Cmd => decide (c.id = id)) h
  exact of_decide_eq_true hid
theorem State.cmd?_of_unitHead {x : BitVec 6} {k : HUnit} (h : s.unitHead x k = some c) : s.cmd? c.id = some c := by
  obtain ⟨id, _, hc⟩ := Option.bind_eq_some_iff.mp h
  rwa [State.cmd?_id hc]
theorem State.ctx_modCtx_self {x : BitVec 6} {f : HCtx → HCtx} : (s.modCtx x f).ctx x = f (s.ctx x) := aGet_aSet_self ..

/-- Nothing has changed but the books of host commands and objects, and nothing has been sent. -/
def State.BookOnly (s s' : State) : Prop :=
  ∃ h o f, s' = { s with host := h, obj := o, dev := { s.dev with free := f } } ∧ h.out = s.host.out ∧ h.pba = s.host.pba

theorem State.BookOnly.refl : s.BookOnly s := ⟨_, _, _, rfl, rfl, rfl⟩
theorem State.BookOnly.trans (h : s.BookOnly s') (h' : s'.BookOnly s'') : s.BookOnly s'' := by
  obtain ⟨k, o, f, rfl, hout, hpba⟩ := h
  obtain ⟨k', o', f', rfl, hout', hpba'⟩ := h'
  exact ⟨k', o', f', rfl, hout'.trans hout, hpba'.trans hpba⟩
theorem State.bookOnly_obj {o : ObjTab} : s.BookOnly { s with obj := o } := ⟨_, _, _, rfl, rfl, rfl⟩

/-- A command in flight that has left every queue it waited in, before its record is made. -/
def State.ended (s : State) (c : Cmd) : State :=
  ((s.touch c).unqueue c.ctx c.id).modCtx c.ctx fun x => { x with unfinished := x.unfinished.filter fun i => decide (i ≠ c.id) }
/-- The record of its completion. -/
def State.record? (s : State) (c : Cmd) (status : Nat) (result : W64) : Rec :=
  ⟨c.tag, BitVec.ofNat 16 status, BitVec.ofNat 8 c.opc, if openResult c.opc status then Config.freeWord s.dev.free else result, c.irq, some c.id, none⟩

theorem State.complete_eq (h : s.cmd? c.id = some c) : s.complete c.id status result =
    if c.nocq && decide (status = 0) then (s.ended c).leave c.id
    else (if openResult c.opc status then { s.ended c with dev := { s.dev with free := s.dev.free + 1 } } else s.ended c).modCtx c.ctx fun x =>
      { x with recs := x.recs ++ [s.record? c status result] } := by
  rw [State.complete, h]
  rfl
theorem State.ctx_ended : ((s.ended c).ctx c.ctx).recs = (s.ctx c.ctx).recs := by
  rw [State.ended, State.ctx_modCtx_self, State.unqueue, State.ctx_modCtx_self]
  rfl
/-- A completion changes the host's books, the touch times and at most one free value. -/
theorem State.complete_frame : ∃ h f, s.complete id status result = { s with
      host := h, obj := { s.obj with objs := (s.complete id status result).obj.objs }, dev := { s.dev with free := f } } ∧
    h.out = s.host.out ∧ h.pba = s.host.pba ∧
    ((s.complete id status result).obj.objs = s.obj.objs ∨
      ∃ c, s.cmd? id = some c ∧ (s.complete id status result).obj.objs = (s.touch c).obj.objs) := by
  cases h : s.cmd? id with
  | none =>
    have hs : s.complete id status result = s := by rw [State.complete, h]
    rw [hs]
    exact ⟨_, _, rfl, rfl, rfl, .inl rfl⟩
  | some c =>
    obtain rfl := State.cmd?_id h
    rw [State.complete_eq h]
    split
    · exact ⟨_, _, rfl, rfl, rfl, .inr ⟨c, rfl, rfl⟩⟩
    · split
      · exact ⟨_, _, rfl, rfl, rfl, .inr ⟨c, rfl, rfl⟩⟩
      · exact ⟨_, _, rfl, rfl, rfl, .inr ⟨c, rfl, rfl⟩⟩
theorem State.bookOnly_complete : s.BookOnly (s.complete id status result) := by
  obtain ⟨h, f, heq, hout, hpba, _⟩ := State.complete_frame (s := s) (id := id) (status := status) (result := result)
  exact ⟨h, _, f, heq, hout, hpba⟩
theorem State.complete_streams : (s.complete id status result).obj.streams = s.obj.streams ∧ (s.complete id status result).obj.job = s.obj.job := by
  obtain ⟨h, f, heq, _⟩ := State.complete_frame (s := s) (id := id) (status := status) (result := result)
  rw [heq]
  exact ⟨rfl, rfl⟩
/-- A command in flight that completes posts its record. -/
theorem State.posts_complete (h : s.cmd? c.id = some c) : Posts s (s.complete c.id status result) c status result := by
  rw [Posts, State.complete_eq h]
  by_cases hq : c.nocq = true ∧ status = 0
  · rw [if_pos hq, if_pos (by simpa using hq)]
    refine List.find?_eq_none.mpr fun d hd => ?_
    exact (decide_eq_false (of_decide_eq_true (List.mem_filter.mp hd).2)) ▸ Bool.false_ne_true
  · rw [if_neg hq, if_neg (by simpa using hq)]
    refine ⟨s.record? c status result, ?_, rfl, rfl, rfl, rfl, rfl, fun ho => if_neg (by rw [ho]; decide)⟩
    rw [State.ctx_modCtx_self]
    split
    · exact congrArg (· ++ _) State.ctx_ended
    · exact congrArg (· ++ _) State.ctx_ended
theorem Posts.congr (h : Posts u s' c status result) (hu : u.host.ctxs = s.host.ctxs) : Posts s s' c status result := by
  have hctx : u.ctx c.ctx = s.ctx c.ctx := by rw [State.ctx, State.ctx, hu]
  rw [Posts, hctx] at h
  exact h
theorem Posts.of_host (h : Posts s u c status result) (hu : s'.host = u.host) : Posts s s' c status result := by
  have hctx : u.ctx c.ctx = s'.ctx c.ctx := by rw [State.ctx, State.ctx, hu]
  have hcmd : u.cmd? c.id = s'.cmd? c.id := by rw [State.cmd?, State.cmd?, hu]
  rw [Posts, hctx, hcmd] at h
  exact h

end

/-! ## Findings on what is read (R216, R217, R218) -/

section
variable {s s' s'' : State} {sl : SliceId} {k : LK} {loc : Nat} {e : MemErr} {errs : List MemErr} {rs : List (Nat × Nat)}

/-- Nothing has changed but memory, the error registers and the free values drawn. -/
def State.FoundOnly (s s' : State) : Prop := ∃ er m f, s' = { s with err := er, mem := m, dev := { s.dev with free := f } }

theorem State.FoundOnly.refl : s.FoundOnly s := ⟨_, _, _, rfl⟩
theorem State.FoundOnly.trans (h : s.FoundOnly s') (h' : s'.FoundOnly s'') : s.FoundOnly s'' := by
  obtain ⟨er, m, f, rfl⟩ := h
  obtain ⟨er', m', f', rfl⟩ := h'
  exact ⟨er', m', f', rfl⟩
theorem State.FoundOnly.foldl {α : Type} {f : State → α → State} {l : List α} (h : ∀ (s : State) (x : α), s.FoundOnly (f s x)) :
    s.FoundOnly (l.foldl f s) := by
  induction l generalizing s with
  | nil => exact .refl
  | cons x l ih => exact (h s x).trans ih
theorem State.foundOnly_log {code d0 d1 flags : Nat} : s.FoundOnly (s.log code k loc d0 d1 flags) := ⟨_, _, _, State.log_eq⟩
theorem State.foundOnly_memErr : s.FoundOnly (s.memErr sl k loc e) := by
  obtain ⟨addr, ecc⟩ := e
  cases ecc with
  | ok => exact .refl
  | ce syn =>
    rw [State.memErr]
    dsimp only
    rw [State.memCe_eq]
    exact ⟨_, _, _, rfl⟩
  | ue syn =>
    obtain ⟨er, m, f, h, _⟩ := State.memErr_ue (s := s) (sl := sl) (k := k) (loc := loc) (e := addr) (syn := syn)
    exact ⟨er, m, f, h⟩
theorem State.foundOnly_poisonBlk {blk : Nat} {took idx : List Nat} : s.FoundOnly (s.poisonBlk sl blk took idx) := ⟨_, _, _, rfl⟩
theorem State.foundOnly_poisonTag {blk : Nat} : s.FoundOnly (s.poisonTag blk) := by
  rw [State.poisonTag]
  split <;> exact ⟨_, _, _, rfl⟩
theorem State.foundOnly_fetchErrs {o : BlkOp} {tagUe : Bool} : s.FoundOnly (s.fetchErrs sl o errs tagUe) := by
  unfold State.fetchErrs
  extract_lets
  split
  extract_lets s1 _ s2 s3 n _ s4
  have h1 : s.FoundOnly s1 := .foldl fun s e => by
    split
    · exact State.foundOnly_memErr
    · exact .refl
  have h2 : s.FoundOnly s2 := h1.trans State.foundOnly_poisonBlk
  have h3 : s.FoundOnly s3 := by
    unfold s3
    split
    · exact h2.trans State.foundOnly_poisonTag
    · exact h2
  have h4 : s.FoundOnly s4 := by
    unfold s4
    split
    · exact h3
    · exact h3.trans ⟨_, _, _, rfl⟩
  split
  · exact h4
  · exact (h4.trans ⟨_, _, _, rfl⟩).trans State.foundOnly_log
theorem State.foundOnly_tierErrs : s.FoundOnly (s.tierErrs rs errs) := by
  refine .foldl fun s e => ?_
  dsimp only
  split
  · exact .refl
  · split
    · exact .refl
    · exact State.foundOnly_memErr
    · exact State.foundOnly_fetchErrs

/-- A service's read of a range logs what lies outside every range, and nothing else. -/
theorem State.svcSeen_frame {req a n : Nat} : ∃ er f, s.svcSeen req a n = { s with err := er, dev := { s.dev with free := f } } := by
  have hlog (l : List Nat) (s : State) : ∃ er, l.foldl (fun s l => s.unmapped l req) s = { s with err := er } := by
    induction l generalizing s with
    | nil => exact ⟨_, rfl⟩
    | cons a l ih =>
      obtain ⟨er, h⟩ := ih (s.unmapped a req)
      rw [List.foldl_cons, h, State.unmapped, State.log_eq]
      exact ⟨er, rfl⟩
  obtain ⟨er, h⟩ := hlog ((linesOf a n).filter fun l => decide (s.tierOf l = .none)) s
  rw [State.svcSeen]
  dsimp only
  rw [h]
  split <;> exact ⟨_, _, rfl⟩

end

/-! ## Streams of the movers (R229) -/

section
variable {s : State} {m : MvStream} {w : MvFor}

theorem State.streamOf_setStream {k : MvStream} (hk : k ∈ s.obj.streams) (hw : k.what = m.what) : (s.setStream m).streamOf m.what = some m := by
  rw [State.streamOf, State.setStream]
  generalize s.obj.streams = l at hk
  induction l with
  | nil => cases hk
  | cons p l ih =>
    rw [List.map_cons]
    by_cases hp : p.what = m.what
    · rw [if_pos hp]
      exact List.find?_cons_of_pos (decide_eq_true rfl)
    · rw [if_neg hp, List.find?_cons_of_neg (by simpa using hp)]
      refine ih ?_
      rcases List.mem_cons.mp hk with rfl | hk
      · exact absurd hw hp
      · exact hk
theorem State.streamOf_dropStream : (s.dropStream w).streamOf w = none :=
  List.find?_eq_none.mpr fun m hm => by simpa using (List.mem_filter.mp hm).2

end

end Sys2Proof.Machine
end

/-! # COPY (O36)

A read stages the next line and a write places it; that a line not yet read is still as it was, overlap or not, is `Mem.CopiedTo.step`. -/
section
set_option Elab.async false
namespace Sys2Proof.Machine

section
variable {s u : State} {m : MvStream} {c : Cmd} {x : BitVec 6} {off : Nat} {ws : List PWord} {rest : List (Nat × List PWord)}

/-! ## A COPY begins (R328) -/

theorem execCopy_eq (h : s.unitHead x .mover = some c) (ho : c.opc = 4) (hs : s.streamOf (.copy c.id) = none) : exec (.copy x) s =
    .next (if c.num 40 8 = 0 then s.complete c.id 0 0 else s.beginStream (.copy c.id) x (c.num 24 8) (c.num 32 8) (c.num 40 8)
      (decide (c.num 16 1 % 2 = 1)) (decide (c.num 16 1 / 2 % 2 = 1)) (BitVec.ofNat 2 (c.num 16 1 / 4))) := by
  change execCopy x s = _
  rw [execCopy, h]
  dsimp only
  rw [hs, if_neg (by simp [ho])]
  split <;> rfl

/-! ## Reads (R229) -/

/-- A stream that has asked for its next line and staged it. -/
def MvStream.taking (m : MvStream) (ws : List PWord) : MvStream :=
  { m with asked := m.asked + 256, credit := m.credit - 256, staged := m.staged ++ [(m.next, ws)] }

theorem execMoverReadIssue_eq {data : List W64} {er : List MemErr} (h : s.obj.streams.find? MvStream.canAsk = some m) :
    exec (.moverReadIssue false data er) s = .next (s.readStream m data er) := by
  change execMoverReadIssue false data er s = _
  rw [execMoverReadIssue, if_neg nofun, h]
theorem State.readStream_host {data : List W64} {er : List MemErr} (hs : m.hostSrc = true) (hd : data.length = 32) :
    s.readStream m data er = s.setStream (m.taking (data.map fun w => ⟨w, false⟩)) := by
  rw [State.readStream, if_pos hs, if_pos hd]
  rfl
theorem State.readStream_tier {data : List W64} {er : List MemErr} (hs : m.hostSrc = false) (hf : HomesFree s [(m.src + m.next, 256)] [])
    (hu : u = s.tierErrs [(m.src + m.next, 256)] er) :
    s.readStream m data er = (u.svcSeen u.moverReq (m.src + m.next) 256).setStream (m.taking (u.svcRead (m.src + m.next) 32)) := by
  rw [State.readStream, if_neg (by rw [hs]; decide), State.withSnoops_free hf, hu]
  rfl

/-! ## Writes (R229, R234) -/

/-- A stream whose oldest staged line has been written. -/
def MvStream.wrote (m : MvStream) (rest : List (Nat × List PWord)) : MvStream := { m with done := m.done + 256, credit := m.credit + 256, staged := rest }
/-- What follows the write of a line of the stream that is `m` since. -/
def State.afterWrite (s : State) (m : MvStream) : State := if m.done = m.len then (s.setStream m).endStream m else s.setStream m

theorem execMoverCreditReturn_eq (h : (s.obj.streams.find? fun k => !k.staged.isEmpty) = some m) :
    exec (.moverCreditReturn false) s = .next (s.writeStream m) := by
  change execMoverCreditReturn false s = _
  rw [execMoverCreditReturn, if_neg nofun, h]
theorem State.writeStream_host (h : m.staged = (off, ws) :: rest) (hd : m.hostDst = true) :
    s.writeStream m = (s.send (.mem m.ctx (m.dst + off) ws)).afterWrite (m.wrote rest) := by
  rw [State.writeStream, h]
  dsimp only
  rw [if_pos hd]
  rfl
theorem State.writeStream_tier (h : m.staged = (off, ws) :: rest) (hd : m.hostDst = false) (hf : HomesFree s [] [(m.dst + off, 256)]) :
    ∃ ins, s.writeStream m = (s.polWords m.pol s.moverReq svcSrc ins 2 (m.dst + off) ws).afterWrite (m.wrote rest) := by
  rw [State.writeStream, h]
  dsimp only
  rw [if_neg (by rw [hd]; decide), State.withSnoops_free hf]
  exact ⟨_, rfl⟩
theorem State.bookOnly_ite {p : Prop} [Decidable p] {v : State} (hu : s.BookOnly u) (hv : s.BookOnly v) : s.BookOnly (if p then u else v) := by
  split
  · exact hu
  · exact hv
theorem State.bookOnly_endJob {j : PlaceJob} : s.BookOnly (s.endJob j) := by
  rw [State.endJob]
  dsimp only
  split
  · exact State.bookOnly_obj.trans State.bookOnly_complete
  · exact State.bookOnly_obj.trans State.bookOnly_complete
theorem State.bookOnly_afterWrite : s.BookOnly (s.afterWrite m) := by
  rw [State.afterWrite]
  split
  · refine State.BookOnly.trans (s' := s.setStream m) State.bookOnly_obj ?_
    rw [State.endStream]
    split
    · exact State.bookOnly_obj.trans State.bookOnly_complete
    · split
      · exact State.bookOnly_ite (State.bookOnly_obj.trans State.bookOnly_endJob) .refl
      · exact .refl
  · exact State.bookOnly_obj
theorem State.streamOf_afterWrite {k : MvStream} (hk : k ∈ s.obj.streams) (hw : k.what = m.what) (hd : m.done ≠ m.len) :
    (s.afterWrite m).streamOf m.what = some m := by
  rw [State.afterWrite, if_neg hd]
  exact State.streamOf_setStream hk hw
/-- The last write of a COPY completes it. -/
theorem State.afterWrite_copy (hd : m.done = m.len) (hw : m.what = .copy c.id) :
    s.afterWrite m = ((s.setStream m).dropStream m.what).complete c.id 0 (BitVec.ofNat 64 m.len) := by
  rw [State.afterWrite, if_pos hd, State.endStream, hw]
theorem State.afterWrite_copy_spec (hd : m.done = m.len) (hw : m.what = .copy c.id) (hc : s.cmd? c.id = some c) :
    Posts s (s.afterWrite m) c 0 (BitVec.ofNat 64 m.len) ∧ (s.afterWrite m).obj.streams = s.obj.streams.filter fun k => decide (k.what ≠ m.what) := by
  rw [State.afterWrite_copy hd hw]
  refine ⟨(State.posts_complete (s := (s.setStream m).dropStream m.what) hc).congr rfl, State.complete_streams.1.trans ?_⟩
  change (s.obj.streams.map _).filter _ = _
  induction s.obj.streams with
  | nil => rfl
  | cons k l ih =>
    rw [List.map_cons, List.filter_cons, List.filter_cons, ih]
    by_cases hk : k.what = m.what
    · rw [if_pos hk, if_neg (by simp), if_neg (by simpa using hk)]
    · rw [if_neg hk]
theorem State.streamOf_of_filter {w : MvFor} (h : u.obj.streams = s.obj.streams.filter fun k => decide (k.what ≠ w)) : u.streamOf w = none := by
  rw [State.streamOf, h]
  exact List.find?_eq_none.mpr fun k hk => by simpa using (List.mem_filter.mp hk).2

end

/-! ## Accesses of tier H (R7, R205) -/

section
variable {s : State} {a n lo len : Nat} {rd wr rd' wr' : List (Nat × Nat)}

/-- Every range of `l'` lies in one of `l`. -/
def Within (l' l : List (Nat × Nat)) : Prop := ∀ q ∈ l', ∃ r ∈ l, r.1 ≤ q.1 ∧ q.1 + q.2 ≤ r.1 + r.2

theorem State.snoopNeed_within {w : Bool} (h : s.snoopNeed lo len w = []) (hlo : lo ≤ a) (hhi : a + n ≤ lo + len) : s.snoopNeed a n w = [] := by
  rw [State.snoopNeed, List.map_eq_nil_iff, List.filter_eq_nil_iff] at h ⊢
  intro e he hin
  refine h e he ?_
  simp only [Bool.and_eq_true, decide_eq_true_eq] at hin ⊢
  obtain ⟨⟨hfrom, hto⟩, hmod⟩ := hin
  exact ⟨⟨by omega, by omega⟩, hmod⟩
theorem any_meets_within {x k : Nat} {l l' : List (Nat × Nat)} (h : Within l' l)
    (hin : ∃ q ∈ l', (decide (x < q.1 + q.2) && decide (q.1 < x + k)) = true) : ∃ r ∈ l, (decide (x < r.1 + r.2) && decide (r.1 < x + k)) = true := by
  obtain ⟨q, hq, hmeets⟩ := hin
  obtain ⟨r, hr, hlo, hhi⟩ := h q hq
  refine ⟨r, hr, ?_⟩
  simp only [Bool.and_eq_true, decide_eq_true_eq] at hmeets ⊢
  omega
theorem HomesFree.within (h : HomesFree s rd wr) (hrd : Within rd' rd) (hwr : Within wr' wr) : HomesFree s rd' wr' := by
  obtain ⟨hr, hw, hbusy⟩ := h
  refine ⟨fun q hq => ?_, fun q hq => ?_, ?_⟩
  · obtain ⟨r, hm, hlo, hhi⟩ := hrd q hq
    exact State.snoopNeed_within (hr r hm) hlo hhi
  · obtain ⟨r, hm, hlo, hhi⟩ := hwr q hq
    exact State.snoopNeed_within (hw r hm) hlo hhi
  · have hall : Within (rd' ++ wr') (rd ++ wr) := fun q hq => by
      rcases List.mem_append.mp hq with hq | hq
      · obtain ⟨r, hm, hin⟩ := hrd q hq
        exact ⟨r, List.mem_append_left _ hm, hin⟩
      · obtain ⟨r, hm, hin⟩ := hwr q hq
        exact ⟨r, List.mem_append_right _ hm, hin⟩
    simp only [State.homeBusy, List.any_eq_false, Bool.or_eq_true, List.any_eq_true] at hbusy ⊢
    rintro kv hkv (⟨o, ho, hmeets⟩ | ⟨q, hq, hmeets⟩)
    · exact hbusy kv hkv (.inl ⟨o, ho, any_meets_within hall hmeets⟩)
    · exact hbusy kv hkv (.inr ⟨q, hq, any_meets_within hwr hmeets⟩)
theorem State.svcRead_low (h : a + 8 * n ≤ 2 ^ 40) : s.svcRead a n = s.mem.words a n :=
  List.map_congr_left fun k hk => by
    have hk := List.mem_range.mp hk
    rw [State.tierOf_low (by omega)]
    exact if_neg nofun
theorem State.svcSeen_low {req : Nat} (h : a + n ≤ 2 ^ 40) : s.svcSeen req a n = s := by
  have hnone : ((linesOf a n).filter fun l => decide (s.tierOf l = .none)) = [] := by
    refine List.filter_eq_nil_iff.mpr fun l hl => ?_
    obtain ⟨k, hk, rfl⟩ := List.mem_map.mp hl
    have hk := List.mem_range.mp hk
    rw [State.tierOf_low (by omega)]
    decide
  rw [State.svcSeen, hnone]
  rfl
/-- A write of a whole line of tier H under NOALLOC leaves the cache as it is. -/
theorem State.polWords_line_low {req src ins : Nat} {ws : List PWord} (ha : a % 256 = 0) (h : a < 2 ^ 40) (hlen : ws.length = 32) (hp : s.PlainAt a) :
    ∃ m, s.polWords 2 req src ins 2 a ws = { s with mem := m } ∧ s.mem.Stored m := by
  have hat : a - a % 256 = a := by omega
  refine ⟨s.mem.setSome a (partLine 0 ws), ?_, Mem.stored_setSome⟩
  rw [State.polWords_cons (by rwa [hat]) (by intro hn; rw [hn] at hlen; cases hlen), ha, List.drop_eq_nil_of_le (by omega), State.polWords_nil,
    List.take_of_length_le (by omega), State.writePart, State.cacheWrite, ha, Nat.sub_zero, if_pos (by simpa using h)]
  rfl

end

/-! ## A whole COPY in tier H (R234) -/

section
variable {s t : State} {m m' m'' : Mem} {x : BitVec 6} {c : Cmd} {a d n i : Nat}

/-- Do the lines of a copy go in descending order? -/
def copyDown (a d n : Nat) : Bool := decide (a < d) && decide (d < a + 256 * n)
/-- The offset of the line that follows the first `i`, and where the bytes that the first `i` lines write begin. -/
def copyOff (a d n i : Nat) : Nat := if copyDown a d n then 256 * n - 256 - 256 * i else 256 * i
def copyLo (a d n i : Nat) : Nat := if copyDown a d n then d + (256 * n - 256 * i) else d

/-- The first `i` lines of `m` have been copied in `m'`, and no other byte has changed. -/
structure Mem.CopiedTo (m m' : Mem) (a d n i : Nat) : Prop where
  kept : m.Kept m' (copyLo a d n i) (256 * i)
  words : ∀ k, copyLo a d n i ≤ d + 8 * k → d + 8 * k < copyLo a d n i + 256 * i → m'.word (d + 8 * k) = m.word (a + 8 * k)

theorem Mem.copiedTo_zero : m.CopiedTo m a d n 0 := ⟨.refl, fun k hlo hhi => by omega⟩
/-- A line not yet copied is still as it was, overlap or not, and its copy is the next. -/
theorem Mem.CopiedTo.step (h : m.CopiedTo m' a d n i) (hi : i < n) (hd : d % 8 = 0) (hkept : m'.Kept m'' (d + copyOff a d n i) 256)
    (hwords : ∀ k, k < 32 → m''.word (d + copyOff a d n i + 8 * k) = (m'.words (a + copyOff a d n i) 32).getD k pw0) :
    m.CopiedTo m'' a d n (i + 1) := by
  have hplace : (a < d ∧ d < a + 256 * n ∧ copyOff a d n i + 256 * (i + 1) = 256 * n ∧
        copyLo a d n i + 256 * i = d + 256 * n ∧ copyLo a d n (i + 1) + 256 * (i + 1) = d + 256 * n) ∨
      ((d ≤ a ∨ a + 256 * n ≤ d) ∧ copyOff a d n i = 256 * i ∧ copyLo a d n i = d ∧ copyLo a d n (i + 1) = d) := by
    cases hdown : copyDown a d n with
    | true =>
      rw [copyOff, copyLo, copyLo, hdown, if_pos rfl, if_pos rfl, if_pos rfl]
      simp only [copyDown, Bool.and_eq_true, decide_eq_true_eq] at hdown
      omega
    | false =>
      rw [copyOff, copyLo, copyLo, hdown, if_neg nofun, if_neg nofun, if_neg nofun]
      simp only [copyDown, Bool.and_eq_false_iff, decide_eq_false_iff_not] at hdown
      omega
  obtain ⟨hdone, hcopied⟩ := h
  generalize copyOff a d n i = off at hkept hwords hplace
  generalize copyLo a d n i = lo at hdone hcopied hplace
  generalize hlo' : copyLo a d n (i + 1) = lo' at hplace
  have hall : ∀ k, lo' ≤ d + 8 * k → d + 8 * k < lo' + 256 * (i + 1) → m''.word (d + 8 * k) = m.word (a + 8 * k) := fun k hlo hhi => by
    by_cases hline : d + off ≤ d + 8 * k ∧ d + 8 * k < d + off + 256
    · obtain ⟨j, hj⟩ : ∃ j, 8 * k = off + 8 * j := ⟨(8 * k - off) / 8, by omega⟩
      have hsrc : a + 8 * k = a + off + 8 * j := by omega
      have hdst : d + 8 * k = d + off + 8 * j := by omega
      have hget : (m'.words (a + off) 32).getD j pw0 = m'.word (a + off + 8 * j) := by
        rw [Mem.words, List.getD_eq_getElem _ _ (by rw [List.length_map, List.length_range]; omega), List.getElem_map, List.getElem_range]
      rw [hdst, hwords j (by omega), hget, hdone.word (by omega), hsrc]
    · rw [hkept.word (by omega), hcopied k (by omega) (by omega)]
  rw [← hlo'] at hall
  exact ⟨(hdone.mono (by omega) (by omega)).trans (hkept.mono (by omega) (by omega)), hall⟩

/-- The stream of a COPY after `i` of its `n` lines. -/
def copyStream (c : Cmd) (x : BitVec 6) (a d n i : Nat) : MvStream :=
  ⟨.copy c.id, x, a, d, 256 * n, false, false, 2, copyDown a d n, 256 * i, 256 * i, moverShare, []⟩
/-- The COPY has moved its first `i` lines since `s`, and nothing else has happened. -/
structure CopyAt (s t : State) (c : Cmd) (x : BitVec 6) (a d n i : Nat) : Prop where
  same : ∃ m, t = { s with mem := m, obj := { s.obj with streams := [copyStream c x a d n i] } } ∧ s.mem.Stored m
  copied : s.mem.CopiedTo t.mem a d n i

theorem runs_append {cs ds : List Instr} : runs (cs ++ ds) s = (runs cs s).bind (runs ds) := by
  induction cs generalizing s with
  | nil => rfl
  | cons c cs ih =>
    rw [List.cons_append, runs, runs]
    split
    · exact ih
    · rfl
theorem copyOff_lt (hi : i < n) : copyOff a d n i + 256 ≤ 256 * n ∧ (d % 256 = 0 → (d + copyOff a d n i) % 256 = 0) := by
  rw [copyOff]
  split
  · omega
  · omega

theorem copyStream_wrote {ws : List PWord} : ((copyStream c x a d n i).taking ws).wrote [] = copyStream c x a d n (i + 1) := by
  have hcredit : moverShare - 256 + 256 = moverShare := by decide
  simp only [copyStream, MvStream.taking, MvStream.wrote, hcredit, Nat.mul_succ]
theorem State.setStream_single {k m : MvStream} (h : s.obj.streams = [k]) (hw : k.what = m.what) :
    s.setStream m = { s with obj := { s.obj with streams := [m] } } := by
  rw [State.setStream, h, List.map_singleton, if_pos hw]
theorem exec_copyRead (hs : t.obj.streams = [copyStream c x a d n i]) (hi : i < n)
    (hf : HomesFree t [(a + copyOff a d n i, 256)] []) (ha : a + 256 * n ≤ 2 ^ 40) : exec (.moverReadIssue false [] []) t =
      .next (t.setStream ((copyStream c x a d n i).taking (t.mem.words (a + copyOff a d n i) 32))) := by
  have hoff := (copyOff_lt (a := a) (d := d) hi).1
  have hask : (copyStream c x a d n i).canAsk = true :=
    Bool.and_eq_true_iff.mpr ⟨decide_eq_true (Nat.mul_lt_mul_of_pos_left hi (by decide)), decide_eq_true (show 256 ≤ moverShare by decide)⟩
  have hfind : t.obj.streams.find? MvStream.canAsk = some (copyStream c x a d n i) := by
    rw [hs]
    exact List.find?_cons_of_pos hask
  rw [execMoverReadIssue_eq hfind, State.readStream_tier rfl hf rfl]
  change Host.Outcome.next ((t.svcSeen t.moverReq (a + copyOff a d n i) 256).setStream
    ((copyStream c x a d n i).taking (t.svcRead (a + copyOff a d n i) 32))) = _
  rw [State.svcSeen_low (by omega), State.svcRead_low (by omega)]
theorem exec_copyWrite {ws : List PWord} (hs : t.obj.streams = [(copyStream c x a d n i).taking ws]) (hi : i < n) (hlen : ws.length = 32)
    (hf : HomesFree t [] [(d + copyOff a d n i, 256)]) (hp : PlainRange t d (256 * n)) (hd : d + 256 * n ≤ 2 ^ 40) (hal : d % 256 = 0) :
    ∃ m, exec (.moverCreditReturn false) t = .next (({ t with mem := m } : State).afterWrite (copyStream c x a d n (i + 1))) ∧ t.mem.Stored m ∧
      t.mem.Kept m (d + copyOff a d n i) 256 ∧ ∀ k, k < 32 → m.word (d + copyOff a d n i + 8 * k) = ws.getD k pw0 := by
  obtain ⟨hoff, halign⟩ := copyOff_lt (a := a) (d := d) hi
  have hfind : (t.obj.streams.find? fun k => !k.staged.isEmpty) = some ((copyStream c x a d n i).taking ws) := by
    rw [hs]
    exact List.find?_cons_of_pos rfl
  obtain ⟨ins, hw⟩ := State.writeStream_tier (s := t) (m := (copyStream c x a d n i).taking ws) (off := copyOff a d n i) (ws := ws) (rest := []) rfl rfl hf
  have hline : PlainRange t (d + copyOff a d n i) (8 * ws.length) := hp.mono (by omega) (by omega)
  obtain ⟨m, hm, hst⟩ := State.polWords_line_low (s := t) (req := t.moverReq) (src := svcSrc) (ins := ins) (halign hal) (by omega) hlen
    (by have := hline.at (x := d + copyOff a d n i) ⟨by omega, by omega⟩; rwa [halign hal, Nat.sub_zero] at this)
  obtain ⟨_, hkept, hwords⟩ := State.polWords_spec (s := t) (pol := 2) (req := t.moverReq) (src := svcSrc) (ins := ins) (n := 2)
    (a := d + copyOff a d n i) (ws := ws) (by omega) (by omega) hline
  rw [hm, hlen] at hkept hwords
  refine ⟨m, ?_, hst, hkept, hwords⟩
  rw [execMoverCreditReturn_eq hfind, hw, copyStream_wrote]
  exact congrArg (fun u : State => Host.Outcome.next (u.afterWrite (copyStream c x a d n (i + 1)))) hm

section
variable (hfree : HomesFree s [(a, 256 * n)] [(d, 256 * n)]) (hplain : PlainRange s d (256 * n)) (ha : a + 256 * n ≤ 2 ^ 40)
  (hd : d + 256 * n ≤ 2 ^ 40) (hal : d % 256 = 0)
include hfree hplain ha hd hal

/-- A read and a write of a COPY move its next line. -/
theorem CopyAt.pair (h : CopyAt s t c x a d n i) (hi : i < n) :
    ∃ m k, runs [.moverReadIssue false [] [], .moverCreditReturn false] t =
        some (({ s with mem := m, obj := { s.obj with streams := [k] } } : State).afterWrite (copyStream c x a d n (i + 1))) ∧
      k.what = .copy c.id ∧ s.mem.Stored m ∧ s.mem.CopiedTo m a d n (i + 1) := by
  obtain ⟨⟨m, ht, hst⟩, hcop⟩ := h
  obtain ⟨hoff, halign⟩ := copyOff_lt (a := a) (d := d) hi
  have hin : Within [(a + copyOff a d n i, 256)] [(a, 256 * n)] ∧ Within [(d + copyOff a d n i, 256)] [(d, 256 * n)] := by
    simp only [Within, List.mem_singleton, forall_eq, exists_eq_left]
    omega
  have hnil {l : List (Nat × Nat)} : Within [] l := nofun
  have hsame : HomesFree t [(a, 256 * n)] [(d, 256 * n)] ∧ PlainRange t d (256 * n) := by
    obtain ⟨b, p, rfl⟩ := hst
    rw [ht]
    exact ⟨hfree, hplain⟩
  have hread := exec_copyRead (t := t) (c := c) (x := x) (by rw [ht]) hi (hsame.1.within hin.1 hnil) ha
  rw [State.setStream_single (k := copyStream c x a d n i) (m := (copyStream c x a d n i).taking _) (by rw [ht]) rfl] at hread
  obtain ⟨m', hwrite, hst', hkept, hwords⟩ := exec_copyWrite (c := c) (x := x) (a := a) (i := i) (ws := t.mem.words (a + copyOff a d n i) 32)
    (t := { t with obj := { t.obj with streams := [(copyStream c x a d n i).taking (t.mem.words (a + copyOff a d n i) 32)] } })
    rfl hi (by simp [Mem.words]) (hsame.1.within hnil hin.2) hsame.2 hd hal
  have hmem : t.mem = m := by rw [ht]
  refine ⟨m', (copyStream c x a d n i).taking (t.mem.words (a + copyOff a d n i) 32), ?_, rfl, hst.trans (hmem ▸ hst'),
    hcop.step hi (by omega) hkept hwords⟩
  rw [runs, hread]
  dsimp only
  rw [runs, hwrite, ht]
  rfl

/-- The commands that move `j` lines. -/
abbrev lineMoves (j : Nat) : List Instr := (List.replicate j [Instr.moverReadIssue false [] [], .moverCreditReturn false]).flatten

theorem CopyAt.lines (h : CopyAt s t c x a d n 0) {j : Nat} (hj : j < n) : ∃ t', runs (lineMoves j) t = some t' ∧ CopyAt s t' c x a d n j := by
  induction j with
  | zero => exact ⟨t, rfl, h⟩
  | succ j ih =>
    obtain ⟨t', hrun, hat⟩ := ih (by omega)
    obtain ⟨m, k, hpair, hwhat, hst, hcop⟩ := hat.pair hfree hplain ha hd hal (by omega)
    have hne : (copyStream c x a d n (j + 1)).done ≠ (copyStream c x a d n (j + 1)).len := Nat.ne_of_lt (Nat.mul_lt_mul_of_pos_left hj (by decide))
    rw [State.afterWrite, if_neg hne, State.setStream_single rfl (by exact hwhat)] at hpair
    refine ⟨_, ?_, ⟨⟨m, rfl, hst⟩, hcop⟩⟩
    rw [lineMoves, List.replicate_succ', List.flatten_append, List.flatten_singleton, runs_append, hrun]
    exact hpair
/-- The last line of a COPY completes it. -/
theorem CopyAt.whole (h : CopyAt s t c x a d n 0) (hn : 0 < n) (hc : s.cmd? c.id = some c) : ∃ s', runs (lineMoves n) t = some s' ∧
    s.mem.CopiedTo s'.mem a d n n ∧ Posts s s' c 0 (BitVec.ofNat 64 (256 * n)) ∧ s'.obj.streams = [] := by
  obtain ⟨n', rfl⟩ : ∃ n', n = n' + 1 := ⟨n - 1, by omega⟩
  obtain ⟨t', hrun, hat⟩ := h.lines hfree hplain ha hd hal (Nat.lt_succ_self n')
  obtain ⟨m, k, hpair, hwhat, hst, hcop⟩ := hat.pair hfree hplain ha hd hal (Nat.lt_succ_self n')
  obtain ⟨hposts, hstr⟩ := State.afterWrite_copy_spec (s := { s with mem := m, obj := { s.obj with streams := [k] } })
    (m := copyStream c x a d (n' + 1) (n' + 1)) rfl rfl hc
  obtain ⟨_, _, _, hbook, _⟩ := State.bookOnly_afterWrite (s := { s with mem := m, obj := { s.obj with streams := [k] } })
    (m := copyStream c x a d (n' + 1) (n' + 1))
  refine ⟨_, ?_, ?_, hposts.congr rfl, hstr.trans ?_⟩
  · rw [lineMoves, List.replicate_succ', List.flatten_append, List.flatten_singleton, runs_append, hrun]
    exact hpair
  · rw [hbook]
    exact hcop
  · exact List.filter_eq_nil_iff.mpr fun p hp => by
      rw [List.mem_singleton.mp hp, hwhat]
      simp [copyStream]

end

end

/-- Settles O36: one command of a stream at a time, and a whole COPY by the lines it has moved so far. -/
theorem copyMovesTheWholeSource : Obligations.CopyMovesTheWholeSource := by
  unfold Obligations.CopyMovesTheWholeSource
  refine ⟨?_, ?_, ?_, ?_⟩
  · intro s x c h ho hs
    refine ⟨_, execCopy_eq h ho hs, ?_⟩
    have hc := State.cmd?_of_unitHead h
    by_cases hl : c.num 40 8 = 0
    · rw [if_pos hl]
      obtain ⟨hst, f, heq, hout, _⟩ := State.complete_frame (s := s) (id := c.id) (status := 0) (result := 0)
      refine ⟨by rw [heq], by rw [heq], by rw [heq]; exact hout, fun _ => ⟨State.posts_complete hc, State.complete_streams.1⟩, fun h => absurd hl h⟩
    · rw [if_neg hl]
      exact ⟨rfl, rfl, rfl, fun h => absurd h hl, fun _ => ⟨rfl, _, rfl, rfl, rfl, rfl, rfl, rfl, rfl, rfl, rfl⟩⟩
  · intro s u m data er hask huniq hdata hfree hu
    refine ⟨_, execMoverReadIssue_eq hask, ?_⟩
    have hmem := List.mem_of_find?_eq_some hask
    by_cases hs : m.hostSrc = true
    · rw [if_pos hs] at hu
      subst hu
      rw [State.readStream_host hs (hdata hs)]
      simp only [if_pos hs]
      exact ⟨wordsKept_of_eq rfl rfl, rfl, State.streamOf_setStream (m := m.taking _) hmem rfl⟩
    · rw [if_neg hs] at hu
      rw [State.readStream_tier (Bool.not_eq_true _ ▸ hs) (hfree (Bool.not_eq_true _ ▸ hs)) hu]
      simp only [if_neg hs]
      obtain ⟨er', f, hseen⟩ := State.svcSeen_frame (s := u) (req := u.moverReq) (a := m.src + m.next) (n := 256)
      obtain ⟨er2, m2, f2, hfound⟩ := State.foundOnly_tierErrs (s := s) (rs := [(m.src + m.next, 256)]) (errs := er)
      rw [← hu] at hfound
      have hobj : (u.svcSeen u.moverReq (m.src + m.next) 256).obj = s.obj := by rw [hseen, hfound]
      refine ⟨?_, ?_, State.streamOf_setStream (k := m) (m := m.taking _) (by rw [hobj]; exact hmem) rfl⟩
      · rw [hseen]
        exact wordsKept_of_eq rfl rfl
      · rw [hseen, hfound]
        rfl
  · intro s m off ws rest hfind huniq hst hlen hal hdev
    have hmem := List.mem_of_find?_eq_some hfind
    refine ⟨_, execMoverCreditReturn_eq hfind, ?_⟩
    by_cases hd : m.hostDst = true
    · rw [State.writeStream_host hst hd]
      obtain ⟨h, o, f, heq, hout, _⟩ := State.bookOnly_afterWrite (s := s.send (.mem m.ctx (m.dst + off) ws)) (m := m.wrote rest)
      refine ⟨by rw [heq]; rfl, fun _ => ⟨by rw [heq]; exact hout, wordsKept_of_eq (by rw [heq]; rfl) (by rw [heq]; rfl)⟩, fun h => absurd hd (by rw [h]; decide),
        fun hl => State.streamOf_afterWrite (m := m.wrote rest) hmem rfl hl, fun c hl hc hcmd => ?_⟩
      obtain ⟨hposts, hstr⟩ := State.afterWrite_copy_spec (s := s.send (.mem m.ctx (m.dst + off) ws)) (m := m.wrote rest) hl hc hcmd
      exact ⟨hposts.congr rfl, State.streamOf_of_filter hstr⟩
    · obtain ⟨hfree, hplain⟩ := hdev (Bool.not_eq_true _ ▸ hd)
      obtain ⟨ins, hw⟩ := State.writeStream_tier hst (Bool.not_eq_true _ ▸ hd) hfree
      obtain ⟨⟨b, p, l, hso⟩, hkept, hwords⟩ := State.polWords_spec (s := s) (pol := m.pol) (req := s.moverReq) (src := svcSrc) (ins := ins) (n := 2)
        (a := m.dst + off) (ws := ws) (by omega) (by omega) (by rw [hlen]; exact hplain)
      rw [hlen] at hkept hwords
      rw [hw]
      generalize s.polWords m.pol s.moverReq svcSrc ins 2 (m.dst + off) ws = t at hso hkept hwords
      obtain ⟨h, o, f, heq, hout, _⟩ := State.bookOnly_afterWrite (s := t) (m := m.wrote rest)
      have hmemt : (t.afterWrite (m.wrote rest)).mem = t.mem := by rw [heq]
      refine ⟨by rw [heq, hso], fun h => absurd h hd, fun _ => ⟨?_, ?_, ?_⟩, fun hl => ?_, fun c hl hc hcmd => ?_⟩
      · rw [heq]
        exact hout.trans (by rw [hso])
      · rw [hmemt]
        exact hwords
      · rw [wordsKept_iff, hmemt]
        exact hkept
      · exact State.streamOf_afterWrite (k := m) (m := m.wrote rest) (by rw [hso]; exact hmem) rfl hl
      · obtain ⟨hposts, hstr⟩ := State.afterWrite_copy_spec (s := t) (m := m.wrote rest) hl hc (by rw [hso]; exact hcmd)
        exact ⟨hposts.congr (by rw [hso]), State.streamOf_of_filter hstr⟩
  · intro s x c a d n h ho h16 hempty ha hd hlen hn hal hal' hain hdin hfree hplain
    have hs : s.streamOf (.copy c.id) = none := by rw [State.streamOf, hempty, List.find?_nil]
    have hstart : exec (.copy x) s = .next { s with obj := { s.obj with streams := [copyStream c x a d n 0] } } := by
      rw [execCopy_eq h ho hs, if_neg (by omega), State.beginStream, hempty, h16, hlen, ← ha, ← hd]
      rfl
    have hat : CopyAt s { s with obj := { s.obj with streams := [copyStream c x a d n 0] } } c x a d n 0 := ⟨⟨_, rfl, .refl⟩, Mem.copiedTo_zero⟩
    obtain ⟨s', hrun, ⟨hkept, hwords⟩, hposts, hstr⟩ := hat.whole hfree hplain hain hdin hal' hn (State.cmd?_of_unitHead h)
    have hlo : copyLo a d n n = d := by
      rw [copyLo, Nat.sub_self, Nat.add_zero, ite_self]
    rw [hlo] at hkept hwords
    refine ⟨s', ?_, fun k hk => hwords k (by omega) (by omega), hkept, hposts, hstr⟩
    rw [runs, hstart]
    exact hrun

end Sys2Proof.Machine
end

/-! # PLACE, EVICT and the moves of an eviction set (O37)

The table of objects after each of its changes, and what a job's next move leaves of the rest. -/
section
set_option Elab.async false
namespace Sys2Proof.Machine

section
variable {s s' u : State} {c : Cmd} {o : Obj} {k id status time : Nat} {result : W64} {objs : List Obj} {f : Obj → Obj} {j : PlaceJob} {y : BitVec 6}

/-! ## The object table (R230, R329) -/

/-- The entry of an identifier in a list of objects. -/
def objOf (objs : List Obj) (k : Nat) : Option Obj := objs.find? fun o => decide (o.id = k)

theorem State.obj?_eq : s.obj? k = objOf s.obj.objs k := rfl
theorem id_of_objOf (h : objOf objs k = some o) : o.id = k := by
  have hid := List.find?_some (p := fun o : Obj => decide (o.id = k)) h
  exact of_decide_eq_true hid
theorem objOf_cons {p : Obj} : objOf (p :: objs) k = if p.id = k then some p else objOf objs k := by
  rw [objOf, objOf, List.find?_cons]
  by_cases hp : p.id = k
  · rw [decide_eq_true hp, if_pos hp]
  · rw [decide_eq_false hp, if_neg hp]
theorem objOf_map (hf : ∀ o, (f o).id = o.id) : objOf (objs.map f) k = (objOf objs k).map f := by
  induction objs with
  | nil => rfl
  | cons p l ih =>
    rw [List.map_cons, objOf_cons, objOf_cons, hf, ih]
    split <;> rfl
theorem objOf_insertObj (h : objOf objs o.id = none) : objOf (insertObj o objs) k = if k = o.id then some o else objOf objs k := by
  induction objs with
  | nil =>
    rw [insertObj, objOf_cons]
    exact if_congr eq_comm rfl rfl
  | cons p l ih =>
    rw [objOf_cons] at h
    have hp : p.id ≠ o.id := fun hp => by
      rw [if_pos hp] at h
      cases h
    rw [if_neg hp] at h
    rw [insertObj]
    split
    · rw [objOf_cons]
      exact if_congr eq_comm rfl rfl
    · rw [objOf_cons, objOf_cons, ih h]
      by_cases hpk : p.id = k
      · rw [if_pos hpk, if_pos hpk, if_neg (by rw [← hpk]; exact hp)]
      · rw [if_neg hpk, if_neg hpk]
theorem objOf_filter_ne : objOf (objs.filter fun p => decide (p.id ≠ id)) k = if k = id then none else objOf objs k := by
  rw [objOf, List.find?_filter]
  split
  · next hk =>
    subst hk
    exact List.find?_eq_none.mpr fun p _ => by simp
  · next hk =>
    rw [objOf]
    congr 1
    funext p
    by_cases hp : p.id = k
    · simp [hp, hk]
    · simp [hp]
/-- An entry as the completion of `c` leaves it (R230). -/
def Cmd.touched (c : Cmd) (time : Nat) (o : Obj) : Obj := if c.names o then { o with touch := time } else o

theorem Cmd.touched_frame : (c.touched time o).id = o.id ∧ (c.touched time o).tier = o.tier ∧ (c.touched time o).base = o.base := by
  rw [Cmd.touched]
  split <;> exact ⟨rfl, rfl, rfl⟩
theorem Cmd.touched_now (h : o.touch = time) : c.touched time o = o := by
  rw [Cmd.touched]
  split
  · rw [← h]
  · rfl
theorem State.obj?_complete : (s.complete id status result).obj? k = s.obj? k ∨
    ∃ c, s.cmd? id = some c ∧ (s.complete id status result).obj? k = (s.obj? k).map (c.touched s.dev.time) := by
  obtain ⟨_, _, _, _, _, hobjs⟩ := State.complete_frame (s := s) (id := id) (status := status) (result := result)
  rcases hobjs with hobjs | ⟨c, hc, hobjs⟩
  · exact .inl (by rw [State.obj?_eq, hobjs]; rfl)
  · refine .inr ⟨c, hc, ?_⟩
    rw [State.obj?_eq, hobjs]
    exact objOf_map fun o => Cmd.touched_frame.1
/-- A PLACE names no object. -/
theorem State.touch_place (h : c.opc = 5) : s.touch c = s := by
  have hnames (o : Obj) : c.names o = false := by
    rw [Cmd.names, Cmd.ranges, h]
    rfl
  have hid : s.obj.objs.map (fun o => if c.names o then { o with touch := s.dev.time } else o) = s.obj.objs :=
    (List.map_congr_left fun o _ => if_neg (by rw [hnames]; decide)).trans (List.map_id _)
  rw [State.touch, hid]
theorem State.complete_obj_place (hc : s.cmd? c.id = some c) (h : c.opc = 5) : (s.complete c.id status result).obj = s.obj := by
  obtain ⟨_, _, heq, _, _, hobjs⟩ := State.complete_frame (s := s) (id := c.id) (status := status) (result := result)
  have hsame : (s.complete c.id status result).obj.objs = s.obj.objs := by
    rcases hobjs with hobjs | ⟨d, hd, hobjs⟩
    · exact hobjs
    · obtain rfl := Option.some.inj (hc.symm.trans hd)
      rw [hobjs, State.touch_place h]
  rw [hsame] at heq
  rw [heq]
theorem State.obj?_freeId (h : s.freeId = some id) : s.obj? id = none := by
  have hid := List.find?_some (p := fun i => (s.obj? i).isNone) h
  exact Option.isNone_iff_eq_none.mp hid
/-- What frees entries, or keeps their identifiers, keeps an identifier free. -/
theorem State.freeId_isSome (h : s.freeId.isSome = true) (hk : ∀ k, s.obj? k = none → u.obj? k = none) : u.freeId.isSome = true := by
  rw [State.freeId, List.find?_isSome] at h ⊢
  obtain ⟨i, hi, hn⟩ := h
  exact ⟨i, hi, Option.isNone_iff_eq_none.mpr (hk i (Option.isNone_iff_eq_none.mp hn))⟩

/-! ## Records of completions stay in order (R330) -/

/-- Records have only been added to those that wait for the ring of `y`. -/
def State.RecsGrow (s s' : State) (y : BitVec 6) : Prop := ∃ new, (s'.ctx y).recs = (s.ctx y).recs ++ new

theorem State.RecsGrow.of_eq (h : s'.host.ctxs = s.host.ctxs) : s.RecsGrow s' y := ⟨[], by rw [State.ctx, h, List.append_nil]; rfl⟩
theorem State.RecsGrow.trans (h : s.RecsGrow u y) (h' : u.RecsGrow s' y) : s.RecsGrow s' y := by
  obtain ⟨n, hn⟩ := h
  obtain ⟨n', hn'⟩ := h'
  exact ⟨n ++ n', by rw [hn', hn, List.append_assoc]⟩
theorem State.recsGrow_modCtx {x : BitVec 6} {g : HCtx → HCtx} (h : ∃ new, (g (s.ctx x)).recs = (s.ctx x).recs ++ new) : s.RecsGrow (s.modCtx x g) y := by
  by_cases hy : y = x
  · subst hy
    rw [State.RecsGrow, State.ctx_modCtx_self]
    exact h
  · refine ⟨[], (congrArg HCtx.recs (aGet_aSet_other _ _ _ _ _ ?_)).trans (List.append_nil _).symm⟩
    exact fun hn => hy (BitVec.eq_of_toNat_eq hn)
theorem State.recsGrow_same {x : BitVec 6} {g : HCtx → HCtx} (h : ∀ z, (g z).recs = z.recs) : s.RecsGrow (s.modCtx x g) y :=
  State.recsGrow_modCtx ⟨[], by rw [h, List.append_nil]⟩
theorem State.recsGrow_unqueue {x : BitVec 6} : s.RecsGrow (s.unqueue x id) y := by
  rw [State.unqueue]
  generalize hs : ({ s with host := { s.host with units := _, acts := _ } } : State) = v
  have hctxs : v.host.ctxs = s.host.ctxs := by rw [← hs]
  exact .trans (.of_eq hctxs) (State.recsGrow_same fun _ => rfl)
theorem State.recsGrow_complete : s.RecsGrow (s.complete id status result) y := by
  cases h : s.cmd? id with
  | none => exact .of_eq (by rw [State.complete, h])
  | some c =>
    obtain rfl := State.cmd?_id h
    have htouch : s.RecsGrow (s.touch c) y := .of_eq rfl
    have hended : s.RecsGrow (s.ended c) y := by
      rw [State.ended]
      exact (htouch.trans State.recsGrow_unqueue).trans (State.recsGrow_same fun _ => rfl)
    rw [State.complete_eq h]
    split
    · exact hended.trans (.of_eq rfl)
    · refine .trans (u := if openResult c.opc status then { s.ended c with dev := { s.dev with free := s.dev.free + 1 } } else s.ended c) ?_
        (State.recsGrow_modCtx ⟨_, rfl⟩)
      split
      · exact hended.trans (.of_eq rfl)
      · exact hended

/-! ## Jobs (R231, R234, R329) -/

theorem State.moverHead_eq {x : BitVec 6} {opc : Nat} (h : s.moverHead x opc = some c) : s.cmd? c.id = some c ∧ c.opc = opc := by
  obtain ⟨hu, hcond⟩ := Option.filter_eq_some_iff.mp h
  simp only [Bool.and_eq_true, decide_eq_true_eq] at hcond
  obtain ⟨⟨hopc, _⟩, _⟩ := hcond
  exact ⟨State.cmd?_of_unitHead hu, hopc⟩
theorem State.bookOnly_beginMove {x : BitVec 6} {b : Nat} : s.BookOnly (s.beginMove x k b) := by
  rw [State.beginMove]
  split
  · exact .refl
  · exact State.bookOnly_obj
theorem State.bookOnly_nextMove : s.BookOnly (s.nextMove j) := by
  rw [State.nextMove]
  dsimp only
  refine State.BookOnly.trans (s' := { s with obj := { s.obj with job := some j } }) State.bookOnly_obj ?_
  split
  · split
    · exact State.bookOnly_endJob
    · exact State.bookOnly_beginMove
  · split
    · exact State.bookOnly_beginMove
    · exact .refl
/-- The mover begins to move an object that is there. -/
theorem State.beginMove_eq {x : BitVec 6} {b : Nat} (h : s.obj? k = some o) : s.beginMove x k b = s.beginStream (.obj k) x o.base b o.size false false 2 := by
  rw [State.beginMove, h]
/-- A job with a move to make: the table and the host's books are as before, and the mover has begun the move. -/
theorem State.nextMove_cons {m : Move} {ms : List Move} (hm : j.moves = m :: ms) :
    (s.nextMove j).obj.objs = s.obj.objs ∧ (s.nextMove j).host = s.host ∧ (s.nextMove j).obj.job = some j ∧
    (∀ o t b, m.dst = some (t, b) → s.obj? m.obj = some o → ∃ k, (s.nextMove j).obj.streams = s.obj.streams ++ [k] ∧ k.what = .obj m.obj ∧
      k.src = o.base ∧ k.dst = b ∧ k.len = o.size) := by
  rw [State.nextMove, hm]
  dsimp only
  cases hd : m.dst with
  | none => exact ⟨rfl, rfl, rfl, nofun⟩
  | some tb =>
    obtain ⟨t, b⟩ := tb
    dsimp only
    cases ho : ({ s with obj := { s.obj with job := some j } } : State).obj? m.obj with
    | none =>
      rw [State.beginMove, ho]
      exact ⟨rfl, rfl, rfl, fun o t' b' _ hn => absurd (ho.symm.trans hn) nofun⟩
    | some o =>
      rw [State.beginMove_eq ho]
      refine ⟨rfl, rfl, rfl, fun o' t' b' htb hn => ?_⟩
      obtain rfl := Option.some.inj (ho.symm.trans hn)
      cases htb
      exact ⟨_, rfl, rfl, rfl, rfl, rfl⟩
/-- A PLACE with its room made: the new object stands under the lowest identifier that is free. -/
theorem State.nextMove_place {t b size : Nat} {sp : Spill} {pin : Bool} (hm : j.moves = []) (hf : j.fin = .place t b size sp pin) (hid : s.freeId = some id) :
    s.nextMove j = ({ s with obj := { s.obj with job := none, objs := insertObj ⟨id, j.ctx, t, b, size, sp, pin, s.dev.time, false⟩ s.obj.objs } } : State).complete
      j.cmd 0 (BitVec.ofNat 64 (b + id * 2 ^ 48)) := by
  have hid' : ({ s with obj := { s.obj with job := some j } } : State).freeId = some id := hid
  rw [State.nextMove, hm]
  dsimp only
  rw [hf]
  dsimp only
  rw [State.endJob, hf]
  dsimp only
  rw [hid']
  rfl
/-- The new object is there, with the time of the PLACE. -/
theorem State.obj?_placed {t b size : Nat} {sp : Spill} {pin : Bool} (hm : j.moves = []) (hf : j.fin = .place t b size sp pin) (hid : s.freeId = some id) :
    (s.nextMove j).obj? id = some ⟨id, j.ctx, t, b, size, sp, pin, s.dev.time, false⟩ ∧ (s.nextMove j).obj.job = none := by
  rw [State.nextMove_place hm hf hid]
  have hnew : ({ s with obj := { s.obj with job := none, objs := insertObj ⟨id, j.ctx, t, b, size, sp, pin, s.dev.time, false⟩ s.obj.objs } } : State).obj? id =
      some ⟨id, j.ctx, t, b, size, sp, pin, s.dev.time, false⟩ :=
    (objOf_insertObj (o := ⟨id, j.ctx, t, b, size, sp, pin, s.dev.time, false⟩) (State.obj?_freeId hid)).trans (if_pos rfl)
  refine ⟨?_, State.complete_streams.2⟩
  rcases State.obj?_complete (s := { s with obj := { s.obj with job := none, objs := insertObj ⟨id, j.ctx, t, b, size, sp, pin, s.dev.time, false⟩ s.obj.objs } })
    (id := j.cmd) (status := 0) (result := BitVec.ofNat 64 (b + id * 2 ^ 48)) (k := id) with hsame | ⟨c, _, htouch⟩
  · rw [hsame, hnew]
  · rw [htouch, hnew]
    exact congrArg some (Cmd.touched_now rfl)

/-! ## PLACE (R231, R232) -/

/-- The job of a PLACE with plan `p`. -/
def Cmd.placeJob (c : Cmd) (x : BitVec 6) (p : Plan) : PlaceJob :=
  ⟨x, c.id, p.moves, .place (c.num 16 1) p.base (c.num 24 8) (spillOf (c.num 17 1)) (decide (c.num 18 1 % 2 = 1))⟩

theorem execPlace_full {x : BitVec 6} (h : s.moverHead x 5 = some c) (hid : s.freeId = none) : exec (.place x) s = .next (s.complete c.id 0x33 0) := by
  change execPlace x s = _
  rw [execPlace, h]
  dsimp only
  rw [hid]
  rfl
theorem execPlace_noRoom {x : BitVec 6} (h : s.moverHead x 5 = some c) (hid : s.freeId.isSome = true)
    (hr : s.makeRoom c.id [] (c.num 16 1) (c.num 24 8) = none) :
    exec (.place x) s = .next (s.complete c.id (s.noRoom (c.num 16 1) (c.num 24 8)) 0) := by
  change execPlace x s = _
  rw [execPlace, h]
  dsimp only
  rw [if_neg (by simpa [Option.isSome_iff_ne_none] using hid), hr]
theorem execPlace_room {x : BitVec 6} {p : Plan} (h : s.moverHead x 5 = some c) (hid : s.freeId.isSome = true)
    (hr : s.makeRoom c.id [] (c.num 16 1) (c.num 24 8) = some p) : exec (.place x) s = .next (s.nextMove (c.placeJob x p)) := by
  change execPlace x s = _
  rw [execPlace, h]
  dsimp only
  rw [if_neg (by simpa [Option.isSome_iff_ne_none] using hid), hr]
  rfl
theorem State.makeRoom_fit {but t size b : Nat} {keep : List Nat} (h : lowestFit (s.tierRange t) s.obj.objs t size = some b) :
    s.makeRoom but keep t size = some ⟨b, [], s.obj.objs⟩ := by
  rw [State.makeRoom, State.plan, h]

/-- A PLACE that fits adds its object to the table and completes with base and identifier. -/
theorem State.placed_spec {x : BitVec 6} {b : Nat} (hcmd : s.cmd? c.id = some c) (hopc : c.opc = 5) (hid : s.freeId = some id) :
    (s.nextMove (c.placeJob x ⟨b, [], s.obj.objs⟩)).obj.objs =
      insertObj ⟨id, x, c.num 16 1, b, c.num 24 8, spillOf (c.num 17 1), decide (c.num 18 1 % 2 = 1), s.dev.time, false⟩ s.obj.objs ∧
    Posts s (s.nextMove (c.placeJob x ⟨b, [], s.obj.objs⟩)) c 0 (BitVec.ofNat 64 (b + id * 2 ^ 48)) := by
  rw [State.nextMove_place rfl rfl hid]
  generalize hu : ({ s with obj := { s.obj with job := none, objs := insertObj _ s.obj.objs } } : State) = u
  have hucmd : u.cmd? c.id = some c := by
    rw [← hu]
    exact hcmd
  refine ⟨?_, (State.posts_complete hucmd).congr (by rw [← hu])⟩
  exact (congrArg ObjTab.objs (State.complete_obj_place hucmd hopc)).trans (by rw [← hu]; rfl)

/-! ## EVICT (R234) -/

/-- An EVICT of an own object. -/
def State.evictOwn (s : State) (x : BitVec 6) (c : Cmd) (o : Obj) : State :=
  if s.bound o c.id then s.complete c.id 0x32 0
  else if c.num 18 1 = 3 then (s.freeObj o.id).complete c.id 0 (BitVec.allOnes 64)
  else if c.num 18 1 = o.tier then s.complete c.id 0 (BitVec.ofNat 64 o.base)
  else (s.makeRoom c.id [o.id] (c.num 18 1) o.size).elim (s.complete c.id (s.noRoom (c.num 18 1) o.size) 0)
    fun p => s.nextMove ⟨x, c.id, p.moves, .evict o.id (c.num 18 1) p.base⟩

theorem execEvict_foreign {x : BitVec 6} (h : s.moverHead x 6 = some c) (ho : ∀ o, s.obj? (c.num 16 2) = some o → o.owner ≠ x) :
    exec (.evict x) s = .next (s.complete c.id 0x34 0) := by
  have hnone : ((s.obj? (c.num 16 2)).filter fun o => decide (o.owner = x)) = none :=
    Option.filter_eq_none_iff.mpr fun o hm => by simpa using ho o hm
  change execEvict x s = _
  rw [execEvict, h]
  dsimp only
  rw [hnone]
theorem execEvict_own {x : BitVec 6} (h : s.moverHead x 6 = some c) (ho : s.obj? (c.num 16 2) = some o) (hown : o.owner = x) :
    exec (.evict x) s = .next (s.evictOwn x c o) := by
  have hsome : ((s.obj? (c.num 16 2)).filter fun o => decide (o.owner = x)) = some o := by rw [ho, Option.filter_some, if_pos (decide_eq_true hown)]
  change execEvict x s = _
  rw [execEvict, h]
  dsimp only
  rw [hsome, State.evictOwn]
  dsimp only
  by_cases hb : s.bound o c.id = true
  · rw [if_pos hb, if_pos hb]
  · rw [if_neg hb, if_neg hb]
    by_cases h3 : c.num 18 1 = 3
    · rw [if_pos h3, if_pos h3]
    · rw [if_neg h3, if_neg h3]
      by_cases ht : c.num 18 1 = o.tier
      · rw [if_pos ht, if_pos ht]
      · rw [if_neg ht, if_neg ht]
        cases s.makeRoom c.id [o.id] (c.num 18 1) o.size <;> rfl
theorem State.bookOnly_evictOwn {x : BitVec 6} : s.BookOnly (s.evictOwn x c o) := by
  refine State.bookOnly_ite State.bookOnly_complete (State.bookOnly_ite (State.bookOnly_obj.trans State.bookOnly_complete)
    (State.bookOnly_ite State.bookOnly_complete ?_))
  cases s.makeRoom c.id [o.id] (c.num 18 1) o.size with
  | none => exact State.bookOnly_complete
  | some p => exact State.bookOnly_nextMove
theorem State.obj?_freeObj : (s.freeObj id).obj? k = if k = id then none else s.obj? k := objOf_filter_ne
theorem State.obj?_moveObj {t b : Nat} (h : s.obj? id = some o) : (s.moveObj id t b).obj? id = some { o with tier := t, base := b } := by
  rw [State.obj?_eq] at h ⊢
  refine (objOf_map fun p => ?_).trans ?_
  · dsimp only
    split <;> rfl
  · rw [h]
    exact congrArg some (if_pos (id_of_objOf h))
/-- A completion neither adds an entry nor takes one away. -/
theorem State.obj?_complete_none (h : s.obj? k = none) : (s.complete id status result).obj? k = none := by
  rcases State.obj?_complete (s := s) (id := id) (status := status) (result := result) (k := k) with hs | ⟨c, _, hs⟩
  · rw [hs, h]
  · rw [hs, h]
    rfl
/-! ## OBJECT_SPILL_COMPLETE (R231, R332) -/

/-- The object of a move has its new place, or is dropped. -/
def State.moveDone (s : State) (o : Obj) (m : Move) : State :=
  m.dst.elim (s.freeObj o.id) fun d => (s.dropStream (.obj o.id)).moveObj o.id d.1 d.2
/-- Its EVICTED record waits for its owner's ring, and the eviction is counted. -/
def State.spillDone (s : State) (o : Obj) (m : Move) (cmd : Nat) : State :=
  let s2 := (s.moveDone o m).postEvicted o.owner o.id (m.dst.map (·.2)) cmd
  { s2 with obj := { s2.obj with evictions := s2.obj.evictions.set o.tier (s2.obj.evictions.getD o.tier 0 + 1) } }

variable {m : Move} {ms : List Move} {n : W16} {cmd : Nat}

theorem execObjectSpillComplete_eq (hj : s.obj.job = some j) (hm : j.moves = m :: ms) (ho : s.obj? n.toNat = some o) (hn : m.obj = n.toNat)
    (hmoved : m.dst.isSome = true → s.moved n.toNat = true) :
    exec (.objectSpillComplete n) s = .next ((s.spillDone o m j.cmd).nextMove { j with moves := ms }) := by
  have hid : o.id = n.toNat := id_of_objOf ho
  have hgo : ¬(decide (m.obj ≠ n.toNat) || (m.dst.isSome && !s.moved o.id)) = true := by
    cases hd : m.dst.isSome with
    | false => simp [hn]
    | true => simp [hn, hid, hmoved hd]
  change execObjectSpillComplete n s = _
  rw [execObjectSpillComplete, hj]
  dsimp only
  rw [hm, ho]
  dsimp only
  rw [if_neg hgo, State.spillDone, State.moveDone]
  cases m.dst <;> rfl
theorem State.moveDone_frame : ∃ ob, s.moveDone o m = { s with obj := ob } := by
  rw [State.moveDone]
  cases m.dst <;> exact ⟨_, rfl⟩
theorem State.bookOnly_spillDone : s.BookOnly (s.spillDone o m cmd) := by
  obtain ⟨ob, h⟩ := State.moveDone_frame (s := s) (o := o) (m := m)
  rw [State.spillDone, h]
  exact ⟨_, _, _, rfl, rfl, rfl⟩
theorem State.recs_spillDone : ((s.spillDone o m cmd).ctx o.owner).recs = (s.ctx o.owner).recs ++
    [⟨BitVec.ofNat 32 o.id, if m.dst.isSome then 0 else 0x35, 0x80, (m.dst.map fun d => BitVec.ofNat 64 d.2).getD (BitVec.allOnes 64),
      false, none, some cmd⟩] := by
  obtain ⟨ob, h⟩ := State.moveDone_frame (s := s) (o := o) (m := m)
  have hctx : (s.spillDone o m cmd).ctx o.owner = ((s.moveDone o m).postEvicted o.owner o.id (m.dst.map (·.2)) cmd).ctx o.owner := rfl
  rw [hctx, State.postEvicted, State.ctx_modCtx_self, h]
  cases m.dst <;> rfl
theorem State.obj?_spillDone : (s.spillDone o m cmd).obj? k = (s.moveDone o m).obj? k := rfl
theorem State.obj?_moveDone_none (h : s.obj? k = none) : (s.moveDone o m).obj? k = none := by
  rw [State.moveDone]
  cases m.dst with
  | none =>
    refine State.obj?_freeObj.trans ?_
    rw [h, ite_self]
  | some d =>
    refine (objOf_map fun p => ?_).trans (congrArg (Option.map _) h)
    dsimp only
    split <;> rfl
theorem State.obj?_moveDone (h : s.obj? o.id = some o) :
    (∀ t b, m.dst = some (t, b) → (s.moveDone o m).obj? o.id = some { o with tier := t, base := b }) ∧ (m.dst = none → (s.moveDone o m).obj? o.id = none) := by
  rw [State.moveDone]
  refine ⟨fun t b hd => ?_, fun hd => ?_⟩
  · rw [hd]
    exact State.obj?_moveObj (s := s.dropStream (.obj o.id)) h
  · rw [hd]
    exact State.obj?_freeObj.trans (if_pos rfl)
theorem State.recsGrow_nextMove : s.RecsGrow (s.nextMove j) y := by
  have hmove {x : BitVec 6} {i b : Nat} {v : State} : v.RecsGrow (v.beginMove x i b) y := by
    rw [State.beginMove]
    split <;> exact .of_eq rfl
  rw [State.nextMove]
  dsimp only
  refine State.RecsGrow.trans (u := { s with obj := { s.obj with job := some j } }) (.of_eq rfl) ?_
  split
  · split
    · rw [State.endJob]
      dsimp only
      split
      · exact .trans (.of_eq rfl) State.recsGrow_complete
      · exact .trans (.of_eq rfl) State.recsGrow_complete
    · exact hmove
  · split
    · exact hmove
    · exact .of_eq rfl
/-- An EVICT of an object of `o.size` bytes with its plan: the mover begins the first move, or that of the object itself. -/
theorem State.nextMove_evict {t b : Nat} (hf : j.fin = .evict o.id t b) (ho : s.obj? o.id = some o) :
    (s.nextMove j).obj.objs = s.obj.objs ∧ (s.nextMove j).host = s.host ∧ (s.nextMove j).obj.job = some j ∧
    (j.moves = [] → ∃ k, (s.nextMove j).obj.streams = s.obj.streams ++ [k] ∧ k.what = .obj o.id ∧ k.src = o.base ∧ k.dst = b ∧ k.len = o.size) := by
  cases hm : j.moves with
  | nil =>
    have hnext : s.nextMove j = ({ s with obj := { s.obj with job := some j } } : State).beginMove j.ctx o.id b := by
      rw [State.nextMove, hm]
      dsimp only
      rw [hf]
    rw [hnext, State.beginMove_eq (s := { s with obj := { s.obj with job := some j } }) ho]
    exact ⟨rfl, rfl, rfl, fun _ => ⟨_, rfl, rfl, rfl, rfl, rfl⟩⟩
  | cons m ms =>
    obtain ⟨hobjs, hhost, hjob, _⟩ := State.nextMove_cons (s := s) hm
    exact ⟨hobjs, hhost, hjob, nofun⟩

/-! ## The last line of a moved object (R229, R234) -/

theorem State.lineWrite_frame {a : Nat} {ws : List PWord} {cs : List Bool} {pol : BitVec 2} {upd : Bool} {req src ins : Nat} :
    ∃ e g m, s.lineWrite a ws cs pol upd req src ins = { s with err := e, gro := g, mem := m } := by
  rw [State.lineWrite]
  split
  · rw [State.unmapped, State.log_eq]
    exact ⟨_, _, _, rfl⟩
  · split
    · rw [State.imageWrite]
      split
      · exact ⟨_, _, _, rfl⟩
      · rw [State.log_eq]
        exact ⟨_, _, _, rfl⟩
    · split
      · split
        · exact ⟨_, _, _, rfl⟩
        · obtain ⟨l, h⟩ := State.cacheWrite_slicesOnly (s := s.modMem fun m => m.setSome a (ws.zip cs)) (a := a) (pol := pol)
          rw [h]
          exact ⟨_, _, _, rfl⟩
      · rw [State.updWrite]
        split
        · exact ⟨_, _, _, rfl⟩
        · rw [State.log_eq]
          exact ⟨_, _, _, rfl⟩
      · exact ⟨_, _, _, rfl⟩
/-- Writes of words touch memory, the engines' inlets and the error log alone. -/
theorem State.polWords_frame {a n : Nat} {ws : List PWord} {pol : BitVec 2} {req src ins : Nat} :
    ∃ e g m, s.polWords pol req src ins n a ws = { s with err := e, gro := g, mem := m } := by
  induction n generalizing s a ws with
  | zero => exact ⟨_, _, _, rfl⟩
  | succ n ih =>
    cases ws with
    | nil => exact ⟨_, _, _, rfl⟩
    | cons w ws =>
      unfold State.polWords
      extract_lets la lead here padded cs
      obtain ⟨e, g, m, h⟩ := State.lineWrite_frame (s := s) (a := la) (ws := padded ++ List.replicate (32 - padded.length) pw0)
        (cs := cs ++ List.replicate (32 - cs.length) false) (pol := pol) (upd := false) (req := req) (src := src) (ins := ins)
      obtain ⟨e', g', m', h'⟩ := ih (s := s.lineWrite la (padded ++ List.replicate (32 - padded.length) pw0)
        (cs ++ List.replicate (32 - cs.length) false) pol false req src ins) (a := la + 256) (ws := (w :: ws).drop (32 - lead))
      rw [h', h]
      exact ⟨_, _, _, rfl⟩
/-- The last line of an object that an EVICT moves ends the EVICT. -/
theorem State.afterWrite_evict {m : MvStream} {t b : Nat} (hd : m.done = m.len) (hw : m.what = .obj o.id) (hj : s.obj.job = some j) (hm : j.moves = [])
    (hf : j.fin = .evict o.id t b) (ho : s.obj? o.id = some o) (hc : s.cmd? c.id = some c) (hcid : c.id = j.cmd) :
    (s.afterWrite m).obj.job = none ∧ ((s.afterWrite m).obj? o.id).map (fun q => (q.tier, q.base)) = some (t, b) ∧
    (s.afterWrite m).streamOf m.what = none ∧ Posts s (s.afterWrite m) c 0 (BitVec.ofNat 64 b) := by
  have hend : s.afterWrite m = (({ ((s.setStream m).dropStream m.what) with
      obj := { ((s.setStream m).dropStream m.what).obj with job := none } } : State).moveObj o.id t b).complete c.id 0 (BitVec.ofNat 64 b) := by
    have hj' : (s.setStream m).obj.job = some j := hj
    rw [State.afterWrite, if_pos hd, State.endStream, hw]
    dsimp only
    rw [hj']
    dsimp only
    rw [hm, hf]
    dsimp only
    rw [if_pos (by simp), State.endJob, hf, hcid]
  rw [hend]
  generalize hv : (({ ((s.setStream m).dropStream m.what) with
    obj := { ((s.setStream m).dropStream m.what).obj with job := none } } : State).moveObj o.id t b) = v
  have hobj : v.obj? o.id = some { o with tier := t, base := b } := by
    rw [← hv]
    exact State.obj?_moveObj ho
  have hstr : v.streamOf m.what = none := by
    rw [← hv]
    exact State.streamOf_dropStream (s := s.setStream m)
  have hcmd : v.cmd? c.id = some c := by
    rw [← hv]
    exact hc
  refine ⟨State.complete_streams.2.trans (by rw [← hv]; rfl), ?_, ?_, (State.posts_complete hcmd).congr (by rw [← hv]; rfl)⟩
  · rcases State.obj?_complete (s := v) (id := c.id) (status := 0) (result := BitVec.ofNat 64 b) (k := o.id) with hs | ⟨d, _, hs⟩
    · rw [hs, hobj]
      rfl
    · obtain ⟨_, htier, hbase⟩ := Cmd.touched_frame (c := d) (time := v.dev.time) (o := { o with tier := t, base := b })
      rw [hs, hobj]
      exact congrArg some (Prod.ext htier hbase)
  · rw [State.streamOf, State.complete_streams.1]
    exact hstr
/-- Nothing of memory and of the tiles has changed. -/
theorem State.BookOnly.still (h : s.BookOnly s') : s'.mem = s.mem ∧ s'.tiles = s.tiles := by
  obtain ⟨_, _, _, rfl, _⟩ := h
  exact ⟨rfl, rfl⟩

end

/-- Settles O37: each command by its equation, the table by what each change of it leaves, and records by their order. -/
theorem objectsArePlacedAndMoved : Obligations.ObjectsArePlacedAndMoved := by
  unfold Obligations.ObjectsArePlacedAndMoved
  refine ⟨?_, ?_, ?_, ?_⟩
  · rintro s x c t size h hctx rfl rfl
    obtain ⟨hcmd, hopc⟩ := State.moverHead_eq h
    cases hid : s.freeId with
    | none =>
      exact ⟨_, execPlace_full h hid, State.bookOnly_complete.still.1, State.bookOnly_complete.still.2,
        fun _ => ⟨State.posts_complete hcmd, State.complete_obj_place hcmd hopc⟩, nofun, nofun, nofun⟩
    | some id =>
      have hsome : s.freeId.isSome = true := by rw [hid]; rfl
      cases hr : s.makeRoom c.id [] (c.num 16 1) (c.num 24 8) with
      | none =>
        refine ⟨_, execPlace_noRoom h hsome hr, State.bookOnly_complete.still.1, State.bookOnly_complete.still.2, nofun,
          fun _ _ => ⟨State.complete_obj_place hcmd hopc, fun hle => ?_, fun hlt => ?_⟩, fun id' b _ hfit => ?_, nofun⟩
        · have hst : s.noRoom (c.num 16 1) (c.num 24 8) = 0x31 := if_pos hle
          rw [hst]
          exact State.posts_complete hcmd
        · have hst : s.noRoom (c.num 16 1) (c.num 24 8) = 0x30 := if_neg (by omega)
          rw [hst]
          exact State.posts_complete hcmd
        · rw [State.makeRoom_fit hfit] at hr
          cases hr
      | some p =>
        refine ⟨_, execPlace_room h hsome hr, State.bookOnly_nextMove.still.1, State.bookOnly_nextMove.still.2, nofun, nofun,
          fun id' b hid' hfit => ?_, fun p' m ms _ hp' hm => ?_⟩
        · cases hid'
          obtain rfl : p = ⟨b, [], s.obj.objs⟩ := Option.some.inj (hr.symm.trans (State.makeRoom_fit hfit))
          obtain ⟨hobjs, hposts⟩ := State.placed_spec (x := x) hcmd hopc hid
          refine ⟨(State.obj?_placed rfl rfl hid).1, fun k hk => ?_, hposts⟩
          rw [State.obj?_eq, hobjs, objOf_insertObj (State.obj?_freeId hid), if_neg hk]
          rfl
        · cases hp'
          obtain ⟨hobjs, hhost, hjob, hstr⟩ := State.nextMove_cons (s := s) (j := c.placeJob x p) hm
          exact ⟨hobjs, hhost, hjob, hstr⟩
  · intro s j m ms o n hj hm ho hn hmoved
    have hid : o.id = n.toNat := id_of_objOf ho
    have hown : s.obj? o.id = some o := by rw [hid]; exact ho
    obtain ⟨hdst, hdrop⟩ := State.obj?_moveDone (m := m) hown
    obtain ⟨new, hnew⟩ := State.recsGrow_nextMove (s := s.spillDone o m j.cmd) (j := { j with moves := ms }) (y := o.owner)
    refine ⟨_, execObjectSpillComplete_eq hj hm ho hn hmoved, ?_⟩
    have hbook := State.bookOnly_spillDone.trans (State.bookOnly_nextMove (s := s.spillDone o m j.cmd) (j := { j with moves := ms }))
    refine ⟨hbook.still.1, hbook.still.2, ⟨new, ?_⟩, fun hms => ?_, fun t b size sp pin hms hfin hfree => ?_⟩
    · rw [hnew, State.recs_spillDone, List.append_assoc, List.singleton_append]
    · obtain ⟨m', ms', hcons⟩ := List.exists_cons_of_ne_nil hms
      obtain ⟨hobjs, _, hjob, _⟩ := State.nextMove_cons (s := s.spillDone o m j.cmd) (j := { j with moves := ms }) hcons
      have hobj : ((s.spillDone o m j.cmd).nextMove { j with moves := ms }).obj? n.toNat = (s.moveDone o m).obj? o.id := by
        rw [State.obj?_eq, hobjs, hid]
        rfl
      exact ⟨hjob, fun t b hd => hobj.trans (hdst t b hd), fun hd => hobj.trans (hdrop hd)⟩
    · have hsome := State.freeId_isSome (u := s.spillDone o m j.cmd) hfree fun k hk => State.obj?_moveDone_none hk
      obtain ⟨id, hid'⟩ := Option.isSome_iff_exists.mp hsome
      obtain ⟨hplaced, hjob⟩ := State.obj?_placed (s := s.spillDone o m j.cmd) (j := { j with moves := ms }) hms hfin hid'
      have htime : (s.spillDone o m j.cmd).dev.time = s.dev.time := by
        obtain ⟨_, _, _, heq, _⟩ := State.bookOnly_spillDone (s := s) (o := o) (m := m) (cmd := j.cmd)
        rw [heq]
      rw [htime] at hplaced
      exact ⟨hjob, id, hplaced⟩
  · intro s x c h hctx
    obtain ⟨hcmd, _⟩ := State.moverHead_eq h
    cases ho : (s.obj? (c.num 16 2)).filter fun o => decide (o.owner = x) with
    | none =>
      have hforeign : ∀ o, s.obj? (c.num 16 2) = some o → o.owner ≠ x := fun o hm => by
        simpa using Option.filter_eq_none_iff.mp ho o hm
      exact ⟨_, execEvict_foreign h hforeign, State.bookOnly_complete.still.1, State.bookOnly_complete.still.2,
        fun _ => State.posts_complete hcmd, fun o hm hown => absurd hown (hforeign o hm)⟩
    | some o =>
      obtain ⟨hm, hown⟩ := Option.filter_eq_some_iff.mp ho
      refine ⟨_, execEvict_own h hm (of_decide_eq_true hown), State.bookOnly_evictOwn.still.1, State.bookOnly_evictOwn.still.2,
        fun hn => absurd (of_decide_eq_true hown) (hn o hm), fun o' hm' _ => ?_⟩
      obtain rfl := Option.some.inj (hm.symm.trans hm')
      have hid : o.id = c.num 16 2 := id_of_objOf hm
      refine ⟨fun hb => ?_, fun hb h3 => ?_, fun hb h3 ht => ?_, fun hb h3 ht hr => ?_, fun p hb h3 ht hr => ?_⟩
      · rw [State.evictOwn, if_pos hb]
        exact State.posts_complete hcmd
      · rw [State.evictOwn, hb, if_neg nofun, if_pos h3]
        refine ⟨(State.posts_complete (s := s.freeObj o.id) hcmd).congr rfl, State.obj?_complete_none ?_⟩
        exact State.obj?_freeObj.trans (if_pos hid.symm)
      · rw [State.evictOwn, hb, if_neg nofun, if_neg h3, if_pos ht]
        exact State.posts_complete hcmd
      · rw [State.evictOwn, hb, if_neg nofun, if_neg h3, if_neg ht, hr]
        exact State.posts_complete hcmd
      · rw [State.evictOwn, hb, if_neg nofun, if_neg h3, if_neg ht, hr]
        exact State.nextMove_evict (s := s) (j := ⟨x, c.id, p.moves, .evict o.id (c.num 18 1) p.base⟩) rfl (by rw [hid]; exact hm)
  · intro s m o j c off t b ws hfind huniq hw ho hj hm hfin hcmd hst hlen hd hfree
    obtain ⟨ins, hwrite⟩ := State.writeStream_tier hst hd hfree
    obtain ⟨e, g, mem, hpol⟩ := State.polWords_frame (s := s) (pol := m.pol) (req := s.moverReq) (src := svcSrc) (ins := ins) (n := 2)
      (a := m.dst + off) (ws := ws)
    refine ⟨_, execMoverCreditReturn_eq hfind, ?_⟩
    rw [hwrite, hpol]
    generalize hu : ({ s with err := e, gro := g, mem := mem } : State) = u
    have hhost : u.host = s.host := by rw [← hu]
    have hobj : u.obj = s.obj := by rw [← hu]
    have hcid : c.id = j.cmd := State.cmd?_id hcmd
    obtain ⟨hjob, htab, hstr, hposts⟩ := State.afterWrite_evict (s := u) (m := m.wrote []) (o := o) hlen hw (by rw [hobj]; exact hj) hm hfin
      (by rw [State.obj?, hobj]; exact ho) (by rw [State.cmd?, hhost, hcid]; exact hcmd) hcid
    exact ⟨hjob, htab, hstr, hposts.congr (by rw [hhost])⟩

end Sys2Proof.Machine
end

/-! # Runs begin, feeds fill and the first step starts (O40)

What a service writes as bytes is what memory then holds; the frames of the run's beginning, of its end and of the
beginning of a step. -/
section
set_option Elab.async false
namespace Sys2Proof.Machine

section
variable {s s' u : State} {r : TRun} {c : Cmd} {a ins n lo k : Nat} {bs : List Byte} {img : Image} {sc : Scope} {die : Bool} {t : TileId}

/-! ## Bytes that a service writes -/

theorem length_bytesWords : (bytesWords bs (List.replicate n false)).length = n := by
  rw [bytesWords, List.length_mapIdx, List.length_replicate]
/-- Words made of bytes spell those bytes. -/
theorem flatMap_bytesWords (h : bs.length = 8 * n) : ((bytesWords bs (List.replicate n false)).flatMap fun w => toBytes 8 w.d.toNat) = bs := by
  induction n generalizing bs with
  | zero => exact (List.length_eq_zero_iff.mp h).symm
  | succ n ih =>
    have hlen : (bs.take 8).length = 8 := by rw [List.length_take]; omega
    have hhead : toBytes 8 (BitVec.ofNat 64 (ofBytes (bs.take 8))).toNat = bs.take 8 := by
      have hlt := ofBytes_lt (bs.take 8)
      have hbytes := toBytes_ofBytes (bs.take 8)
      rw [hlen] at hlt hbytes
      rw [BitVec.toNat_ofNat, Nat.mod_eq_of_lt (by simpa using hlt), hbytes]
    have htail : bytesWords bs (List.replicate (n + 1) false) =
        ⟨BitVec.ofNat 64 (ofBytes (bs.take 8)), false⟩ :: bytesWords (bs.drop 8) (List.replicate n false) := by
      rw [bytesWords, List.replicate_succ, List.mapIdx_cons, bytesWords]
      simp only [List.drop_drop, Nat.mul_succ, Nat.mul_zero, List.drop_zero, Nat.add_comm 8]
    rw [htail, List.flatMap_cons, ih (by rw [List.length_drop]; omega), hhead, List.take_append_drop]
theorem Mem.Kept.rdBytes {m m' : Mem} {b : Nat} (h : m.Kept m' lo n) (hb : b + k ≤ lo ∨ lo + n ≤ b) : m'.rdBytes b k = m.rdBytes b k := by
  rw [Mem.rdBytes_eq_map, Mem.rdBytes_eq_map]
  exact List.map_congr_left fun i hi => h.byte (by have := List.mem_range.mp hi; omega)
theorem State.svcWrite_spec {ws : List PWord} (ha : a % 8 = 0) (hp : PlainRange s a (8 * ws.length)) :
    s.StoredOnly (s.svcWrite a ins ws) ∧ s.mem.Kept (s.svcWrite a ins ws).mem a (8 * ws.length) ∧
    ∀ k, k < ws.length → (s.svcWrite a ins ws).mem.word (a + 8 * k) = ws.getD k pw0 :=
  State.polWords_spec ha (by omega) hp
/-- Bytes written as a service to plain lines are there, and no other byte has changed. -/
theorem State.svcBytes_spec (ha : a % 8 = 0) (hl : bs.length = 8 * n) (hp : PlainRange s a (8 * n)) :
    s.StoredOnly (s.svcBytes a ins bs) ∧ s.mem.Kept (s.svcBytes a ins bs).mem a (8 * n) ∧ (s.svcBytes a ins bs).mem.rdBytes a (8 * n) = bs := by
  have hdiv : bs.length / 8 = n := by omega
  rw [State.svcBytes, hdiv]
  generalize hws : bytesWords bs (List.replicate n false) = ws
  have hlen : ws.length = n := by rw [← hws, length_bytesWords]
  obtain ⟨hstored, hkept, hword⟩ := State.svcWrite_spec (ins := ins) ha (by rwa [hlen])
  rw [hlen] at hkept hword
  refine ⟨hstored, hkept, ?_⟩
  have hwords : (s.svcWrite a ins ws).mem.words a n = ws :=
    List.ext_getElem (by simp [Mem.words, hlen]) fun i hi hi' => by
      simp only [Mem.words, List.getElem_map, List.getElem_range]
      rw [hword i (by omega), List.getD_eq_getElem _ _ hi']
  rw [← Mem.flatMap_words, hwords, ← hws, flatMap_bytesWords hl]
theorem State.svcBytes_frame : ∃ e g m, s.svcBytes a ins bs = { s with err := e, gro := g, mem := m } := State.polWords_frame

/-! ## RUN_STEPS (R258, R260) -/

theorem TRun.length_bytes {t : Trn} : (r.bytes t).length = 128 := by
  simp only [TRun.bytes, cnt8, List.length_append, toBytes_length]
theorem State.length_stepLine {fpos : Nat} : (s.stepLine r n fpos).length = 256 := by
  simp only [State.stepLine, cnt8, List.length_append, toBytes_length]
/-- The device fields of a TCB, written in two halves. -/
theorem State.writeTcb_spec (ha : r.tcb % 256 = 0) (hp : PlainRange s r.tcb 256) :
    s.StoredOnly (s.writeTcb r) ∧ s.mem.Kept (s.writeTcb r).mem (r.tcb + 128) 128 ∧
    (s.writeTcb r).mem.rdBytes (r.tcb + 128) 128 = r.bytes s.trn := by
  have hlen := TRun.length_bytes (r := r) (t := s.trn)
  rw [State.writeTcb]
  generalize r.bytes s.trn = bs at hlen ⊢
  obtain ⟨hst1, hk1, hb1⟩ := State.svcBytes_spec (s := s) (a := r.tcb + 192) (ins := r.cmd + 1) (bs := bs.drop 64) (n := 8) (by omega)
    (by rw [List.length_drop, hlen]) (hp.mono (by omega) (by omega))
  generalize s.svcBytes (r.tcb + 192) (r.cmd + 1) (bs.drop 64) = v at hst1 hk1 hb1 ⊢
  obtain ⟨hst2, hk2, hb2⟩ := State.svcBytes_spec (s := v) (a := r.tcb + 128) (ins := r.cmd + 1) (bs := bs.take 64) (n := 8) (by omega)
    (by rw [List.length_take, hlen]; rfl) ((hst1.plainRange hp).mono (by omega) (by omega))
  refine ⟨hst1.trans hst2, (hk1.mono (by omega) (by omega)).trans (hk2.mono (by omega) (by omega)), ?_⟩
  have hsplit : (v.svcBytes (r.tcb + 128) (r.cmd + 1) (bs.take 64)).mem.rdBytes (r.tcb + 128) (64 + 64) = _ := aGetMany_append ..
  rw [hsplit, ← Mem.rdBytes, ← Mem.rdBytes, hb2, hk2.rdBytes (by omega), hb1, List.take_append_drop]
theorem execRunSteps_eq {x : BitVec 6} {er : List MemErr} (h : s.unitHead x .trainer = some c) (ho : c.opc = 2) (hr : s.trn.run = none)
    (hb : s.busy .trg = false) (hd : s.dev.cdreset = false) (hf : HomesFree s [(c.num 16 6, 256)] [])
    (hu : u = if inH (c.num 16 6) 256 then s.tierErrs [(c.num 16 6, 256)] er else s) : exec (.runSteps x er) s = .next (u.tryRun c) := by
  have hgo : ¬(decide (c.opc ≠ 2) || s.trn.run.isSome || s.busy .trg || s.dev.cdreset) = true := by simp [ho, hr, hb, hd]
  change execRunSteps x er s = _
  rw [execRunSteps, h]
  dsimp only
  rw [if_neg hgo, hu]
  split
  · rw [State.withSnoops_free hf]
  · rfl
theorem State.tryRun_good (h : s.runBad c = false) (hf : HomesFree s [] [(c.num 16 6 + 128, 128)]) :
    s.tryRun c = (s.setRun (s.newRun c)).writeTcb (s.newRun c) := by
  rw [State.tryRun, if_neg (by rw [h]; decide), State.withSnoops_free hf]
theorem State.tryRun_bad (h : s.runBad c = true) : s.tryRun c = s.complete c.id 0x10 (BitVec.ofNat 64 s.trn.tstep) := by
  rw [State.tryRun, if_pos h]

/-- RUN_STEPS: a TCB that R260 refuses gives RUN_BAD; another gives the run that it describes, and shows it. -/
theorem runSteps_spec {x : BitVec 6} {er : List MemErr} (hhead : s.unitHead x .trainer = some c) (hopc : c.opc = 2) (hrun : s.trn.run = none)
    (hbusy : s.busy .trg = false) (hreset : s.dev.cdreset = false) (hfree : HomesFree s [(c.num 16 6, 256)] [])
    (hu : u = if inH (c.num 16 6) 256 then s.tierErrs [(c.num 16 6, 256)] er else s) (hfree' : HomesFree u [] [(c.num 16 6 + 128, 128)])
    (halign : c.num 16 6 % 256 = 0) :
    Completes (.runSteps x er) s fun s' =>
      (u.runBad c = true → Posts s s' c 0x10 (BitVec.ofNat 64 s.trn.tstep) ∧ s'.trn = s.trn ∧ s'.mem = u.mem) ∧
      (u.runBad c = false → PlainRange u (c.num 16 6) 256 → s'.trn = { s.trn with run := some (u.newRun c) } ∧
        s'.mem.rdBytes (c.num 16 6 + 128) 128 = (u.newRun c).bytes s.trn ∧ BytesKept u s' (c.num 16 6 + 128) 128 ∧ s'.host = s.host) := by
  have hfound : s.FoundOnly u := by
    rw [hu]
    split
    · exact State.foundOnly_tierErrs
    · exact .refl
  have htrn : u.trn = s.trn := by obtain ⟨_, _, _, rfl⟩ := hfound; rfl
  have hhost : u.host = s.host := by obtain ⟨_, _, _, rfl⟩ := hfound; rfl
  have hcmd : u.cmd? c.id = some c := by
    rw [State.cmd?, hhost]
    exact State.cmd?_of_unitHead hhead
  refine ⟨_, execRunSteps_eq hhead hopc hrun hbusy hreset hfree hu, fun hbad => ?_, fun hgood hplain => ?_⟩
  · obtain ⟨_, _, _, hcompleted, _⟩ := State.bookOnly_complete (s := u) (id := c.id) (status := 0x10) (result := BitVec.ofNat 64 s.trn.tstep)
    rw [State.tryRun_bad hbad, htrn]
    refine ⟨(State.posts_complete hcmd).congr (congrArg (·.ctxs) hhost), ?_, ?_⟩ <;> rw [hcompleted]
    exact htrn
  · obtain ⟨⟨_, _, _, hstored⟩, hkept, hbytes⟩ := State.writeTcb_spec (s := u.setRun (u.newRun c)) (r := u.newRun c) halign hplain
    rw [State.tryRun_good hgood hfree']
    generalize (u.setRun (u.newRun c)).writeTcb (u.newRun c) = v at hstored hkept hbytes ⊢
    refine ⟨?_, hbytes.trans ?_, fun a ha => hkept.byte ha, ?_⟩
    · rw [hstored, ← htrn]
      rfl
    · rw [← htrn]
      rfl
    · rw [hstored, ← hhost]
      rfl

/-! ## The end of a run (R257, R264) -/

theorem State.clearRunning_trn {tcb : Nat} : (s.clearRunning tcb).trn = s.trn := by
  rw [State.clearRunning, State.putH]
  split <;> rfl
theorem State.complete_trn {id status : Nat} {result : W64} : (s.complete id status result).trn = s.trn := by
  obtain ⟨_, _, _, heq, _⟩ := State.bookOnly_complete (s := s) (id := id) (status := status) (result := result)
  rw [heq]
theorem State.endRun_run {status : Nat} (h : s.trn.run = some r) : (s.endRun status).trn.run = none := by
  rw [State.endRun, h]
  dsimp only
  rw [State.complete_trn]
  refine List.foldlRecOn (motive := fun v : State => v.trn.run = none) _ _ ?_ fun v hv _ _ => by rw [State.complete_trn, hv]
  rw [State.clearRunning_trn]
theorem State.feedEnd_ends (h : s.trn.run = some r) (hp : r.phase = .start ∨ r.phase = .wait) (hs : r.starved = true) :
    s.feedEnd.trn.run = none := by
  rw [State.feedEnd, h]
  dsimp only
  rw [if_pos (by simpa [hs] using hp)]
  exact State.endRun_run h
theorem State.feedEnd_goesOn (h : s.trn.run = some r) (hs : ¬((r.phase = .start ∨ r.phase = .wait) ∧ r.starved = true)) : s.feedEnd = s := by
  rw [State.feedEnd, h]
  dsimp only
  rw [if_neg (by simpa using hs)]

/-! ## Feeds (R229, R263, R264) -/

theorem execMoverReadIssue_feeds {src : List W64} {er : List MemErr} : exec (.moverReadIssue true src er) s = .next s.readFeed := rfl
theorem State.readFeed_train {f : Feed} (h : s.trn.run = some r) (hf : r.tfeed = some f) (hc : f.canAsk = true) :
    s.readFeed = s.setRun { r with tfeed := some f.ask } := by
  rw [State.readFeed, h]
  dsimp only
  rw [hf, Option.any_some, hc, if_pos rfl]
  rfl
theorem State.readFeed_fill {f : Feed} (h : s.trn.run = some r) (hf : r.ffeed = some f) (hc : f.canAsk = true)
    (ht : ∀ g, r.tfeed = some g → g.canAsk = false) : s.readFeed = s.setRun { r with ffeed := some f.ask } := by
  have hnone : ¬ r.tfeed.any Feed.canAsk = true := by
    rw [Option.any_eq_true]
    rintro ⟨g, hg, hask⟩
    exact Bool.false_ne_true ((ht g hg).symm.trans hask)
  rw [State.readFeed, h]
  dsimp only
  rw [if_neg hnone, hf, Option.any_some, hc, if_pos rfl]
  rfl
/-- A feed whose freed entries have returned as credit. -/
def Feed.credited (f : Feed) : Feed := { f with credit := f.credit + f.freed, freed := 0 }
def TRun.credited (r : TRun) : TRun := { r with tfeed := r.tfeed.map Feed.credited, ffeed := r.ffeed.map Feed.credited }

theorem TRun.starved_credited : r.credited.starved = r.starved := by
  rw [TRun.starved, TRun.credited, TRun.starved, Option.any_map]
  rfl
theorem execMoverCreditReturn_feeds (h : s.trn.run = some r) : exec (.moverCreditReturn true) s = .next (s.setRun r.credited).feedEnd := by
  change Host.Outcome.next s.creditFeeds = _
  rw [State.creditFeeds, h]
  rfl
/-- What a feed has when a micro-batch from order-list position `p` is in its ring. -/
def Feed.filled (f : Feed) (p : Nat) (wrapped : Bool) : Feed :=
  { f with pos := p + f.d.mbr, seq := f.seq + 1, asked := 0, full := f.full ++ [⟨f.seq, p, p + f.d.mbr, wrapped⟩] }
/-- The records of the micro-batch from order-list position `p`, and what their feed reads: its order list and those records. -/
def State.records (s : State) (f : Feed) (p : Nat) : List Nat := (List.range f.d.mbr).map fun i => s.record f.d (p + i)
def Feed.reads (f : Feed) (p : Nat) (recs : List Nat) : List (Nat × Nat) :=
  (f.d.ord + 4 * p, 4 * f.d.mbr) :: recs.map fun a => (a, f.d.rsize * 256)
/-- The ring entry that its next micro-batch fills. -/
def Feed.entry (f : Feed) : Nat := f.d.ring + f.seq % f.d.nslot * f.d.size

theorem execFeedEntryFilled_eq {fill wrapped : Bool} {er : List MemErr} {f : Feed} {p : Nat} (h : s.trn.run = some r)
    (hf : (if fill then r.ffeed else r.tfeed) = some f) (hs : f.start = some (p, wrapped)) (ha : f.d.size ≤ f.asked)
    (hh : HomesFree s (f.reads p (s.records f p)) [(f.entry, f.d.size)]) (hu : u = s.tierErrs (f.reads p (s.records f p)) er) :
    exec (.feedEntryFilled fill er) s = .next (((((f.reads p (s.records f p)).foldl (fun s x => s.svcSeen s.moverReq x.1 x.2) u).svcWrite f.entry (r.cmd + 1)
      ((s.records f p).flatMap fun a => u.svcRead a (f.d.rsize * 256 / 8))).setRun
        (if fill then { r with ffeed := some (f.filled p wrapped) } else { r with tfeed := some (f.filled p wrapped) })).feedEnd) := by
  change execFeedEntryFilled fill er s = _
  rw [execFeedEntryFilled, h]
  dsimp only
  rw [hf]
  dsimp only
  rw [hs]
  dsimp only
  rw [if_neg (by omega)]
  refine congrArg _ ((State.withSnoops_free hh).trans ?_)
  rw [hu]
  rfl
theorem State.length_flatMap_svcRead {l : List Nat} : (l.flatMap fun a => s.svcRead a n).length = l.length * n := by
  rw [List.length_flatMap, List.map_congr_left (g := fun _ => n) fun a _ => by rw [State.svcRead, List.length_map, List.length_range],
    List.map_const', List.sum_replicate, smul_eq_mul]
theorem State.svcSeen_foldl {l : List (Nat × Nat)} :
    ∃ er f, l.foldl (fun s x => s.svcSeen s.moverReq x.1 x.2) s = { s with err := er, dev := { s.dev with free := f } } := by
  refine List.foldlRecOn (motive := fun v : State => ∃ er f, v = { s with err := er, dev := { s.dev with free := f } }) _ _ ⟨_, _, rfl⟩ ?_
  rintro _ ⟨er, f, rfl⟩ x _
  obtain ⟨er', f', h⟩ := State.svcSeen_frame (s := { s with err := er, dev := { s.dev with free := f } })
    (req := State.moverReq { s with err := er, dev := { s.dev with free := f } }) (a := x.1) (n := x.2)
  exact ⟨er', f', h⟩
theorem State.FoundOnly.plainRange (h : s.FoundOnly s') (hp : PlainRange s a n) : PlainRange s' a n := by
  obtain ⟨_, _, _, rfl⟩ := h
  exact hp
/-- A micro-batch is written whole into its ring entry. -/
theorem feedEntryFilled_spec {fill wrapped : Bool} {er : List MemErr} {r' : TRun} {f : Feed} {p : Nat} (h : s.trn.run = some r)
    (hf : (if fill then r.ffeed else r.tfeed) = some f) (hs : f.start = some (p, wrapped)) (ha : f.d.size ≤ f.asked)
    (hh : HomesFree s (f.reads p (s.records f p)) [(f.entry, f.d.size)]) (hring : f.d.ring % 256 = 0) (hp : PlainRange s f.entry f.d.size)
    (hr' : r' = if fill then { r with ffeed := some (f.filled p wrapped) } else { r with tfeed := some (f.filled p wrapped) })
    (hgo : ¬((r.phase = .start ∨ r.phase = .wait) ∧ r'.starved = true)) (hu : u = s.tierErrs (f.reads p (s.records f p)) er) :
    Completes (.feedEntryFilled fill er) s fun s' =>
      s'.trn = { s.trn with run := some r' } ∧ WordsKept u s' f.entry f.d.size ∧
      ∀ k, k < f.d.size / 8 → s'.mem.word (f.entry + 8 * k) = ((s.records f p).flatMap fun a => u.svcRead a (f.d.rsize * 256 / 8)).getD k pw0 := by
  refine ⟨_, execFeedEntryFilled_eq h hf hs ha hh hu, ?_⟩
  have hfound : s.FoundOnly u := hu ▸ State.foundOnly_tierErrs
  have hlen : ((s.records f p).flatMap fun a => u.svcRead a (f.d.rsize * 256 / 8)).length * 8 = f.d.size := by
    rw [State.length_flatMap_svcRead, State.records, List.length_map, List.length_range, FeedD.size, Nat.mul_div_assoc _ (by decide), Nat.mul_assoc,
      Nat.mul_assoc, Nat.mul_assoc]
  generalize ((s.records f p).flatMap fun a => u.svcRead a (f.d.rsize * 256 / 8)) = ws at hlen ⊢
  have hsize : f.d.size = 8 * ws.length := by omega
  have hentry : f.entry % 8 = 0 := by
    rw [Feed.entry, hsize, Nat.mul_left_comm]
    omega
  obtain ⟨e, g, hv⟩ := State.svcSeen_foldl (s := u) (l := f.reads p (s.records f p))
  rw [← hr', hv]
  obtain ⟨⟨b, q, l, hst⟩, hkept, hword⟩ := State.svcWrite_spec (s := { u with err := e, dev := { u.dev with free := g } }) (a := f.entry) (ins := r.cmd + 1)
    (ws := ws) hentry (hsize ▸ hfound.plainRange hp)
  generalize State.svcWrite { u with err := e, dev := { u.dev with free := g } } f.entry (r.cmd + 1) ws = v at hst hkept hword ⊢
  have hphase : r'.phase = r.phase := by
    rw [hr']
    split <;> rfl
  rw [State.feedEnd_goesOn (r := r') rfl (by rwa [hphase]), hsize]
  refine ⟨?_, hkept, fun k hk => hword k (by omega)⟩
  obtain ⟨_, _, _, rfl⟩ := hfound
  rw [hst]
  rfl

/-! ## Where the tiles go on (R390) -/

theorem State.modScope_frame {f : Tile → Tile} : ∃ ts, s.modScope sc die f = { s with tiles := ts } :=
  List.foldlRecOn (motive := fun v : State => ∃ ts, v = { s with tiles := ts }) _ _ ⟨_, rfl⟩ fun _ ⟨_, h⟩ _ _ => by
    rw [h]
    exact ⟨_, rfl⟩
theorem State.releaseScope_frame {f : Tile → Tile} :
    ∃ ts w nt o, s.releaseScope sc die f = { s with tiles := ts, waits := w, net := nt, opv := o } := by
  obtain ⟨ts, h⟩ := State.modScope_frame (s := s) (sc := sc) (die := die) (f := fun x => f (x.release (s.act .bel 0x108)))
  rw [State.releaseScope, h]
  dsimp only
  split <;> exact ⟨_, _, _, _, rfl⟩
theorem State.sizePool_frame : ∃ p0 p1, s.sizePool die = { s with pool0 := p0, pool1 := p1 } := by
  rw [State.sizePool]
  split
  · cases die <;> exact ⟨_, _, rfl⟩
  · exact ⟨_, _, rfl⟩
theorem State.sizePools_frame : ∃ p0 p1, s.sizePools sc die = { s with pool0 := p0, pool1 := p1 } := by
  rw [State.sizePools]
  split
  · exact State.sizePool_frame
  · obtain ⟨p0, p1, h⟩ := State.sizePool_frame (s := s) (die := false)
    obtain ⟨q0, q1, h'⟩ := State.sizePool_frame (s := s.sizePool false) (die := true)
    rw [h', h]
    exact ⟨_, _, rfl⟩
/-- Tiles that each go on at an entry of their own are all there, whichever was first. -/
theorem State.tile_foldl_enter {e : TileId → Nat} {l : List TileId} (h : t ∈ l ∨ ∃ x : Tile, s.tile t = x.enter (e t)) :
    ∃ x : Tile, (l.foldl (fun u t => u.modTile t fun x => x.enter (e t)) s).tile t = x.enter (e t) := by
  induction l generalizing s with
  | nil => exact h.resolve_left List.not_mem_nil
  | cons v l ih =>
    refine ih ?_
    by_cases hv : t = v
    · subst hv
      exact .inr ⟨_, State.tile_modTile_self ..⟩
    · rw [State.tile_modTile_other _ _ _ _ hv]
      exact h.imp_left fun hm => (List.mem_cons.mp hm).resolve_left hv
theorem State.foldl_enter_frame {e : TileId → Nat} {l : List TileId} :
    ∃ ts, l.foldl (fun u t => u.modTile t fun x => x.enter (e t)) s = { s with tiles := ts } :=
  List.foldlRecOn (motive := fun v : State => ∃ ts, v = { s with tiles := ts }) _ _ ⟨_, rfl⟩ fun _ ⟨_, h⟩ _ _ => by
    rw [h]
    exact ⟨_, rfl⟩
theorem State.enterBody_frame {o : Nat} {counted : Bool} : ∃ ts w nt op p0 p1, s.enterBody img o sc counted =
    { s with tiles := ts, waits := w, net := nt, opv := op, pool0 := p0, pool1 := p1 } := by
  rw [State.enterBody]
  split
  · obtain ⟨p0, p1, h⟩ := State.sizePools_frame (s := (scopeTiles .module false).foldl _ (s.releaseScope sc false id)) (sc := .module) (die := false)
    obtain ⟨ts, h'⟩ := State.foldl_enter_frame (s := s.releaseScope sc false id) (e := fun t => s.tileEntry (s.tilesAt img.dst) t o)
      (l := scopeTiles .module false)
    obtain ⟨ts', w, nt, op, h''⟩ := State.releaseScope_frame (s := s) (sc := sc) (die := false) (f := id)
    rw [h, h', h'']
    exact ⟨_, _, _, _, _, _, rfl⟩
  · obtain ⟨p0, p1, h⟩ := State.sizePools_frame (s := ((scopeTiles .module false).foldl _ s).clearLists .module false) (sc := .module) (die := false)
    obtain ⟨ts, h'⟩ := State.foldl_enter_frame (s := s) (e := fun t => s.tileEntry (s.tilesAt img.dst) t o) (l := scopeTiles .module false)
    rw [h, h']
    exact ⟨_, _, _, _, _, _, rfl⟩
theorem State.enterBody_tile {o : Nat} {counted : Bool} (ht : t ∈ scopeTiles .module false) :
    ∃ x : Tile, (s.enterBody img o sc counted).tile t = x.enter (s.tileEntry (s.tilesAt img.dst) t o) := by
  rw [State.enterBody]
  split <;> rw [State.tile_of_tiles _ _ State.sizePools_tiles]
  · exact State.tile_foldl_enter (e := fun t => s.tileEntry (s.tilesAt img.dst) t o) (.inl ht)
  · rw [State.tile_of_tiles _ _ State.clearLists_tiles]
    exact State.tile_foldl_enter (e := fun t => s.tileEntry (s.tilesAt img.dst) t o) (.inl ht)
theorem State.tileEntry_congr {o b : Nat} (h : s'.mem = s.mem) : s'.tileEntry (s'.tilesAt b) t o = s.tileEntry (s.tilesAt b) t o := by
  have hsect (k : Nat) : s'.sect b k = s.sect b k := by rw [State.sect, State.sect, h]
  rw [State.tileEntry, State.tileEntry, State.tilesAt, State.tilesAt, h]
  simp only [hsect]

/-! ## The first step (R261, R264, R266) -/

theorem State.putInlet_frame : ∃ m, s.putInlet k = { s with mem := m } := by
  rw [State.putInlet]
  split
  · exact ⟨_, rfl⟩
  · rw [State.retag, State.setTag]
    split <;> exact ⟨_, rfl⟩
/-- The engines open the slots of a step (R266). -/
theorem State.beginStep_frame : ∃ gs m, s.beginStep n =
    { s with gro := { s.gro with opn := some n, step := n, nf := 0, reported := 0, judged := false, groups := gs }, mem := m } := by
  rw [State.beginStep]
  dsimp only
  refine List.foldlRecOn (motive := fun v : State => ∃ gs m, v = { s with
    gro := { s.gro with opn := some n, step := n, nf := 0, reported := 0, judged := false, groups := gs }, mem := m }) _ _ ⟨_, _, rfl⟩ ?_
  rintro _ ⟨gs, m, rfl⟩ g _
  obtain ⟨m', h⟩ := State.putInlet_frame (s := { s with
    gro := { s.gro with opn := some n, step := n, nf := 0, reported := 0, judged := false, groups := gs }, mem := m }) (k := g.k)
  exact ⟨gs, m', h⟩
/-- A run in a step. -/
def TRun.inStep (r : TRun) : TRun := { r with phase := .step, lined := false, bad := false }

/-- The state in which the tiles continue at the step body. -/
def State.stepOpen (s : State) (r : TRun) : State :=
  ((s.setRun r.inStep).beginStep s.trn.tstep).modScope .module false fun x => { x with core := { x.core with nf := false } }

theorem State.stepOpen_spec : (s.stepOpen r).trn.run = some r.inStep ∧ (s.stepOpen r).gro.opn = some s.trn.tstep ∧ (s.stepOpen r).gro.nf = 0 ∧
    (s.stepOpen r).gro.reported = 0 ∧ (s.stepOpen r).gro.judged = false := by
  obtain ⟨gs, m, hbegin⟩ := State.beginStep_frame (s := s.setRun r.inStep) (n := s.trn.tstep)
  obtain ⟨ts, hmod⟩ := State.modScope_frame (s := (s.setRun r.inStep).beginStep s.trn.tstep) (sc := .module) (die := false)
    (f := fun x => { x with core := { x.core with nf := false } })
  rw [State.stepOpen, hmod, hbegin]
  exact ⟨rfl, rfl, rfl, rfl, rfl⟩
/-- The step is open to the engines, and every tile issues from the step body. -/
theorem State.beginRunStep_spec {held : Option Scope} (hs' : s' = s.beginRunStep r img held) :
    s'.trn.run = some r.inStep ∧ s'.gro.opn = some s.trn.tstep ∧ s'.gro.nf = 0 ∧ s'.gro.reported = 0 ∧ s'.gro.judged = false ∧
    ∀ t ∈ scopeTiles .module false, (s'.tile t).core.phase = .issue ∧
      (s'.tile t).core.hdr = s'.tileEntry (s'.tilesAt img.dst) t 10 ∧ (s'.tile t).core.pc = s'.tileEntry (s'.tilesAt img.dst) t 10 + 4 := by
  have henter : s' = (s.stepOpen r).enterBody img 10 (held.getD .module) held.isSome := hs'
  obtain ⟨hrun, hopn, hnf, hreported, hjudged⟩ := State.stepOpen_spec (s := s) (r := r)
  generalize s.stepOpen r = v at henter hrun hopn hnf hreported hjudged
  obtain ⟨_, _, _, _, _, _, hframe⟩ := State.enterBody_frame (s := v) (img := img) (sc := held.getD .module) (o := 10) (counted := held.isSome)
  have hmem : s'.mem = v.mem := by rw [henter, hframe]
  have hgro : s'.gro = v.gro := by rw [henter, hframe]
  have htrn : s'.trn = v.trn := by rw [henter, hframe]
  rw [hgro, htrn]
  refine ⟨hrun, hopn, hnf, hreported, hjudged, fun t ht => ?_⟩
  obtain ⟨x, hx⟩ := State.enterBody_tile (s := v) (img := img) (sc := held.getD .module) (o := 10) (counted := held.isSome) ht
  rw [State.tileEntry_congr hmem, henter, hx]
  exact ⟨rfl, rfl, rfl⟩
/-- The micro-batches of the next step's fill slots, and the run with its step line written. -/
def TRun.nextFills (r : TRun) : List FedMb := (r.ffeed.elim [] (·.full)).take r.fb
def TRun.withLine (r : TRun) : TRun := { r with slots := List.range r.nextFills.length, fills := r.nextFills, lined := true }

theorem State.tryLine_lined (h : s.trn.run = some r) (hl : r.lined = true) : s.tryLine = s := by
  rw [State.tryLine, h]
  dsimp only
  rw [if_pos (by rw [hl, Bool.or_true])]
theorem State.tryLine_writes (h : s.trn.run = some r) (hl : r.lined = false) (hp : r.phase = .start) (hf : HomesFree s [] [(r.sline, 256)]) :
    s.tryLine = (s.svcBytes r.sline (r.cmd + 1) (s.stepLine r r.nextFills.length ((r.nextFills.head?.map (·.pos0)).getD r.fpos))).setRun r.withLine := by
  rw [State.tryLine, h]
  dsimp only
  rw [if_neg (by rw [hl, hp]; decide), State.withSnoops_free hf]
  rfl
theorem execRunFirstStepStart_eq (h : s.trn.run = some r) (hp : r.phase = .start) (hs : r.starved = false) (hr : s.firstReady r = true) :
    exec .runFirstStepStart s = .next s.tryLine.tryFirst := by
  change execRunFirstStepStart s = _
  rw [execRunFirstStepStart, h]
  dsimp only
  rw [if_neg (by rw [hp]; decide), if_neg (by rw [hs]; decide), if_pos hr]
theorem State.tryFirst_unfed (h : s.trn.run = some r) (hf : r.fed = false) : s.tryFirst = s := by
  rw [State.tryFirst, h]
  dsimp only
  split
  · rw [if_neg (by rw [hf, Bool.and_false]; decide)]
  · rfl
theorem State.tryFirst_begins {rest : Option Scope} (h : s.trn.run = some r) (hi : s.image r.ctx = some img) (hr : s.atRest = some rest)
    (hf : s.firstReady r = true) (hl : r.lined = true) (hfed : r.fed = true) : s.tryFirst = s.beginRunStep r img rest := by
  rw [State.tryFirst, h]
  dsimp only
  rw [hi, hr]
  dsimp only
  rw [if_pos (by rw [hf, hl, hfed]; rfl)]
theorem State.atRest_frame {e : Err} {g : Gro} {m : Mem} {tr : Trn} : ({ s with err := e, gro := g, mem := m, trn := tr } : State).atRest = s.atRest := rfl
/-- The line of the next step has been written: what else the first step waits for is as before. -/
theorem State.tryLine_spec {rest : Option Scope} (h : s.trn.run = some r) (hp : r.phase = .start) (hf : HomesFree s [] [(r.sline, 256)])
    (hi : s.image r.ctx = some img) (hr : s.atRest = some rest) (hready : s.firstReady r = true) :
    ∃ r1, s.tryLine.trn = { s.trn with run := some r1 } ∧ r1.lined = true ∧ r1.fed = r.fed ∧ r1.ctx = r.ctx ∧
      r1.fills = (if r.lined then r.fills else r.nextFills) ∧
      s.tryLine.image r1.ctx = some img ∧ s.tryLine.atRest = some rest ∧ s.tryLine.firstReady r1 = true := by
  cases hl : r.lined with
  | true =>
    rw [State.tryLine_lined h hl]
    exact ⟨r, by rw [← h], hl, rfl, rfl, rfl, hi, hr, hready⟩
  | false =>
    rw [State.tryLine_writes h hl hp hf]
    obtain ⟨e, g, m, hw⟩ := State.svcBytes_frame (s := s) (a := r.sline) (ins := r.cmd + 1)
      (bs := s.stepLine r r.nextFills.length ((r.nextFills.head?.map (·.pos0)).getD r.fpos))
    have hrest : (State.setRun { s with err := e, gro := g, mem := m } r.withLine).atRest = s.atRest := State.atRest_frame
    rw [hw]
    refine ⟨r.withLine, rfl, rfl, rfl, rfl, rfl, hi, hrest.trans hr, ?_⟩
    rw [State.firstReady, hrest]
    exact hready
/-- The line of a first step that is not fed is written; one that is fed begins. -/
theorem runFirstStepStart_spec {rest : Option Scope} (hrun : s.trn.run = some r) (himg : s.image r.ctx = some img) (hphase : r.phase = .start)
    (hstarved : r.starved = false) (hrest : s.atRest = some rest) (hready : s.firstReady r = true) (hfree : HomesFree s [] [(r.sline, 256)]) :
    Completes .runFirstStepStart s fun s' =>
      (r.fed = false → r.lined = false → r.sline % 256 = 0 → PlainRange s r.sline 256 →
        s'.trn.run = some r.withLine ∧ s'.tiles = s.tiles ∧
        s'.mem.rdBytes r.sline 256 = s.stepLine r r.nextFills.length ((r.nextFills.head?.map (·.pos0)).getD r.fpos) ∧ BytesKept s s' r.sline 256) ∧
      (r.fed = true →
        (∃ r', s'.trn.run = some r' ∧ r'.phase = .step ∧ r'.ctx = r.ctx ∧ r'.fills = (if r.lined then r.fills else r.nextFills)) ∧
        s'.gro.opn = some s.trn.tstep ∧ s'.gro.nf = 0 ∧ s'.gro.reported = 0 ∧ s'.gro.judged = false ∧
        ∀ t ∈ scopeTiles .module false, (s'.tile t).core.phase = .issue ∧
          (s'.tile t).core.hdr = s'.tileEntry (s'.tilesAt img.dst) t 10 ∧ (s'.tile t).core.pc = s'.tileEntry (s'.tilesAt img.dst) t 10 + 4) := by
  obtain ⟨r1, htrn, hlined, hfed, hctx, hfills, himg1, hrest1, hready1⟩ := State.tryLine_spec hrun hphase hfree himg hrest hready
  have hrun1 : s.tryLine.trn.run = some r1 := by rw [htrn]
  refine ⟨_, execRunFirstStepStart_eq hrun hphase hstarved hready, fun hunfed hunlined hsline hplain => ?_, fun hisfed => ?_⟩
  · rw [State.tryFirst_unfed hrun1 (hfed.trans hunfed), State.tryLine_writes hrun hunlined hphase hfree]
    obtain ⟨_, hkept, hbytes⟩ := State.svcBytes_spec (ins := r.cmd + 1) (n := 32) (by omega)
      (State.length_stepLine (s := s) (r := r) (n := r.nextFills.length) (fpos := (r.nextFills.head?.map (·.pos0)).getD r.fpos)) hplain
    exact ⟨rfl, by rw [State.setRun_tiles, State.svcBytes_tiles], hbytes, fun a ha => hkept.byte ha⟩
  · rw [State.tryFirst_begins hrun1 himg1 hrest1 hready1 hlined (hfed.trans hisfed)]
    obtain ⟨hstep, hopn, hnf, hreported, hjudged, htiles⟩ := State.beginRunStep_spec (s := s.tryLine) (r := r1) (img := img) (held := rest) rfl
    exact ⟨⟨_, hstep, rfl, hctx, hfills⟩, by rw [hopn, htrn], hnf, hreported, hjudged, htiles⟩
end

/-- Settles O40: each command has one successor, given by an equation; what a service writes in plain lines is then there. -/
theorem trainingRunsBeginAndFeed : Obligations.TrainingRunsBeginAndFeed := by
  unfold Obligations.TrainingRunsBeginAndFeed
  refine ⟨fun s u x er c tcb hhead hopc hrun hbusy hreset htcb hfree hu hfree' halign => ?_,
    fun s src er r f hrun hask => ⟨fun hf => ?_, fun hf hno => ?_⟩,
    fun s r hrun => ⟨_, execMoverCreditReturn_feeds hrun, fun hphase hstarved => ?_, fun hgo => ?_⟩,
    fun s u fill er r r' f p dst len wrapped recs hrun hf hstart hasked hrecs hdst hlen hfree hring hplain hr' hgo hu => ?_,
    fun s r img rest fills hrun himg hphase hstarved hrest hrunning hreset hsession hfree hfills => ?_⟩
  · subst htcb
    exact runSteps_spec hhead hopc hrun hbusy hreset hfree hu hfree' halign
  · exact execMoverReadIssue_feeds.trans (congrArg _ (State.readFeed_train hrun hf hask))
  · exact execMoverReadIssue_feeds.trans (congrArg _ (State.readFeed_fill hrun hf hask hno))
  · exact State.feedEnd_ends rfl hphase (TRun.starved_credited.trans hstarved)
  · exact State.feedEnd_goesOn rfl (by rw [TRun.starved_credited]; exact hgo)
  · subst hrecs hdst hlen
    exact feedEntryFilled_spec hrun hf hstart hasked hfree hring hplain hr' hgo hu
  · subst hfills
    have hready : s.firstReady r = true := by simp [State.firstReady, hphase, hrunning, hrest, hreset, hsession]
    exact runFirstStepStart_spec hrun himg hphase hstarved hrest hready hfree
end Sys2Proof.Machine
end
